-- ==== Sys2Proof/Word.lean ====
section
/-! DEFINITION. The word types of the T96 (R3, R4: little-endian, bit 0 least significant). -/

namespace Sys2Proof

/-- One byte. -/
abbrev Byte := BitVec 8
/-- A 16-bit field: a source identifier, a handle, a condition code, a TAG. -/
abbrev Half := BitVec 16
/-- A 32-bit register or data word (R4, R173). -/
abbrev Word := BitVec 32
/-- A 64-bit field, such as a tick time (R12). -/
abbrev DWord := BitVec 64
/-- A 48-bit byte address (R173, R319). -/
abbrev Addr := BitVec 48

end Sys2Proof
end

