-- ==== Sys2Proof/Syntax.lean ====
section
/-! DEFINITION. The commands of the T96 block, one constructor of Instr per row of the opcode table. -/

namespace Sys2Proof

/-- A core number, 0-191 (R13). -/
abbrev Core := Fin 192
/-- A Tether lane number, 0-79 (R13). -/
abbrev Lane := Fin 80
/-- A register field of an instruction word (R181). -/
abbrev Reg5 := BitVec 5

/-- The privilege levels of Table 7.3. -/
inductive Priv where
  | exec | task | plugin
deriving DecidableEq, Repr

/-- Who makes an access or a register write: the masters that the rules on register writers name
(R8, R157, R281, R298, R333, R374, R382, R401, R420). -/
inductive Master where
  /-- A core, at the level it runs at. -/
  | core (n : Core) (level : Priv)
  /-- The supervisor (source 0x0C00). -/
  | supervisor
  /-- A management command, or a REGACC access, which acts as one (R453). -/
  | management
  /-- The image loader (R8). -/
  | loader
  /-- Another unit, by its source identifier. -/
  | unit (source : Half)
deriving DecidableEq, Repr

/-- A fabric packet: the head flit of Table 12.3 and its data. -/
structure Packet where
  dest : Byte
  src : Byte
  cls : BitVec 2
  resp : Bool
  /-- 0 READ, 1 WRITE, 2 ATOMIC, 3 EVENT. -/
  kind : BitVec 3
  tag : BitVec 10
  status : BitVec 3
  reason : BitVec 5
  func : BitVec 3
  address : Addr
  length : Half
  master : Half
  priv : BitVec 2
  operand : DWord
  data : List Byte
  /-- The BAD mark of a flit (R325). -/
  bad : Bool
  crc : Word
deriving DecidableEq, Repr

/-- What a PTP Announce message says of its master, as the alternate BMCA compares it (R359). `sender` is the address
that it comes from: an Ethernet address or, under UDP, the IP address in network byte order. -/
structure PtpMaster where
  sender : List Byte
  domain : Nat
  /-- 0 Ethernet, 4 and 6 UDP over that version of IP. -/
  transport : Nat
  clockClass : Nat
  accuracy : Nat
  variance : Nat
  priority2 : Nat
  grandmaster : Nat
  stepsRemoved : Nat
deriving DecidableEq, Repr

/-- One Sync with its Follow_Up, and the Delay_Resp to the port's last Delay_Req (R359): who sent them, the
master's timestamps in ns, how long before the Delay_Resp the Sync came, in 1/256 Tc, and the correctionFields of
the two directions in 2^-16 ns. -/
structure PtpExchange where
  sender : List Byte
  domain : Nat
  transport : Nat
  t1 : Nat
  syncAgo : Nat
  t4 : Nat
  syncCorrection : Int
  respCorrection : Int
deriving DecidableEq, Repr

/-- What the loopback test of a lane finds over its 4,096 frames (R283). -/
structure LaneLoop where
  lane : Lane
  lost : Nat
  margin : Nat
deriving DecidableEq, Repr

/-- What the board and the silicon show a start (R37): clocks as measured (R442), the units that
fail training or self-test (R38, R283, R353), and errors of the apply step (R39). -/
structure StartEnv where
  /-- VCORE has stayed above 620 mV for MAIN_DELAY ms (R439). -/
  vcoreHeld : Bool
  /-- TREF measured against LREF, in Hz; 0 when missing. -/
  trefHz : Nat
  /-- TREF and LREF measured against the always-on oscillator, in Hz; 0 when missing. -/
  trefAonHz : Nat
  lrefAonHz : Nat
  /-- Junction temperature for the first AVS target, and what the regulator answers to its transactions: which of
  the Vout write, the Vout read and the Status read it acknowledges, Status's fault bit, and Vout (R411). -/
  tj : Int
  avsAcked : BitVec 3
  avsFault : Bool
  avsReadMv : Half
  /-- The boot link is in DATA at the start of phase 0x12 (R283). -/
  bootLink : Bool
  /-- DRAM channels that fail training in phase 0x04. -/
  dramFail : List (Fin 32)
  /-- Source identifiers of units that fail self-test or loopback. -/
  failing : List Half
  /-- Loopback results; a lane that is not listed loses no frame and reaches MARGIN 80. -/
  loops : List LaneLoop
  /-- A memory or fabric error while sections are applied (R39). -/
  applyError : Bool
deriving DecidableEq, Repr

/-- The commands of the T96: one constructor per row of the opcode table, in the table's order.
A docstring gives the row's mnemonic and the rule of spec/ that governs it. -/
inductive Instr where
  /-- AON_RESET_RELEASE (R439). -/
  | aonResetRelease
  /-- RESET_N (R441). -/
  | resetN (lowNs : Nat)
  /-- RESET_N_RELEASE (R441). -/
  | resetNRelease (bootsel : Bool)
  /-- START_SEQUENCE (R37). -/
  | startSequence (env : StartEnv)
  /-- VCORE_WARNING (R409). -/
  | vcoreWarning
  /-- VCORE_TRIP (R409). -/
  | vcoreTrip
  /-- VAON_TRIP (R409). -/
  | vaonTrip
  /-- REG_READ (R311). -/
  | regRead (tag : Half) (addr count : Word)
  /-- REG_WRITE (R311). -/
  | regWrite (tag : Half) (addr : Word) (words : List Word)
  /-- MEM_READ (R153). -/
  | memRead (tag : Half) (addr : DWord) (bytes : Word)
  /-- MEM_WRITE (R153). -/
  | memWrite (tag : Half) (addr : DWord) (data : List Byte)
  /-- REPORT_STREAM (R313). -/
  | reportStream (tag : Half) (enable minClass : Byte)
  /-- REPORT_STREAM_SEND (R313). -/
  | reportStreamSend
  /-- SO_ADD (R146). -/
  | soAdd (tag : Half) (record : List Byte)
  /-- SO_REMOVE (R146). -/
  | soRemove (tag entry : Half)
  /-- SO_RELEASE (R146). -/
  | soRelease (tag : Half) (kind : Byte) (id : Half)
  /-- KEY_UPLOAD (R392). -/
  | keyUpload (tag : Half) (record : List Byte)
  /-- KEY_ERASE (R392). -/
  | keyErase (tag : Half) (slot : Byte)
  /-- FLASH_READ (R311). -/
  | flashRead (tag : Half) (offset bytes : Word)
  /-- FLASH_ERASE (R51). -/
  | flashErase (tag : Half) (offset bytes : Word)
  /-- FLASH_PROGRAM (R51). -/
  | flashProgram (tag : Half) (offset : Word) (data : List Byte)
  /-- FLASH_VERIFY (R52). -/
  | flashVerify (tag : Half) (copy : Byte)
  /-- FLASH_COMMIT (R53). -/
  | flashCommit (tag flags : Half) (aOffset aLength bOffset bLength : Word)
  /-- FLASH_COMMAND_DONE (R310). -/
  | flashCommandDone
  /-- FUSE_PROGRAM (R395). -/
  | fuseProgram (tag : Half) (fuse : Byte) (value : List Byte) (readBack : Nat)
  /-- TIME_QUERY (R311). -/
  | timeQuery (tag : Half)
  /-- RESTART (R311). -/
  | restart (tag : Half)
  /-- ENTER_RECOVERY (R46). -/
  | enterRecovery (tag : Half)
  /-- ADD (R209). -/
  | add (c : Core) (rd ra rb : Reg5)
  /-- SUB (R209). -/
  | sub (c : Core) (rd ra rb : Reg5)
  /-- ADDS (R209). -/
  | adds (c : Core) (rd ra rb : Reg5)
  /-- SUBS (R209). -/
  | subs (c : Core) (rd ra rb : Reg5)
  /-- AND (R209). -/
  | and (c : Core) (rd ra rb : Reg5)
  /-- OR (R209). -/
  | or (c : Core) (rd ra rb : Reg5)
  /-- XOR (R209). -/
  | xor (c : Core) (rd ra rb : Reg5)
  /-- ANDN (R209). -/
  | andn (c : Core) (rd ra rb : Reg5)
  /-- SLL (R209). -/
  | sll (c : Core) (rd ra rb : Reg5)
  /-- SRL (R209). -/
  | srl (c : Core) (rd ra rb : Reg5)
  /-- SRA (R209). -/
  | sra (c : Core) (rd ra rb : Reg5)
  /-- MUL (R209). -/
  | mul (c : Core) (rd ra rb : Reg5)
  /-- MULH (R209). -/
  | mulh (c : Core) (rd ra rb : Reg5)
  /-- MULHU (R209). -/
  | mulhu (c : Core) (rd ra rb : Reg5)
  /-- SLT (R209). -/
  | slt (c : Core) (rd ra rb : Reg5)
  /-- SLTU (R209). -/
  | sltu (c : Core) (rd ra rb : Reg5)
  /-- MIN (R209). -/
  | min (c : Core) (rd ra rb : Reg5)
  /-- MAX (R209). -/
  | max (c : Core) (rd ra rb : Reg5)
  /-- ABS (R209). -/
  | abs (c : Core) (rd ra rsv : Reg5)
  /-- CLZ (R209). -/
  | clz (c : Core) (rd ra rsv : Reg5)
  /-- CLS (R209). -/
  | cls (c : Core) (rd ra rsv : Reg5)
  /-- SEXTH (R209). -/
  | sexth (c : Core) (rd ra rsv : Reg5)
  /-- ZEXTH (R209). -/
  | zexth (c : Core) (rd ra rsv : Reg5)
  /-- ADDI (R209). -/
  | addi (c : Core) (rd ra : Reg5) (imm : Half)
  /-- SLTI (R209). -/
  | slti (c : Core) (rd ra : Reg5) (imm : Half)
  /-- ANDI (R209). -/
  | andi (c : Core) (rd ra : Reg5) (imm : Half)
  /-- ORI (R209). -/
  | ori (c : Core) (rd ra : Reg5) (imm : Half)
  /-- XORI (R209). -/
  | xori (c : Core) (rd ra : Reg5) (imm : Half)
  /-- MOVI (R209). -/
  | movi (c : Core) (rd rsv : Reg5) (imm : Half)
  /-- MOVHI (R209). -/
  | movhi (c : Core) (rd ra : Reg5) (imm : Half)
  /-- SHI (R209). -/
  | shi (c : Core) (rd ra : Reg5) (imm : Half)
  /-- MOVP (R209). -/
  | movp (c : Core) (rd ra rb : Reg5)
  /-- ADDP (R209). -/
  | addp (c : Core) (rd ra rb : Reg5)
  /-- RDPL (R209). -/
  | rdpl (c : Core) (rd ra rsv : Reg5)
  /-- RDPH (R209). -/
  | rdph (c : Core) (rd ra rsv : Reg5)
  /-- SUBP (R209). -/
  | subp (c : Core) (rd ra rb : Reg5)
  /-- MOVB (R209). -/
  | movb (c : Core) (rd ra rsv : Reg5)
  /-- RDB (R209). -/
  | rdb (c : Core) (rd ra rsv : Reg5)
  /-- MOVL (R188). -/
  | movl (c : Core) (rd ra rsv : Reg5)
  /-- RDL (R209). -/
  | rdl (c : Core) (rd ra rsv : Reg5)
  /-- MOVM (R209). -/
  | movm (c : Core) (rd ra rsv : Reg5)
  /-- RDM (R209). -/
  | rdm (c : Core) (rd ra rsv : Reg5)
  /-- MOVPP (R209). -/
  | movpp (c : Core) (rd ra rsv : Reg5)
  /-- JR (R209). -/
  | jr (c : Core) (rsvD ra rsvB : Reg5)
  /-- JALR (R209). -/
  | jalr (c : Core) (rsvD ra rsvB : Reg5)
  /-- ADR (R209). -/
  | adr (c : Core) (rd : Reg5) (rsv : BitVec 3) (off : BitVec 18)
  /-- BR (R209). -/
  | br (c : Core) (ra : Reg5) (cond : BitVec 3) (off : BitVec 18)
  /-- J (R209). -/
  | j (c : Core) (off : BitVec 26)
  /-- JAL (R209). -/
  | jal (c : Core) (off : BitVec 26)
  /-- LD (R183). -/
  | ld (c : Core) (rd : Reg5) (pn : BitVec 4) (am : BitVec 3) (sz : BitVec 2) (off : BitVec 12)
  /-- LDU (R183). -/
  | ldu (c : Core) (rd : Reg5) (pn : BitVec 4) (am : BitVec 3) (sz : BitVec 2) (off : BitVec 12)
  /-- ST (R183). -/
  | st (c : Core) (rd : Reg5) (pn : BitVec 4) (am : BitVec 3) (sz : BitVec 2) (off : BitVec 12)
  /-- ATOMIC_SWAP (R208). -/
  | atomicSwap (c : Core) (rd ra rb : Reg5)
  /-- ATOMIC_ADD (R208). -/
  | atomicAdd (c : Core) (rd ra rb : Reg5)
  /-- CAS (R208). -/
  | cas (c : Core) (rd ra rb : Reg5)
  /-- ATOMIC_AND (R208). -/
  | atomicAnd (c : Core) (rd ra rb : Reg5)
  /-- ATOMIC_OR (R208). -/
  | atomicOr (c : Core) (rd ra rb : Reg5)
  /-- FENCE_S (R206). -/
  | fenceS (c : Core) (rsv : BitVec 18)
  /-- FENCE_A (R206). -/
  | fenceA (c : Core) (rsv : BitVec 18)
  /-- FENCE_I (R206). -/
  | fenceI (c : Core) (rsv : BitVec 18)
  /-- REP (R192). -/
  | rep (c : Core) (ra : Reg5) (imm : Bool) (rsv : BitVec 4) (count : Half) (body : Word)
  /-- MPY_W (R189). -/
  | mpyW (c : Core) (acc : BitVec 3) (ra rb : Reg5) (frac sat : Bool) (rsv : BitVec 7)
  /-- MAC_W (R189). -/
  | macW (c : Core) (acc : BitVec 3) (ra rb : Reg5) (frac sat : Bool) (rsv : BitVec 7)
  /-- MSU_W (R189). -/
  | msuW (c : Core) (acc : BitVec 3) (ra rb : Reg5) (frac sat : Bool) (rsv : BitVec 7)
  /-- MAC_H2 (R189). -/
  | macH2 (c : Core) (acc : BitVec 3) (ra rb : Reg5) (frac sat : Bool) (rsv : BitVec 7)
  /-- CMPY (R189). -/
  | cmpy (c : Core) (acc : BitVec 3) (ra rb : Reg5) (frac sat : Bool) (rsv : BitVec 7)
  /-- CMAC (R189). -/
  | cmac (c : Core) (acc : BitVec 3) (ra rb : Reg5) (frac sat : Bool) (rsv : BitVec 7)
  /-- CMACJ (R189). -/
  | cmacj (c : Core) (acc : BitVec 3) (ra rb : Reg5) (frac sat : Bool) (rsv : BitVec 7)
  /-- CMSU (R189). -/
  | cmsu (c : Core) (acc : BitVec 3) (ra rb : Reg5) (frac sat : Bool) (rsv : BitVec 7)
  /-- ARD_W (R191). -/
  | ardW (c : Core) (acc : BitVec 3) (rd : Reg5) (sh : BitVec 6) (rsv : BitVec 8)
  /-- ARD_H (R191). -/
  | ardH (c : Core) (acc : BitVec 3) (rd : Reg5) (sh : BitVec 6) (rsv : BitVec 8)
  /-- ARD_C (R191). -/
  | ardC (c : Core) (acc : BitVec 3) (rd : Reg5) (sh : BitVec 6) (rsv : BitVec 8)
  /-- AWR (R191). -/
  | awr (c : Core) (acc : BitVec 3) (rd : Reg5) (sh : BitVec 6) (rsv : BitVec 8)
  /-- ACLR (R191). -/
  | aclr (c : Core) (acc : BitVec 3) (rd : Reg5) (sh : BitVec 6) (rsv : BitVec 8)
  /-- ASHR (R191). -/
  | ashr (c : Core) (acc : BitVec 3) (rd : Reg5) (sh : BitVec 6) (rsv : BitVec 8)
  /-- ARDL (R191). -/
  | ardl (c : Core) (acc : BitVec 3) (rd : Reg5) (sh : BitVec 6) (rsv : BitVec 8)
  /-- ARDM (R191). -/
  | ardm (c : Core) (acc : BitVec 3) (rd : Reg5) (sh : BitVec 6) (rsv : BitVec 8)
  /-- ARDX (R191). -/
  | ardx (c : Core) (acc : BitVec 3) (rd : Reg5) (sh : BitVec 6) (rsv : BitVec 8)
  /-- AINS (R191). -/
  | ains (c : Core) (acc : BitVec 3) (rd : Reg5) (sh : BitVec 6) (rsv : BitVec 8)
  /-- CSRR (R178). -/
  | csrr (c : Core) (rd rsv : Reg5) (code : Byte)
  /-- CSRW (R178). -/
  | csrw (c : Core) (rsv ra : Reg5) (code : Byte)
  /-- CSRS (R178). -/
  | csrs (c : Core) (rsv ra : Reg5) (code : Byte)
  /-- CSRC (R178). -/
  | csrc (c : Core) (rsv ra : Reg5) (code : Byte)
  /-- ERET (R197). -/
  | eret (c : Core) (rsv : BitVec 18)
  /-- TRAP (R209). -/
  | trap (c : Core) (rsv : BitVec 10) (code : Byte)
  /-- BREAK (R209). -/
  | brk (c : Core) (rsv : BitVec 18)
  /-- TWAIT (R193). -/
  | twait (c : Core) (rsv : BitVec 18)
  /-- TCOMMIT (R194). -/
  | tcommit (c : Core) (rd ra : Reg5) (rsv : Byte)
  /-- TCOMMIT_E (R194). -/
  | tcommitE (c : Core) (rd ra : Reg5) (rsv : Byte)
  /-- TCOMMIT_B (R194). -/
  | tcommitB (c : Core) (rd ra : Reg5) (rsv : Byte)
  /-- TFAULT (R195). -/
  | tfault (c : Core) (rsvD ra : Reg5) (rsv : Byte)
  /-- INTERRUPT (R202). -/
  | interrupt (c : Core)
  /-- ABORT (R200). -/
  | abort (c : Core)
  /-- STORE_DATA_ERROR (R199). -/
  | storeDataError (c : Core)
  /-- DOORBELL (R210). -/
  | doorbell (m : Master) (n : Core) (value : Word)
  /-- VLD_Q (R217). -/
  | vldQ (c : Core) (vr : Reg5) (pn : BitVec 4) (am et : BitVec 2) (u : Bool) (mn : BitVec 4) (rsv : Byte)
  /-- VST_Q (R217). -/
  | vstQ (c : Core) (vr : Reg5) (pn : BitVec 4) (am et : BitVec 2) (u : Bool) (mn : BitVec 4) (rsv : Byte)
  /-- VLD_V (R217). -/
  | vldV (c : Core) (vr : Reg5) (pn : BitVec 4) (am et : BitVec 2) (u : Bool) (mn : BitVec 4) (rsv : Byte)
  /-- VST_V (R217). -/
  | vstV (c : Core) (vr : Reg5) (pn : BitVec 4) (am et : BitVec 2) (u : Bool) (mn : BitVec 4) (rsv : Byte)
  /-- VADD (R226). -/
  | vadd (c : Core) (long : Bool) (vd va vb : Reg5) (et rsv : BitVec 2) (sat : Bool)
  /-- VSUB (R226). -/
  | vsub (c : Core) (long : Bool) (vd va vb : Reg5) (et rsv : BitVec 2) (sat : Bool)
  /-- VADDS (R226). -/
  | vadds (c : Core) (long : Bool) (vd va vb : Reg5) (et rsv : BitVec 2) (sat : Bool)
  /-- VSUBS (R226). -/
  | vsubs (c : Core) (long : Bool) (vd va vb : Reg5) (et rsv : BitVec 2) (sat : Bool)
  /-- VAND (R226). -/
  | vand (c : Core) (long : Bool) (vd va vb : Reg5) (et rsv : BitVec 2) (sat : Bool)
  /-- VOR (R226). -/
  | vor (c : Core) (long : Bool) (vd va vb : Reg5) (et rsv : BitVec 2) (sat : Bool)
  /-- VXOR (R226). -/
  | vxor (c : Core) (long : Bool) (vd va vb : Reg5) (et rsv : BitVec 2) (sat : Bool)
  /-- VMIN (R226). -/
  | vmin (c : Core) (long : Bool) (vd va vb : Reg5) (et rsv : BitVec 2) (sat : Bool)
  /-- VMAX (R226). -/
  | vmax (c : Core) (long : Bool) (vd va vb : Reg5) (et rsv : BitVec 2) (sat : Bool)
  /-- VABS (R226). -/
  | vabs (c : Core) (long : Bool) (vd va vb : Reg5) (et rsv : BitVec 2) (sat : Bool)
  /-- VAVGR (R226). -/
  | vavgr (c : Core) (long : Bool) (vd va vb : Reg5) (et rsv : BitVec 2) (sat : Bool)
  /-- VSRAR (R226). -/
  | vsrar (c : Core) (long : Bool) (vd va vb : Reg5) (et rsv : BitVec 2) (sat : Bool)
  /-- VSLLS (R226). -/
  | vslls (c : Core) (long : Bool) (vd va vb : Reg5) (et rsv : BitVec 2) (sat : Bool)
  /-- VMULR (R226). -/
  | vmulr (c : Core) (long : Bool) (vd va vb : Reg5) (et rsv : BitVec 2) (sat : Bool)
  /-- VCMULR (R226). -/
  | vcmulr (c : Core) (long : Bool) (vd va vb : Reg5) (et rsv : BitVec 2) (sat : Bool)
  /-- VCMULJR (R226). -/
  | vcmuljr (c : Core) (long : Bool) (vd va vb : Reg5) (et rsv : BitVec 2) (sat : Bool)
  /-- VCONJ (R226). -/
  | vconj (c : Core) (long : Bool) (vd va vb : Reg5) (et rsv : BitVec 2) (sat : Bool)
  /-- VDOT (R227). -/
  | vdot (c : Core) (long : Bool) (vd va vb : Reg5) (et rsv : BitVec 2) (sat : Bool)
  /-- VDOTJ (R227). -/
  | vdotj (c : Core) (long : Bool) (vd va vb : Reg5) (et rsv : BitVec 2) (sat : Bool)
  /-- VNR (R228). -/
  | vnr (c : Core) (long : Bool) (vd va vb : Reg5) (et rsv : BitVec 2) (sat : Bool)
  /-- VWID (R228). -/
  | vwid (c : Core) (long : Bool) (vd va vb : Reg5) (et rsv : BitVec 2) (sat : Bool)
  /-- VPERM (R229). -/
  | vperm (c : Core) (long : Bool) (vd va vb : Reg5) (et rsv : BitVec 2) (sat : Bool)
  /-- VSPLAT (R230). -/
  | vsplat (c : Core) (x y z : Reg5) (long : Bool) (et rsv : BitVec 2)
  /-- VINS (R230). -/
  | vins (c : Core) (x y z : Reg5) (long : Bool) (et rsv : BitVec 2)
  /-- VEXT (R230). -/
  | vext (c : Core) (x y z : Reg5) (long : Bool) (et rsv : BitVec 2)
  /-- VQTOV (R230). -/
  | vqtov (c : Core) (x y z : Reg5) (long : Bool) (et rsv : BitVec 2)
  /-- VVTOQ (R230). -/
  | vvtoq (c : Core) (x y z : Reg5) (long : Bool) (et rsv : BitVec 2)
  /-- VSETVL (R230). -/
  | vsetvl (c : Core) (x y z : Reg5) (long : Bool) (et rsv : BitVec 2)
  /-- PCMD (R237). -/
  | pcmd (c : Core) (qs : Reg5) (tag : BitVec 6) (rsv : BitVec 15)
  /-- PRES (R240). -/
  | pres (c : Core) (rd : Reg5) (tag : BitVec 6) (wait : Bool) (rsv : BitVec 14)
  /-- CPSAVE (R253). -/
  | cpsave (c : Core) (pn : Reg5) (rsv : BitVec 20)
  /-- CPREST (R253). -/
  | cprest (c : Core) (pn : Reg5) (rsv : BitVec 20)
  /-- PSYNC (R241). -/
  | psync (c : Core) (rsv : BitVec 26)
  /-- LOAD (R244). -/
  | pewterLoad (t : Fin 48)
  /-- STORE (R244). -/
  | pewterStore (t : Fin 48)
  /-- PEWTER_MUL (R245). -/
  | pewterMul (t : Fin 48)
  /-- CHOL (R246). -/
  | chol (t : Fin 48)
  /-- TRSM (R247). -/
  | trsm (t : Fin 48)
  /-- QR (R248). -/
  | qr (t : Fin 48)
  /-- DEMAP (R249). -/
  | demap (t : Fin 48)
  /-- POST (R158). -/
  | post (task : BitVec 15)
  /-- CANCEL (R168). -/
  | cancel (task : BitVec 15)
  /-- FREE (R157). -/
  | free (task : BitVec 15)
  /-- CASCADE (R169). -/
  | cascade
  /-- HANDLE_WALK (R160). -/
  | handleWalk
  /-- DISPATCH (R162). -/
  | dispatch (cls : Fin 7)
  /-- TASK_COMMIT (R130). -/
  | taskCommit (unit : Half)
  /-- TASK_DETECTION (R132). -/
  | taskDetection (unit cond : Half) (addr : Addr) (extra : Word)
  /-- UNIT_CONDITION (R145). -/
  | unitCondition (source cond : Half) (addr : Addr) (extra : Word)
  /-- SET_GPIO_EXPIRY (R447). -/
  | setGpioExpiry (pin : Fin 32)
  /-- SLOT_BOUNDARY (R167). -/
  | slotBoundary
  /-- DISPATCHER_HALTED (R154). -/
  | dispatcherHalted
  /-- UL_SYMBOL (R68). -/
  | ulSymbol (e : Fin 32)
  /-- DL_SYMBOL (R73). -/
  | dlSymbol (e : Fin 32)
  /-- PRACH_FE (R79). -/
  | prachFe (e : Fin 32)
  /-- PRACH_DET (R80). -/
  | prachDet (e : Fin 32)
  /-- WEIGHT (R84). -/
  | weight (e : Fin 32)
  /-- MAP (R85). -/
  | map (e : Fin 32)
  /-- LDPC_DEC (R111). -/
  | ldpcDec (e : Fin 48)
  /-- LDPC_ENC (R104). -/
  | ldpcEnc (e : Fin 48)
  /-- TB_CRC (R119). -/
  | tbCrc (e : Fin 48)
  /-- TURBO_DEC (R101). -/
  | turboDec (e : Fin 8)
  /-- TURBO_ENC (R101). -/
  | turboEnc (e : Fin 8)
  /-- POLAR_DEC (R103). -/
  | polarDec (e : Fin 8)
  /-- POLAR_ENC (R102). -/
  | polarEnc (e : Fin 8)
  /-- GCM_ENC (R379). -/
  | gcmEnc (e : Fin 8)
  /-- GCM_DEC (R379). -/
  | gcmDec (e : Fin 8)
  /-- ACQUIRE (R382). -/
  | acquire (m : Master) (e : Fin 8)
  /-- ACQUIRE_URGENT (R382). -/
  | acquireUrgent (m : Master) (e : Fin 8) (blocks : Nat)
  /-- RELEASE (R382). -/
  | release (m : Master) (e : Fin 8)
  /-- LOCK_GRANT (R382). -/
  | lockGrant (e : Fin 8)
  /-- CIPHER_GO (R383). -/
  | cipherGo (m : Master) (e : Fin 8) (value : Word)
  /-- RETRAIN (R281). -/
  | retrain (m : Master) (l : Lane)
  /-- QUIET (R282). -/
  | quiet (m : Master) (l : Lane)
  /-- WAKE (R282). -/
  | wake (m : Master) (l : Lane)
  /-- QUIET_COUNTDOWN_END (R282). -/
  | quietCountdownEnd (l : Lane)
  /-- SILENCE_END (R269). -/
  | silenceEnd (l : Lane)
  /-- ECHO_WINDOW_PLACEMENT (R268). -/
  | echoWindowPlacement (l : Lane) (energy : List Nat)
  /-- LEAD_ALONE_END (R269). -/
  | leadAloneEnd (l : Lane)
  /-- FOLLOW_ALONE_END (R272). -/
  | followAloneEnd (l : Lane)
  /-- GO_DECISION (R272). -/
  | goDecision (l : Lane) (recentBoth : Bool)
  /-- BOTH_END (R272). -/
  | bothEnd (l : Lane)
  /-- SIGNAL_IN_SILENCE (R272). -/
  | signalInSilence (l : Lane)
  /-- MARKER_DETECTED (R274). -/
  | markerDetected (l : Lane) (align : Fin 4352) (raw : Word) (seq : Half)
  /-- FRAME_RECEIVED (R275). -/
  | frameReceived (l : Lane) (signs : BitVec 8704) (mags : List (BitVec 5)) (ps noise : Nat)
  /-- RELOCK_EXPIRY (R276). -/
  | relockExpiry (l : Lane)
  /-- FRAME_BUILD (R278). -/
  | frameBuild (l : Lane)
  /-- IQ_UNIT (R293). -/
  | iqUnit (l : Lane)
  /-- CONTAINER_TIMEOUT (R294). -/
  | containerTimeout (l : Lane) (slot : BitVec 4)
  /-- BR_CTRL_SEND (R298). -/
  | brCtrlSend (m : Master) (l : Lane) (value : Word)
  /-- DELAY_REQ (R299). -/
  | delayReq (l : Lane)
  /-- DELAY_RESP (R299). -/
  | delayResp (l : Lane)
  /-- TIME_MARK (R300). -/
  | timeMark (l : Lane)
  /-- ALARM (R296). -/
  | alarm (l : Lane)
  /-- BOARD_MESSAGE (R296). -/
  | boardMessage (l : Lane)
  /-- DATA (R304). -/
  | data (l : Lane)
  /-- ACK (R303). -/
  | ack (l : Lane)
  /-- NAK (R303). -/
  | nak (l : Lane)
  /-- CREDIT (R306). -/
  | credit (l : Lane)
  /-- RESET (R305). -/
  | reset (l : Lane)
  /-- RETRY_TIMEOUT (R303). -/
  | retryTimeout (l : Lane)
  /-- TX_POSTED (R308). -/
  | txPosted (m : Master) (vc : BitVec 6) (value : Half)
  /-- RX_CONSUMED (R307). -/
  | rxConsumed (m : Master) (vc : BitVec 6) (value : Half)
  /-- PACKET_ARRIVAL (R325). -/
  | packetArrival (index : Nat) (parityFails routeFails : Bool) (router : BitVec 6)
  /-- PACKET_INJECTION (R324). -/
  | packetInjection (p : Packet)
  /-- RESPONSE_TIMEOUT (R327). -/
  | responseTimeout (e : Byte) (tag : BitVec 10)
  /-- PORT_ISOLATE (R330). -/
  | portIsolate (m : Master) (r : BitVec 6) (slot : BitVec 2)
  /-- PORT_RELEASE (R330). -/
  | portRelease (m : Master) (r : BitVec 6) (slot : BitVec 2)
  /-- QUIESCE (R328). -/
  | quiesce (r : BitVec 6)
  /-- QUIESCE_LIMIT (R328). -/
  | quiesceLimit (r : BitVec 6)
  /-- QUIESCE_RETRY (R328). -/
  | quiesceRetry (r : BitVec 6)
  /-- ISOLATION_TAIL_TIMEOUT (R330). -/
  | isolationTailTimeout (index : Nat)
  /-- MEMORY_READ (R343). -/
  | memoryRead (m : Master) (addr : Addr) (length : Nat)
  /-- MEMORY_WRITE (R344). -/
  | memoryWrite (m : Master) (addr : Addr) (data : List Byte)
  /-- MEMORY_ATOMIC (R345). -/
  | memoryAtomic (m : Master) (addr : Addr) (func : BitVec 3) (operand compare : Word)
  /-- HANDLE_TABLE_WRITE (R127). -/
  | handleTableWrite (m : Master) (addr : Addr) (data : List Byte)
  /-- SCRUB_VISIT (R348). -/
  | scrubVisit (u : Fin 48)
  /-- LAP_LIMIT (R349). -/
  | lapLimit (u : Fin 48)
  /-- BUCKET_LEAK (R351). -/
  | bucketLeak (u : Fin 48)
  /-- PTP_MEASUREMENT (R363). -/
  | ptpMeasurement (port : Bool) (m : PtpExchange)
  /-- MASTER_LOST (R365). -/
  | masterLost
  /-- SYNCE_LOST (R362). -/
  | synceLost
  /-- REACQUIRE (R366). -/
  | reacquire (m : Master)
  /-- CELL_ACTIVE (R364). -/
  | cellActive (m : Master) (k : BitVec 3) (value : Word)
  /-- PULSE_CTRL (R372). -/
  | pulseCtrl (m : Master) (value : Word)
  /-- PULSE_ARM (R372). -/
  | pulseArm (m : Master) (g : BitVec 4) (value : Word)
  /-- PULSE_EDGE (R372). -/
  | pulseEdge (g : BitVec 4)
  /-- PPS_OUT (R373). -/
  | ppsOut
  /-- PPS_IN (R373). -/
  | ppsIn
  /-- POWER_REQ_FULL (R401). -/
  | powerReqFull (m : Master)
  /-- TRIM (R401). -/
  | trim (m : Master)
  /-- NAP (R401). -/
  | nap (m : Master)
  /-- DEEPSLEEP (R407). -/
  | deepsleep (m : Master)
  /-- DOMAIN_AGREE (R402). -/
  | domainAgree
  /-- DOMAIN_REFUSED (R404). -/
  | domainRefused (reason : Fin 4)
  /-- POWER_GOOD (R405). -/
  | powerGood
  /-- POWER_GOOD_FAIL (R405). -/
  | powerGoodFail
  /-- WAKE_EDGE (R408). -/
  | wakeEdge (pin : Fin 32) (rising : Bool)
  /-- DEEPSLEEP_WAKE_CHECK (R408). -/
  | deepsleepWakeCheck (vcoreMv : Nat)
  /-- AVS_UPDATE (R411). -/
  | avsUpdate (tj : Int) (acked : BitVec 3) (statusFault : Bool) (readMv : Half)
  /-- REPORT_ACCEPT (R417). -/
  | reportAccept (source : Half)
  /-- COUNTER_OVERFLOW (R424). -/
  | counterOverflow (unit : Half) (k : BitVec 3) (count : Nat)
  /-- EPOCH_BOUNDARY (R427). -/
  | epochBoundary
  /-- DUMP (R428). -/
  | dump
  /-- DUMP_RD (R429). -/
  | dumpRd (m : Master) (value : Word)
  /-- REGISTER_WRITE (R6). -/
  | registerWrite (m : Master) (offset : Word) (value : Word)
  /-- EXTEST (R452). -/
  | extest (update : Nat)
  /-- SAMPLE_PRELOAD (R452). -/
  | samplePreload (update : Nat)
  /-- IDCODE (R452). -/
  | idcode
  /-- HIGHZ (R452). -/
  | highz
  /-- CLAMP (R452). -/
  | clamp
  /-- EXTEST_PULSE (R452). -/
  | extestPulse (update : Nat)
  /-- EXTEST_TRAIN (R452). -/
  | extestTrain (update : Nat)
  /-- REGACC (R453). -/
  | regacc (update : BitVec 67)
  /-- BYPASS (R452). -/
  | bypass
  /-- JTAG_DEBUG_REQUEST (R198). -/
  | jtagDebugRequest (c : Core)
  /-- SYNCE_LINK_UP (R362). -/
  | synceLinkUp
  /-- ANNOUNCE (R359). -/
  | announce (port : Bool) (m : PtpMaster)
  /-- PTP_DELAY_REQ (R359). -/
  | ptpDelayReq (port : Bool)
  /-- ARP_REQUEST (R359). -/
  | arpRequest (port : Bool) (target : List Byte)
  /-- ARMED_TIME_PASSED (R372). -/
  | armedTimePassed (g : BitVec 4)
deriving DecidableEq, Repr

end Sys2Proof
end

