-- ==== Sys2Proof/Decode.lean ====
section
/-! DEFINITION. What a word spells. The opcode table gives no row any bits: the rows are commands
from outside, not words of a memory, so no word of the table spells one (decodeTableWord). The Bronze
cores have instruction words of their own (R181, R182, R216, R236): `decodeBronze` says which command
such a word stands for. -/

namespace Sys2Proof

/-- The command that a word spells by the table's bits: none, for no row has bits. -/
def decodeTableWord (_nbits _w : Nat) : Option Instr := none

/-! ### Instruction words of the Bronze cores -/

/-- Bits `lo` to `lo + n - 1` of a word. -/
def fieldOf (w : Word) (lo n : Nat) : BitVec n := w.extractLsb' lo n

/-- A bit of a word. -/
def flagOf (w : Word) (k : Nat) : Bool := w.getLsbD k

/-- MAJOR 0x01, R format, by FUNC (Tables 7.9, 7.17). -/
def decodeAlu (c : Core) (w : Word) : Option Instr :=
  let rd := fieldOf w 21 5
  let ra := fieldOf w 16 5
  let rb := fieldOf w 11 5
  match (fieldOf w 0 11).toNat with
  | 0 => some (.add c rd ra rb)
  | 1 => some (.sub c rd ra rb)
  | 2 => some (.adds c rd ra rb)
  | 3 => some (.subs c rd ra rb)
  | 4 => some (.and c rd ra rb)
  | 5 => some (.or c rd ra rb)
  | 6 => some (.xor c rd ra rb)
  | 7 => some (.andn c rd ra rb)
  | 8 => some (.sll c rd ra rb)
  | 9 => some (.srl c rd ra rb)
  | 10 => some (.sra c rd ra rb)
  | 11 => some (.mul c rd ra rb)
  | 12 => some (.mulh c rd ra rb)
  | 13 => some (.mulhu c rd ra rb)
  | 14 => some (.slt c rd ra rb)
  | 15 => some (.sltu c rd ra rb)
  | 16 => some (.min c rd ra rb)
  | 17 => some (.max c rd ra rb)
  | 18 => some (.abs c rd ra rb)
  | 19 => some (.clz c rd ra rb)
  | 20 => some (.cls c rd ra rb)
  | 21 => some (.sexth c rd ra rb)
  | 22 => some (.zexth c rd ra rb)
  | _ => none

/-- MAJOR 0x13, R format: the atomics, by FUNC (R208). -/
def decodeAtomic (c : Core) (w : Word) : Option Instr :=
  let rd := fieldOf w 21 5
  let ra := fieldOf w 16 5
  let rb := fieldOf w 11 5
  match (fieldOf w 0 11).toNat with
  | 0 => some (.atomicSwap c rd ra rb)
  | 1 => some (.atomicAdd c rd ra rb)
  | 2 => some (.cas c rd ra rb)
  | 3 => some (.atomicAnd c rd ra rb)
  | 4 => some (.atomicOr c rd ra rb)
  | _ => none

/-- MAJOR 0x14, R format: the pointer file, JR and JALR, by FUNC (Table 7.17). -/
def decodePointer (c : Core) (w : Word) : Option Instr :=
  let rd := fieldOf w 21 5
  let ra := fieldOf w 16 5
  let rb := fieldOf w 11 5
  match (fieldOf w 0 11).toNat with
  | 0 => some (.movp c rd ra rb)
  | 1 => some (.rdpl c rd ra rb)
  | 2 => some (.rdph c rd ra rb)
  | 3 => some (.addp c rd ra rb)
  | 4 => some (.subp c rd ra rb)
  | 5 => some (.movb c rd ra rb)
  | 6 => some (.rdb c rd ra rb)
  | 7 => some (.movl c rd ra rb)
  | 8 => some (.rdl c rd ra rb)
  | 9 => some (.movm c rd ra rb)
  | 10 => some (.rdm c rd ra rb)
  | 11 => some (.movpp c rd ra rb)
  | 12 => some (.jr c rd ra rb)
  | 13 => some (.jalr c rd ra rb)
  | _ => none

/-- MAJOR 0x18, A format: multiply-accumulate, by OP (Table 7.12). -/
def decodeMac (c : Core) (w : Word) : Option Instr :=
  let acc := fieldOf w 23 3
  let ra := fieldOf w 18 5
  let rb := fieldOf w 13 5
  let frac := flagOf w 1
  let sat := flagOf w 0
  let rsv := fieldOf w 2 7
  match (fieldOf w 9 4).toNat with
  | 0 => some (.mpyW c acc ra rb frac sat rsv)
  | 1 => some (.macW c acc ra rb frac sat rsv)
  | 2 => some (.msuW c acc ra rb frac sat rsv)
  | 3 => some (.macH2 c acc ra rb frac sat rsv)
  | 4 => some (.cmpy c acc ra rb frac sat rsv)
  | 5 => some (.cmac c acc ra rb frac sat rsv)
  | 6 => some (.cmacj c acc ra rb frac sat rsv)
  | 7 => some (.cmsu c acc ra rb frac sat rsv)
  | _ => none

/-- MAJOR 0x19, N format: accumulator moves and narrowing, by OP (Table 7.14). -/
def decodeAcc (c : Core) (w : Word) : Option Instr :=
  let acc := fieldOf w 23 3
  let rd := fieldOf w 18 5
  let sh := fieldOf w 12 6
  let rsv := fieldOf w 0 8
  match (fieldOf w 8 4).toNat with
  | 0 => some (.ardW c acc rd sh rsv)
  | 1 => some (.ardH c acc rd sh rsv)
  | 2 => some (.ardC c acc rd sh rsv)
  | 3 => some (.awr c acc rd sh rsv)
  | 4 => some (.aclr c acc rd sh rsv)
  | 5 => some (.ashr c acc rd sh rsv)
  | 6 => some (.ardl c acc rd sh rsv)
  | 7 => some (.ardm c acc rd sh rsv)
  | 8 => some (.ardx c acc rd sh rsv)
  | 9 => some (.ains c acc rd sh rsv)
  | _ => none

/-- MAJOR 0x24 and 0x25, VOP.Q and VOP.V, by OP (R216, Table 8.6). -/
def decodeVop (c : Core) (long : Bool) (w : Word) : Option Instr :=
  let vd := fieldOf w 21 5
  let va := fieldOf w 16 5
  let vb := fieldOf w 11 5
  let et := fieldOf w 9 2
  let rsv := fieldOf w 7 2
  let sat := flagOf w 6
  match (fieldOf w 0 6).toNat with
  | 0 => some (.vadd c long vd va vb et rsv sat)
  | 1 => some (.vsub c long vd va vb et rsv sat)
  | 2 => some (.vadds c long vd va vb et rsv sat)
  | 3 => some (.vsubs c long vd va vb et rsv sat)
  | 4 => some (.vand c long vd va vb et rsv sat)
  | 5 => some (.vor c long vd va vb et rsv sat)
  | 6 => some (.vxor c long vd va vb et rsv sat)
  | 7 => some (.vmin c long vd va vb et rsv sat)
  | 8 => some (.vmax c long vd va vb et rsv sat)
  | 9 => some (.vabs c long vd va vb et rsv sat)
  | 10 => some (.vavgr c long vd va vb et rsv sat)
  | 11 => some (.vsrar c long vd va vb et rsv sat)
  | 12 => some (.vslls c long vd va vb et rsv sat)
  | 13 => some (.vmulr c long vd va vb et rsv sat)
  | 14 => some (.vcmulr c long vd va vb et rsv sat)
  | 15 => some (.vcmuljr c long vd va vb et rsv sat)
  | 16 => some (.vconj c long vd va vb et rsv sat)
  | 17 => some (.vdot c long vd va vb et rsv sat)
  | 18 => some (.vdotj c long vd va vb et rsv sat)
  | 19 => some (.vnr c long vd va vb et rsv sat)
  | 20 => some (.vwid c long vd va vb et rsv sat)
  | 21 => some (.vperm c long vd va vb et rsv sat)
  | _ => none

/-- MAJOR 0x26, VMOVE, by OP (R216, Table 8.7). -/
def decodeVmove (c : Core) (w : Word) : Option Instr :=
  let x := fieldOf w 21 5
  let y := fieldOf w 16 5
  let z := fieldOf w 11 5
  let long := flagOf w 10
  let et := fieldOf w 8 2
  let rsv := fieldOf w 6 2
  match (fieldOf w 0 6).toNat with
  | 0 => some (.vsplat c x y z long et rsv)
  | 1 => some (.vins c x y z long et rsv)
  | 2 => some (.vext c x y z long et rsv)
  | 3 => some (.vqtov c x y z long et rsv)
  | 4 => some (.vvtoq c x y z long et rsv)
  | 5 => some (.vsetvl c x y z long et rsv)
  | _ => none

/-- MAJOR 0x3F, S format: system and task instructions, by SUB (Table 7.17). -/
def decodeSystem (c : Core) (w : Word) : Option Instr :=
  let rd := fieldOf w 21 5
  let ra := fieldOf w 16 5
  let code := fieldOf w 8 8
  let rest := fieldOf w 8 18
  match (fieldOf w 0 8).toNat with
  | 0 => some (.csrr c rd ra code)
  | 1 => some (.csrw c rd ra code)
  | 2 => some (.csrs c rd ra code)
  | 3 => some (.csrc c rd ra code)
  | 8 => some (.eret c rest)
  | 9 => some (.trap c (fieldOf w 16 10) code)
  | 10 => some (.brk c rest)
  | 16 => some (.twait c rest)
  | 17 => some (.tcommit c rd ra code)
  | 18 => some (.tcommitE c rd ra code)
  | 19 => some (.tcommitB c rd ra code)
  | 20 => some (.tfault c rd ra code)
  | _ => none

/-- MAJOR 0x3E, S format: fences, by SUB (R206). -/
def decodeFence (c : Core) (w : Word) : Option Instr :=
  let rest := fieldOf w 8 18
  match (fieldOf w 0 8).toNat with
  | 0 => some (.fenceS c rest)
  | 1 => some (.fenceA c rest)
  | 2 => some (.fenceI c rest)
  | _ => none

/-- The command of core `c` for an instruction word, by its MAJOR (Table 7.10); none where the word is no
instruction. REP comes with the word after it, its body. -/
def decodeBronze (c : Core) (w next : Word) : Option Instr :=
  let rd := fieldOf w 21 5
  let ra := fieldOf w 16 5
  let imm := fieldOf w 0 16
  let pn := fieldOf w 17 4
  let am := fieldOf w 14 3
  let sz := fieldOf w 12 2
  let off := fieldOf w 0 12
  let vam := fieldOf w 15 2
  let vet := fieldOf w 13 2
  let u := flagOf w 12
  let mn := fieldOf w 8 4
  let low := fieldOf w 0 8
  match (fieldOf w 26 6).toNat with
  | 0x01 => decodeAlu c w
  | 0x02 => some (.addi c rd ra imm)
  | 0x03 => some (.andi c rd ra imm)
  | 0x04 => some (.ori c rd ra imm)
  | 0x05 => some (.xori c rd ra imm)
  | 0x06 => some (.movi c rd ra imm)
  | 0x07 => some (.movhi c rd ra imm)
  | 0x08 => some (.shi c rd ra imm)
  | 0x09 => some (.slti c rd ra imm)
  | 0x10 => some (.ld c rd pn am sz off)
  | 0x11 => some (.ldu c rd pn am sz off)
  | 0x12 => some (.st c rd pn am sz off)
  | 0x13 => decodeAtomic c w
  | 0x14 => decodePointer c w
  | 0x15 => some (.adr c rd (fieldOf w 18 3) (fieldOf w 0 18))
  | 0x18 => decodeMac c w
  | 0x19 => decodeAcc c w
  | 0x1C => some (.br c rd (fieldOf w 18 3) (fieldOf w 0 18))
  | 0x1D => some (.j c (fieldOf w 0 26))
  | 0x1E => some (.jal c (fieldOf w 0 26))
  | 0x1F => some (.rep c rd (flagOf w 20) (fieldOf w 16 4) imm next)
  | 0x20 => some (.vldQ c rd pn vam vet u mn low)
  | 0x21 => some (.vstQ c rd pn vam vet u mn low)
  | 0x22 => some (.vldV c rd pn vam vet u mn low)
  | 0x23 => some (.vstV c rd pn vam vet u mn low)
  | 0x24 => decodeVop c false w
  | 0x25 => decodeVop c true w
  | 0x26 => decodeVmove c w
  | 0x2C => some (.pcmd c rd (fieldOf w 15 6) (fieldOf w 0 15))
  | 0x2D => some (.pres c rd (fieldOf w 15 6) (flagOf w 14) (fieldOf w 0 14))
  | 0x2E => if flagOf w 20 then some (.cprest c rd (fieldOf w 0 20)) else some (.cpsave c rd (fieldOf w 0 20))
  | 0x2F => some (.psync c (fieldOf w 0 26))
  | 0x3E => decodeFence c w
  | 0x3F => decodeSystem c w
  | _ => none

/-- The word is an instruction of the Bronze cores (R181, R182). -/
def isInstruction (w : Word) : Bool := (decodeBronze 0 w 0).isSome

end Sys2Proof
end

