-- ==== Sys2Proof/Machine/Map.lean ====
section
/-! DEFINITION. Sparse data by number, and the bit-field, byte-order and list helpers that every
other file of the machine uses. -/

namespace Sys2Proof.Machine

/-- Sparse data keyed by a number; a key that is not listed reads as the default of its use. -/
abbrev Map (α : Type) := List (Nat × α)

/-- Read key `k`; `d` is what an unlisted key reads as. -/
def Map.get {α : Type} (d : α) : Map α → Nat → α
  | [], _ => d
  | (k', v) :: rest, k => if k' = k then v else Map.get d rest k

/-- Write key `k`, keeping rising keys rising. -/
def Map.set {α : Type} : Map α → Nat → α → Map α
  | [], k, v => [(k, v)]
  | (k', w) :: rest, k, v =>
    if k' = k then (k, v) :: rest
    else if k < k' then (k, v) :: (k', w) :: rest
    else (k', w) :: Map.set rest k v

/-- Take key `k` out. -/
def Map.del {α : Type} (m : Map α) (k : Nat) : Map α := m.filter (fun e => decide (e.1 ≠ k))

/-- Read-modify-write of key `k`. -/
def Map.upd {α : Type} (d : α) (m : Map α) (k : Nat) (f : α → α) : Map α :=
  Map.set m k (f (Map.get d m k))

/-- Bits `hi..lo` of a number. -/
def bits (x hi lo : Nat) : Nat := (x >>> lo) % 2 ^ (hi + 1 - lo)

/-- Bit `i` of a number. -/
def bit (x i : Nat) : Bool := x.testBit i

/-- 1 for true. -/
def b2n (b : Bool) : Nat := if b then 1 else 0

/-- A number's `n` bytes, least significant first (R4). -/
def leBytes : Nat → Nat → List Byte
  | 0, _ => []
  | n + 1, x => BitVec.ofNat 8 x :: leBytes n (x / 256)

/-- The number that little-endian bytes spell (R4). -/
def leNat : List Byte → Nat
  | [] => 0
  | b :: rest => b.toNat + 256 * leNat rest

/-- A number's `n` bytes, most significant first. -/
def beBytes (n x : Nat) : List Byte := (leBytes n x).reverse

/-- The number that big-endian bytes spell. -/
def beNat (l : List Byte) : Nat := leNat l.reverse

/-- The field of `size` bytes at offset `off` of a record. -/
def fld (r : List Byte) (off size : Nat) : Nat := leNat ((r.drop off).take size)

/-- An `n`-bit field read as two's complement. -/
def sx (n x : Nat) : Int :=
  let v := x % 2 ^ n
  if n = 0 then 0 else if v < 2 ^ (n - 1) then (v : Int) else (v : Int) - (2 ^ n : Nat)

/-- The `n`-bit pattern of an integer, wrapped. -/
def wrapN (n : Nat) (x : Int) : Nat := (x % ((2 ^ n : Nat) : Int)).toNat

/-- Narrowing shift with rounding half up (R11). -/
def roundShift (x : Int) (s : Nat) : Int :=
  if s = 0 then x else (x + ((2 ^ (s - 1) : Nat) : Int)) / ((2 ^ s : Nat) : Int)

/-- Saturation to an `n`-bit signed range. -/
def satN (n : Nat) (x : Int) : Int :=
  let top : Int := ((2 ^ (n - 1) : Nat) : Int)
  if x < -top then -top else if x > top - 1 then top - 1 else x

/-- Whether saturation to `n` bits clips. -/
def clips (n : Nat) (x : Int) : Bool := decide (satN n x ≠ x)

/-- Addition that stops at a counter's maximum. -/
def satAdd (top a b : Nat) : Nat := min top (a + b)

/-- Replace the bytes of `l` from position `at_` by `new`, within the length of `l`. -/
def splice (l : List Byte) (at_ : Nat) (new : List Byte) : List Byte :=
  (l.take at_ ++ new ++ l.drop (at_ + new.length)).take l.length

/-- `n` zero bytes. -/
def zeros (n : Nat) : List Byte := List.replicate n 0

/-- Cut a list into pieces of `n` (structural on `fuel`). -/
def chunksAux {α : Type} (n : Nat) : Nat → List α → List (List α)
  | 0, _ => []
  | fuel + 1, l => if l.isEmpty then [] else l.take n :: chunksAux n fuel (l.drop n)

/-- Cut a list into pieces of `n`, the last one shorter where it must be. -/
def chunks {α : Type} (n : Nat) (l : List α) : List (List α) := chunksAux n l.length l

/-- Insert into a list kept in rising order of `key`, after the entries with an equal key. -/
def insertBy {α : Type} (key : α → Nat) (x : α) : List α → List α
  | [] => [x]
  | y :: ys => if key x < key y then x :: y :: ys else y :: insertBy key x ys

/-- Sort by a key, keeping the order of equal keys. -/
def sortBy {α : Type} (key : α → Nat) (l : List α) : List α :=
  l.foldl (fun acc x => insertBy key x acc) []

/-- The exclusive or of a list of bits. -/
def xorAll (l : List Bool) : Bool := l.foldl xor false

/-- Division rounding half up of non-negative numbers. -/
def divRound (a b : Nat) : Nat := (2 * a + b) / (2 * b)

/-- Division rounding up. -/
def divUp (a b : Nat) : Nat := (a + b - 1) / b

end Sys2Proof.Machine
end

