-- ==== Sys2Proof/Machine/Crc.lean ====
section
/-! DEFINITION. The checks of the T96: reflected CRC-32 (R21), CRC-64 (R140), and the generic
bit-serial CRC of the links and codecs. -/

namespace Sys2Proof.Machine

/-- One bit of a reflected CRC whose reflected polynomial is `poly`. -/
def crcStepR (poly acc : Nat) : Nat :=
  if acc % 2 = 1 then (acc / 2) ^^^ poly else acc / 2

/-- Feed one byte, least significant bit first. -/
def crcByteR (poly acc : Nat) (b : Byte) : Nat :=
  (List.range 8).foldl (fun a _ => crcStepR poly a) (acc ^^^ b.toNat)

/-- CRC-32 of R21: polynomial 0x04C11DB7 reflected, initial value and final XOR all ones. -/
def crc32 (l : List Byte) : Nat :=
  (l.foldl (crcByteR 0xEDB88320) 0xFFFFFFFF) ^^^ 0xFFFFFFFF

/-- Feed one bit, most significant first, into a CRC of `n` bits. -/
def crcBit (n poly acc : Nat) (b : Bool) : Nat :=
  let top := xor (acc.testBit (n - 1)) b
  let sh := (acc * 2) % 2 ^ n
  if top then sh ^^^ poly else sh

/-- A CRC of `n` bits over bits in transmission order. -/
def crcBits (n poly init : Nat) (l : List Bool) : Nat := l.foldl (crcBit n poly) init

/-- The bits of a byte, most significant first. -/
def byteBits (b : Byte) : List Bool := (List.range 8).map (fun i => b.toNat.testBit (7 - i))

/-- A CRC of `n` bits over bytes, each most significant bit first. -/
def crcBytes (n poly init : Nat) (l : List Byte) : Nat :=
  l.foldl (fun a b => (byteBits b).foldl (crcBit n poly) a) init

/-- The running CRC-64 signature of R140, before its final XOR. -/
def crc64Feed (acc : Nat) (l : List Byte) : Nat := crcBytes 64 0x42F0E1EBA9EA3693 acc l

/-- The low `n` bits of a number, most significant first. -/
def natBits (n x : Nat) : List Bool := (List.range n).map (fun i => x.testBit (n - 1 - i))

/-- The number whose bits, most significant first, are `l`. -/
def bitsNat (l : List Bool) : Nat := l.foldl (fun a b => 2 * a + b2n b) 0

/-- The bits of a number of `n` bits, least significant first. -/
def natBitsL (n x : Nat) : List Bool := (List.range n).map (fun i => x.testBit i)

/-- The number whose bits, least significant first, are `l`. -/
def bitsNatL : List Bool → Nat
  | [] => 0
  | b :: rest => b2n b + 2 * bitsNatL rest

end Sys2Proof.Machine
end

