-- ==== Sys2Proof/Config.lean ====
section
/-! DEFINITION. What one implementation fixes: the constants of the T96 B0, and the values the spec
leaves open, as constants without a body, so that nothing can rest on a value of theirs. -/

namespace Sys2Proof

/-- Part number, stepping and capability root of the T96 B0 (R48). -/
def Config.partNumber : Nat := 0x7960
def Config.stepping : Nat := 0x0200
def Config.capRoot : Nat := 0x100

/-- Free words between capability `k` of the list and the next one: the spec gives the list's range and
not where its capabilities stand in it (R48, R49; log 55). -/
opaque Config.capGap : Nat → Nat

/-- What the boundary register drives on a pin, by the pin's number here: the spec gives no order of its
cells (R452; log 12). -/
opaque Config.boundaryDrive : Nat → Nat → Option Bool

/-- What the boundary register captures of the pins (R452; log 12). -/
opaque Config.boundaryCapture : List Bool → Nat

/-- A free value of the machine: argument 0 is the model's counter of free values (log 2). -/
opaque Config.freeValue : Nat → Nat

/-- The servo's steering: from the servo's state (as a number), the measured offset in ns and the
present RATE, the RATE it sets (R363 gives no law; log 13). -/
opaque Config.servoRate : Nat → Int → Int → Int

/-- The fused AVS table: millivolts for a junction temperature in degrees (R411; log 14). -/
opaque Config.avsMillivolts : Int → Nat

/-- By how much a clock domain's copy of tick time may differ, by the domain and the master's whole Tc (R18,
R357; log 129). -/
opaque Config.tickSkew : Nat → Nat → Nat

/-- Tc from the moment a domain's copy reaches an epoch boundary to its next clock, by the domain and the
boundary (R427, R430; log 26). -/
opaque Config.latchDelay : Nat → Nat → Nat

/-- The next state of the LFSR that draws tags (R426 names no taps; log 15). -/
opaque Config.tagNext : Nat → Nat

/-- The shift coefficient of TS 38.212 Tables 5.3.2-2 and 5.3.2-3, which the spec names and does not
print: base graph, set i_LS, row and column; none where the base graph has no entry (log 46). -/
opaque Config.ldpcShift : Nat → Nat → Nat → Nat → Option Nat

/-- How a lane's decoder normalises the magnitude of a check's message (R266 gives no factor; log 122). -/
opaque Config.laneNormalise : Nat → Nat

/-- What tap `k` of a lane's receiver holds after an adaptation (R267 names the method and no step; log 149). -/
opaque Config.lmsTap : Nat → Nat → Int

end Sys2Proof
end

