-- ==== Sys2Proof/Machine/State.lean ====
section
/-! DEFINITION. The state of the T96 as plain data: the commands that wait, the loaded
configuration (which only the image loader changes), and everything else. -/

namespace Sys2Proof.Machine

/-- Why the machine stops with a fault. -/
inductive Fault where
  /-- The command carries a packet that no sender can make: `Packet.wf` is false, or its SRC is a slot
  without an endpoint. Raised by PACKET_INJECTION alone. Safe: the hardware cannot meet it. -/
  | illFormed
deriving DecidableEq, Repr

/-- Why a command has no outcome. -/
inductive Refusal where
  /-- An arm of `exec` that has no meaning yet. Safe: nothing is claimed of it. -/
  | notModelled (mnemonic : String)
deriving DecidableEq, Repr

/-- The loaded configuration (R6 code IMG, R8, R27, R39). -/
structure Img where
  /-- The records of each section of the loaded image, by section type, as the bytes of the image. -/
  sections : Map (List (List Byte))
  /-- IMG registers that differ from their reset value, by offset from 0x00F0_0000_0000. -/
  regs : Map Word
  /-- LOADED_IMAGE, BUILD_ID_LO, BUILD_ID_HI (Tables 2.15, 2.16). -/
  loaded : Word
  /-- Offset and length in flash of the copy that was loaded (R51). -/
  copyAt : Nat × Nat
  buildLo : Word
  buildHi : Word
  /-- The availability bits of each capability, by identifier (R49). -/
  avail : Map Nat
deriving DecidableEq, Repr

/-- DEVICE_STATE.STATE (Table 2.13). -/
inductive DevState where
  | boot | selftest | hold | service | recovery | deepsleep
deriving DecidableEq, Repr

/-- Identity block, reset pins and rails (02, 16, 18). -/
structure DeviceSt where
  state : DevState
  phase : Nat
  loadA : Word
  loadB : Word
  bootsel : Bool
  /-- RESET_N is released and the main island waits to start (R441). -/
  startReady : Bool
  mainEn : Bool
  aonUp : Bool
  /-- The pins of VIO, JTAG's among them, have their supply (R439, R452; log 145). -/
  vioUp : Bool
  /-- RESET_CAUSE (Table 16.10). -/
  resetCause : Nat
  /-- The start trained DRAM, and slot memory (R45, R454). -/
  dramUp : Bool
  slotUp : Bool
  /-- A wake from DEEPSLEEP is under way (R408). -/
  waking : Bool
deriving DecidableEq, Repr

/-- The fuses (R34, R394). -/
structure FuseSt where
  pkHash : Nat
  sigRequired : Bool
  minSecver : Nat
  imageKey : Nat
deriving DecidableEq, Repr

/-- A flash command under way (R310). -/
inductive FlashJob where
  | erase (tag : Half) (offset bytes : Nat)
  | program (tag : Half) (offset : Nat) (data : List Byte)
  | verify (tag : Half) (copy : Nat)
  | commit (tag : Half) (flags aOffset aLength bOffset bLength : Nat)
deriving DecidableEq, Repr

/-- The board's SPI NOR flash and the command under way on it (R20, R54). -/
structure FlashSt where
  /-- Bytes that differ from the erased 0xFF. -/
  cells : Map Byte
  density : Nat
  responds : Bool
  sfdp : Bool
  quad : Bool
  job : Option FlashJob
  /-- A RESTART that waits for the flash command (R54), with its TAG. -/
  restart : Option Half
deriving DecidableEq, Repr

/-- SERVO of TIME_STATE (Table 14.6). -/
inductive Servo where
  | freerun | acquiring | locked | holdover
deriving DecidableEq, Repr

/-- One pulse generator's run-time state (R371, R372). -/
structure PulseSt where
  /-- PULSE_ARM_HI as written last. -/
  armHi : Word
  /-- PULSE_ARM_HI as a read returns it while a time is armed (R374). -/
  hiRead : Word
  armed : Option Nat
  level : Bool
  lastRise : Option Nat
  /-- A pulse rises at this tick or later: after the last pulse, RUN change or step. -/
  since : Nat
deriving DecidableEq, Repr

/-- The time unit (14). Tick time T is held in units of 2^-48 Tc (R356). -/
structure TimeSt where
  t : Nat
  rate : Int
  servo : Servo
  port : Nat
  steps : Nat
  synceLock : Bool
  theta : Int
  valid : Nat
  within : Nat
  beyond : Nat
  stepUsed : Bool
  sticky : Bool
  /-- The RATE of the last seconds in LOCKED, newest first, each with its time in Tc (R365). -/
  lockedRates : List (Int × Nat)
  /-- Tick from which the present RATE counts in LOCKED. -/
  rateSince : Nat
  /-- The masters heard, each with its port. -/
  masters : List (Nat × PtpMaster)
  delayReqs : Map Nat
  /-- Timestamp of each port's Delay_Req that is not answered yet, in 1/256 Tc (R357, R361). -/
  reqStamp : Map Nat
  arpReplies : Map Nat
  cellActive : Map Word
  run : Nat
  pulses : Map PulseSt
  ppsIn : DWord
  ppsInHi : Word
  ppsOut : Bool
  rateHi : Word
  /-- Each Bridle lane's last RTTs, exact (R368). -/
  rtts : Map (List Int)
  /-- Tick of the last rise of PPS_OUT, and the tick from which the next one counts. -/
  ppsAt : Nat
  ppsSince : Nat
  /-- The slot boundary sent last (R367, R370). -/
  boundary : Option Int
deriving DecidableEq, Repr

/-- One GPIO pin: a SET_GPIO order in place, as the tick at which it ends, 0 for none, and its level
(R144, R447). -/
structure PinSt where
  order : Option (Nat × Bool)
  /-- The source whose condition put the drive in place (R146). -/
  source : Nat
deriving DecidableEq, Repr

/-- One report record before the arbiter numbers it (R413). -/
structure Report where
  time : DWord
  source : Half
  cls : Nat
  kind : Nat
  lastUnit : Bool
  lost : Bool
  action : Byte
  code : Half
  task : Half
  detail : List Byte
deriving DecidableEq, Repr

/-- Reports, the log, alerts and the report stream (17, R313). -/
structure ReportSt where
  /-- Each source's report interface, oldest first (R416). -/
  ifq : Map (List Report)
  lost : Map Bool
  dropped : Nat
  logWr : Word
  /-- Accepted records by log entry. -/
  log : Map Report
  alertCfg : Word
  alertPending : Bool
  alertCount : Nat
  streamOn : Bool
  streamMin : Nat
  streamNext : Word
  /-- Records overwritten before the stream sent them (R313). -/
  streamLost : Nat
deriving DecidableEq, Repr

/-- One performance counter (Tables 17.9, 17.10). -/
structure Ctr where
  cfg : Word
  master : Word
  base : Word
  limit : Word
  value : Nat
  hiLatch : Nat
deriving DecidableEq, Repr

/-- An overflow of a core's counter whose sample is not recorded yet (R425, R426): the instructions still to
retire before the one it falls on, the counter, whether it tags, and, for a tag, that it was drawn by the
instruction under way, which does not count. -/
structure SampleArm where
  left : Nat
  ctr : Nat
  tag : Bool
  fresh : Bool
deriving DecidableEq, Repr

/-- A counter bank (R420, Tables 17.10, 17.11). -/
structure Bank where
  ctrs : Map Ctr
  ovf : Nat
  dump : Bool
  samplePc : Nat
  sampleAddr : Nat
  sampleSeed : Nat
  latency : Nat
  valid : Bool
  overrun : Bool
  tagged : Bool
  exception : Bool
  icmiss : Bool
  counter : Nat
  /-- The samples armed, oldest first: one for each overflow (R425, R426). -/
  arms : List SampleArm
  /-- The tagged instruction has made its first memory access (R426). -/
  addrSeen : Bool
  lfsr : Nat
deriving DecidableEq, Repr

/-- What the units latched at an epoch boundary and the dump engine has not read yet (R427, R428). -/
structure Latch where
  epoch : Nat
  /-- Tick at which the units latched, and the boundary's own tick t_e (R427, R430). -/
  tick : Nat
  boundary : Nat
  step : Bool
  banks : Map Bank
  /-- Units that were off or withheld. -/
  off : List Nat
  waitMax : Map Nat
  coreBusy : Map Nat
deriving DecidableEq, Repr

/-- Counters, epochs and dumps (17). -/
structure PerfSt where
  banks : Map Bank
  perfCfg : Word
  epoch : Nat
  stepped : Bool
  dumpRd : Word
  dumpWr : Word
  skipped : Nat
  shadow : Option Latch
  /-- WAIT_MAX and CORE_BUSY of the running epoch and as latched (R172). -/
  waitRun : Map Nat
  waitMax : Map Nat
  busyRun : Map Nat
  coreBusy : Map Nat
  /-- Once-per-epoch reports already issued, by source (R350, R423). -/
  epochMarks : List (Nat × Nat)
deriving DecidableEq, Repr

/-- Whether a core runs (Table 7.18). -/
inductive CoreRun where
  | stopped | active | halted
deriving DecidableEq, Repr

/-- STATUS (Table 7.6). -/
structure StatusReg where
  pinrep : Bool
  inrep : Bool
  shadow : Bool
  task : Bool
  dsat : Bool
  asat : Bool
  ie : Bool
  hact : Bool
  ppl : Priv
  pl : Priv
deriving DecidableEq, Repr

/-- A core's register files (Table 7.1). -/
structure CoreRegs where
  d : Map Word
  p : Map Addr
  b : Map Addr
  l : Map Word
  m : Map Word
  acc : Map (BitVec 72)
  pc : Addr
deriving DecidableEq, Repr

/-- A core's control registers (Table 7.5). -/
structure CoreCtl where
  status : StatusReg
  cause : Word
  epc : Addr
  eaddr : Addr
  vbase : Addr
  exmask : Word
  imask : Word
  dbell : Word
  escr : Map Word
  pbind0 : Word
  pbind1 : Word
  rc : BitVec 17
  /-- Iterations of the running REP so far, and those of the REP that the last exception interrupted
  (R192; log 134). -/
  repDone : Nat
  repSaved : Nat
  cycleHi : Word
  tickHi : Word
  pwinBase : Map Word
  pwinLimit : Map Word
deriving DecidableEq, Repr

/-- A core's vector extension (R211, R214). -/
structure CoreVec where
  enable : Word
  vl : Nat
  vstart : Nat
  q : Map (BitVec 256)
  v : Map (BitVec 2048)
deriving DecidableEq, Repr

/-- One Pewter command in a core's queue: its 32 bytes and its tag (R233, R237). -/
structure PewterCmd where
  bytes : List Byte
  tag : Nat
deriving DecidableEq, Repr

/-- One complex working register of the engine: 16 x 16 mantissas, row by row, and the exponent
(R242). A component that is not listed is 0. -/
structure PewterMat where
  re : List Int
  im : List Int
  exp : Int
deriving DecidableEq, Repr

/-- A core's side of the coprocessor port (R233, R235, R242). -/
structure CorePort where
  enable : Word
  queue : List PewterCmd
  /-- Uncollected results, by tag (R240). -/
  results : Map Word
  /-- Tags of commands that are not complete. -/
  busy : List Nat
  /-- W0 to W2. -/
  w : Map PewterMat
deriving DecidableEq, Repr

/-- What a TCOMMIT that waits holds (R194). -/
structure Commit where
  final : Nat
  rd : Nat
  result : List Byte
deriving DecidableEq, Repr

/-- An asynchronous store error that waits (R199). -/
structure StoreErr where
  addr : Addr
  kind : Nat
  /-- A store's; false for a read of the core's Pewter engine (R250). -/
  store : Bool
deriving DecidableEq, Repr

/-- A core's task side (R193, R194, R199, R200). -/
structure CoreTask where
  run : CoreRun
  waiting : Bool
  commit : Option Commit
  task : Option Nat
  /-- Tick from which the task's time is counted, and that it still is: from its dispatch to what ends it
  (R172). -/
  since : Nat
  busy : Bool
  sig : DWord
  storeErrs : List StoreErr
  abort : Option (Nat × Half)
deriving DecidableEq, Repr

/-- One Bronze core. -/
structure CoreSt where
  regs : CoreRegs
  ctl : CoreCtl
  vec : CoreVec
  port : CorePort
  tsk : CoreTask
  /-- Local memory (R177), bytes that are not zero. -/
  local_ : Map Byte
  /-- Words of local memory, by address / 4, whose parity bit does not fit them (R177; log 138). -/
  parity : List Nat
  /-- 128-byte blocks, by address / 128, of which the instruction cache may hold a copy: those fetched
  from since the last FENCE.I (R206; log 10). -/
  lines : List Nat
  /-- Core clocks since the core's start, as far as counted (CYCLE, R178; log 23). -/
  clock : Nat
deriving DecidableEq, Repr

/-- A Pewter engine (R233, R255). -/
structure TileSt where
  /-- The core of the tile (0 to 3) whose command was served last. -/
  lastCore : Nat
deriving DecidableEq, Repr

/-- The five states of a task entry (R156). -/
inductive TaskState where
  | free | waiting | ready | running | done
deriving DecidableEq, Repr

/-- One entry of a posted handle list (Table 6.5). -/
structure HEntry where
  handle : Nat
  mode : Nat
  gen : Nat
deriving DecidableEq, Repr

/-- The dispatcher's private state of one task (R155, R157). -/
structure TaskEntry where
  state : TaskState
  cls : Nat
  pure : Bool
  lockstep : Bool
  optional : Bool
  autofree : Bool
  fallback : Nat
  cprop : Nat
  deadline : Nat
  est : Nat
  condTask : Option Nat
  condMask : Nat
  work : Nat
  arg : Nat
  inputs : List HEntry
  outputs : List HEntry
  /-- Inputs still awaited, each holding one wait link (R160). -/
  awaited : List HEntry
  /-- The gate of COND_TASK still to be evaluated. -/
  gated : Bool
  enterStep : Nat
  readySince : Nat
  attempts : Nat
  replays : Nat
  /-- Units of every attempt (R139). -/
  units : List Nat
  /-- PEWTER_PARITY among the attempts (R139). -/
  avoidTiles : Bool
  unit : Nat
  shadow : Option Nat
  dispatchTick : Nat
  condition : Nat
  /-- The completion STATE and the result's FLAGS, for gates (R160). -/
  outcome : Nat
  resultFlags : Nat
deriving DecidableEq, Repr

/-- A raised condition waiting for the arbiter (R131, R136). -/
structure Raised where
  unit : Nat
  cond : Nat
  addr : Addr
  extra : Word
deriving DecidableEq, Repr

/-- One standing order in its entry (R143, R145). -/
structure Order where
  record : List Byte
  image : Bool
  /-- Per source: occurrences and the start of their window in ms. -/
  counts : Map (Nat × Nat)
deriving DecidableEq, Repr

/-- One private handle entry (R127, R128). The table in memory is written from it. -/
structure HandleSt where
  state : Nat
  readers : Nat
  task : Nat
  gen : Nat
deriving DecidableEq, Repr

/-- One command of the command queue (Table 6.3). -/
structure TaskCmd where
  op : Nat
  task : Nat
deriving DecidableEq, Repr

/-- The Reel dispatcher (05, 06). -/
structure DispSt where
  halted : Bool
  stray : Nat
  cmdQ : List TaskCmd
  tasks : Map TaskEntry
  step : Nat
  /-- The lockstep tasks that the one kept core is kept for: the task, the step in which it entered its list, and
  the core's source identifier (R164). -/
  kept : List (Nat × Nat × Nat)
  /-- Handles whose wait links are to be walked, oldest first. -/
  walks : List Nat
  /-- Propagated cancels to be arbitrated (R169). -/
  cascades : List Nat
  detects : List Raised
  unitConds : List Raised
  handles : Map HandleSt
  orders : Map Order
  /-- Buffer events of lane and ring blocks waiting (R171): handle and final state. -/
  bufferEvents : List (Nat × Nat)
  /-- Handles marked for one pending erase, with the marking lane (R293). -/
  eraseMarks : List (Nat × Nat)
deriving DecidableEq, Repr

/-- What a finished engine job answers (Tables 3.15, 4.11). -/
structure JobResult where
  final : Nat
  result : List Byte
  /-- An INVALID job: the address of its first offending field, and the offset of the job block (R87). -/
  invalid : Option (Nat × Nat) := none
  /-- A mask excursion: stream, band and excess in 0.1 dB (R76). -/
  mask : Option (Nat × Nat × Int) := none
  /-- Outputs that commit COMMITTED whatever `final` says (R122). -/
  keep : List Nat := []
  /-- Code-block headers that the commit rewrites: address and bytes (R111). -/
  headers : List (Nat × List Byte) := []
deriving DecidableEq, Repr

/-- A dispatch unit or other source: its jobs and its holds (R148, R161, R327). -/
structure UnitSt where
  running : Option Nat
  queued : Option Nat
  finished : Option JobResult
  withdrawn : Bool
  held : Bool
  silent : Bool
  isolated : Bool
  /-- Withheld at the start (R38). -/
  withheld : Bool
deriving DecidableEq, Repr

/-- The code metadata of one block (R339): row and column syndromes, and the copies of the
poison flag. -/
structure BlockCode where
  rows : Nat
  cols : Nat
  p0 : Bool
  p1 : Bool
  p2 : Bool
  /-- The block was never written since the start left memory uncoded (R454). -/
  raw : Bool
deriving DecidableEq, Repr

/-- Counts and scrubber of one memory unit (R348 to R354). -/
structure MemUnit where
  corrected : Nat
  poisoned : Nat
  refused : Nat
  lapMs : Nat
  laps : Nat
  level : Nat
  pos : Nat
  lapStart : Nat
  limitSaid : Bool
  /-- Tick before which no visit starts (R348). -/
  nextVisit : Nat
  /-- Multiple of LEAK_MS of the last leak (R351). -/
  leaks : Nat
deriving DecidableEq, Repr

/-- A response (R153, R326). -/
structure Resp where
  status : Nat
  reason : Nat
  data : List Byte
deriving DecidableEq, Repr

/-- Memory (13). -/
structure MemSt where
  cells : List Host.Cell
  code : Map BlockCode
  /-- Every block outside the staging area that is not listed in `code` holds valid check bits (R337);
  false: it holds none (R454). -/
  coded : Bool
  /-- The same of the staging area (R37 steps 4 and 11, R335, R337). -/
  staged : Bool
  units : Map MemUnit
  lastResp : Resp
deriving DecidableEq, Repr

/-- A change of a port's mode waiting at its router (R328). -/
structure PortChange where
  slot : Nat
  /-- 0 NORMAL, 1 FENCED, 2 ISOLATED, 4 release. -/
  mode : Nat
  master : Nat
  /-- Tick at which the router began to drain for it. -/
  since : Nat
  /-- The change failed its drain limit and is tried again at this tick. -/
  retryAt : Option Nat
  /-- A drain of this change has failed: it counts in PENDING until it applies. -/
  failed : Bool
deriving DecidableEq, Repr

/-- An outstanding request of an endpoint (R327). -/
structure Track where
  endpoint : Nat
  tag : Nat
  target : Nat
  unit : Nat
  since : Nat
  timedOut : Bool
deriving DecidableEq, Repr

/-- The arbiter of a router output (R323): flit slots that class 0 has taken in a row while another class
waited, the class whose turn it is, the deficits of classes 1 to 3, and the input served last, 8 before the
first. -/
structure Arbiter where
  run : Nat
  turn : Nat
  deficit : Map Nat
  last : Nat
deriving DecidableEq, Repr

def Arbiter.reset : Arbiter := { run := 0, turn := 1, deficit := [(1, 8)], last := 8 }

/-- The fabric (12). -/
structure FabSt where
  /-- Port modes that differ from their reset mode, by endpoint. -/
  modes : Map Nat
  changes : Map (List PortChange)
  parity : Map Nat
  headDrop : Map Nat
  absorbed : Map Nat
  asleep : Map Nat
  timeouts : Map Nat
  lateResp : Map Nat
  crcFail : Map Nat
  trackers : List Track
  /-- Packets under way, oldest first. -/
  inflight : List Packet
  /-- Responses delivered to endpoints, oldest first. -/
  delivered : List Packet
  /-- Packets a regulator holds back (R324). -/
  waiting : List Packet
  /-- Regulator buckets by 16 x endpoint + class: content in 1/1,000 byte, and the fabric clock of that content. -/
  buckets : Map (Nat × Nat)
  /-- Endpoints whose TARGET_SILENT is raised, by tracker (R327). -/
  silent : List (Nat × Nat)
  /-- The arbiters of the router outputs, by 16 x router + output (R323). -/
  arbiters : Map Arbiter
deriving DecidableEq, Repr

/-- A hunter's candidate (R274): its alignment, its count and the raw SEQ of its last marker. -/
structure Cand where
  align : Nat
  count : Nat
  seq : Nat
deriving DecidableEq, Repr

/-- What a lane delivers to its protocol block, in order (R275, R286). -/
inductive RxItem where
  /-- A unit's words, header first, with the tick time of its frame in 1/256 Tc. -/
  | unit (words : List Nat) (time : Nat)
  /-- A header that cannot be parsed; the rest of its frame is gone (R287). -/
  | breach (kind time : Nat)
  /-- A lost frame, with the SEQ that was expected (R275). -/
  | lostFrame (seq : Nat)
  | streamBreak
deriving DecidableEq, Repr

/-- An open uplink container of a slot (R293). -/
structure OpenCont where
  stream : Nat
  q : Nat
  handle : Nat
  /-- Tick time at the ball of its first unit's frame. -/
  time : Nat
  got : List Nat
  /-- Blocks that arrived with EXP 0 to 7. -/
  good : Nat
  /-- Its handle was not free, or memory refused a write. -/
  discard : Bool
  refused : Bool
deriving DecidableEq, Repr

/-- A downlink container that waits in its transmit lane block (R295). -/
structure DlCont where
  stream : Nat
  slot : Nat
  q : Nat
  handle : Nat
  /-- The next block to send. -/
  pos : Nat
  /-- Everything that is left goes out as ZERO units. -/
  zero : Bool
deriving DecidableEq, Repr

/-- What a lane's receiver adapts (R267): the canceller's dense section and its eight windows of 32 taps, the 24
taps of the feed-forward and the 3 of the decision-feedback equaliser, and the phase of its timing. The spec
gives their numbers no format. -/
structure LaneTaps where
  dense : List Int
  inWindow : List (List Int)
  forward : List Int
  feedback : List Int
  phase : Int
deriving DecidableEq, Repr

/-- One lane's receiver and its training (R257 to R285). -/
structure TetherSt where
  /-- STATE of Table 10.9. -/
  state : Nat
  fast : Bool
  tries : Nat
  /-- The boot link's fixed settings hold (R283). -/
  boot : Bool
  pendQuiet : Bool
  /-- Taps, windows and detector are kept (R282). -/
  kept : Bool
  frozen : Bool
  go : Bool
  /-- The lead has decided on GO in this BOTH phase (R272). -/
  decided : Bool
  /-- Period of the phase in which the last BOTH frame came (R272). -/
  bothAt : Option Nat
  /-- The last BOTH phase ended with GO 0. -/
  noGo : Bool
  /-- LOCK of Table 10.9. -/
  lock : Nat
  main : Option Cand
  shadow : Option Cand
  inverted : Bool
  lastSeq : Nat
  badRun : Nat
  partnerGood : Bool
  partnerLock : Bool
  partnerAsk : Bool
  partnerMargin : Nat
  margin : Nat
  /-- Of the last 1,024 frames: the squares of the ideal levels and of the slicer errors (Table 10.11). -/
  quality : List (Nat × Nat)
  iters : List Nat
  echoRes : Nat
  windows : List Nat
  taps : LaneTaps
  framesLost : Nat
  framesFixed : Nat
  losses : Nat
  takeovers : Nat
  trained : Nat
  violations : Nat
  /-- SEQ of the next frame sent. -/
  txSeq : Nat
  /-- Frames built, and frames built in the phase under way. -/
  frames : Nat
  phaseFrames : Nat
  /-- Tick time at which the phase began, in 1/256 Tc. -/
  phaseAt : Nat
  /-- Frames left of the QUIET countdown. -/
  quietLeft : Option Nat
  /-- Frame counts at which the hunt, and a partner without lock, began (R276). -/
  huntSince : Nat
  askSince : Option Nat
  /-- The last frame sent, its bit i being frame bit i, and its tick time in 1/256 Tc (R279). -/
  txFrame : Nat
  txTime : Nat
  /-- The transmitter is not silent, and the level of the symbol before the last frame, 0 for silence (R259). -/
  sending : Bool
  txBefore : Int
  /-- Tick time at the ball of the first symbol of the last frame received, in 1/256 Tc (R279). -/
  rxTime : Nat
deriving DecidableEq, Repr

/-- A Bridle lane's block (R288 to R300). -/
structure BridleSt where
  /-- Control units queued by BR_CTRL_SEND, as words. -/
  ctrlq : List (List Nat)
  /-- Control units due in the next frame: TDD units. -/
  due : List (List Nat)
  reqId : Nat
  reqDue : Bool
  /-- Frame count and tick time of the frame that carried the last request; none before it is sent. -/
  reqSent : Option (Nat × Nat)
  /-- Tick of the last DELAY_REQ command (R299). -/
  reqTick : Option Nat
  markDue : Bool
  dlq : List DlCont
  opened : Map OpenCont
  /-- Index of the container closed last, by slot. -/
  closed : Map Nat
  erased : Nat
  dropped : Nat
  /-- Board alarms raised and not cleared: SLOT, BOARD bit, code (R296, Table 18.8). -/
  alarms : List (Nat × Nat × Nat)
deriving DecidableEq, Repr

/-- A message sent and not fully acknowledged (R305, R308). -/
structure SentMsg where
  vc : Nat
  lastPsn : Nat
deriving DecidableEq, Repr

/-- A Paretlink link (R302 to R305). -/
structure LinkSt where
  txPsn : Nat
  /-- Copies of unacknowledged units: PSN and words, oldest first. -/
  window : List (Nat × List Nat)
  resend : List (List Nat)
  sent : List SentMsg
  rxPsn : Nat
  /-- A NAK was sent in this frame and the PSN it named has not arrived. -/
  nakAt : Option Nat
  nakDue : Bool
  ackDue : Bool
  /-- Units accepted since the last ACK, and the frame of the first of them. -/
  unacked : Nat
  unackedAt : Nat
  /-- RESET units still to be sent, and the frame of the last one sent. -/
  resetLeft : Nat
  resetAt : Option Nat
  advanced : Nat
  replays : Nat
  naks : Nat
deriving DecidableEq, Repr

/-- One lane (10, 11). -/
structure LaneSt where
  teth : TetherSt
  rx : List RxItem
  protoViol : Nat
  bridle : BridleSt
  link : LinkSt
deriving DecidableEq, Repr

/-- An incoming message that is open (R307). -/
structure OpenRx where
  bytes : Nat
  handle : Nat
  words : Nat
  erased : Bool
  refused : Bool
  discard : Bool
  time : Nat
  /-- The bytes so far of a message on VC 0. -/
  body : List Byte
deriving DecidableEq, Repr

/-- An outgoing message that is open (R308). -/
structure OpenTx where
  bytes : Nat
  handle : Option Nat
  words : Nat
  /-- The bytes of a message on VC 0. -/
  body : List Byte
deriving DecidableEq, Repr

/-- A virtual channel (R306 to R308). -/
structure VcSt where
  rxConsumed : Nat
  rxProduced : Nat
  discarded : Nat
  txPosted : Nat
  txDone : Nat
  txStarted : Nat
  /-- Credit TOTAL granted by the partner. -/
  total : Nat
  /-- TOTAL advertised last, and in which frame. -/
  advert : Option (Nat × Nat)
  rxStarted : Nat
  rx : Option OpenRx
  tx : Option OpenTx
deriving DecidableEq, Repr

/-- An entry of the refusal log (Table 16.9). -/
structure RefusalEntry where
  source : Nat
  reason : Nat
  mode : Nat
  tick : Nat
deriving DecidableEq, Repr

/-- The power controller (16). -/
structure PowerSt where
  current : Nat
  target : Nat
  pend : Option Nat
  /-- A change or a roll-back runs. -/
  busy : Bool
  rollback : Bool
  /-- Switchings still to be made: domain, and true for on. -/
  todo : List (Nat × Bool)
  /-- Domains this change has stopped, last one first (R404). -/
  stopped : List Nat
  /-- The domain withdrawn at this tick and not yet idle (R402). -/
  leaving : Option (Nat × Nat)
  /-- The leaving domain's fences are ordered (R402 step 3). -/
  fencing : Bool
  /-- The domain that refused and whose fences are being released, before the roll-back goes on (R404). -/
  releasing : Option Nat
  /-- The domain being powered up, and the tick at which it was switched on (R405). -/
  rising : Option (Nat × Nat)
  /-- Its power-good signal has come, and the tick at which the next distribution word reaches its copy of
  tick time (R357). -/
  good : Option Nat
  /-- Its copy is valid: its fences are being released. -/
  copied : Bool
  brown : Bool
  avsFault : Bool
  /-- AVSBus transactions in a row without acknowledgement (R411). -/
  noAck : Nat
  avsTarget : Nat
  vout : Nat
  /-- RAIL of the last AVSBus transactions, and the tick of the last target (R411). -/
  avsRail : Nat
  avsAt : Nat
  refusals : Map Nat
  log : Map RefusalEntry
  logNext : Nat
  /-- Domains powered (DOMAIN_ON). -/
  on : Map Bool
  /-- The mode that was current before NAP (R408). -/
  beforeNap : Nat
deriving DecidableEq, Repr

/-- A key slot (R386): ORIGIN 0 empty, 1 image, 2 host, 3 image key. -/
structure KeySlot where
  key : Nat
  use : Nat
  origin : Nat
  gen : Nat
deriving DecidableEq, Repr

/-- A slot as a running message copied it before the slot was written (R389, R390): the message, by
its task and attempt, or a direct job's by none. -/
structure KeyCopy where
  task : Option (Nat × Nat)
  slot : Nat
  old : KeySlot
deriving DecidableEq, Repr

/-- A suspension context (R384): the message by its task and attempt, its job block as the engine holds it, the
GENERATION copied at its start and whether the slot was written since, and its progress: the next counter
block, GHASH's state, and the bytes of AAD and of text processed. The context holds no key. -/
structure Suspended where
  task : Nat × Nat
  blk : List Byte
  gen : Nat
  superseded : Bool
  counter : Nat
  hash : Nat
  aad : Nat
  bytes : Nat
deriving DecidableEq, Repr

/-- A cipher engine's lock and direct service (R382 to R385). -/
structure CipherSt where
  owner : Nat
  pending : Bool
  urgent : Bool
  susp : Option Suspended
  /-- A message that was suspended and goes on from its context (R391). -/
  resumed : Option Suspended
  /-- A direct job: its job block's address and bytes. -/
  direct : Option (Nat × List Byte)
  status : Nat
  copies : List KeyCopy
deriving DecidableEq, Repr

/-- The SPI pins since the flash command under way began: the device's, JTAG's all the time, or JTAG's for part of it
(R452; log 78). -/
inductive SpiPath where
  | clear | lost | cut
deriving DecidableEq, Repr

/-- JTAG (R452, R453). -/
structure TapSt where
  ir : Nat
  boundary : Nat
  /-- What the next Capture-DR of REGACC shows (Table 18.14). -/
  regacc : Nat
  /-- An access runs still, and what its end will show. -/
  running : Option Nat
  /-- Whether the flash command under way has had the SPI pins (R452; the model's own). -/
  spi : SpiPath
deriving DecidableEq, Repr

/-- A management answer or report message for the host (R309, R310, R313). -/
structure MgmtAnswer where
  op : Nat
  tag : Half
  code : Nat
  body : List Byte
deriving DecidableEq, Repr

/-- Everything that is not loaded configuration. -/
structure Dyn where
  dst : DeviceSt
  fuse : FuseSt
  flash : FlashSt
  time : TimeSt
  gpio : Map PinSt
  rep : ReportSt
  perf : PerfSt
  cores : Map CoreSt
  tiles : Map TileSt
  disp : DispSt
  units : Map UnitSt
  /-- Streams blanked by an order (R77) and MASK_STATE (R76). -/
  blanked : List Nat
  mask : Map Nat
  mem : MemSt
  fab : FabSt
  lanes : Map LaneSt
  vcs : Map VcSt
  power : PowerSt
  keys : Map KeySlot
  cipher : Map CipherSt
  tap : TapSt
  /-- Answers and report messages not yet acknowledged by the host, oldest first (R305, R310). -/
  answers : List MgmtAnswer
  /-- Complete messages received on VC 0. -/
  inbox : List (List Byte)
  /-- Management commands taken (R306). -/
  taken : Nat
  /-- The model's own counter of free values (log 2). -/
  free : Nat
deriving DecidableEq, Repr

/-- The state of the block. -/
structure State where
  /-- Commands waiting, first in first out. -/
  pending : List Instr
  /-- The loaded configuration. -/
  img : Img
  /-- Everything else. -/
  dyn : Dyn
deriving DecidableEq, Repr

/-! ### Reset -/

def Img.reset : Img :=
  { sections := [], regs := [], loaded := 0, copyAt := (0, 0), buildLo := 0, buildHi := 0, avail := [] }

def DeviceSt.reset : DeviceSt :=
  { state := .boot, phase := 1, loadA := 0, loadB := 0, bootsel := false, startReady := false,
    mainEn := false, aonUp := false, vioUp := false, resetCause := 0, dramUp := false, slotUp := false,
    waking := false }

def FuseSt.reset : FuseSt := { pkHash := 0, sigRequired := false, minSecver := 0, imageKey := 0 }

def FlashSt.reset : FlashSt :=
  { cells := [], density := 0x4000000, responds := true, sfdp := true, quad := true, job := none,
    restart := none }

def TimeSt.reset : TimeSt :=
  { t := 0, rate := 0, servo := .freerun, port := 0, steps := 0, synceLock := false,
    theta := 0, valid := 0, within := 0, beyond := 0, stepUsed := false, sticky := false,
    lockedRates := [], rateSince := 0, masters := [], delayReqs := [], reqStamp := [], arpReplies := [],
    cellActive := [], run := 0, pulses := [], ppsIn := 0, ppsInHi := 0, ppsOut := false,
    rateHi := 0, rtts := [], ppsAt := 0, ppsSince := 0, boundary := none }

def ReportSt.reset : ReportSt :=
  { ifq := [], lost := [], dropped := 0, logWr := 0, log := [], alertCfg := 7, alertPending := false,
    alertCount := 0, streamOn := false, streamMin := 0, streamNext := 0, streamLost := 0 }

def PerfSt.reset : PerfSt :=
  { banks := [], perfCfg := 0, epoch := 0, stepped := false, dumpRd := 0, dumpWr := 0, skipped := 0,
    shadow := none, waitRun := [], waitMax := [], busyRun := [], coreBusy := [], epochMarks := [] }

def DispSt.reset : DispSt :=
  { halted := false, stray := 0, cmdQ := [], tasks := [], step := 0, kept := [], walks := [], cascades := [],
    detects := [], unitConds := [], handles := [], orders := [], bufferEvents := [], eraseMarks := [] }

def MemSt.reset : MemSt :=
  { cells := [], code := [], coded := false, staged := false, units := [],
    lastResp := { status := 0, reason := 0, data := [] } }

def FabSt.reset : FabSt :=
  { modes := [], changes := [], parity := [], headDrop := [], absorbed := [], asleep := [],
    timeouts := [], lateResp := [], crcFail := [], trackers := [], inflight := [], delivered := [],
    waiting := [], buckets := [], silent := [], arbiters := [] }

def PowerSt.reset : PowerSt :=
  { current := 0, target := 0, pend := none, busy := false, rollback := false, todo := [],
    stopped := [], leaving := none, fencing := false, releasing := none, rising := none, good := none,
    copied := false, brown := false, avsFault := false, noAck := 0, avsTarget := 0, vout := 0, avsRail := 0,
    avsAt := 0, refusals := [], log := [], logNext := 0, on := [], beforeNap := 0 }

def TapSt.reset : TapSt := { ir := 2, boundary := 0, regacc := 0, running := none, spi := .clear }

def Dyn.reset : Dyn :=
  { dst := DeviceSt.reset, fuse := FuseSt.reset, flash := FlashSt.reset, time := TimeSt.reset,
    gpio := [], rep := ReportSt.reset, perf := PerfSt.reset, cores := [], tiles := [],
    disp := DispSt.reset, units := [], blanked := [], mask := [], mem := MemSt.reset,
    fab := FabSt.reset, lanes := [], vcs := [], power := PowerSt.reset, keys := [],
    cipher := [], tap := TapSt.reset, answers := [], inbox := [], taken := 0,
    free := 0 }

/-- The block right after reset (R10, R37): BOOT, phase 0x01, nothing loaded, no command waiting. -/
def State.reset : State := { pending := [], img := Img.reset, dyn := Dyn.reset }

end Sys2Proof.Machine
end

