-- ==== Sys2Proof/Machine/Ops.lean ====
section
/-! DEFINITION. The operations that every family of commands uses: lifting a meaning to the state,
the fields of the image, sources and endpoints, free values, reports, counters and conditions. -/

namespace Sys2Proof

/-- The source identifier a master's accesses carry (R13, R319; log 17 for management). -/
def Master.source : Master → Nat
  | .core n _ => 0x0100 + n.val
  | .supervisor => 0x0C00
  | .management => 0x0C00
  | .loader => 0x0C00
  | .unit s => s.toNat

/-- PRIV of a head flit: the level of a core, 0 otherwise (R319). -/
def Master.privBits : Master → Nat
  | .core _ .exec => 0
  | .core _ .task => 1
  | .core _ .plugin => 2
  | _ => 0

/-- A core at EXEC, the supervisor or a management command. -/
def Master.isExecOrHost : Master → Bool
  | .core _ .exec => true
  | .supervisor => true
  | .management => true
  | _ => false

/-- A core at EXEC or TASK, the supervisor or a management command. -/
def Master.isTaskOrHost : Master → Bool
  | .core _ .exec => true
  | .core _ .task => true
  | .supervisor => true
  | .management => true
  | _ => false

/-- The supervisor or a management command. -/
def Master.isHost : Master → Bool
  | .supervisor => true
  | .management => true
  | _ => false

end Sys2Proof

namespace Sys2Proof.Machine

/-- The outcome of a step of this machine. -/
abbrev Out := Host.Outcome State Fault Refusal

/-- The main island runs: it is not switched off in DEEPSLEEP (R407), nor held in reset, which lasts through the
VCORE hold until START_SEQUENCE begins phase 0x01 (R439, R441). -/
def islandUp (d : Dyn) : Bool :=
  match d.dst.state with
  | .deepsleep => false
  | .boot => false
  | _ => true

/-- A command to the main island, whose effect leaves the queue and the loaded configuration alone.
While the island does not run there is no unit for it to reach (log 50). -/
def act (f : Img → Dyn → Dyn) (s : State) : Out :=
  .next (if islandUp s.dyn then { s with dyn := f s.img s.dyn } else s)

/-- EXTEST, HIGHZ, CLAMP, EXTEST_PULSE or EXTEST_TRAIN has taken the pins from the device (R452). -/
def pinsTaken (d : Dyn) : Bool := [0x00, 0x03, 0x04, 0x05, 0x06].contains d.tap.ir

/-- A signal on a lane, port or input pin: while JTAG holds the pins it does not reach the device (R452). -/
def actPins (f : Img → Dyn → Dyn) (s : State) : Out :=
  act (fun img d => if pinsTaken d then d else f img d) s

/-- A command that no sender can make unless `ok` holds. -/
def actIf (ok : Bool) (f : Img → Dyn → Dyn) (s : State) : Out :=
  if ok then act f s else .fault .illFormed

/-- A command to the always-on domain: it takes effect whether or not the main island runs. -/
def actAon (f : Img → Dyn → Dyn) (s : State) : Out :=
  .next { s with dyn := f s.img s.dyn }

/-- A command that may also change the loaded configuration: a start, and what ends one. -/
def actImg (f : Img → Dyn → Img × Dyn) (s : State) : Out :=
  .next { s with img := (f s.img s.dyn).1, dyn := (f s.img s.dyn).2 }

/-- `f` where the command's preconditions hold; elsewhere the state stands (log 16). -/
def when_ (c : Bool) (f : Dyn → Dyn) (d : Dyn) : Dyn := if c then f d else d

/-- The next free value of the machine and the state that has used it up (log 2). -/
def freshNat (d : Dyn) : Nat × Dyn := (Config.freeValue d.free, { d with free := d.free + 1 })

/-- Tick time in whole Tc, 64 bits (R12, R356). -/
def Dyn.now (d : Dyn) : Nat := (d.time.t / 2 ^ 48) % 2 ^ 64

/-! ### The image (R27) -/

/-- Section types of Table 2.4. -/
def secCells : Nat := 1
def secAntenna : Nat := 2
def secLanes : Nat := 3
def secRegions : Nat := 4
def secBuffers : Nat := 5
def secContexts : Nat := 6
def secPins : Nat := 7
def secPulses : Nat := 8
def secRegulators : Nat := 9
def secTime : Nat := 0xA
def secOrders : Nat := 0xB
def secPower : Nat := 0xC
def secKeys : Nat := 0xD
def secRegisters : Nat := 0xE
def secProgram : Nat := 0xF

/-- The records of one section of the loaded image. -/
def Img.records (img : Img) (type : Nat) : List (List Byte) := Map.get [] img.sections type

/-- The first record whose field at `off` of `size` bytes holds `v`. -/
def Img.recordBy (img : Img) (type off size v : Nat) : Option (List Byte) :=
  (img.records type).find? (fun r => fld r off size == v)

/-- Reset values of the IMG registers that are not zero, by offset from 0x00F0_0000_0000
(Tables 12.8, 13.6, 13.7, 17.7). -/
def imgReset : Map Word :=
  [(0x06000000, 0x00140010), (0x07000000, 0x003C0050), (0x07000004, 0x103E8040),
   (0x07000008, 0x103E8040), (0x0C000014, 8)]

/-- An IMG register's value (R6). -/
def Img.reg (img : Img) (off : Nat) : Nat :=
  (Map.get (Map.get 0 imgReset off) img.regs off).toNat

/-! ### Sources, endpoints and routers -/

/-- The subsystem and the instance of a source identifier (R13). -/
def srcSub (s : Nat) : Nat := s / 256
def srcInst (s : Nat) : Nat := s % 256

/-- Router of column `x`, row `y` (R316). -/
def routerAt (x y : Nat) : Nat := y * 8 + x

/-- Router of tile index `t` (R317). -/
def tileRouter (t : Nat) : Nat := routerAt (t % 6 + 1) (t / 6)

/-- Endpoint of the unit that a source identifier names (Tables 12.1, 12.2). -/
def endpointOf (s : Nat) : Option Nat :=
  let i := srcInst s
  match srcSub s with
  | 0x01 => if i < 192 then some (4 * tileRouter (i / 4)) else none
  | 0x02 => if i < 48 then some (4 * tileRouter i) else none
  | 0x03 =>
    if i < 32 then some (4 * tileRouter i + 2)
    else if i < 48 then some (4 * tileRouter i + 2)
    else if i < 56 then some (4 * routerAt 0 (i - 48) + 2)
    else if i < 64 then some (4 * routerAt 7 (i - 56) + 2)
    else none
  | 0x04 =>
    if i < 48 then some (4 * tileRouter i + 1)
    else if i < 56 then some (4 * routerAt 0 (i - 48) + 3)
    else if i < 64 then some (4 * routerAt 7 (i - 56) + 3)
    else none
  | 0x05 =>
    if i < 48 then some (4 * routerAt (i / 8 + 1) 0 + 3)
    else if i < 64 then some (4 * routerAt (i / 8 - 5) 7 + 3)
    else if i < 72 then some (4 * routerAt 5 7 + 3)
    else if i < 80 then some (4 * routerAt 6 7 + 3)
    else none
  | 0x07 =>
    if i < 8 then some (4 * routerAt 0 i + 1)
    else if i < 16 then some (4 * routerAt 7 (i - 8) + 1)
    else if i < 32 then some (4 * routerAt 0 ((i - 16) / 2))
    else if i < 48 then some (4 * routerAt 7 ((i - 32) / 2))
    else none
  | 0x08 => some (4 * routerAt 4 4 + 3)
  | 0x09 =>
    match i / 2 with
    | 0 => some (4 * routerAt 3 7 + 3)
    | 1 => some (4 * routerAt 4 7 + 3)
    | 2 => some (4 * routerAt 1 3 + 3)
    | 3 => some (4 * routerAt 6 3 + 3)
    | _ => none
  | 0x0A => some (4 * routerAt 4 3 + 3)
  | 0x0B => some (4 * routerAt 3 3 + 3)
  | 0x0C => some (4 * routerAt 3 4 + 3)
  | _ => none

/-- The clock domain of a source's unit, by one source identifier of the domain (Table 1.5): a tile, a fabric
column, in whose fifth the dispatcher sits (R316, R317), the cipher engines, else the unit itself; the time unit's
is the master's. -/
def clockDomain (s : Nat) : Nat :=
  match srcSub s with
  | 0x01 => 0x0200 + srcInst s / 4
  | 0x06 => 0x0600 + srcInst s % 8
  | 0x08 => 0x0604
  | 0x09 => if srcInst s < 8 then 0x0900 else s
  | _ => s

/-- The recovered receive domain of a lane or a timing port, whose source's own is the transmit domain
(Table 1.5). -/
def receiveDomain (s : Nat) : Nat := 0x10000 + s

/-- How far a domain's copy stands from the master's whole Tc, before it is kept from decreasing: 3 Tc at most,
as 4 Tc are more than 2 ns (R18; log 129). -/
def localSkew (dom t : Nat) : Int := if dom = 0x0A00 then 0 else ((Config.tickSkew dom t % 7 : Nat) : Int) - 3

/-- The copy as the distribution has brought it at the master's `t` or before: none of the copies that `t` has
passed stands higher (R357). -/
def heldTick (dom t : Nat) : Int :=
  (List.range 7).foldl (fun (m : Int) j => max m ((t : Int) - 1 - j + localSkew dom (t - 1 - j))) ((t : Int) - 3)

/-- A domain's local copy of tick time at the master's `t`: it never decreases while `t` does not (R18, R357). -/
def localTick (dom t : Nat) : Nat := (max (t + localSkew dom t) (heldTick dom t)).toNat % 2 ^ 64

/-- Tick time as the unit of a source has it. -/
def Dyn.nowAt (d : Dyn) (s : Nat) : Nat := localTick (clockDomain s) d.now

/-- Tick time with 8 fractional bits. -/
def Dyn.now256 (d : Dyn) : Nat := d.time.t / 2 ^ 40 % 2 ^ 72

/-- The copy with 8 fractional bits of a lane block's or a timing port's domain (R357): its whole Tc is the
domain's copy, and its fraction goes with the master's, but that it stands at the last before the next whole Tc
while an earlier copy holds it. -/
def Dyn.now256At (d : Dyn) (dom : Nat) : Nat :=
  256 * localTick dom d.now + (if heldTick dom d.now < d.now + localSkew dom d.now then d.now256 % 256 else 255)

/-- Tick time as the dispatcher has it. -/
def Dyn.dispNow (d : Dyn) : Nat := d.nowAt 0x0800

/-- Every source identifier of the device (R13; Tables 6.6, 12.1). -/
def allSources : List Nat :=
  (List.range 192).map (0x0100 + ·) ++ (List.range 48).map (0x0200 + ·)
  ++ (List.range 64).map (0x0300 + ·) ++ (List.range 64).map (0x0400 + ·)
  ++ (List.range 80).map (0x0500 + ·) ++ (List.range 64).map (0x0600 + ·)
  ++ (List.range 48).map (0x0700 + ·) ++ [0x0800] ++ (List.range 8).map (0x0900 + ·)
  ++ [0x0A00, 0x0A01, 0x0A02, 0x0B00, 0x0C00]

/-- The class of a dispatch unit. -/
def classOf (s : Nat) : Option Nat :=
  let i := srcInst s
  match srcSub s with
  | 1 => if i < 192 then some 0 else none
  | 3 => if i < 32 then some 1 else if i < 64 then some 2 else none
  | 4 => if i < 48 then some 3 else if i < 56 then some 4 else if i < 64 then some 5 else none
  | 9 => if i < 8 then some 6 else none
  | _ => none

/-- Whether a slot of the mesh holds an endpoint (Tables 12.1, 12.2). -/
def hasEndpoint (e : Nat) : Bool :=
  let r := e / 4
  if 64 ≤ r then false
  else if e % 4 ≠ 3 then true
  else
    let x := r % 8
    if x = 0 ∨ x = 7 then true
    else [1, 2, 3, 4, 5, 6, 57, 58, 61, 62, 59, 60, 25, 30, 36, 35, 28, 27].contains r

/-- The units behind an endpoint (R331). -/
def unitsAt (e : Nat) : List Nat := allSources.filter (fun s => endpointOf s == some e)

/-- Slot memory's bank group and DRAM's channel of an address, as a source identifier (R335). -/
def memUnitOf (a : Nat) : Option Nat :=
  if a < 0x10000000 then
    some (0x0700 + (bits a 11 8 ^^^ bits a 15 12 ^^^ bits a 19 16 ^^^ bits a 23 20 ^^^ bits a 27 24))
  else if 0x100000000 ≤ a ∧ a < 0xD00000000 then
    let o := a - 0x100000000
    some (0x0710 + (bits o 12 8 ^^^ bits o 17 13 ^^^ bits o 22 18))
  else none

/-- The power domain of a unit, none for what cannot be switched (Table 16.1). -/
def domainOf (s : Nat) : Option Nat :=
  let i := srcInst s
  match srcSub s with
  | 0x01 => some (i / 4)
  | 0x02 => some i
  | 0x03 => some (48 + i)
  | 0x04 => if i < 48 then some (112 + i / 3) else if i < 56 then some (128 + (i - 48) / 2)
            else some (132 + (i - 56) / 2)
  | 0x05 => some (137 + i)
  | 0x09 => if i < 8 then some 136 else none
  | _ => none

/-- Reset of a unit's job and hold state. -/
def UnitSt.idle : UnitSt :=
  { running := none, queued := none, finished := none, withdrawn := false, held := false,
    silent := false, isolated := false, withheld := false }

def Dyn.unit (d : Dyn) (s : Nat) : UnitSt := Map.get UnitSt.idle d.units s

def Dyn.setUnit (d : Dyn) (s : Nat) (f : UnitSt → UnitSt) : Dyn :=
  { d with units := Map.upd UnitSt.idle d.units s f }

/-- The unit's power domain is on and the start did not withhold it. -/
def Dyn.powered (d : Dyn) (s : Nat) : Bool :=
  (match domainOf s with
   | some k => Map.get false d.power.on k
   | none => true) && !(d.unit s).withheld

/-! ### Reports (R413 to R417) -/

/-- Twelve detail bytes from a packed list (R414). -/
def detail12 (l : List Byte) : List Byte := (l ++ zeros 12).take 12

/-- The report TASK of a task number (Table 17.1). -/
def taskField : Option Nat → Half
  | some n => BitVec.ofNat 16 n
  | none => 0xFFFF

/-- Issue a record at its source: kept in the interface of four, or dropped and counted (R416). -/
def issue (d : Dyn) (r : Report) : Dyn :=
  let q := Map.get [] d.rep.ifq r.source.toNat
  if q.length < 4 then
    let r' := { r with lost := Map.get false d.rep.lost r.source.toNat }
    { d with rep := { d.rep with
        ifq := Map.set d.rep.ifq r.source.toNat (q ++ [r'])
        lost := Map.set d.rep.lost r.source.toNat false } }
  else
    { d with rep := { d.rep with
        dropped := satAdd 0xFFFF d.rep.dropped 1
        lost := Map.set d.rep.lost r.source.toNat true } }

/-- A record at its source's local tick time (R413). -/
def mkReport (d : Dyn) (src cls kind code : Nat) (task : Option Nat) (action : Nat)
    (detail : List Byte) : Report :=
  { time := BitVec.ofNat 64 (d.nowAt src), source := BitVec.ofNat 16 src, cls, kind, lastUnit := false,
    lost := false, action := BitVec.ofNat 8 action, code := BitVec.ofNat 16 code,
    task := taskField task, detail := detail12 detail }

/-- Issue an event of Table 17.3. -/
def event (d : Dyn) (src cls code : Nat) (detail : List Byte) : Dyn :=
  issue d (mkReport d src cls 2 code none 0 detail)

/-- Issue an event about a task. -/
def eventTask (d : Dyn) (src cls code : Nat) (task : Option Nat) (detail : List Byte) : Dyn :=
  issue d (mkReport d src cls 2 code task 0 detail)

/-- Issue a refusal report (Table 2.8, R44). -/
def refusal (d : Dyn) (src code : Nat) (detail : List Byte) : Dyn :=
  issue d (mkReport d src 4 1 code none 0 detail)

/-- ACCESS_REFUSED (0x0081): the register address, then the writing master (R8, R414). -/
def accessRefused (d : Dyn) (src addr : Nat) (m : Nat) : Dyn :=
  event d src 4 0x0081 (leBytes 6 addr ++ leBytes 2 m)

/-- ACCESS_REFUSED where the rule names no item: its DETAIL is zero (R414; log 56). -/
def writeRefused (d : Dyn) (src : Nat) : Dyn := event d src 4 0x0081 []

/-- ACCESS_REFUSED where the rule names the master (R127, R157, R328). -/
def masterRefused (d : Dyn) (src m : Nat) : Dyn :=
  event d src 4 0x0081 (leBytes 2 m)

/-- DETAIL of a condition's record (R414). -/
def condDetail (addr order extra : Nat) : List Byte :=
  leBytes 6 addr ++ leBytes 2 order ++ leBytes 4 extra

/-! ### Performance counters (R420 to R426) -/

def Ctr.reset : Ctr :=
  { cfg := 0, master := 0, base := 1, limit := 0, value := 0, hiLatch := 0 }

def Bank.reset : Bank :=
  { ctrs := [], ovf := 0, dump := false, samplePc := 0, sampleAddr := 0, sampleSeed := 0xACE1,
    latency := 0, valid := false, overrun := false, tagged := false, exception := false,
    icmiss := false, counter := 0, arms := [], addrSeen := false, lfsr := 0xACE1 }

/-- Counters of a unit's bank: 8 for a core, 4 elsewhere (R420). -/
def bankSize (unit : Nat) : Nat := if srcSub unit = 1 then 8 else 4

/-- What filters see of an event (R422). -/
structure EvInfo where
  priv : Nat
  icls : Option Nat
  master : Option Nat
  addr : Option Nat
deriving DecidableEq, Repr

/-- An event to which no filter applies. -/
def EvInfo.plain : EvInfo := { priv := 0, icls := none, master := none, addr := none }

/-- Which filters an event lists: privilege, instruction class, master, address (Table 17.4). -/
def evFilters (ev : Nat) : Bool × Bool × Bool × Bool :=
  match ev with
  | 0x0100 => (true, false, false, false)
  | 0x0101 => (true, true, false, false)
  | 0x0102 => (true, false, false, false)
  | 0x0104 => (true, false, false, false)
  | 0x0105 => (true, false, false, true)
  | 0x0106 => (true, false, false, true)
  | 0x0107 => (true, false, false, false)
  | 0x0108 => (true, true, false, false)
  | 0x0109 => (true, false, false, false)
  | 0x0600 => (true, false, true, false)
  | 0x0601 => (true, false, true, true)
  | 0x0700 => (true, false, true, true)
  | 0x0701 => (true, false, true, true)
  | 0x0702 => (true, false, true, true)
  | 0x0703 => (false, false, false, true)
  | _ => (false, false, false, false)

/-- An event is counted only when every filter that applies passes (R422). -/
def ctrPasses (c : Ctr) (ev : Nat) (i : EvInfo) : Bool :=
  let (fp, fi, fm, fa) := evFilters ev
  let cfg := c.cfg.toNat
  let base := c.base.toNat
  let limit := c.limit.toNat
  let mask := bits c.master.toNat 31 16
  let mtch := bits c.master.toNat 15 0
  bit cfg 31 && (bits cfg 15 0 == ev)
  && (!fp || bit cfg (26 + i.priv))
  && (!fi || (match i.icls with | some k => bit cfg (16 + k) | none => true))
  && (!fm || (match i.master with
      | some m => decide (Nat.land m mask = Nat.land mtch mask)
      | none => true))
  && (!fa || (match i.addr with
      | some a => decide (limit < base) || (decide (base * 65536 ≤ a) && decide (a < (limit + 1) * 65536))
      | none => true))

/-- Add `n` to counter `k`; on passing 2^48 - 1 it wraps, sets its OVF bit (R420) and arms a sample of a core:
by skid, `skid` being a free value, or as a tag that the LFSR draws, counted from the end of the instruction
under way (R425, R426; log 15). -/
def ctrAdd (b : Bank) (k n : Nat) (core tagging : Bool) (skid : Nat) : Bank :=
  let c := Map.get Ctr.reset b.ctrs k
  let v := c.value + n
  let b1 := { b with ctrs := Map.set b.ctrs k { c with value := v % 2 ^ 48 } }
  if v < 2 ^ 48 then b1
  else
    let b2 := { b1 with ovf := b1.ovf ||| 2 ^ k }
    if core && bit c.cfg.toNat 29 then
      if tagging then
        let l := Config.tagNext b2.lfsr % 65536
        { b2 with arms := b2.arms ++ [{ left := l % 16, ctr := k, tag := true, fresh := true }], lfsr := l }
      else { b2 with arms := b2.arms ++ [{ left := skid % 13, ctr := k, tag := false, fresh := false }] }
    else b2

/-- Events that clocks alone show, or a cache or a pipeline that the state does not follow: squashes of commands
that have not retired among them (R239, Table 17.4; log 28). -/
def clockEvent (ev : Nat) : Bool :=
  [0x0100, 0x0102, 0x0103, 0x0104, 0x010A, 0x0201, 0x0202, 0x0301, 0x0401, 0x0602].contains ev

/-- Some privilege passes the counter's P filter, where its event has one (R422). -/
def privSome (cfg ev : Nat) : Bool := !(evFilters ev).1 || decide (bits cfg 28 26 ≠ 0)

/-- Counter `k` of a unit's bank has counted a free number of clocks, short of its wrap, which is
COUNTER_OVERFLOW's, and none where no privilege passes (R420, R422; log 28). -/
def clockCount (unit : Nat) (d : Dyn) (k : Nat) : Dyn :=
  let b := Map.get Bank.reset d.perf.banks unit
  let c := Map.get Ctr.reset b.ctrs k
  let ev := c.cfg.toNat % 65536
  if bit c.cfg.toNat 31 && clockEvent ev && ev / 256 == srcSub unit && d.powered unit && privSome c.cfg.toNat ev then
    let (n, d1) := freshNat d
    let c' := { c with value := c.value + n % (2 ^ 48 - c.value) }
    { d1 with perf := { d1.perf with
        banks := Map.set d1.perf.banks unit { b with ctrs := Map.set b.ctrs k c' } } }
  else d

/-- The clocks that a unit's counters have counted are in their values. -/
def countClocks (d : Dyn) (unit : Nat) : Dyn := (List.range (bankSize unit)).foldl (clockCount unit) d

/-- Count `n` of event `ev` in `unit`'s bank (R420). A unit that is off or withheld counts nothing. -/
def countEv (d : Dyn) (unit ev n : Nat) (i : EvInfo) : Dyn :=
  if (Map.get Bank.reset d.perf.banks unit).ctrs.isEmpty || !d.powered unit || n = 0 then d
  else
    let (fv, d1) := freshNat d
    let b := (List.range (bankSize unit)).foldl
      (fun b k => if ctrPasses (Map.get Ctr.reset b.ctrs k) ev i
        then ctrAdd b k n (srcSub unit == 1) (decide (d.dst.state ≠ .service)) fv else b)
      (Map.get Bank.reset d1.perf.banks unit)
    { d1 with perf := { d1.perf with banks := Map.set d1.perf.banks unit b } }

/-- Mark a once-per-epoch report of a source; false when it was already issued (R350, R423). -/
def epochFirst (d : Dyn) (kind src : Nat) : Bool := !d.perf.epochMarks.contains (kind, src)

def epochMark (d : Dyn) (kind src : Nat) : Dyn :=
  { d with perf := { d.perf with epochMarks := (kind, src) :: d.perf.epochMarks } }

/-! ### Conditions (R131, R136) -/

/-- A condition raised against the task on `unit`, or a unit condition of a task detector's unit. -/
def raiseTask (d : Dyn) (unit cond addr extra : Nat) : Dyn :=
  { d with disp := { d.disp with detects := d.disp.detects ++
      [{ unit, cond, addr := BitVec.ofNat 48 addr, extra := BitVec.ofNat 32 extra }] } }

/-- A unit condition. -/
def raiseUnit (d : Dyn) (unit cond addr extra : Nat) : Dyn :=
  { d with disp := { d.disp with unitConds := d.disp.unitConds ++
      [{ unit, cond, addr := BitVec.ofNat 48 addr, extra := BitVec.ofNat 32 extra }] } }

end Sys2Proof.Machine
end

