-- ==== Sys2Proof/Machine/Memory.lean ====
section
/-! DEFINITION. Memory (13): bytes, blocks and their check bits, and an access where a memory unit performs
it. -/

namespace Sys2Proof.Machine

/-! ### Bytes in canonical form -/

/-- A byte; an address that is not listed reads as zero (R337; log 9). -/
def Memory.read : List Host.Cell → Nat → Byte
  | [], _ => 0
  | (a', b) :: rest, a => if a' = a then b else Memory.read rest a

/-- Put a non-zero byte in its place. -/
def Memory.insert : List Host.Cell → Nat → Byte → List Host.Cell
  | [], a, b => [(a, b)]
  | (a', b') :: rest, a, b =>
    if a' = a then (a, b) :: rest
    else if a < a' then (a, b) :: (a', b') :: rest
    else (a', b') :: Memory.insert rest a b

/-- Take an address out of the list. -/
def Memory.erase : List Host.Cell → Nat → List Host.Cell
  | [], _ => []
  | (a', b') :: rest, a => if a' = a then Memory.erase rest a else (a', b') :: Memory.erase rest a

/-- Write a byte; a zero leaves no entry. -/
def Memory.write (m : List Host.Cell) (a : Nat) (b : Byte) : List Host.Cell :=
  if b = 0 then Memory.erase m a else Memory.insert m a b

/-- `n` bytes from `a` up. -/
def Memory.readN (m : List Host.Cell) (a : Nat) : Nat → List Byte
  | 0 => []
  | n + 1 => Memory.read m a :: Memory.readN m (a + 1) n

/-- Write bytes from `a` up. -/
def Memory.writeN (m : List Host.Cell) (a : Nat) : List Byte → List Host.Cell
  | [] => m
  | b :: rest => Memory.writeN (Memory.write m a b) (a + 1) rest

/-- The cells of a run of bytes from `a` up. -/
def Memory.runCells (a : Nat) : List Byte → List Host.Cell
  | [] => []
  | b :: rest => if b = 0 then Memory.runCells (a + 1) rest else (a, b) :: Memory.runCells (a + 1) rest

/-- Write a long run of bytes from `a` up at once. -/
def Memory.putRun (m : List Host.Cell) (a : Nat) (l : List Byte) : List Host.Cell :=
  m.filter (fun e => decide (e.1 < a)) ++ (Memory.runCells a l
    ++ m.filter (fun e => decide (a + l.length ≤ e.1)))

/-- The canonical form: addresses strictly rising and no zero listed. -/
def Memory.wf : List Host.Cell → Bool
  | [] => true
  | [(_, b)] => decide (b ≠ 0)
  | (a, b) :: (a', b') :: rest =>
    decide (b ≠ 0) && decide (a < a') && Memory.wf ((a', b') :: rest)

/-! ### Regions and blocks -/

/-- A region as an access sees it (R336, R454). -/
structure RegionInfo where
  num : Nat
  geom : Nat
  exec : Bool
  base : Nat
  len : Nat
deriving DecidableEq, Repr

/-- One REGIONS record (Table 13.1). -/
def regionOfRecord (r : List Byte) : RegionInfo :=
  { num := fld r 0 1, exec := bit (fld r 1 1) 0, geom := fld r 2 1, base := fld r 8 6,
    len := fld r 0x10 8 }

/-- The region of an address: the records in SERVICE, the default map elsewhere (R337, R454). -/
def regionAt (img : Img) (d : Dyn) (a : Nat) : Option RegionInfo :=
  if d.dst.state = .service then
    ((img.records secRegions).map regionOfRecord).find?
      (fun r => decide (r.base ≤ a) && decide (a < r.base + r.len))
  else if a < 0x10000000 then
    if d.dst.slotUp then some { num := 0xFF, geom := 1, exec := false, base := 0, len := 0x10000000 }
    else none
  else if 0x100000000 ≤ a ∧ a < 0xD00000000 then
    if d.dst.dramUp then
      some { num := 0xFF, geom := 2, exec := false, base := 0x100000000, len := 0xC00000000 }
    else none
  else none

/-- Bytes of a block (Table 13.2). -/
def blockSize (geom : Nat) : Nat := if geom = 0 then 32 else if geom = 1 then 64 else 128

/-- Bits of a row (Table 13.2). -/
def rowWidth (geom : Nat) : Nat := if geom = 0 then 32 else 64

/-- The first address of the block that holds `a`. -/
def blockBase (geom a : Nat) : Nat := a - a % blockSize geom

def BlockCode.clean : BlockCode :=
  { rows := 0, cols := 0, p0 := false, p1 := false, p2 := false, raw := false }

/-- The staging area of the start sequence, the top 64 MiB of DRAM (R335). -/
def stagingBase : Nat := 0xCFC000000

/-- A block that `code` does not list holds valid check bits (R37, R337, R454). -/
def Dyn.blockCoded (d : Dyn) (base : Nat) : Bool := if base < stagingBase then d.mem.coded else d.mem.staged

def Dyn.code (d : Dyn) (base : Nat) : BlockCode :=
  Map.get (if d.blockCoded base then BlockCode.clean else { BlockCode.clean with raw := true }) d.mem.code base

def Dyn.setCode (d : Dyn) (base : Nat) (c : BlockCode) : Dyn :=
  { d with mem := { d.mem with code := Map.set d.mem.code base c } }

/-- The set bits of a mask below `n`, rising. -/
def maskBits (n x : Nat) : List Nat := (List.range n).filter (fun i => x.testBit i)

/-- The poison flag, read by majority of its three copies (R339). -/
def BlockCode.poisoned (c : BlockCode) : Bool :=
  (c.p0 && c.p1) || (c.p0 && c.p2) || (c.p1 && c.p2)

/-- A copy of the flag disagrees with the others (R339). -/
def BlockCode.flagSplit (c : BlockCode) : Bool := !(c.p0 == c.p1 && c.p1 == c.p2)

/-- What decoding a block finds (Table 13.3). -/
inductive Decoded where
  | clean
  | fixBit (i : Nat)
  | fixCheck
  | bad
deriving DecidableEq, Repr

def decodeBlock (geom : Nat) (c : BlockCode) : Decoded :=
  let rows := maskBits 16 c.rows
  let cols := maskBits 64 c.cols
  match rows, cols with
  | [], [] => .clean
  | [r], [k] => .fixBit (r * rowWidth geom + k)
  | [_], [] => .fixCheck
  | [], [_] => .fixCheck
  | _, _ => .bad

def MemUnit.reset : MemUnit :=
  { corrected := 0, poisoned := 0, refused := 0, lapMs := 0, laps := 0, level := 0, pos := 0,
    lapStart := 0, limitSaid := false, nextVisit := 0, leaks := 0 }

def Dyn.memUnit (d : Dyn) (unit : Nat) : MemUnit := Map.get MemUnit.reset d.mem.units (srcInst unit)

def Dyn.setMemUnit (d : Dyn) (unit : Nat) (f : MemUnit → MemUnit) : Dyn :=
  { d with mem := { d.mem with units := Map.upd MemUnit.reset d.mem.units (srcInst unit) f } }

/-- The bucket register of a unit (Table 13.7). -/
def bucketReg (img : Img) (unit : Nat) : Nat :=
  if srcInst unit < 16 then img.reg 0x07000004 else img.reg 0x07000008

/-- The bucket at a tick: one less for every multiple of LEAK_MS since its last leak (R351). -/
def MemUnit.leak (ms now : Nat) (u : MemUnit) : MemUnit :=
  if ms = 0 then u
  else { u with level := u.level - (now / (ms * 1966080) - u.leaks), leaks := now / (ms * 1966080) }

/-- The unit's bucket leaks what is due at its tick time (R351). -/
def bucketLeak (img : Img) (d : Dyn) (unit : Nat) : Dyn :=
  d.setMemUnit unit (MemUnit.leak (bits (bucketReg img unit) 23 12) (d.nowAt unit))

/-- Add to a unit's leaky bucket, the leak that is due first; at LIMIT it raises ERROR_RATE and empties
(R351). -/
def bucketAdd (img : Img) (d0 : Dyn) (unit n : Nat) : Dyn :=
  let d := bucketLeak img d0 unit
  let lvl := (d.memUnit unit).level + n
  if bits (bucketReg img unit) 11 0 ≤ lvl then
    raiseUnit (d.setMemUnit unit (fun u => { u with level := 0 })) unit 0x0712 0 0
  else d.setMemUnit unit (fun u => { u with level := lvl })

/-- One corrected error of a unit (R343, R350, R351). -/
def noteCorrected (img : Img) (d : Dyn) (unit base region : Nat) : Dyn :=
  let d1 := d.setMemUnit unit (fun u => { u with corrected := satAdd 0xFFFFFFFF u.corrected 1 })
  let d2 := if epochFirst d1 0x0782 unit
    then event (epochMark d1 0x0782 unit) unit 1 0x0782 (leBytes 6 base ++ leBytes 1 region)
    else d1
  bucketAdd img d2 unit 1

/-- A block becomes poisoned (R347): finder 0 a read, 1 a merge, 2 the scrubber. -/
def poisonBlock (img : Img) (d : Dyn) (unit base region finder : Nat) : Dyn :=
  let c := d.code base
  let d1 := d.setCode base { c with p0 := true, p1 := true, p2 := true, raw := false }
  let d2 := d1.setMemUnit unit (fun u => { u with poisoned := satAdd 0xFFFF u.poisoned 1 })
  let d3 := if finder = 2 then raiseUnit d2 unit 0x0711 base (region + 256 * finder)
    else event d2 unit 6 0x0781 (leBytes 6 base ++ leBytes 2 0xFFFF ++ leBytes 1 region ++ leBytes 1 finder)
  bucketAdd img d3 unit (bits (bucketReg img unit) 31 24)

/-- Decode a block where it stands, correct or poison it, and say its status: 0, 1 or 4 (R343). -/
def settleBlock (img : Img) (d : Dyn) (unit base finder : Nat) (r : RegionInfo) : Dyn × Nat :=
  let c := d.code base
  if c.raw then
    let (fv, d1) := freshNat d
    if fv % 2 = 0 then (d1.setCode base BlockCode.clean, 0) else (poisonBlock img d1 unit base r.num finder, 4)
  else
    let (d0, c0, split) :=
      if c.flagSplit then
        let p := c.poisoned
        let c' := { c with p0 := p, p1 := p, p2 := p }
        (noteCorrected img (d.setCode base c') unit base r.num, c', true)
      else (d, c, false)
    if c0.poisoned then (d0, 4)
    else match decodeBlock r.geom c0 with
      | .clean => (d0, if split then 1 else 0)
      | .fixBit i =>
        let a := base + i / 8
        let old := Memory.read d0.mem.cells a
        let d1 := { d0 with mem := { d0.mem with
          cells := Memory.write d0.mem.cells a (old ^^^ BitVec.ofNat 8 (2 ^ (i % 8))) } }
        (noteCorrected img (d1.setCode base { c0 with rows := 0, cols := 0 }) unit base r.num, 1)
      | .fixCheck =>
        (noteCorrected img (d0.setCode base { c0 with rows := 0, cols := 0 }) unit base r.num, 1)
      | .bad => (poisonBlock img d0 unit base r.num finder, 4)

/-- The blocks that `n` bytes from `a` cover. -/
def blocksOf (geom a n : Nat) : List Nat :=
  let b := blockSize geom
  (List.range ((a % b + n + b - 1) / b)).map (fun i => blockBase geom a + i * b)

/-- Read `n` bytes at `a`, which lie in one unit (R343). -/
def unitRead (img : Img) (d : Dyn) (unit a n : Nat) (i : EvInfo) : Dyn × Resp :=
  match regionAt img d a with
  | none => (d, { status := 5, reason := 3, data := [] })
  | some r =>
    let (d1, st) := (blocksOf r.geom a n).foldl
      (fun (acc : Dyn × Nat) base =>
        let (d', s) := settleBlock img (countEv acc.1 unit 0x0700 1 i) unit base 0 r
        (d', max acc.2 s)) (d, 0)
    (d1, { status := st, reason := 0, data := if st ≤ 1 then Memory.readN d1.mem.cells a n else [] })

/-- Write the part of `bytes`, which starts at `a`, that falls in the block at `base` (R344). -/
def blockWrite (img : Img) (d : Dyn) (unit base a : Nat) (bytes : List Byte) (r : RegionInfo)
    (i : EvInfo) : Dyn × Nat × Nat :=
  let size := blockSize r.geom
  let lo := max a base
  let hi := min (a + bytes.length) (base + size)
  let part := (bytes.drop (lo - a)).take (hi - lo)
  let put (d : Dyn) : Dyn := { d with mem := { d.mem with cells := Memory.writeN d.mem.cells lo part } }
  if lo = base ∧ hi = base + size then
    (put ((countEv d unit 0x0701 1 i).setCode base BlockCode.clean), 0, 0)
  else if r.geom = 2 then
    (d.setMemUnit unit (fun u => { u with refused := satAdd 0xFFFF u.refused 1 }), 5, 3)
  else
    let (d1, st) := settleBlock img d unit base 1 r
    if st = 4 then
      (d1.setMemUnit unit (fun u => { u with refused := satAdd 0xFFFF u.refused 1 }), 4, 0)
    else (put ((countEv d1 unit 0x0702 1 i).setCode base BlockCode.clean), st, 0)

/-- Write bytes at `a`, which lie in one unit (R344). -/
def unitWrite (img : Img) (d : Dyn) (unit a : Nat) (bytes : List Byte) (i : EvInfo) : Dyn × Resp :=
  match regionAt img d a with
  | none => (d, { status := 5, reason := 3, data := [] })
  | some r =>
    let (d1, st, rs) := (blocksOf r.geom a bytes.length).foldl
      (fun (acc : Dyn × Nat × Nat) base =>
        let (d', s, q) := blockWrite img acc.1 unit base a bytes r i
        (d', max acc.2.1 s, if acc.2.1 < s then q else acc.2.2)) (d, 0, 0)
    (d1, { status := st, reason := rs, data := [] })

/-- The new word of an atomic, none where it writes nothing (R208). -/
def atomicNew (func old operand compare : Nat) : Option Nat :=
  match func with
  | 0 => some operand
  | 1 => some ((old + operand) % 2 ^ 32)
  | 2 => if old = compare then some operand else none
  | 3 => some (Nat.land old operand)
  | 4 => some (Nat.lor old operand)
  | _ => none

/-- An atomic on the word at `a` (R345): a merge of one word, whatever it writes. -/
def unitAtomic (img : Img) (d : Dyn) (unit a func operand compare : Nat) (i : EvInfo) : Dyn × Resp :=
  match regionAt img d a with
  | none => (d, { status := 5, reason := 3, data := [] })
  | some r =>
    let old := Memory.readN d.mem.cells a 4
    let base := blockBase r.geom a
    if r.geom = 2 then
      (d.setMemUnit unit (fun u => { u with refused := satAdd 0xFFFF u.refused 1 }),
        { status := 5, reason := 3, data := [] })
    else
      let (d1, st) := settleBlock img d unit base 1 r
      let old' := if st = 1 then Memory.readN d1.mem.cells a 4 else old
      if st = 4 then
        (d1.setMemUnit unit (fun u => { u with refused := satAdd 0xFFFF u.refused 1 }),
          { status := 4, reason := 0, data := [] })
      else
        let d2 := (countEv d1 unit 0x0702 1 i).setCode base BlockCode.clean
        match atomicNew func (leNat old') operand compare with
        | some w => ({ d2 with mem := { d2.mem with cells := Memory.writeN d2.mem.cells a (leBytes 4 w) } },
            { status := st, reason := 0, data := old' })
        | none => (d2, { status := st, reason := 0, data := old' })

/-! ### Ports and packets (12) -/

/-- Mode of an endpoint's port: 0 NORMAL, 1 FENCED, 2 ISOLATED, 3 EMPTY (R332). -/
def Dyn.portMode (d : Dyn) (e : Nat) : Nat := if hasEndpoint e then Map.get 0 d.fab.modes e else 3

/-- Count an answer of the router for an isolated or fenced port (R329, R330). -/
def countAbsorbed (d : Dyn) (e : Nat) : Dyn :=
  { d with fab := { d.fab with absorbed := Map.upd 0 d.fab.absorbed e (satAdd 0xFFFF · 1) } }

def countAsleep (d : Dyn) (e : Nat) : Dyn :=
  { d with fab := { d.fab with asleep := Map.upd 0 d.fab.asleep e (satAdd 0xFFFF · 1) } }

/-- A request of `src`'s tracker times out against `unit` behind endpoint `e` (R327, R331). -/
def noteTimeout (d : Dyn) (srcEp e unit : Nat) : Dyn :=
  let d1 := { d with fab := { d.fab with timeouts := Map.upd 0 d.fab.timeouts srcEp (satAdd 0xFFF · 1) } }
  if d1.fab.silent.contains (srcEp, e) then d1
  else raiseUnit { d1 with fab := { d1.fab with silent := (srcEp, e) :: d1.fab.silent } } unit 0x0611 0 0

/-- The target answered: TARGET_SILENT may be raised again (R327). -/
def noteAnswered (d : Dyn) (srcEp e : Nat) : Dyn :=
  { d with fab := { d.fab with silent := d.fab.silent.filter (fun x => x != (srcEp, e)) } }

/-- What a memory packet asks for. -/
inductive MemOp where
  | read (n : Nat)
  | write (bytes : List Byte)
  | atomic (func operand compare : Nat)
deriving DecidableEq, Repr

/-- Who sends a packet: source identifier and privilege. -/
structure Sender where
  source : Nat
  priv : Nat
deriving DecidableEq, Repr

def senderOf (m : Master) : Sender := { source := m.source, priv := m.privBits }

/-- The router of a source's endpoint, as a source identifier. -/
def routerSource (e : Nat) : Nat := 0x0600 + e / 4

/-- The handle table's range (Table 5.2), none while it is not in use. -/
def handleTable (img : Img) : Option Nat :=
  let r := img.reg 0x08080000
  if bit r 0 then some (bits r 27 20 * 0x100000) else none

/-- A write that another master than the dispatcher makes into the handle table (R127). -/
def hitsHandleTable (img : Img) (a n : Nat) : Bool :=
  match handleTable img with
  | some base => decide (a < base + 0x100000) && decide (base < a + n)
  | none => false

/-- The class of a memory access by its sender (Table 12.4). -/
def Sender.cls (w : Sender) : Nat := if w.source = 0x0800 then 0 else if w.source = 0x0C00 then 2 else 1

/-- Perform a packet at its memory unit. -/
def perform (img : Img) (d : Dyn) (w : Sender) (unit a : Nat) (op : MemOp) : Dyn × Resp :=
  let i : EvInfo := { priv := w.priv, icls := none, master := some w.source, addr := some a }
  match op with
  | .read n => unitRead img d unit a n i
  | .write b =>
    if w.source ≠ 0x0800 && hitsHandleTable img a b.length then
      (masterRefused d 0x0800 w.source, { status := 5, reason := 3, data := [] })
    else unitWrite img d unit a b i
  | .atomic f o c =>
    if w.source ≠ 0x0800 && hitsHandleTable img a 4 then
      (masterRefused d 0x0800 w.source, { status := 5, reason := 3, data := [] })
    else unitAtomic img d unit a f o c i

/-- The dispatcher as a sender. -/
def dispSender : Sender := { source := 0x0800, priv := 0 }

end Sys2Proof.Machine
end

