-- ==== Sys2Proof/Machine/Fabric.lean ====
section
/-! DEFINITION. Port modes and their changes (R328 to R333), regulators (R324), and the packet as
bytes (R319, R325). -/

namespace Sys2Proof.Machine

/-- Source identifier of router `r` (R316). -/
def routerSrc (r : Nat) : Nat := 0x0600 + r

/-- A number of microseconds is at most the ticks from `since` to `now` (R12). -/
def usPassed (now since us : Nat) : Bool := decide (us * 196608 ≤ (now - since) * 100)

/-- A number of milliseconds is at most the ticks from `since` to `now` (R12). -/
def msPassed (now since ms : Nat) : Bool := decide (ms * 1966080 ≤ now - since)

/-- The changes of a router: the first that is not waiting to be retried runs, the rest wait (R328). -/
def Dyn.changes (d : Dyn) (r : Nat) : List PortChange := Map.get [] d.fab.changes r

def Dyn.setChanges (d : Dyn) (r : Nat) (l : List PortChange) : Dyn :=
  { d with fab := { d.fab with changes := Map.set d.fab.changes r l } }

/-- The change that a router runs (R328). -/
def Dyn.runningChange (d : Dyn) (r : Nat) : Option PortChange :=
  (d.changes r).find? (fun c => c.retryAt.isNone)

/-- Order a change of a port's mode; a ninth waiting one is refused (R328). -/
def requestChange (d : Dyn) (e mode m : Nat) : Dyn :=
  let r := e / 4
  let l := d.changes r
  if 9 ≤ l.length then masterRefused d (routerSrc r) m
  else d.setChanges r (l ++ [{ slot := e % 4, mode, master := m, since := d.now, retryAt := none, failed := false }])

def domainOn (d : Dyn) (k : Nat) : Bool := Map.get false d.power.on k

/-- Every unit behind an endpoint is switchable and off (R329, R331; log 31). -/
def endpointOff (d : Dyn) (e : Nat) : Bool :=
  (unitsAt e).all (fun s => match domainOf s with
    | some k => !domainOn d k
    | none => false)

/-- TARGET_SILENT may be raised again for an endpoint (R330, R331). -/
def rearm (d : Dyn) (e : Nat) : Dyn :=
  { d with fab := { d.fab with silent := d.fab.silent.filter (fun x => x.2 != e) } }

/-- A port takes a mode at the change point: 0 NORMAL, 1 FENCED, 2 ISOLATED, 4 release (R329, R330,
R332). ISOLATED stands against FENCED and NORMAL. -/
def applyMode (d : Dyn) (e mode : Nat) : Dyn :=
  let old := d.portMode e
  let put (d : Dyn) (m : Nat) : Dyn := { d with fab := { d.fab with modes := Map.set d.fab.modes e m } }
  if old = 3 then d
  else if mode = 2 then
    (unitsAt e).foldl (fun d u => d.setUnit u (fun x => { x with isolated := true })) (put d 2)
  else if mode = 4 then
    let d1 := if old = 2 then put d (if endpointOff d e then 1 else 0) else d
    rearm ((unitsAt e).foldl (fun d u => d.setUnit u (fun x => { x with isolated := false })) d1) e
  else if old = 2 then d
  else put d mode

/-- PORT_CTRL (R333, Table 12.10). -/
def portCtrl (d : Dyn) (m : Master) (r slot op : Nat) : Dyn :=
  let e := 4 * r + slot
  let fixed := [endpointOf 0x0C00, endpointOf 0x0A00, endpointOf 0x0B00].contains (some e)
  if !m.isHost then writeRefused d (routerSrc r)
  else if !hasEndpoint e || fixed || decide (op = 3) then writeRefused d (routerSrc r)
  else if op = 0 then d
  else requestChange d e (if op = 1 then 2 else 4) m.source

def execPortIsolate (m : Master) (r : BitVec 6) (slot : BitVec 2) (s : State) : Out :=
  act (fun _ d => portCtrl d m r.toNat slot.toNat 1) s
def execPortRelease (m : Master) (r : BitVec 6) (slot : BitVec 2) (s : State) : Out :=
  act (fun _ d => portCtrl d m r.toNat slot.toNat 2) s

/-- Drop the first change that satisfies `p`. -/
def dropFirst {α : Type} (p : α → Bool) : List α → List α
  | [] => []
  | x :: xs => if p x then xs else x :: dropFirst p xs

/-- Step 3 of Table 12.7: the running change applies, and the next one begins to drain. -/
def quiesce (d : Dyn) (r : Nat) : Dyn :=
  match d.runningChange r with
  | none => d
  | some c =>
    let d1 := applyMode d (4 * r + c.slot) c.mode
    let rest := dropFirst (fun x : PortChange => x.retryAt.isNone) (d1.changes r)
    d1.setChanges r (rest.map (fun x => if x.retryAt.isNone then { x with since := d.now } else x))

/-- QLIMIT of FAB_CONFIG in microseconds (Table 12.8). -/
def qLimit (img : Img) : Nat := bits (img.reg 0x06000000) 23 16

/-- RESP_TIMEOUT of FAB_CONFIG in microseconds (Table 12.8). -/
def respTimeout (img : Img) : Nat := bits (img.reg 0x06000000) 9 0

/-- A drain past QLIMIT: the change goes back to wait 1 ms, with a class 6 report (R328). -/
def quiesceLimit (img : Img) (d : Dyn) (r : Nat) : Dyn :=
  match d.runningChange r with
  | none => d
  | some c =>
    if usPassed d.now c.since (qLimit img) then
      let rest := dropFirst (fun x : PortChange => x.retryAt.isNone) (d.changes r)
      let rest' := rest.map (fun x => if x.retryAt.isNone then { x with since := d.now } else x)
      event (d.setChanges r (rest' ++ [{ c with retryAt := some (d.now + 1966080), failed := true }])) (routerSrc r) 6 0x0682 []
    else d

def execQuiesceLimit (r : BitVec 6) (s : State) : Out := act (fun img d => quiesceLimit img d r.toNat) s

/-- Router `r` accepts a head flit again: the change that it runs has applied, or its drain passed QLIMIT
(step 4 of Table 12.7; log 146). -/
def acceptAgain (img : Img) (d : Dyn) (r : Nat) : Dyn :=
  match d.runningChange r with
  | none => d
  | some c => if usPassed d.now c.since (qLimit img) then quiesceLimit img d r else quiesce d r

/-- The routers of a packet's way accept its head flit: none of them drains for a change (R328). -/
def routeOpen (d : Dyn) (route : List Nat) : Bool := route.all (fun r => (d.runningChange r).isNone)

/-- The change is tried again (R328). -/
def execQuiesceRetry (r : BitVec 6) (s : State) : Out :=
  act (fun _ d =>
    let due (c : PortChange) : Bool := match c.retryAt with
      | some t => decide (t ≤ d.now)
      | none => false
    match (d.changes r.toNat).find? due with
    | none => d
    | some c => d.setChanges r.toNat
        (dropFirst due (d.changes r.toNat) ++ [{ c with retryAt := none, since := d.now }])) s

/-! ### Regulators (R324) -/

/-- The REGULATORS record of an endpoint and class. -/
def regulatorOf (img : Img) (e cls : Nat) : Option (List Byte) :=
  (img.records secRegulators).find? (fun r => fld r 0 1 * 4 + fld r 1 1 == e && fld r 2 1 == cls)

/-- Clocks of 1.5625 GHz that the fabric has counted at a tick. -/
def fabClock (now : Nat) : Nat := now * 156250 / 196608

/-- The bucket of a REGULATORS record: its content in 1/1,000 byte and the fabric clock of that content; it starts
full (R324). -/
def bucketOf (d : Dyn) (e cls : Nat) (r : List Byte) : Nat × Nat :=
  Map.get (fld r 8 4 * 1000, fabClock d.now) d.fab.buckets (16 * e + cls)

/-- A bucket's content at a clock that is not before its own: each fabric clock adds RATE x 8, up to BURST x 1,000
(R324). -/
def bucketAt (r : List Byte) (b : Nat × Nat) (clock : Nat) : Nat :=
  min (fld r 8 4 * 1000) (b.1 + (clock - b.2) * (fld r 4 4 * 8))

/-- The bucket of an endpoint and class holds `flits` flits now (R324), and no access before has yet to wait for it
(log 131). -/
def bucketHas (img : Img) (d : Dyn) (e cls flits : Nat) : Bool :=
  match regulatorOf img e cls with
  | none => true
  | some r =>
    let b := bucketOf d e cls r
    decide (b.2 ≤ fabClock d.now) && decide (flits * 64000 ≤ bucketAt r b (fabClock d.now))

/-- A packet of `flits` flits passes its endpoint's regulator, which deducts them at the first clock at which the
bucket holds them, now or later (R324). An access as a whole is one step, so that its wait for the bucket shows in
the bucket's clock alone (log 131). -/
def spend (img : Img) (d : Dyn) (e cls flits : Nat) : Dyn :=
  match regulatorOf img e cls with
  | none => d
  | some r =>
    let b := bucketOf d e cls r
    let t := max b.2 (fabClock d.now)
    let at_ := t + divUp (flits * 64000 - bucketAt r b t) (fld r 4 4 * 8)
    { d with fab := { d.fab with
      buckets := Map.set d.fab.buckets (16 * e + cls) (bucketAt r b at_ - flits * 64000, at_) } }

/-! ### Packets as bytes (R319, R325) -/

/-- Data flits of a packet (Table 12.3). -/
def packetFlits (p : Packet) : Nat := divUp p.data.length 64

/-- Flits of a packet, its head included. -/
def packetLen (p : Packet) : Nat := 1 + packetFlits p

/-- A response that the target's router gives for it (R329, R330, R332). -/
def fromRouter (p : Packet) : Bool :=
  let st := p.status.toNat
  p.resp && (st == 2 || st == 3 || (st == 5 && (p.reason.toNat == 2 || p.reason.toNat == 4)))

/-- CTRL (Table 12.3). -/
def packetCtrl (p : Packet) : Nat :=
  p.cls.toNat + 4 * b2n p.resp + 8 * p.kind.toNat + 64 * (packetFlits p % 4)

/-- Head flit bytes 0x00 to 0x3B (Table 12.3). -/
def headBytes (p : Packet) : List Byte :=
  let c := packetCtrl p
  [p.dest, p.src] ++ leBytes 1 c
  ++ leBytes 1 (b2n (xorAll (natBits 8 p.dest.toNat ++ natBits 8 c)))
  ++ leBytes 2 p.tag.toNat ++ leBytes 1 (p.status.toNat + 8 * p.reason.toNat) ++ leBytes 1 p.func.toNat
  ++ leBytes 8 p.address.toNat ++ leBytes 2 p.length.toNat ++ zeros 2 ++ leBytes 2 p.master.toNat
  ++ leBytes 1 p.priv.toNat ++ zeros 1 ++ leBytes 8 p.operand.toNat ++ zeros 28

/-- The end-to-end CRC of a packet (R325). -/
def packetCrc (p : Packet) : Word := BitVec.ofNat 32 (crc32 (headBytes p ++ p.data))

/-- The packet passes its end-to-end checks (R325). -/
def packetGood (p : Packet) : Bool := !p.bad && p.crc == packetCrc p

/-- A packet with its CRC as the sending interface computes it (R325). -/
def sealPacket (p : Packet) : Packet := { p with crc := packetCrc p }

/-- The routers a packet passes: along its row, then along its column (R321). -/
def routeOf (a b : Nat) : List Nat :=
  let ra := a / 4
  let rb := b / 4
  let xs := if ra % 8 ≤ rb % 8 then (List.range (rb % 8 - ra % 8 + 1)).map (ra % 8 + ·)
    else (List.range (ra % 8 - rb % 8 + 1)).map (ra % 8 - ·)
  let ys := if ra / 8 ≤ rb / 8 then (List.range (rb / 8 - ra / 8 + 1)).map (ra / 8 + ·)
    else (List.range (ra / 8 - rb / 8 + 1)).map (ra / 8 - ·)
  xs.map (fun x => routerAt x (ra / 8)) ++ (ys.drop 1).map (fun y => routerAt (rb % 8) y)

end Sys2Proof.Machine
end

