-- ==== Sys2Proof/Machine/Arbiter.lean ====
section
/-! DEFINITION. What a router output sends next (R323), and the outputs that a packet passes (R316, R321). -/

namespace Sys2Proof.Machine

/-! ### Outputs on a packet's route -/

/-- The outputs of a router, and its inputs: 0 to 3 its endpoints, 4 to 7 the links to its neighbours at lower
and higher x and at lower and higher y; output 8 is the injection port that its endpoints share. -/
def outputTo (a b : Nat) : Nat :=
  if b + 1 = a then 4 else if b = a + 1 then 5 else if b < a then 6 else 7

/-- The input at which a link's output ends. -/
def inputOf (out : Nat) : Nat := if out = 8 then 8 else if out % 2 = 0 then out + 1 else out - 1

/-- The outputs after the injection port, each as 16 x router + output, with the packet's input there. -/
def linkOutputs (dest : Nat) : List Nat → Nat → List (Nat × Nat)
  | [], _ => []
  | [r], inp => [(16 * r + dest % 4, inp)]
  | r :: r' :: rest, inp => (16 * r + outputTo r r', inp) :: linkOutputs dest (r' :: rest) (inputOf (outputTo r r'))

/-- Every output that a packet passes: the injection port, the links of its route, the ejection port. An answer
of a router was not injected. -/
def outputsOf (p : Packet) : List (Nat × Nat) :=
  let a := p.src.toNat
  (if fromRouter p then [] else [(16 * (a / 4) + 8, a % 4)])
  ++ linkOutputs p.dest.toNat (routeOf a p.dest.toNat) 8

/-- The input at which a packet waits for an output, if it passes that output. -/
def inputAt (out : Nat) (p : Packet) : Option Nat := ((outputsOf p).find? (fun x => x.1 == out)).map (·.2)

/-! ### One output's choice (R323) -/

/-- Packets that wait at an output, each with its input, oldest first. -/
abbrev Waiting := List (Nat × Packet)

/-- The inputs in the order of service, from the one after the input served last. -/
def fromInput (last : Nat) : List Nat := (List.range 9).map (fun i => (last + 1 + i) % 9)

/-- Steps 3 and 4: within a class a response goes before a request, and among equals the inputs take turns. -/
def headOf (a : Arbiter) (l : Waiting) (c : Nat) : Option (Nat × Packet) :=
  let mine := l.filter (fun x => x.2.cls.toNat == c)
  let rs := mine.filter (fun x => x.2.resp)
  let among := if rs.isEmpty then mine else rs
  (fromInput a.last).findSome? (fun i => among.find? (fun x => x.1 == i))

/-- Flits per round of classes 1 to 3 (step 2). -/
def quantum (c : Nat) : Nat := if c = 1 then 8 else if c = 2 then 2 else 1

def nextClass (c : Nat) : Nat := if c = 3 then 1 else c + 1

/-- Step 2, deficit round robin: a class goes on while its deficit holds its next packet, a class without a
packet loses its deficit, and each turn adds the class's flits. -/
def deficitRound (a : Arbiter) (l : Waiting) : Nat → Nat → Map Nat → Option ((Nat × Packet) × Arbiter)
  | 0, _, _ => none
  | n + 1, c, def_ =>
    let go (m : Map Nat) := deficitRound a l n (nextClass c)
      (Map.upd 0 m (nextClass c) (· + quantum (nextClass c)))
    match headOf a l c with
    | none => go (Map.set def_ c 0)
    | some x =>
      let have_ := Map.get 0 def_ c
      if 1 + packetFlits x.2 ≤ have_ then
        some (x, { a with run := 0, turn := c, deficit := Map.set def_ c (have_ - (1 + packetFlits x.2)) })
      else go def_

/-- The packet that goes next, and the arbiter after it. Step 1: class 0 goes first, in at most 3 of 4 flit
slots while another class waits. -/
def outputPick (a : Arbiter) (l : Waiting) : Option ((Nat × Packet) × Arbiter) :=
  let others := l.any (fun x => x.2.cls.toNat != 0)
  let served (r : (Nat × Packet) × Arbiter) : (Nat × Packet) × Arbiter :=
    (r.1, { r.2 with last := r.1.1 })
  let rest := (deficitRound a l (9 * 128) a.turn a.deficit).map served
  match headOf a l 0 with
  | none => rest
  | some x =>
    let n := 1 + packetFlits x.2
    if !others then some (served (x, { a with run := 0 }))
    else if a.run + n ≤ 3 then some (served (x, { a with run := a.run + n }))
    else rest

/-! ### A packet's way through the fabric -/

/-- The packets among `l` that wait at output `out` with `p`. -/
def waitingAt (out : Nat) (l : List Packet) : Waiting :=
  l.filterMap (fun q => (inputAt out q).map (fun i => (i, q)))

/-- `p` goes through every output of its route before the other packets of `l` that wait there, or it waits
at one of them. -/
def passOutputs (p : Packet) (l : List Packet) : List Nat → Map Arbiter → Option (Map Arbiter)
  | [], m => some m
  | out :: rest, m =>
    match outputPick (Map.get Arbiter.reset m out) (waitingAt out l) with
    | some (x, a) => if x.2 = p then passOutputs p l rest (Map.set m out a) else none
    | none => none

/-- A packet with which none waits goes through every output of its route. -/
def passAlone (p : Packet) (f : FabSt) : FabSt :=
  match passOutputs p [p] ((outputsOf p).map (·.1)) f.arbiters with
  | some m => { f with arbiters := m }
  | none => f

/-- The two packets pass a common output. -/
def shareOutput (p q : Packet) : Bool := (outputsOf q).any (fun x => (outputsOf p).any (fun y => x.1 == y.1))

/-- Places in the fabric of the packets that share an output with packet `k`. -/
def rivalsOf (l : List Packet) (k : Nat) (p : Packet) : List Nat :=
  (List.range l.length).filter (fun i => i != k && (l[i]?).any (shareOutput p))

/-- Packet `k` goes through its outputs before those of the others that wait with it, or it waits (R323). -/
def passesWith (fab : FabSt) (k : Nat) (p : Packet) (waits : Nat → Bool) : Option (Map Arbiter) :=
  passOutputs p (((List.range fab.inflight.length).filter (fun i => i == k || waits i)).filterMap
    (fun i => fab.inflight[i]?)) ((outputsOf p).map (·.1)) fab.arbiters

/-- The arbitration for packet `k`: which of its rivals wait where it waits is a free choice (log 130). -/
def arbitrateFor (d : Dyn) (k : Nat) (p : Packet) : Option (Map Arbiter) × Dyn :=
  match rivalsOf d.fab.inflight k p with
  | [] => (passesWith d.fab k p (fun _ => false), d)
  | l =>
    let (fv, d1) := freshNat d
    (passesWith d.fab k p (fun i => l.contains i && bit fv i), d1)

end Sys2Proof.Machine
end

