-- ==== Sys2Proof/Machine/Operands.lean ====
section
/-! DEFINITION. A Bronze core's register files and operand forms (07): reads and writes of every
register file, the post-modify of a pointer, and the addressing modes. -/

namespace Sys2Proof.Machine

def StatusReg.reset : StatusReg :=
  { pinrep := false, inrep := false, shadow := false, task := false, dsat := false, asat := false,
    ie := false, hact := false, ppl := .exec, pl := .exec }

def CoreRegs.reset : CoreRegs := { d := [], p := [], b := [], l := [], m := [], acc := [], pc := 0 }

def CoreCtl.reset : CoreCtl :=
  { status := StatusReg.reset, cause := 0, epc := 0, eaddr := 0, vbase := 0, exmask := 0, imask := 0,
    dbell := 0, escr := [], pbind0 := 0, pbind1 := 0, rc := 0, repDone := 0, repSaved := 0, cycleHi := 0, tickHi := 0,
    pwinBase := [], pwinLimit := [] }

def CoreVec.reset : CoreVec := { enable := 0, vl := 0, vstart := 0, q := [], v := [] }

def CorePort.reset : CorePort :=
  { enable := 0, queue := [], results := [], busy := [], w := [] }

def CoreTask.reset : CoreTask :=
  { run := .stopped, waiting := false, commit := none, task := none, since := 0, busy := false,
    sig := 0xFFFFFFFFFFFFFFFF, storeErrs := [], abort := none }

/-- A core before its start: STOPPED, every register zero (R31; PC: log 7). -/
def CoreSt.reset : CoreSt :=
  { regs := CoreRegs.reset, ctl := CoreCtl.reset, vec := CoreVec.reset, port := CorePort.reset,
    tsk := CoreTask.reset, local_ := [], parity := [], lines := [], clock := 0 }

/-- Core `c`. -/
def Dyn.core (d : Dyn) (c : Nat) : CoreSt := Map.get CoreSt.reset d.cores c

def Dyn.setCore (d : Dyn) (c : Nat) (x : CoreSt) : Dyn := { d with cores := Map.set d.cores c x }

def Dyn.onCore (d : Dyn) (c : Nat) (f : CoreSt → CoreSt) : Dyn := d.setCore c (f (d.core c))

def Dyn.onRegs (d : Dyn) (c : Nat) (f : CoreRegs → CoreRegs) : Dyn :=
  d.onCore c (fun x => { x with regs := f x.regs })

def Dyn.onCtl (d : Dyn) (c : Nat) (f : CoreCtl → CoreCtl) : Dyn :=
  d.onCore c (fun x => { x with ctl := f x.ctl })

def Dyn.onTsk (d : Dyn) (c : Nat) (f : CoreTask → CoreTask) : Dyn :=
  d.onCore c (fun x => { x with tsk := f x.tsk })

def Dyn.onVec (d : Dyn) (c : Nat) (f : CoreVec → CoreVec) : Dyn :=
  d.onCore c (fun x => { x with vec := f x.vec })

def Dyn.onPort (d : Dyn) (c : Nat) (f : CorePort → CorePort) : Dyn :=
  d.onCore c (fun x => { x with port := f x.port })

def Dyn.onStatus (d : Dyn) (c : Nat) (f : StatusReg → StatusReg) : Dyn :=
  d.onCtl c (fun x => { x with status := f x.status })

/-! ### Register files -/

def Dyn.rd (d : Dyn) (c : Nat) (r : Reg5) : Word := Map.get 0 (d.core c).regs.d r.toNat
def Dyn.rp (d : Dyn) (c k : Nat) : Addr := Map.get 0 (d.core c).regs.p k
def Dyn.rb (d : Dyn) (c k : Nat) : Addr := Map.get 0 (d.core c).regs.b k
def Dyn.rl (d : Dyn) (c k : Nat) : Word := Map.get 0 (d.core c).regs.l k
def Dyn.rm (d : Dyn) (c k : Nat) : Word := Map.get 0 (d.core c).regs.m k
def Dyn.racc (d : Dyn) (c k : Nat) : BitVec 72 := Map.get 0 (d.core c).regs.acc k
def Dyn.pc (d : Dyn) (c : Nat) : Addr := (d.core c).regs.pc

def Dyn.wd (d : Dyn) (c : Nat) (r : Reg5) (v : Word) : Dyn :=
  d.onRegs c (fun x => { x with d := Map.set x.d r.toNat v })
def Dyn.wp (d : Dyn) (c k : Nat) (v : Addr) : Dyn :=
  d.onRegs c (fun x => { x with p := Map.set x.p k v })
def Dyn.wb (d : Dyn) (c k : Nat) (v : Addr) : Dyn :=
  d.onRegs c (fun x => { x with b := Map.set x.b k v })
def Dyn.wl (d : Dyn) (c k : Nat) (v : Word) : Dyn :=
  d.onRegs c (fun x => { x with l := Map.set x.l k v })
def Dyn.wm (d : Dyn) (c k : Nat) (v : Word) : Dyn :=
  d.onRegs c (fun x => { x with m := Map.set x.m k v })
def Dyn.wacc (d : Dyn) (c k : Nat) (v : BitVec 72) : Dyn :=
  d.onRegs c (fun x => { x with acc := Map.set x.acc k v })
def Dyn.wpc (d : Dyn) (c : Nat) (v : Addr) : Dyn := d.onRegs c (fun x => { x with pc := v })

def Dyn.status (d : Dyn) (c : Nat) : StatusReg := (d.core c).ctl.status

/-- A field that names a P, B, L or M register: its bit 4 must be zero (R173, R181). -/
def isFile16 (r : Reg5) : Bool := decide (r.toNat < 16)

/-! ### Circular buffers (R185 to R187) -/

/-- The buffer that pointer `n` is bound to (R185). -/
def Dyn.bufOf (d : Dyn) (c n : Nat) : Nat :=
  let reg := if n < 8 then (d.core c).ctl.pbind0 else (d.core c).ctl.pbind1
  (n + bits reg.toNat (4 * (n % 8) + 3) (4 * (n % 8))) % 16

/-- A pointer's difference from a base as a 49-bit signed value: both lie below 2^48, so it is
their difference (R186). -/
def ptrDiff (p b : Addr) : Int := (p.toNat : Int) - (b.toNat : Int)

/-- The value of a pointer after a post-modify by `step` (R186). -/
def postModify (p b : Addr) (len : Nat) (step : Int) : Addr :=
  if len = 0 then p + BitVec.ofInt 48 step
  else b + BitVec.ofInt 48 ((ptrDiff p b + step) % (len : Int))

/-- Post-modify of pointer `n` of core `c` (R186). -/
def Dyn.postMod (d : Dyn) (c n : Nat) (step : Int) : Dyn :=
  let k := d.bufOf c n
  d.wp c n (postModify (d.rp c n) (d.rb c k) (d.rl c k).toNat step)

/-- An AM 1 or AM 2 access outside its buffer (R187). -/
def Dyn.circOutside (d : Dyn) (c n a size : Nat) : Bool :=
  let k := d.bufOf c n
  let len := (d.rl c k).toNat
  let b := (d.rb c k).toNat
  decide (len ≠ 0) && !(decide (b ≤ a) && decide (a + size ≤ b + len))

/-! ### Addressing modes (R183, Table 7.11) -/

/-- Where a load or store goes, how its pointer moves, and whether its reserved bits are zero. -/
structure AddrForm where
  legal : Bool
  addr : Addr
  step : Option Int
deriving DecidableEq, Repr

/-- The address form of an M-format instruction. -/
def Dyn.addrForm (d : Dyn) (c : Nat) (pn : BitVec 4) (am : BitVec 3) (sz : BitVec 2)
    (off : BitVec 12) : AddrForm :=
  let size : Nat := 2 ^ sz.toNat
  let p := d.rp c pn.toNat
  let o := sx 12 off.toNat
  match am.toNat with
  | 0 => { legal := decide (sz.toNat ≠ 3), addr := p + BitVec.ofInt 48 (o * size), step := none }
  | 1 => { legal := decide (sz.toNat ≠ 3), addr := p, step := some (o * size) }
  | 2 => { legal := decide (sz.toNat ≠ 3) && decide (bits off.toNat 11 4 = 0), addr := p,
           step := some (d.rm c (bits off.toNat 3 0)).toInt }
  | 3 => { legal := decide (sz.toNat ≠ 3) && decide (bits off.toNat 11 5 = 0),
           addr := p + BitVec.ofInt 48 (d.rd c (BitVec.ofNat 5 off.toNat)).toInt, step := none }
  | _ => { legal := false, addr := p, step := none }

end Sys2Proof.Machine
end

