-- ==== Sys2Proof/Machine/Flags.lean ====
section
/-! DEFINITION. STATUS as a word (Table 7.6), and the sticky saturation flags. -/

namespace Sys2Proof.Machine

def Priv.num : Priv → Nat
  | .exec => 0
  | .task => 1
  | .plugin => 2

/-- The level of a two-bit field, none for 3. -/
def privOf : Nat → Option Priv
  | 0 => some .exec
  | 1 => some .task
  | 2 => some .plugin
  | _ => none

/-- STATUS as CSRR reads it (Table 7.6). -/
def StatusReg.word (s : StatusReg) : Word :=
  BitVec.ofNat 32 (b2n s.pinrep * 2048 + b2n s.inrep * 1024 + b2n s.shadow * 512 + b2n s.task * 256
    + b2n s.dsat * 128 + b2n s.asat * 64 + b2n s.ie * 32 + b2n s.hact * 16
    + Priv.num s.ppl * 4 + Priv.num s.pl)

/-- A write of STATUS (R179, Table 7.6): DSAT and ASAT are W1C at every level; the RW fields take
the value at EXEC only, and a PPL of 3 leaves PPL. -/
def StatusReg.write (s : StatusReg) (w : Word) : StatusReg :=
  let x := w.toNat
  let s1 := { s with dsat := s.dsat && !bit x 7, asat := s.asat && !bit x 6 }
  if s.pl = .exec then
    { s1 with pinrep := bit x 11, ie := bit x 5, hact := bit x 4,
              ppl := (privOf (bits x 3 2)).getD s.ppl }
  else s1

/-- Set DSAT when `b` (R209, R191). -/
def Dyn.dsat (d : Dyn) (c : Nat) (b : Bool) : Dyn :=
  if b then d.onStatus c (fun s => { s with dsat := true }) else d

/-- Set ASAT when `b` (R190). -/
def Dyn.asat (d : Dyn) (c : Nat) (b : Bool) : Dyn :=
  if b then d.onStatus c (fun s => { s with asat := true }) else d

end Sys2Proof.Machine
end

