-- ==== Sys2Proof/Machine/Access.lean ====
section
/-! DEFINITION. Packets between their endpoints (R318 to R330): a packet goes through its regulator into the
fabric and arrives, and a master's access is a request and its response that cross the fabric in one step. -/

namespace Sys2Proof.Machine

/-! ### Packets that enter -/

/-- The unit that a timed-out request names: for memory its unit, for an EVENT the one that its word names,
else the lowest of the endpoint (R331). No chapter gives the word's layout: its low half is read as a source
identifier (PRESUMED, log 58). -/
def packetUnit (p : Packet) : Nat :=
  let units := unitsAt p.dest.toNat
  if p.kind = 3 then
    (if units.contains (p.operand.toNat % 65536) then p.operand.toNat % 65536 else units.headD 0)
  else (memUnitOf p.address.toNat).getD (units.headD 0)

/-- What the filters of a counter see of a packet (R422). -/
def packetInfo (p : Packet) : EvInfo :=
  { priv := p.priv.toNat, icls := none, master := some p.master.toNat, addr := some p.address.toNat }

def Dyn.onFab (d : Dyn) (f : FabSt → FabSt) : Dyn := { d with fab := f d.fab }

/-- The packet leaves its endpoint: the interface seals it and the router takes it, or discards it at an
isolated port (R325, R330). -/
def launch (p : Packet) (d : Dyn) : Dyn :=
  let e := p.src.toNat
  if d.portMode e = 2 then countAbsorbed d e
  else
    (countEv d (routerSource e) 0x0600 (packetLen p) (packetInfo p)).onFab
      (fun f => { f with inflight := f.inflight ++ [sealPacket { p with bad := false }] })

/-- An endpoint's local tick time (R18, R327). -/
def endpointNow (d : Dyn) (e : Nat) : Nat := d.nowAt ((unitsAt e).headD 0)

/-- A request that enters the fabric is tracked by its tag (R327). -/
def track (p : Packet) (d : Dyn) : Dyn :=
  if p.resp then d
  else d.onFab (fun f => { f with trackers := f.trackers ++
    [{ endpoint := p.src.toNat, tag := p.tag.toNat, target := p.dest.toNat, unit := packetUnit p,
       since := endpointNow d p.src.toNat, timedOut := false }] })

/-- Two packets of one endpoint's regulator. -/
def samePort (p q : Packet) : Bool := p.src == q.src && p.cls == q.cls

/-- The bucket of a packet's regulator holds its flits (R324). -/
def bucketHolds (img : Img) (d : Dyn) (p : Packet) : Bool :=
  bucketHas img d p.src.toNat p.cls.toNat (packetLen p)

/-- A packet waits behind `q`, which waits before it: the two are of one flow's RESP, or `q` waits for their
bucket (R324). A request never holds a response up otherwise (R321). -/
def waitsBehind (img : Img) (d : Dyn) (p q : Packet) : Bool :=
  samePort p q && (p.resp == q.resp || !bucketHolds img d q)

/-- The endpoint holds fewer than 1,024 requests (R327). -/
def trackerRoom (d : Dyn) (p : Packet) : Bool :=
  p.resp || decide ((d.fab.trackers.filter (fun t => t.endpoint == p.src.toNat && !t.timedOut)).length < 1024)

/-- The tag is free at its endpoint: no request that waits there, and none that is out, has it; the tag of a
timed-out request is free again when its late response has come (R327; log 128). -/
def tagFree (d : Dyn) (p : Packet) : Bool :=
  d.fab.trackers.all (fun t => t.endpoint != p.src.toNat || t.tag != p.tag.toNat)
  && d.fab.waiting.all (fun q => q.resp || q.src != p.src || q.tag != p.tag)

/-- The dispatcher's queue for the events of a master, and its room: 64 for each resource class, 256 for the
lane blocks and for the ring blocks. Table 6.9 names no other (R171, R322; log 147). -/
def eventQueue (m : Nat) : Option (Nat × Nat) :=
  if srcSub m = 5 then some (if srcInst m < 64 then (8, 256) else (9, 256))
  else (classOf m).map (fun c => (c, 64))

/-- A request EVENT to the dispatcher. -/
def dispEvent (p : Packet) : Bool := !p.resp && p.kind == 3 && some p.dest.toNat == endpointOf 0x0800

/-- The dispatcher has a credit for the event: the events under way to its queue leave room (R322). -/
def eventRoom (d : Dyn) (p : Packet) : Bool :=
  match eventQueue p.master.toNat with
  | some (k, n) => !dispEvent p || decide ((d.fab.inflight.filter (fun q => dispEvent q
      && (eventQueue q.master.toNat).map (·.1) == some k)).length < n)
  | none => true

/-- A packet at its regulator: it goes when it waits behind no other, the bucket holds its flits, its request can be
tracked, the dispatcher has a credit for its event, and no router of its way drains; until then it waits (R322, R324,
R327, R328). -/
def regulate (img : Img) (d : Dyn) (p : Packet) : Dyn :=
  let e := p.src.toNat
  let c := p.cls.toNat
  let first := (d.fab.waiting.takeWhile (· != p)).all (fun q => !waitsBehind img d p q)
  if first && bucketHolds img d p && trackerRoom d p && eventRoom d p && routeOpen d (routeOf e p.dest.toNat) then
    launch p (track p ((spend img d e c (packetLen p)).onFab (fun f => { f with waiting := f.waiting.erase p })))
  else if d.fab.waiting.contains p then d
  else d.onFab (fun f => { f with waiting := f.waiting ++ [p] })

/-- A response packet to a request (R319, R320). -/
def replyTo (p : Packet) (r : Resp) : Packet :=
  { p with
    dest := p.src, src := p.dest, resp := true, status := BitVec.ofNat 3 r.status
    reason := BitVec.ofNat 5 r.reason, data := if p.kind = 1 ∨ p.kind = 3 then [] else r.data
    bad := false, crc := 0 }

/-- A response reaches its endpoint's interface (R327). -/
def deliver (p : Packet) (d : Dyn) : Dyn :=
  d.onFab (fun f => { f with delivered := f.delivered ++ [p] })

/-! ### Packets that arrive -/

/-- What a target does with a good request. -/
abbrev Target := Img → Dyn → Packet → Dyn × Resp

/-- One packet with a failed check counts at its target (R325). -/
def countCrc (d : Dyn) (e : Nat) : Dyn :=
  d.onFab (fun f => { f with crcFail := Map.upd 0 f.crcFail e (satAdd 0xFF · 1) })

/-- A request at its target's router and interface; an EMPTY port answers DECODE (R332). -/
def arriveRequest (serve : Target) (img : Img) (d : Dyn) (p : Packet) : Dyn :=
  let e := p.dest.toNat
  let answer (r : Resp) (d : Dyn) : Dyn :=
    d.onFab (fun f => { f with inflight := f.inflight ++ [sealPacket (replyTo p r)] })
  match d.portMode e with
  | 1 => answer { status := 2, reason := 0, data := [] } (countAsleep d e)
  | 2 => answer (if p.kind = 0 ∨ p.kind = 2 then { status := 5, reason := 4, data := [] }
      else { status := 3, reason := 0, data := [] }) (countAbsorbed d e)
  | 3 => answer { status := 5, reason := 2, data := [] } d
  | _ =>
    let d1 := countEv d (routerSource e) 0x0601 (packetLen p) (packetInfo p)
    let (d2, r) := if packetGood p then serve img d1 p
      else (countCrc d1 e, { status := 5, reason := 1, data := [] })
    regulate img d2 (replyTo p r)

/-- A response at its sender: taken by tag, discarded after its timeout, failed by its checks (R325 to
R327). -/
def arriveResponse (d : Dyn) (p : Packet) : Dyn :=
  let e := p.dest.toNat
  if d.portMode e = 2 then countAbsorbed d e
  else
    let d1 := countEv d (routerSource e) 0x0601 (packetLen p) (packetInfo p)
    let mine (t : Track) : Bool := t.endpoint == e && t.tag == p.tag.toNat && t.target == p.src.toNat
    match d1.fab.trackers.find? mine with
    | none => d1
    | some t =>
      let d2 := d1.onFab (fun f => { f with trackers := dropFirst mine f.trackers })
      if t.timedOut then
        d2.onFab (fun f => { f with lateResp := Map.upd 0 f.lateResp e (satAdd 0xFFF · 1) })
      else
        let d3 := if fromRouter p then d2 else noteAnswered d2 e p.src.toNat
        if packetGood p then deliver p d3
        else deliver { p with status := 5, reason := 1, data := [] } (countCrc d3 e)

/-- A packet at its target or, a response, at its sender. -/
def arriveAt (serve : Target) (img : Img) (d : Dyn) (p : Packet) : Dyn :=
  if p.resp then arriveResponse d p else arriveRequest serve img d p

/-- The packets that must arrive before this one (R321). -/
def sameFlow (p q : Packet) : Bool :=
  p.src == q.src && p.dest == q.dest && p.cls == q.cls && p.resp == q.resp

/-! ### TASK_CMD and the command queue (R157, R171) -/

/-- First address of register space. -/
def regBase : Nat := 0x00F000000000

/-- The masters that may write TASK_CMD (R157). -/
def mayPost : Master → Bool
  | .core _ .exec => true
  | .core _ .task => true
  | .supervisor => true
  | _ => false

/-- The master that a head flit names (Table 12.3). -/
def packetMaster (p : Packet) : Master :=
  let m := p.master.toNat
  if h : m / 256 = 1 ∧ m % 256 < 192 then
    .core ⟨m % 256, h.2⟩ ((privOf p.priv.toNat).getD .exec)
  else if m = 0x0C00 then .supervisor
  else .unit p.master

/-- A further write waits while the queue holds 256 commands (R157, R171). -/
def taskCmdFull (d : Dyn) : Bool := decide (256 ≤ d.disp.cmdQ.length)

/-- A write of TASK_CMD that the dispatcher accepts (R157). -/
def isTaskCmd (p : Packet) : Bool :=
  !p.resp && p.kind == 1 && p.address.toNat == regBase + 0x08000010 && mayPost (packetMaster p)

/-- The fabric holds a write of TASK_CMD while the command queue is full (R157, R171). -/
def holdsBack (d : Dyn) (p : Packet) : Bool := isTaskCmd p && taskCmdFull d

/-! ### A master's access in one step -/

/-- The packets at the regulator that an access waits behind enter before it (R324). -/
def sendWaiting (img : Img) (d : Dyn) (p : Packet) : Dyn :=
  (d.fab.waiting.filter (waitsBehind img d p)).foldl (fun d q =>
    launch q (track q ((spend img d q.src.toNat q.cls.toNat (packetLen q)).onFab
      (fun f => { f with waiting := f.waiting.erase q })))) d

/-- The first packet under way in an access's flow arrives, unless the command queue holds it back. -/
def landFirst (serve : Target) (img : Img) (p : Packet) (d : Dyn) : Dyn :=
  match d.fab.inflight.find? (sameFlow p) with
  | none => d
  | some q =>
    if holdsBack d q then d
    else arriveAt serve img (d.onFab (fun f => passAlone q { f with inflight := f.inflight.erase q })) q

/-- The packets under way in an access's flow arrive before it (R321). -/
def landFlow (serve : Target) (img : Img) (d : Dyn) (p : Packet) : Dyn :=
  (d.fab.inflight.filter (sameFlow p)).foldl (fun d _ => landFirst serve img p d) d

/-- What goes before a packet of an access, and the regulator it passes then. -/
def enter (serve : Target) (img : Img) (d : Dyn) (p : Packet) : Dyn :=
  spend img (landFlow serve img (sendWaiting img d p) p) p.src.toNat p.cls.toNat (packetLen p)

/-- A packet of an access goes through the outputs of its route and is counted where it was injected (R323,
R421). -/
def cross (d : Dyn) (p : Packet) : Dyn :=
  countEv (d.onFab (passAlone p)) (routerSource p.src.toNat) 0x0600 (packetLen p) (packetInfo p)

/-- Flits that a packet's endpoint takes (R421). -/
def eject (d : Dyn) (p : Packet) : Dyn :=
  countEv d (routerSource p.dest.toNat) 0x0601 (packetLen p) (packetInfo p)

/-- The target's router answers for it. -/
def routerAnswers (d : Dyn) (q : Packet) (r : Resp) : Dyn × Resp :=
  let b := replyTo q r
  (eject (d.onFab (passAlone b)) b, r)

/-- The request `q` of a master's access and its response, undisturbed on their way: R320 to R324, R326, R328 to
R330, R332. `act` is the request at its target; `serve` performs the requests that arrive before it. -/
def exchange (serve : Target) (img : Img) (d : Dyn) (q : Packet) (act : Dyn → Dyn × Resp) : Dyn × Resp :=
  let se := q.src.toNat
  let e := q.dest.toNat
  let d0 := (routeOf se e ++ routeOf e se).foldl (acceptAgain img) d
  let d1 := enter serve img d0 q
  if d1.portMode se = 2 then
    (noteTimeout (countAbsorbed d1 se) se e (packetUnit q), { status := 5, reason := 5, data := [] })
  else
    let d2 := cross d1 q
    match d2.portMode e with
    | 0 =>
      let (d3, r) := act (eject d2 q)
      let b := replyTo q r
      (noteAnswered (eject (cross (enter serve img d3 b) b) b) se e, r)
    | 1 => routerAnswers (countAsleep d2 e) q { status := 2, reason := 0, data := [] }
    | 2 => routerAnswers (countAbsorbed d2 e) q
        (if q.kind = 0 ∨ q.kind = 2 then { status := 5, reason := 4, data := [] }
         else { status := 3, reason := 0, data := [] })
    | _ => routerAnswers d2 q { status := 5, reason := 2, data := [] }

/-- The request packet of an access to `n` bytes at `a`: KIND, and the data it carries. -/
def requestOf (w : Sender) (e cls : Nat) (kind : BitVec 3) (a n : Nat) (data : List Byte) : Packet :=
  { dest := BitVec.ofNat 8 e, src := BitVec.ofNat 8 ((endpointOf w.source).getD 0), cls := BitVec.ofNat 2 cls
    resp := false, kind, tag := 0, status := 0, reason := 0, func := 0, address := BitVec.ofNat 48 a
    length := BitVec.ofNat 16 n, master := BitVec.ofNat 16 w.source, priv := BitVec.ofNat 2 w.priv, operand := 0
    data, bad := false, crc := 0 }

/-- The request packet of a memory access. -/
def MemOp.request (op : MemOp) (w : Sender) (e a : Nat) : Packet :=
  match op with
  | .read n => requestOf w e w.cls 0 a n []
  | .write b => requestOf w e w.cls 1 a b.length b
  | .atomic func operand compare =>
    { requestOf w e w.cls 2 a 4 [] with
      func := BitVec.ofNat 3 func, operand := BitVec.ofNat 64 (operand + 2 ^ 32 * compare) }

/-- A request to memory at its target. An EVENT is only acknowledged (log 59). -/
def performMem (img : Img) (d : Dyn) (p : Packet) : Dyn × Resp :=
  let a := p.address.toNat
  if p.kind = 3 then (d, { status := 0, reason := 0, data := [] })
  else match memUnitOf a with
    | none => (d, { status := 5, reason := 3, data := [] })
    | some u =>
      let op : MemOp :=
        if p.kind = 0 then .read p.length.toNat
        else if p.kind = 1 then .write p.data
        else .atomic p.func.toNat (p.operand.toNat % 2 ^ 32) (p.operand.toNat / 2 ^ 32)
      perform img d { source := p.master.toNat, priv := p.priv.toNat } u a op

/-- One packet to memory (R318). -/
def memPacket (img : Img) (d : Dyn) (w : Sender) (a : Nat) (op : MemOp) : Dyn × Resp :=
  match memUnitOf a with
  | none => (d, { status := 5, reason := 2, data := [] })
  | some unit =>
    exchange performMem img d (op.request w ((endpointOf unit).getD 0) a) (fun d => perform img d w unit a op)

/-- The pieces of `n` bytes from `a` at aligned boundaries of `step`, with `fuel` pieces at most. -/
def pieces (step : Nat) : Nat → Nat → Nat → List (Nat × Nat)
  | 0, _, _ => []
  | fuel + 1, a, n =>
    if n = 0 then []
    else
      let k := min n (step - a % step)
      (a, k) :: pieces step fuel (a + k) (n - k)

/-- The packets of an access: one per aligned 128-byte block (R320). -/
def packetsOf (a n : Nat) : List (Nat × Nat) := pieces 128 (n / 128 + 2) a n

/-- Put two answers of one access together: the highest status, data while it is good. -/
def Resp.join (x y : Resp) : Resp :=
  { status := max x.status y.status, reason := if x.status < y.status then y.reason else x.reason,
    data := x.data ++ y.data }

def Resp.ok : Resp := { status := 0, reason := 0, data := [] }

/-- Read `n` bytes of memory at `a` (R320). Data only with status 0 or 1. -/
def memLoad (img : Img) (d : Dyn) (w : Sender) (a n : Nat) : Dyn × Resp :=
  let (d1, r) := (packetsOf a n).foldl
    (fun (acc : Dyn × Resp) p =>
      let (d', r) := memPacket img acc.1 w p.1 (.read p.2)
      (d', acc.2.join r)) (d, Resp.ok)
  (d1, if r.status ≤ 1 then r else { r with data := [] })

/-- Write bytes to memory at `a` (R320). -/
def memStore (img : Img) (d : Dyn) (w : Sender) (a : Nat) (bytes : List Byte) : Dyn × Resp :=
  (packetsOf a bytes.length).foldl
    (fun (acc : Dyn × Resp) p =>
      let (d', r) := memPacket img acc.1 w p.1 (.write ((bytes.drop (p.1 - a)).take p.2))
      (d', acc.2.join r)) (d, Resp.ok)

end Sys2Proof.Machine
end

