-- ==== Sys2Proof/Machine/CoreOps.lean ====
section
/-! DEFINITION. What every Bronze instruction shares (07): the instruction boundary, the fetch
check, retiring, REP, taking an exception (R197 to R201), ABORT and interrupts. The instruction itself
(`bronze`) stands in CoreMem.lean, beside the errors of accesses. -/

namespace Sys2Proof.Machine

/-- Source identifier of core `c` (R13). -/
def coreSrc (c : Nat) : Nat := 0x0100 + c

/-- A synchronous exception: cause code, DETAIL, and the address of an address-related one. -/
structure Exc where
  code : Nat
  detail : Nat
  cond : Nat
  addr : Option Addr
deriving DecidableEq, Repr

/-- Cause codes of Table 7.13. -/
def excIllegal : Exc := { code := 1, detail := 0, cond := 0, addr := none }
def excPrivilege : Exc := { code := 2, detail := 0, cond := 0, addr := none }
def excAlign (a : Addr) : Exc := { code := 3, detail := 0, cond := 0, addr := some a }
def excAccess (detail : Nat) (a : Addr) : Exc := { code := 4, detail, cond := 0, addr := some a }
def excData (detail : Nat) (a : Addr) : Exc := { code := 5, detail, cond := 0, addr := some a }
def excTaskOp : Exc := { code := 6, detail := 0, cond := 0, addr := none }
def excTrap (detail : Nat) : Exc := { code := 7, detail, cond := 0, addr := none }
def excCoproc (detail : Nat) : Exc := { code := 8, detail, cond := 0, addr := none }
def excBreak : Exc := { code := 9, detail := 0, cond := 0, addr := none }

/-- How an instruction ends. -/
inductive Res where
  /-- It retires; the PC goes to the next instruction, or where the instruction says. -/
  | done (d : Dyn) (pc : Option Addr)
  /-- It raises a synchronous exception. -/
  | exc (d : Dyn) (e : Exc)
  /-- It does not complete yet: the core stays at it. -/
  | wait (d : Dyn)

/-! ### Windows and executable regions (R176, R177, R206) -/

def Dyn.pwinBase (d : Dyn) (c j : Nat) : Nat := (Map.get 1 (d.core c).ctl.pwinBase j).toNat
def Dyn.pwinLimit (d : Dyn) (c j : Nat) : Nat := (Map.get 0 (d.core c).ctl.pwinLimit j).toNat

/-- The enabled windows, as first and last byte (R176). -/
def Dyn.windows (d : Dyn) (c : Nat) : List (Nat × Nat) :=
  (List.range 4).filterMap (fun j =>
    let b := d.pwinBase c j
    let l := d.pwinLimit c j
    if b ≤ l then some (b * 65536, (l + 1) * 65536 - 1) else none)

/-- One byte of a PLUGIN access is allowed (R176). -/
def inWindows (ws : List (Nat × Nat)) (a : Nat) : Bool :=
  decide (a < 0x00F000000000) && ws.any (fun w => decide (w.1 ≤ a) && decide (a ≤ w.2))

/-- Every byte of `n` from `a` is allowed: windows are made of 64 KiB granules, so the ends of each
granule crossed decide. Addresses past 2^48 wrap (R183). -/
def rangeInWindows (ws : List (Nat × Nat)) (a n : Nat) : Bool :=
  (List.range n).all (fun i => inWindows ws ((a + i) % 2 ^ 48))

/-- A byte in the hole above local memory (R177). -/
def inLocalHole (a : Nat) : Bool := decide (0x00E000010000 ≤ a) && decide (a < 0x00F000000000)

def inLocal (a : Nat) : Bool := decide (0x00E000000000 ≤ a) && decide (a < 0x00E000010000)

/-- R176 and R177 forbid the access of `n` bytes at `a` by core `c`. -/
def accessDenied (d : Dyn) (c a n : Nat) : Bool :=
  ((d.status c).pl = .plugin && !rangeInWindows (d.windows c) a n)
  || (List.range n).any (fun i => inLocalHole ((a + i) % 2 ^ 48))

/-- A fetch at the PC is denied: outside the windows, or outside an executable region (R176, R177, R206). -/
def fetchDenied (img : Img) (d : Dyn) (c : Nat) : Bool :=
  let a := (d.pc c).toNat
  ((d.status c).pl = .plugin && !rangeInWindows (d.windows c) a 4)
  || (match regionAt img d a with
      | some r => !r.exec
      | none => true)

/-! ### Samples (R425, R426) -/

/-- A sample falls on the instruction at `pc` (R425, R426): it retires, or as a tagged one it raises an
exception. A tag's clocks and its cache miss are free values (log 10). -/
def sampleAt (d : Dyn) (c : Nat) (pc : Addr) (k : Nat) (tag exc : Bool) : Dyn :=
  let src := coreSrc c
  let (lat, d1) := if tag then freshNat d else (0, d)
  let (miss, d2) := if tag then freshNat d1 else (0, d1)
  let b := Map.get Bank.reset d.perf.banks src
  let b' : Bank :=
    { b with samplePc := pc.toNat, latency := lat % 65536, overrun := b.overrun || b.valid,
             valid := true, tagged := tag, counter := k, exception := exc, icmiss := miss % 2 == 1 }
  { d2 with perf := { d2.perf with banks := Map.set d2.perf.banks src b' } }

/-- The samples of bank `b` that fall on the instruction under way. -/
def Bank.due (b : Bank) : List SampleArm := b.arms.filter (fun a => !a.fresh && a.left == 0)

/-- The samples armed, without those that fall on the instruction under way; one that this instruction drew
counts from its end. `step`: the others come one instruction nearer. -/
def Bank.kept (b : Bank) (step : Nat) : List SampleArm :=
  (b.arms.filter (fun a => a.fresh || a.left != 0)).map (fun a =>
    if a.fresh then { a with fresh := false } else { a with left := a.left - step })

/-- The arms of a core's bank become `l`, and the next tagged instruction has made no access. -/
def setArms (d : Dyn) (c : Nat) (l : List SampleArm) : Dyn :=
  { d with perf := { d.perf with
      banks := Map.upd Bank.reset d.perf.banks (coreSrc c) (fun b => { b with arms := l, addrSeen := false }) } }

/-- Record samples in their order: a later one finds VALID set (R426). -/
def recordAll (c : Nat) (pc : Addr) (exc : Bool) (l : List SampleArm) (d : Dyn) : Dyn :=
  l.foldl (fun d a => sampleAt d c pc a.ctr a.tag exc) d

/-- An instruction retires: the armed samples count down, and those that fall on it are recorded (R425, R426). -/
def sampleTick (d : Dyn) (c : Nat) (pc : Addr) : Dyn :=
  let b := Map.get Bank.reset d.perf.banks (coreSrc c)
  if b.arms.isEmpty then d else recordAll c pc false b.due (setArms d c (b.kept 1))

/-- An instruction raises an exception and does not retire: the tags that fall on it are recorded (Table 17.11),
and no sample comes nearer. -/
def sampleExc (d : Dyn) (c : Nat) : Dyn :=
  let b := Map.get Bank.reset d.perf.banks (coreSrc c)
  if b.arms.isEmpty then d
  else recordAll c (d.pc c) true (b.due.filter (·.tag)) (setArms d c (b.due.filter (fun a => !a.tag) ++ b.kept 0))

/-- The first access of a tagged instruction (R426). -/
def sampleAccess (d : Dyn) (c a : Nat) : Dyn :=
  let b := Map.get Bank.reset d.perf.banks (coreSrc c)
  if b.due.any (·.tag) && !b.addrSeen then
    { d with perf := { d.perf with banks := Map.set d.perf.banks (coreSrc c) { b with sampleAddr := a, addrSeen := true } } }
  else d

/-- An exception entry is counted (EXCEPTIONS, Table 17.4). No instruction that retires is under way, so a tag that
the count draws counts from here (R426). -/
def countEntry (d : Dyn) (c : Nat) : Dyn :=
  let d1 := countEv d (coreSrc c) 0x0109 1 { EvInfo.plain with priv := Priv.num (d.status c).pl }
  let b := Map.get Bank.reset d1.perf.banks (coreSrc c)
  if b.arms.any (·.fresh) then setArms d1 c (b.arms.map (fun a => { a with fresh := false })) else d1

/-! ### Exception entry (R197) -/

/-- CAUSE (Table 7.7). -/
def causeWord (code detail cond : Nat) : Word :=
  BitVec.ofNat 32 (cond * 65536 + detail * 256 + code)

/-- The handler's address (R197). -/
def vectorOf (d : Dyn) (c code : Nat) : Addr := (d.core c).ctl.vbase + BitVec.ofNat 48 (64 * code)

/-- Taking an exception (R197): the return PC, CAUSE and EADDR are written, PL and INREP are saved, and
with them the iterations that a running REP has made (R192); the core goes to EXEC with HACT set, and
fetches from its vector. -/
def takeException (d : Dyn) (c : Nat) (e : Exc) (epc : Addr) : Dyn :=
  let d0 := countEntry d c
  let d1 := d0.onCtl c (fun x =>
    { x with epc, cause := causeWord e.code e.detail e.cond, eaddr := e.addr.getD x.eaddr, repSaved := x.repDone,
             status := { x.status with ppl := x.status.pl, pinrep := x.status.inrep,
                                       pl := .exec, hact := true, inrep := false } })
  d1.wpc c (vectorOf d1 c e.code)

/-- ABORT (R200, R222, R241): the unretired work and the Pewter commands are discarded, every tag is
freed, the partial vector state and the task are gone, the
remaining REP iterations are discarded, and the core enters the ABORT vector. -/
def takeAbort (d : Dyn) (c detail cond : Nat) : Dyn :=
  let squash := b2n (!(d.core c).port.queue.isEmpty)
  let d0 := (countEv d (0x0200 + c / 4) 0x0201 squash EvInfo.plain).onPort c (fun p => { p with queue := [], busy := [], results := [] })
  let d1 := d0.onVec c (fun v => { v with vstart := 0 })
  let d2 := d1.onTsk c (fun t =>
    { t with task := none, waiting := false, commit := none, abort := none })
  let d3 := d2.onCtl c (fun x =>
    { x with rc := if x.status.inrep then 0 else x.rc,
             status := { x.status with task := false, shadow := false, inrep := false } })
  takeException d3 c { code := 0x20, detail, cond, addr := none } (d3.pc c)

/-- The first store error that waits is taken (R199). -/
def takeStoreErr (d : Dyn) (c : Nat) : Dyn :=
  match (d.core c).tsk.storeErrs with
  | [] => d
  | e :: rest =>
    let d1 := d.onTsk c (fun t => { t with storeErrs := rest, waiting := false })
    takeException d1 c (excData (b2n e.store + 4 * e.kind) e.addr) (d1.pc c)

/-! ### Synchronous exceptions and halts -/

/-- A core halts (R201): it reports the cause, and a task present raises CORE_TRAP. A task that has ended
already keeps the reason of its ABORT (R200). -/
def haltCore (d : Dyn) (c : Nat) (e : Exc) : Dyn :=
  let t := (d.core c).tsk.task
  let d1 := eventTask d (coreSrc c) 6 0x0181 t (leBytes 4 (causeWord e.code e.detail e.cond).toNat)
  let d2 := if t.isSome then
      (raiseTask d1 (coreSrc c) 0x0104 (e.addr.getD 0).toNat 0).onTsk c
        (fun t => { t with abort := t.abort.or (some (6, 0x0104)) })
    else d1
  d2.onTsk c (fun t => { t with run := .halted, waiting := false })

/-- A synchronous exception at the PC (R197, R199, R201). -/
def syncException (d0 : Dyn) (c : Nat) (e : Exc) : Dyn :=
  let d := sampleExc d0 c
  let s := d.status c
  if s.hact then haltCore d c e
  else if s.pl ≠ .exec && !bit (d.core c).ctl.exmask.toNat e.code then
    match (d.core c).tsk.task with
    | some _ => takeAbort (raiseTask d (coreSrc c) 0x0104 (e.addr.getD 0).toNat 0) c 6 0x0104
    | none => takeAbort d c 6 0
  else takeException d c e (d.pc c)

/-! ### Retiring (R192, R420) -/

/-- The PC after an instruction that goes on to the next one: inside a REP the body again while
iterations are left (R192). `inrep` is STATUS.INREP as the instruction began. -/
def nextPc (d : Dyn) (c : Nat) (inrep : Bool) (goto : Option Addr) : Dyn :=
  if inrep then
    let left := (d.core c).ctl.rc.toNat - 1
    let d1 := d.onCtl c (fun y => { y with rc := BitVec.ofNat 17 left, repDone := y.repDone + 1 })
    if left = 0 then
      (d1.onStatus c (fun s => { s with inrep := false })).wpc c (goto.getD (d.pc c + 4))
    else d1
  else d.wpc c (goto.getD (d.pc c + 4))

/-- An instruction retires: it is counted with its class, and the PC moves (R420, R422). -/
def retire (d : Dyn) (c icls : Nat) (pl : Priv) (inrep : Bool) (goto : Option Addr) : Dyn :=
  let pc := d.pc c
  let d1 := countEv d (coreSrc c) 0x0101 1 { EvInfo.plain with priv := Priv.num pl, icls := some icls }
  nextPc (sampleTick d1 c pc) c inrep goto

/-- The core can execute: its program runs and it is not waiting in TWAIT or TCOMMIT. -/
def Dyn.issues (d : Dyn) (c : Nat) : Bool :=
  let t := (d.core c).tsk
  t.run = .active && !t.waiting && t.commit.isNone && d.powered (coreSrc c)

/-- An event that the boundary takes before the next instruction: a pending ABORT or a store error,
with HACT clear (R199, R200). -/
def boundaryEvent (d : Dyn) (c : Nat) : Option Dyn :=
  let x := d.core c
  if x.ctl.status.hact then none
  else match x.tsk.abort with
    | some (detail, cond) => some (takeAbort d c detail cond.toNat)
    | none => if x.tsk.storeErrs.isEmpty then none else some (takeStoreErr d c)

/-- An instruction whose encoding must have `legal` (R181). -/
def legally (legal : Bool) (d : Dyn) (r : Dyn → Res) : Res :=
  if legal then r d else .exc d excIllegal

/-- A result written to D register `rd`. -/
def setD (d : Dyn) (c : Core) (rd : Reg5) (v : Word) : Res := .done (d.wd c.val rd v) none

/-! ### Interrupts (R202) -/

/-- Bank counters that keep COUNTER pending on core `c`: OVF bits with IRQ, of its own bank, or of
any other bank when PERF_CFG.IRQ_CORE names the core (R424). -/
def bankIrq (b : Bank) : Bool :=
  (List.range 8).any (fun k => b.ovf.testBit k && bit (Map.get Ctr.reset b.ctrs k).cfg.toNat 30)

def counterPending (d : Dyn) (c : Nat) : Bool :=
  d.perf.banks.any (fun e => bankIrq e.2 &&
    (if srcSub e.1 = 1 then decide (e.1 = coreSrc c)
     else decide (bits d.perf.perfCfg.toNat 15 8 = c)))

/-- IPEND (Table 7.5). -/
def ipend (d : Dyn) (c : Nat) : Nat :=
  (if (d.core c).ctl.dbell ≠ 0 then 2 else 0) + (if counterPending d c then 4 else 0)

/-- A lockstep task is present on the core (R196). -/
def lockstepTask (d : Dyn) (c : Nat) : Bool :=
  match (d.core c).tsk.task with
  | some n => match d.disp.tasks.find? (fun e => e.1 == n) with
    | some e => e.2.lockstep
    | none => false
  | none => false

/-- The interrupt that R202 lets the core take: 0x21 DOORBELL first, then 0x22 COUNTER. -/
def takable (d : Dyn) (c : Nat) : Option Nat :=
  let x := (d.core c).ctl
  let p := Nat.land (ipend d c) x.imask.toNat
  if x.status.ie && !x.status.hact && !lockstepTask d c then
    if bit p 1 then some 0x21 else if bit p 2 then some 0x22 else none
  else none

/-- Inside a REP an interrupt waits for the end of a group of 16 iterations (R192). -/
def repBoundary (d : Dyn) (c : Nat) : Bool :=
  let x := (d.core c).ctl
  !x.status.inrep || (decide (x.repDone ≠ 0) && decide (x.repDone % 16 = 0))

end Sys2Proof.Machine
end

