-- ==== Sys2Proof/Machine/Grid.lean ====
section
/-! DEFINITION. The frame grid (R369), cells and antenna streams (R57 to R60, R67), and the clocks of
the lanes against tick time (R277, R279). -/

namespace Sys2Proof.Machine

/-- The TIME record (Table 14.1), none without one. -/
def timeRecord (img : Img) : Option (List Byte) := (img.records secTime).head?

/-- A field of the TIME record; 0 without one. -/
def timeField (img : Img) (off size : Nat) : Nat :=
  match timeRecord img with
  | some r => fld r off size
  | none => 0

/-- T_OFFSET (R358, R369). -/
def timeOffset (img : Img) : Int := sx 64 (timeField img 8 8)

/-- u = T - T_OFFSET at tick `t` (R369). -/
def gridU (img : Img) (t : Nat) : Int := (t : Int) - timeOffset img

/-- Frames of u, SFN, HFN, subframe, and slot within the subframe for numerology `mu` (R369). -/
def frameNumber (u : Int) : Int := u / 19660800
def sfnOf (u : Int) : Nat := (frameNumber u % 1024).toNat
def hfnOf (u : Int) : Nat := (frameNumber u / 1024 % 1024).toNat
def subframeOf (u : Int) : Nat := (u % 19660800 / 1966080).toNat
def slotOf (mu : Nat) (u : Int) : Nat := (u % 1966080 / ((1966080 / 2 ^ mu : Nat) : Int)).toNat

/-! ### Cells and streams -/

def cellRec (img : Img) (cell : Nat) : Option (List Byte) := img.recordBy secCells 0 1 cell

/-- MU of a cell; LTE counts as 0 (R67). -/
def cellMu (r : List Byte) : Nat := if fld r 1 1 = 0 then 0 else fld r 2 1
def cellExt (r : List Byte) : Bool := fld r 3 1 == 1
def cellN (r : List Byte) : Nat := fld r 8 2

/-- An ANTENNA_MAP record serves the cell it names, and the other cell of a DSS pair (R59). -/
def mapsCell (img : Img) (r : List Byte) (cell : Nat) : Bool :=
  fld r 2 1 == cell || (match cellRec img cell with
    | some c => decide (fld c 0xB 1 ≠ 0xFF) && fld r 2 1 == fld c 0xB 1
    | none => false)

/-- The ANTENNA_MAP records of a stream in a direction: 0 uplink, 1 downlink. -/
def streamRecs (img : Img) (s dir : Nat) : List (List Byte) :=
  (img.records secAntenna).filter (fun r => fld r 0 1 == s && fld r 1 1 % 2 == dir)

/-- The stream that a lane's slot carries in a direction. -/
def slotStream (img : Img) (lane slot dir : Nat) : Option Nat :=
  ((img.records secAntenna).find? (fun r => fld r 1 1 % 2 == dir && fld r 4 1 == lane && fld r 5 1 == slot)).map
    (fun r => fld r 0 1)

/-- A stream's base numerology (R60): its MU and whether its prefix is extended; its samples per
subframe, its mantissa width, lane and slot. -/
structure StreamInfo where
  mu : Nat
  ext : Bool
  perMs : Nat
  width : Nat
  lane : Nat
  slot : Nat
deriving DecidableEq, Repr

def streamInfo (img : Img) (s dir : Nat) : Option StreamInfo :=
  match streamRecs img s dir with
  | [] => none
  | r :: rest =>
    let cells := (r :: rest).filterMap (fun x => cellRec img (fld x 2 1))
    match cells with
    | [] => none
    | c :: cs => some
        { mu := cs.foldl (fun m x => min m (cellMu x)) (cellMu c), ext := (c :: cs).any cellExt,
          perMs := cellN c * 15 * 2 ^ cellMu c * fld r 3 1, width := fld r 6 1, lane := fld r 4 1,
          slot := fld r 5 1 }

/-- Symbols in a subframe (R67). -/
def symsPerSub (mu : Nat) (ext : Bool) : Nat := (if ext then 12 else 14) * 2 ^ mu

/-- Length of the cyclic prefix of symbol `l` in Tc (Table 3.5 with N = 131,072 / 2^mu). -/
def cpTc (mu : Nat) (ext : Bool) (l : Nat) : Nat :=
  if ext then 512 * 64 / 2 ^ mu
  else if l = 0 ∨ l = 7 * 2 ^ mu then (144 + 16 * 2 ^ mu) * 64 / 2 ^ mu
  else 144 * 64 / 2 ^ mu

/-- Length of symbol `l` in Tc, its prefix included. -/
def symTc (mu : Nat) (ext : Bool) (l : Nat) : Nat := 131072 / 2 ^ mu + cpTc mu ext l

/-- Start of symbol `l` within its subframe, in Tc. -/
def symStart (mu : Nat) (ext : Bool) (l : Nat) : Nat :=
  (List.range l).foldl (fun a k => a + symTc mu ext k) 0

/-- Stream samples of base symbol `l` (R288). -/
def StreamInfo.samples (i : StreamInfo) (l : Nat) : Nat := symTc i.mu i.ext l * i.perMs / 1966080

/-- B of base symbol `l` (R288). -/
def StreamInfo.blocks (i : StreamInfo) (l : Nat) : Nat := divUp (i.samples l) 16

def StreamInfo.syms (i : StreamInfo) : Nat := symsPerSub i.mu i.ext

/-- Bytes of a block record (R292). -/
def StreamInfo.recLen (i : StreamInfo) : Nat := 1 + 4 * i.width

/-- K (R290). -/
def StreamInfo.maxBlocks (i : StreamInfo) : Nat := if i.width = 16 then 8 else 16

/-- The symbol in progress at subframe offset `o` (in Tc). -/
def symAt (mu : Nat) (ext : Bool) (o : Nat) : Nat :=
  ((List.range (symsPerSub mu ext)).filter (fun l => decide (symStart mu ext l ≤ o))).length - 1

/-- The index of the base symbol in progress, counted without wrap from u = 0 (R291, R295). -/
def qNow (img : Img) (d : Dyn) (i : StreamInfo) : Int :=
  let u := gridU img d.now
  u / 1966080 * (i.syms : Int) + (symAt i.mu i.ext (u % 1966080).toNat : Int)

/-- A stream's ring in a direction: FIRST and DEPTH (Table 11.8). -/
def ringOf (img : Img) (s dir : Nat) : Nat × Nat :=
  let r := img.reg (0x05032000 + 0x400 * dir + 4 * s)
  (bits r 15 0, bits r 23 16)

/-! ### Lane clocks -/

/-- `n` frame periods of a lane at RATE `rate`, in 1/256 Tc: 4,352 symbols each (R260, R277). -/
def periods256 (n rate : Nat) : Nat := divRound (n * 4352 * 196608 * 256) (1400000 * 2 ^ rate)

/-- Transmit and receive latency in 1/256 Tc (Table 10.7a). -/
def txLatency256 (rate : Nat) : Nat :=
  divRound ((if rate = 0 then 120 else if rate = 1 then 80 else 60) * 196608 * 256) 100000
def rxLatency256 (rate : Nat) : Nat :=
  divRound ((if rate = 0 then 400 else if rate = 1 then 230 else 140) * 196608 * 256) 100000

/-- LANE_ADJ_n (Table 14.14): ASYM in 1/16 Tc and TX_ADJ in Tc. -/
def laneAsym (img : Img) (n : Nat) : Int := sx 16 (bits (img.reg (0x0A001100 + 4 * n)) 31 16)
def laneTxAdj (img : Img) (n : Nat) : Int := sx 16 (bits (img.reg (0x0A001100 + 4 * n)) 15 0)

/-- The unit in which a lane's RTTs are kept: 1/256 Tc divided by this, in which 1/16 symbol is 256 x 196,608
(R277, R299). -/
def rttUnit (rate : Nat) : Nat := 16 * 1400000 * 2 ^ rate

/-- d_down of a Bridle lane at RATE `rate`, exact, as a number of 1/256 Tc and what it is to be divided by;
none before the first valid RTT (R368). -/
def laneDown (img : Img) (d : Dyn) (n rate : Nat) : Option (Int × Nat) :=
  match Map.get [] d.time.rtts n with
  | [] => none
  | l =>
    let den := 2 * l.length * rttUnit rate
    some (l.foldl (· + ·) 0 + 16 * laneAsym img n * den, den)

/-- A quotient rounded half up (R11). -/
def roundDiv (x : Int) (den : Nat) : Int := (2 * x + den) / (2 * (den : Int))

end Sys2Proof.Machine
end

