-- ==== Sys2Proof/Machine/Frame.lean ====
section
/-! DEFINITION. Tether frames: layout, header check, scrambler and lane code (R260 to R265), as
numbers whose bit i is frame bit i. -/

namespace Sys2Proof.Machine

/-- MARKER (Table 10.3). -/
def frameMarker : Nat := 0xB5E3192D

/-- HCRC over header bits 0 to 111 (R261). -/
def headerCrc (h : Nat) : Nat := crcBits 16 0x1021 0xFFFF (natBitsL 112 h)

/-- One clock of the scrambler (R262). -/
def scrambleStep (s : Nat) : Nat × Bool :=
  let c := xor (s.testBit 30) (s.testBit 27)
  ((s * 2 + b2n c) % 2 ^ 31, c)

/-- The scrambler's bits for frame bits 48 to 8,191 (R262). -/
def scrambleBits : Nat → Nat → List Bool
  | 0, _ => []
  | n + 1, s => let (s', c) := scrambleStep s; c :: scrambleBits n s'

/-- Scramble or descramble a frame with the SEQ it carries (R262). -/
def scramble (frame seq : Nat) : Nat :=
  frame ^^^ (bitsNatL (scrambleBits 8144 (2 ^ 30 ||| (seq * 2 ^ 14) ||| 0x1A5A)) * 2 ^ 48)

/-- A 128-bit block rotated so that its bit r is the old bit r + s (R264). -/
def rotBlock (x s : Nat) : Nat := (x >>> s ||| x <<< (128 - s)) % 2 ^ 128

/-- Column block `j` of a frame. -/
def frameBlock (frame j : Nat) : Nat := (frame >>> (128 * j)) % 2 ^ 128

/-- The information part's sum in block row `i` (R265). -/
def rowSum (frame i : Nat) : Nat :=
  (List.range 64).foldl (fun a j => a ^^^ rotBlock (frameBlock frame j) ((17 * i * (j + 1) + j) % 128)) 0

/-- The parity blocks of a frame's information part: a staircase (R265). -/
def parityBlocks (frame : Nat) : Nat :=
  let p0 := rowSum frame 0
  let p1 := rowSum frame 1 ^^^ p0
  let p2 := rowSum frame 2 ^^^ p1
  let p3 := rowSum frame 3 ^^^ p2
  p0 + 2 ^ 128 * p1 + 2 ^ 256 * p2 + 2 ^ 384 * p3

/-- A frame's 8,704 bits from its header fields below HCRC and its payload words (R260 to R265). -/
def encodeFrame (seq flags dataWords link : Nat) (words : List Nat) : Nat :=
  let h := frameMarker + 2 ^ 32 * seq + 2 ^ 48 * flags + 2 ^ 56 * dataWords + 2 ^ 64 * link
  let payload := (words.take 126).foldr (fun w a => w % 2 ^ 64 + 2 ^ 64 * a) 0
  let plain := h + 2 ^ 112 * headerCrc h + 2 ^ 128 * payload
  let info := scramble plain seq
  info + 2 ^ 8192 * parityBlocks info

/-- A frame's information part after descrambling with its own SEQ. -/
def descramble (frame : Nat) : Nat := scramble (frame % 2 ^ 8192) (bits frame 47 32)

/-- Every check of the lane code holds (R264, R266). -/
def codeHolds (frame : Nat) : Bool := frame / 2 ^ 8192 == parityBlocks (frame % 2 ^ 8192)

/-- A good frame: the code, MARKER and HCRC (R275). `info` is its descrambled information part. -/
def frameGood (frame info : Nat) : Bool :=
  codeHolds frame && bits frame 31 0 == frameMarker
  && bits info 127 112 == headerCrc (info % 2 ^ 112)

/-- Payload word `w` of a descrambled frame (R263). -/
def payloadWord (info w : Nat) : Nat := bits info (191 + 64 * w) (128 + 64 * w)

end Sys2Proof.Machine
end

