-- ==== Sys2Proof/Machine/LaneCode.lean ====
section
/-! DEFINITION. The line signal of a lane (R258, R259), the decoder of its code (R266) and MARGIN
(Table 10.11). -/

namespace Sys2Proof.Machine

/-! ### Symbols and levels -/

/-- The level of a symbol by its first and second bit (Table 10.2). -/
def pamLevel (first second : Bool) : Int :=
  match first, second with
  | false, false => -3
  | false, true => -1
  | true, true => 1
  | true, false => 3

/-- The level of symbol `m` of a frame: bits 2m and 2m + 1, sent in ascending m (R258). -/
def symLevel (frame m : Nat) : Int := pamLevel (frame.testBit (2 * m)) (frame.testBit (2 * m + 1))

/-- What the transmitter drives for a symbol between two others, in 1/384 mV (R259). -/
def lineDrive (ampl pre post : Nat) (before level after : Int) : Int :=
  ampl * ((64 - pre - post) * level - pre * after - post * before)

/-! ### Layered normalised min-sum over the four block rows (R266) -/

/-- The frame bits that check `r` of block row `i` joins (R264). -/
def laneCheckBits (i r : Nat) : List Nat :=
  (List.range 64).map (fun j => 128 * j + (17 * i * (j + 1) + j + r) % 128)
  ++ [8192 + 128 * i + r] ++ (if i = 0 then [] else [8192 + 128 * (i - 1) + r])

/-- The decoder's values by frame bit, and each check's messages by 128 i + r. -/
structure LaneDec where
  app : Array Int
  msgs : Array (List Int)

/-- The smallest magnitude of a list and the smallest of the others; the first of equals is the smallest. -/
def laneMins : List Nat → Nat × Nat
  | [] => (0, 0)
  | x :: rest => rest.foldl (fun m y => if y < m.1 then (y, m.1) else (m.1, min m.2 y)) (x, 2 ^ 30)

/-- One check of a layer: each bit's value without this check's old message, then with the new one. R266
gives no normalisation: it is the opaque Config.laneNormalise (log 122). -/
def laneCheck (i r : Nat) (s : LaneDec) : LaneDec :=
  let vars := laneCheckBits i r
  let old := s.msgs.getD (128 * i + r) []
  let t := (vars.zip (List.range vars.length)).map (fun p => s.app.getD p.1 0 - old.getD p.2 0)
  let (m1, m2) := laneMins (t.map Int.natAbs)
  let first := t.findIdx (fun x => x.natAbs == m1)
  let neg := t.countP (fun x => decide (x < 0)) % 2 == 1
  let out := (t.zip (List.range t.length)).map (fun p =>
    let m : Int := (Config.laneNormalise (if p.2 = first then m2 else m1) : Nat)
    if (decide (p.1 < 0)) != neg then -m else m)
  { app := ((vars.zip t).zip out).foldl (fun a p => a.setIfInBounds p.1.1 (p.1.2 + p.2)) s.app
    msgs := s.msgs.setIfInBounds (128 * i + r) out }

/-- One iteration over the four block rows. -/
def laneIter (s : LaneDec) : LaneDec :=
  (List.range 4).foldl (fun s i => (List.range 128).foldl (fun s r => laneCheck i r s) s) s

/-- The frame that the values' signs spell: a negative value is a 1. -/
def laneHard (s : LaneDec) : Nat :=
  s.app.toList.foldr (fun x acc => b2n (decide (x < 0)) + 2 * acc) 0

/-- Iterate until every check is satisfied, at most `fuel` times: the frame and the iterations run. -/
def laneLoop : Nat → Nat → LaneDec → Nat × Nat
  | 0, n, s => (laneHard s, n)
  | fuel + 1, n, s =>
    let s1 := laneIter s
    if codeHolds (laneHard s1) then (laneHard s1, n + 1) else laneLoop fuel (n + 1) s1

/-- A 6-bit soft decision as its sign, 1 for a bit of 1, and 5 bits of confidence: an odd value. -/
def softValue (one : Bool) (mag : Nat) : Int := if one then -(2 * (mag : Int) + 1) else 2 * (mag : Int) + 1

/-- Decode a frame from its soft decisions: their signs, and their confidences in bit order, full where
they are not given. At most 8 iterations; none when every check is satisfied already (R266; log 122). -/
def laneDecode (signs : Nat) (mags : List (BitVec 5)) : Nat × Nat :=
  if codeHolds signs then (signs, 0)
  else
    let soft := (mags ++ List.replicate (8704 - mags.length) 31).take 8704
    laneLoop 8 0
      { app := ((soft.zip (List.range 8704)).map (fun p => softValue (signs.testBit p.2) p.1.toNat)).toArray
        msgs := Array.replicate 512 [] }

/-! ### MARGIN (Table 10.11) -/

/-- MARGIN over the frames' sums of the ideal levels' squares and of the slicer errors' squares: the
greatest k up to 255 with 40 log10(P / N) + 0.5 at least k, that is 10^(2k - 1) N^80 at most P^80. -/
def marginOf (l : List (Nat × Nat)) : Nat :=
  let p : Nat := (l.foldl (fun a x => a + x.1) 0) ^ 80
  let n : Nat := (l.foldl (fun a x => a + x.2) 0) ^ 80
  if p = 0 then 0
  else ((List.range 256).filter (fun k => k == 0 || decide (10 ^ (2 * k - 1) * n ≤ p))).length - 1

end Sys2Proof.Machine
end

