-- ==== Sys2Proof/Machine/Lane.lean ====
section
/-! DEFINITION. A lane's state and configuration, its violations, and a downlink container's entry
into its transmit lane block (10, R284, R295). -/

namespace Sys2Proof.Machine

/-- Taps as power-up clears them (R398). -/
def LaneTaps.cleared : LaneTaps :=
  { dense := List.replicate 128 0, inWindow := List.replicate 8 (List.replicate 32 0), forward := List.replicate 24 0
    feedback := List.replicate 3 0, phase := 0 }

/-- Taps as an adaptation by least mean squares leaves them: free (R267; log 149). -/
def LaneTaps.adapted (v : Nat) : LaneTaps :=
  let run (first n : Nat) : List Int := (List.range n).map (fun k => Config.lmsTap v (first + k))
  { dense := run 0 128, inWindow := (List.range 8).map (fun k => run (128 + 32 * k) 32), forward := run 384 24
    feedback := run 408 3, phase := Config.lmsTap v 411 }

def TetherSt.reset : TetherSt :=
  { state := 0, fast := false, tries := 0, boot := false, pendQuiet := false, kept := false,
    frozen := false, go := false, decided := false, bothAt := none, noGo := false, lock := 0, main := none, shadow := none,
    inverted := false, lastSeq := 0, badRun := 0, partnerGood := false, partnerLock := false,
    partnerAsk := false, partnerMargin := 0, margin := 0, quality := [], iters := [], echoRes := 0, windows := [],
    taps := LaneTaps.cleared,
    framesLost := 0, framesFixed := 0, losses := 0, takeovers := 0, trained := 0, violations := 0,
    txSeq := 0, frames := 0, phaseFrames := 0, phaseAt := 0, quietLeft := none, huntSince := 0, askSince := none,
    txFrame := 0, txTime := 0, sending := false, txBefore := 0, rxTime := 0 }

def BridleSt.reset : BridleSt :=
  { ctrlq := [], due := [], reqId := 0, reqDue := false, reqSent := none, reqTick := none, markDue := false, dlq := [],
    opened := [], closed := [], erased := 0, dropped := 0, alarms := [] }

/-- A link whose state restarts sends RESET in each of its first 16 frames (R305). -/
def LinkSt.reset : LinkSt :=
  { txPsn := 0, window := [], resend := [], sent := [], rxPsn := 0, nakAt := none, nakDue := false,
    ackDue := false, unacked := 0, unackedAt := 0, resetLeft := 16, resetAt := none, advanced := 0,
    replays := 0, naks := 0 }

def LaneSt.reset : LaneSt :=
  { teth := TetherSt.reset, rx := [], protoViol := 0, bridle := BridleSt.reset, link := LinkSt.reset }

def VcSt.reset : VcSt :=
  { rxConsumed := 0, rxProduced := 0, discarded := 0, txPosted := 0, txDone := 0, txStarted := 0,
    total := 0, advert := none, rxStarted := 0, rx := none, tx := none }

def Dyn.lane (d : Dyn) (n : Nat) : LaneSt := Map.get LaneSt.reset d.lanes n

def Dyn.onLane (d : Dyn) (n : Nat) (f : LaneSt → LaneSt) : Dyn :=
  { d with lanes := Map.upd LaneSt.reset d.lanes n f }

def Dyn.onTeth (d : Dyn) (n : Nat) (f : TetherSt → TetherSt) : Dyn :=
  d.onLane n (fun x => { x with teth := f x.teth })

def Dyn.onBridle (d : Dyn) (n : Nat) (f : BridleSt → BridleSt) : Dyn :=
  d.onLane n (fun x => { x with bridle := f x.bridle })

def Dyn.onLink (d : Dyn) (n : Nat) (f : LinkSt → LinkSt) : Dyn :=
  d.onLane n (fun x => { x with link := f x.link })

def Dyn.vc (d : Dyn) (v : Nat) : VcSt := Map.get VcSt.reset d.vcs v

def Dyn.onVc (d : Dyn) (v : Nat) (f : VcSt → VcSt) : Dyn :=
  { d with vcs := Map.upd VcSt.reset d.vcs v f }

/-- Source identifier of lane `n`. -/
def laneSrc (n : Nat) : Nat := 0x0500 + n

/-- What a lane is set to: its LANES record, or the boot link's fixed settings (R257, R283). -/
structure LaneCfg where
  rate : Nat
  auto : Bool
  startQuiet : Bool
  lockLoss : Nat
  marginMin : Nat
  tries : Nat
  relock : Nat
  /-- TX_AMPL in mV, PRE and POST in 1/64 (R259). -/
  ampl : Nat
  pre : Nat
  post : Nat
deriving DecidableEq, Repr

def bootCfg : LaneCfg :=
  { rate := 0, auto := true, startQuiet := false, lockLoss := 16, marginMin := 68, tries := 0, relock := 1024,
    ampl := 800, pre := 0, post := 8 }

def laneRecord (img : Img) (n : Nat) : Option (List Byte) := img.recordBy secLanes 0 1 n

def laneCfg (img : Img) (d : Dyn) (n : Nat) : Option LaneCfg :=
  if (d.lane n).teth.boot then some bootCfg
  else (laneRecord img n).map (fun r =>
    { rate := fld r 1 1, auto := bit (fld r 3 1) 0, startQuiet := bit (fld r 3 1) 1,
      lockLoss := fld r 8 1, marginMin := fld r 9 1, tries := fld r 0xA 1, relock := fld r 0xC 2, ampl := fld r 4 2, pre := fld r 6 1,
      post := fld r 7 1 })

/-- RATE in force; 0 for a lane without settings. -/
def laneRate (img : Img) (d : Dyn) (n : Nat) : Nat := ((laneCfg img d n).map LaneCfg.rate).getD 0

/-- RX_GOOD (Table 10.9). -/
def rxGood (img : Img) (d : Dyn) (n : Nat) : Bool :=
  let t := (d.lane n).teth
  t.lock == 2 && (match laneCfg img d n with
    | some c => decide (c.marginMin ≤ t.margin)
    | none => false)

/-- What lane `n` drives for symbol `m` of the last frame it sent, in 1/384 mV; a silent transmitter drives
zero (R259). The symbol after a frame is the first of the next one's MARKER, +3. -/
def laneDrive (img : Img) (d : Dyn) (n m : Nat) : Int :=
  let t := (d.lane n).teth
  match laneCfg img d n with
  | none => 0
  | some c =>
    if !t.sending then 0
    else lineDrive c.ampl c.pre c.post (if m = 0 then t.txBefore else symLevel t.txFrame (m - 1))
      (symLevel t.txFrame m) (if m = 4351 then 3 else symLevel t.txFrame (m + 1))

/-- Frame periods of the phase that have passed: counted by the frames of the lane's clock, or by tick time
where more of it has passed (R269; log 123). -/
def phaseClock (img : Img) (d : Dyn) (n : Nat) : Nat :=
  let t := (d.lane n).teth
  max t.phaseFrames ((d.now256 - t.phaseAt) * (1400000 * 2 ^ laneRate img d n) / (4352 * 196608 * 256))

/-- One class 5 report per kind, lane and counter epoch (R284, R314). -/
def violationReport (d : Dyn) (key n kind : Nat) : Dyn :=
  if epochFirst d key (laneSrc n) then event (epochMark d key (laneSrc n)) (laneSrc n) 5 0x0586 [BitVec.ofNat 8 kind]
  else d

/-- A partner's breach of the lane's rules (R284). -/
def violation (d : Dyn) (n kind : Nat) : Dyn :=
  violationReport (d.onTeth n (fun t => { t with violations := satAdd 0xFFFFFFFF t.violations 1 }))
    (0x058600 + kind) n kind

/-- A partner's breach of its protocol (R314). -/
def protoViolation (d : Dyn) (n kind : Nat) : Dyn :=
  violationReport (d.onLane n (fun x => { x with protoViol := satAdd 0xFFFFFFFF x.protoViol 1 }))
    (0x058610 + kind) n kind

def dropContainer (d : Dyn) (n : Nat) : Dyn :=
  d.onBridle n (fun b => { b with dropped := satAdd 0xFFFF b.dropped 1 })

/-- The downlink streams whose ring holds handle `h`, with its place in the ring. -/
def ringStreams (img : Img) (h : Nat) : List (Nat × Nat × Nat) :=
  ((((img.records secAntenna).filter (fun r => fld r 1 1 % 2 == 1)).map (fun r => fld r 0 1)).eraseDups).filterMap
    (fun s =>
      let (first, depth) := ringOf img s 1
      if first ≤ h ∧ h < first + depth then some (s, h - first, depth) else none)

/-- The index of the container that place `i` of a ring of `depth` holds now (R295). -/
def ringIndex (qn : Int) (i depth : Nat) : Int :=
  let lo := qn - (depth / 2 : Nat)
  lo + ((i : Int) - lo) % (depth : Int)

/-- The containers that wait with handle `h` go out as ZERO units from here on, as it turned POISONED (R295). -/
def zeroWaiting (h : Nat) (d : Dyn) : Dyn :=
  let zero (b : BridleSt) : BridleSt :=
    { b with dlq := b.dlq.map (fun c => if c.handle = h then { c with zero := true } else c) }
  { d with lanes := d.lanes.map (fun e => (e.1, { e.2 with bridle := zero e.2.bridle })) }

/-- A ring handle became final: its container is to be sent, or is dropped (R295). `hold` takes READERS. -/
def ringFinal (img : Img) (h st : Nat) (hold : Dyn → Dyn) (d : Dyn) : Dyn :=
  (ringStreams img h).foldl (fun d e =>
    let (s, i, depth) := e
    match streamInfo img s 1 with
    | none => d
    | some info =>
      let qn := qNow img d info
      let q := ringIndex qn i depth
      if (d.lane info.lane).teth.state ≠ 6 || decide (q ≤ qn) then dropContainer d info.lane
      else
        let at_ := (q % (10240 * info.syms : Nat)).toNat
        (hold d).onBridle info.lane (fun b => { b with dlq := b.dlq ++
          [{ stream := s, slot := info.slot, q := at_, handle := h, pos := 0, zero := st != 2 }] })) d

end Sys2Proof.Machine
end

