-- ==== Sys2Proof/Machine/Handles.lean ====
section
/-! DEFINITION. Buffer handles (R124 to R128) and the dispatcher's private tables (R155 to R160). -/

namespace Sys2Proof.Machine

/-- A buffer's address and its size in bytes. -/
structure Buf where
  addr : Nat
  size : Nat
  initial : Nat
deriving DecidableEq, Repr

/-- The buffer that a handle names, by its BUFFERS record (R124); none for an undefined handle. -/
def bufferOf (img : Img) (h : Nat) : Option Buf :=
  ((img.records secBuffers).find? (fun r =>
    decide (fld r 0 2 ≤ h) && decide (h < fld r 0 2 + fld r 4 4))).map (fun r =>
      { addr := fld r 8 6 + (h - fld r 0 2) * (fld r 0xE 2 * 64), size := fld r 0xE 2 * 64,
        initial := bits (fld r 2 1) 1 0 })

/-- A handle as step 11 leaves it (R125). -/
def handleInit (img : Img) (h : Nat) : HandleSt :=
  match bufferOf img h with
  | some b => if b.initial = 1 then { state := 2, readers := 0, task := 0xFFFF, gen := 1 }
    else { state := 0, readers := 0, task := 0xFFFF, gen := 0 }
  | none => { state := 0, readers := 0, task := 0, gen := 0 }

def handleOf (img : Img) (d : Dyn) (h : Nat) : HandleSt :=
  Map.get (handleInit img h) d.disp.handles h

/-- A final state, POISONED included (R128). -/
def isFinal (st : Nat) : Bool := decide (2 ≤ st) && decide (st ≤ 5)

/-- An entry of the handle table in memory (Table 5.3). -/
def handleBytes (b : Buf) (x : HandleSt) : List Byte :=
  leBytes 6 b.addr ++ leBytes 2 (b.size / 64) ++ leBytes 1 x.state ++ zeros 1 ++ leBytes 2 x.readers
  ++ leBytes 2 x.task ++ leBytes 2 x.gen

/-- Write a handle's entry in the dispatcher's own state and in the table (R127). -/
def putHandle (img : Img) (d : Dyn) (h : Nat) (b : Buf) (x : HandleSt) : Dyn :=
  let d1 := { d with disp := { d.disp with handles := Map.set d.disp.handles h x } }
  match handleTable img with
  | some base => (memStore img d1 dispSender (base + 16 * h) (handleBytes b x)).1
  | none => d1

/-- A buffer event of the handle waits for the dispatcher (R171). -/
def eventWaits (d : Dyn) (h : Nat) : Bool := d.disp.bufferEvents.any (fun e => e.1 == h)

/-- Free for a lane block, a ring block or a direct job (R293). -/
def handleFree (d : Dyn) (h : Nat) (x : HandleSt) : Bool :=
  (x.state == 0 || isFinal x.state) && x.readers == 0 && !eventWaits d h

/-- The dispatcher changes a handle (R127). An undefined handle never changes (R125). A handle that
becomes free while it is marked for a pending erase goes straight to ERASED (R293). -/
def setHandle (img : Img) (d : Dyn) (h : Nat) (f : HandleSt → HandleSt) : Dyn :=
  match bufferOf img h with
  | none => d
  | some b =>
    let x := f (handleOf img d h)
    match d.disp.eraseMarks.find? (fun e => e.1 == h) with
    | some e =>
      if handleFree d h x then
        let d1 := putHandle img d h b { x with state := 3, gen := (x.gen + 1) % 65536 }
        event { d1 with disp := { d1.disp with
            walks := d1.disp.walks ++ [h]
            eraseMarks := d1.disp.eraseMarks.filter (fun y => y.1 != h) } } e.2 3 0x0589 []
      else putHandle img d h b x
    | none => putHandle img d h b x

/-- A handle enters a final state: GENERATION counts COMMITTED, ERASED and BLANKED, the wait links
are to be walked, and a ring handle's container goes to its transmit lane block (R127, R128, R160,
R295). -/
def enterFinal (img : Img) (d : Dyn) (h st : Nat) : Dyn :=
  if (bufferOf img h).isNone then d
  else
    let d1 := setHandle img d h (fun x =>
      { x with state := st, gen := if st = 5 then x.gen else (x.gen + 1) % 65536 })
    let d2 := { d1 with disp := { d1.disp with walks := d1.disp.walks ++ [h] } }
    ringFinal img h st (fun d => setHandle img d h (fun x => { x with readers := x.readers + 1 })) d2

/-- A handle that stands in a final state turns POISONED (R132): no container of it goes out anew, and one that waits
goes out as ZERO units (R295). -/
def poisonHandle (img : Img) (d : Dyn) (h : Nat) : Dyn :=
  zeroWaiting h (setHandle img d h (fun x => { x with state := 5 }))

/-- The final commit of a lane or ring block's buffer: a buffer event, which a halted dispatcher does
not accept (R133, R154, R171). -/
def commitBuffer (img : Img) (d : Dyn) (h st : Nat) : Dyn :=
  if d.disp.halted then
    { d with disp := { d.disp with bufferEvents := d.disp.bufferEvents ++ [(h, st)] } }
  else enterFinal img d h st

def incReaders (img : Img) (d : Dyn) (h : Nat) : Dyn :=
  setHandle img d h (fun x => { x with readers := x.readers + 1 })

def decReaders (img : Img) (d : Dyn) (h : Nat) : Dyn :=
  setHandle img d h (fun x => { x with readers := x.readers - 1 })

/-! ### Task entries -/

def TaskEntry.free : TaskEntry :=
  { state := .free, cls := 0, pure := false, lockstep := false, optional := false, autofree := false,
    fallback := 0, cprop := 0, deadline := 0, est := 0, condTask := none, condMask := 0, work := 0,
    arg := 0, inputs := [], outputs := [], awaited := [], gated := false, enterStep := 0,
    readySince := 0, attempts := 0, replays := 0, units := [], avoidTiles := false, unit := 0xFFFF,
    shadow := none, dispatchTick := 0, condition := 0, outcome := 0, resultFlags := 0 }

def Dyn.task (d : Dyn) (n : Nat) : TaskEntry := Map.get TaskEntry.free d.disp.tasks n

def Dyn.setTask (d : Dyn) (n : Nat) (t : TaskEntry) : Dyn :=
  { d with disp := { d.disp with tasks := Map.set d.disp.tasks n t } }

def Dyn.onTask (d : Dyn) (n : Nat) (f : TaskEntry → TaskEntry) : Dyn := d.setTask n (f (d.task n))

/-- Task numbers in a given state. -/
def Dyn.tasksIn (d : Dyn) (st : TaskState) : List Nat :=
  (d.disp.tasks.filter (fun e => e.2.state = st)).map (·.1)

/-- Base of the task table and of the completion table, while they are in use (Tables 6.1, 6.2). -/
def taskTable (img : Img) : Option Nat :=
  let r := img.reg 0x08000000
  if bit r 0 then some (bits r 27 21 * 0x200000) else none

def compTable (img : Img) : Option Nat :=
  let r := img.reg 0x08000004
  if bit r 0 then some (bits r 27 20 * 0x100000) else none

/-- A completion record (Table 6.8). -/
def compBytes (state : Nat) (t : TaskEntry) (now : Nat) (result : List Byte) : List Byte :=
  leBytes 1 state ++ leBytes 1 t.attempts ++ leBytes 2 t.condition ++ leBytes 2 t.unit ++ zeros 2
  ++ leBytes 8 now ++ (result ++ zeros 16).take 16

/-- Write a completion record; a refusal by memory is reported and changes nothing else (R455). -/
def writeComp (img : Img) (d : Dyn) (n : Nat) (rec : List Byte) : Dyn :=
  match compTable img with
  | none => d
  | some base =>
    let a := base + 32 * n
    let (d1, r) := memStore img d dispSender a rec
    if r.status < 2 then d1
    else eventTask d1 0x0800 6 0x0882 (some n) (leBytes 2 n ++ leBytes 6 a)

/-- How an input entry stands against its handle (R159). -/
inductive InputNow where
  | satisfied | awaited | lapsed
deriving DecidableEq, Repr

def inputNow (img : Img) (d : Dyn) (e : HEntry) : InputNow :=
  let x := handleOf img d e.handle
  if e.mode = 1 then if isFinal x.state then .satisfied else .awaited
  else if isFinal x.state && x.gen == e.gen then .satisfied
  else
    let k := (e.gen + 65536 - x.gen) % 65536
    if 1 ≤ k ∧ k ≤ 32767 then .awaited else .lapsed

/-- Wait links in use (R160). -/
def linksUsed (d : Dyn) : Nat := d.disp.tasks.foldl (fun n e => n + e.2.awaited.length) 0

/-- A waiting task whose count is zero enters its ready list (R160). -/
def checkReady (d : Dyn) (n step : Nat) : Dyn :=
  let t := d.task n
  if t.state = .waiting && t.awaited.isEmpty && !t.gated then
    d.setTask n { t with state := .ready, enterStep := step, readySince := d.dispNow }
  else d

/-- The tasks that a cancelled or skipped task's CASCADE reaches (R169). -/
def dependants (img : Img) (d : Dyn) (n : Nat) : List Nat :=
  let t := d.task n
  let nexts := t.outputs.map (fun o => (o.handle, ((handleOf img d o.handle).gen + 1) % 65536))
  (d.disp.tasks.filter (fun e => e.1 != n && e.2.state != .free && e.2.state != .done
    && ((e.2.gated && e.2.condTask == some n)
      || e.2.awaited.any (fun w => w.mode == 0 && nexts.contains (w.handle, w.gen))))).map (·.1)

/-- Finish task `n` without its gates: the record, DONE or FREE, and the cascade (R169, R170). -/
def finishOne (img : Img) (d : Dyn) (n outcome : Nat) (result : List Byte) : Dyn :=
  let t := d.task n
  let casc := if (outcome = 5 ∨ outcome = 6 ∨ outcome = 7) ∧ t.cprop = 0 then dependants img d n else []
  let d1 := writeComp img d n (compBytes outcome t (d.nowAt 0x0800) result)
  let d2 := d1.setTask n { t with
    state := if t.autofree then .free else .done
    awaited := []
    gated := false
    outcome
    resultFlags := fld (result ++ zeros 16) 2 2 }
  { d2 with disp := { d2.disp with cascades := d2.disp.cascades ++ casc } }

/-- The gate of COND_TASK (R160): open for a COMMITTED task whose FLAGS share a bit with the mask. -/
def gateOpen (x : TaskEntry) (mask : Nat) : Bool :=
  x.outcome == 1 && Nat.land x.resultFlags mask != 0

/-- Evaluate the gates on finished tasks; a closed gate skips its task at once, which gates more.
`fuel` is the number of entries of the task table. -/
def runGates (img : Img) : Nat → List Nat → Dyn → Dyn
  | 0, _, d => d
  | _ + 1, [], d => d
  | fuel + 1, n :: work, d =>
    let src := d.task n
    let deps := (d.disp.tasks.filter (fun e => e.2.state = .waiting && e.2.gated
      && e.2.condTask == some n)).map (·.1)
    let (d1, more) := deps.foldl (fun (acc : Dyn × List Nat) m =>
      let t := acc.1.task m
      if gateOpen src t.condMask then
        (checkReady (acc.1.setTask m { t with gated := false }) m acc.1.disp.step, acc.2)
      else (finishOne img acc.1 m 7 [], acc.2 ++ [m])) (d, [])
    runGates img fuel (work ++ more) d1

/-- Finish task `n`: 1 COMMITTED, 2 ERASED, 3 BLANKED, 4 HELD, 5 CANCELLED_BEFORE_DISPATCH,
6 CANCELLED, 7 SKIPPED (Table 6.8). -/
def finishTask (img : Img) (d : Dyn) (n outcome : Nat) (result : List Byte) : Dyn :=
  runGates img 32769 [n] (finishOne img d n outcome result)

end Sys2Proof.Machine
end

