-- ==== Sys2Proof/Machine/CoreMem.lean ====
section
/-! DEFINITION. A core's accesses to its local memory, slot memory and DRAM, their errors (R198 to
R200, R222), one instruction at its boundary, and a lockstep pair's signature (R140). -/

namespace Sys2Proof.Machine

/-- The core as a sender of packets (R319). -/
def coreSender (d : Dyn) (c : Nat) : Sender :=
  { source := coreSrc c, priv := Priv.num (d.status c).pl }

/-- The core is the shadow of a lockstep pair: its stores go only into its signature (R140). -/
def isShadow (d : Dyn) (c : Nat) : Bool := (d.status c).shadow

/-- A store enters the signature of a core of a lockstep pair: 8 bytes of address, the size, the
data (R140). -/
def feedSig (d : Dyn) (c a : Nat) (bytes : List Byte) : Dyn :=
  if lockstepTask d c then
    d.onTsk c (fun t => { t with
      sig := BitVec.ofNat 64 (crc64Feed t.sig.toNat (leBytes 8 a ++ leBytes 1 bytes.length ++ bytes)) })
  else d

/-- The words of local memory that `n` bytes from `a` touch. -/
def localWords (a n : Nat) : List Nat := (List.range ((a + n + 3) / 4 - a / 4)).map (a / 4 + ·)

/-- The status of a read of local memory that met a parity failure (R177); no response has it. -/
def parityStatus : Nat := 16

/-- Read `n` bytes of local memory, slot memory or DRAM. -/
def plainLoad (img : Img) (d : Dyn) (c a n : Nat) : Dyn × Resp :=
  if inLocal a then
    if (localWords a n).any (fun w => (d.core c).parity.contains w) then
      (d, { status := parityStatus, reason := 0, data := [] })
    else (d, { status := 0, reason := 0, data := Memory.readN (d.core c).local_ a n })
  else memLoad img d (coreSender d c) a n

/-- Write local memory, slot memory or DRAM; a shadow's stores outside its tile go nowhere (R140, R196).
A word of local memory that is written whole has good parity again. -/
def plainStore (img : Img) (d : Dyn) (c a : Nat) (bytes : List Byte) : Dyn × Resp :=
  if inLocal a then
    (d.onCore c (fun x => { x with
      local_ := Memory.writeN x.local_ a bytes
      parity := x.parity.filter (fun w => decide (4 * w < a) || decide (a + bytes.length < 4 * w + 4)) }), Resp.ok)
  else if isShadow d c then (d, Resp.ok)
  else memStore img d (coreSender d c) a bytes

/-- The condition that a failed response raises against the task (Table 7.15). -/
def respCond (img : Img) (d : Dyn) (c a status : Nat) : Nat :=
  if status = 4 then
    let declared := match (d.core c).tsk.task with
      | some n => (d.task n).inputs.any (fun e => match bufferOf img e.handle with
          | some b => decide (b.addr ≤ a) && decide (a < b.addr + b.size)
          | none => false)
      | none => false
    if declared then 0x0701 else 0x0702
  else 0x0601

/-- A failed response with a task present: its condition is raised and the core will take ABORT with
DETAIL 2 (R200). -/
def raiseAccess (img : Img) (d : Dyn) (c a status : Nat) : Dyn :=
  let cond := respCond img d c a status
  let d1 := raiseTask d (coreSrc c) cond a 0
  d1.onTsk c (fun t => { t with abort := t.abort.or (some (2, BitVec.ofNat 16 cond)) })

/-- An error response to a store (R199, R222). -/
def storeFailed (img : Img) (d : Dyn) (c a status : Nat) : Dyn :=
  if (d.core c).tsk.task.isSome then raiseAccess img d c a status
  else d.onTsk c (fun t => { t with storeErrs := t.storeErrs ++
      [{ addr := BitVec.ofNat 48 a, kind := status, store := true }] })

/-- A read of local memory meets a parity failure: CORE_PARITY is raised on the core, once, and the load
does not complete (R177, R200, R201; log 138). -/
def parityFailed (d : Dyn) (c a : Nat) : Res :=
  if d.disp.detects.any (fun r => r.unit == coreSrc c && r.cond == 0x0101) then .wait d
  else .wait (raiseTask d (coreSrc c) 0x0101 a 0)

/-- An error response to a load: DATA_ERROR with no task present; with one, the condition and ABORT.
In a handler the load completes with a free value first (log 21). -/
def loadFailed (img : Img) (d : Dyn) (c a status : Nat) (free : Dyn → Nat → Dyn) : Res :=
  if status = parityStatus then parityFailed d c a
  else if (d.core c).tsk.task.isSome then
    let d1 := raiseAccess img d c a status
    if (d1.status c).hact then
      let (v, d2) := freshNat d1
      .done (free d2 v) none
    else .wait d1
  else .exc d (excData (4 * status) (BitVec.ofNat 48 a))

/-! ### One instruction -/

/-- The instruction cache may hold an older copy of the word at the PC (R206; log 10). -/
def maybeCached (d : Dyn) (c : Nat) : Bool := (d.core c).lines.contains ((d.pc c).toNat / 128)

/-- The core issues an instruction: a clock passes, and the cache may hold the block of its PC. -/
def issueAt (d : Dyn) (c : Nat) : Dyn :=
  let k := (d.pc c).toNat / 128
  d.onCore c (fun x => { x with clock := x.clock + 1, lines := if x.lines.contains k then x.lines else k :: x.lines })

/-- What a fetch finds at the PC. -/
inductive Fetched where
  /-- An instruction: the one that the command names. -/
  | word
  /-- A word that is none (R181, R182). -/
  | illegal
  /-- No word: an error response of this status. -/
  | failed (status : Nat)
deriving DecidableEq, Repr

/-- The fetch of the word at the PC: from the instruction cache where a free value says that it holds the word's
block (R206; log 10), else a read of memory, which corrects and counts what it meets (R343). -/
def fetch (img : Img) (d : Dyn) (c : Nat) : Dyn × Fetched :=
  let (hit, d1) := if maybeCached d c then freshNat d else (0, d)
  if hit % 2 = 1 then (d1, .word)
  else
    let (d2, r) := memLoad img d1 (coreSender d1 c) (d1.pc c).toNat 4
    (d2, if 2 ≤ r.status then .failed r.status
      else if isInstruction (BitVec.ofNat 32 (leNat r.data)) then .word else .illegal)

/-- An error response to a fetch (R200, Table 7.13): DATA_ERROR with no task present; with one, its
condition and ABORT. -/
def fetchFailed (img : Img) (d : Dyn) (c status : Nat) : Dyn :=
  let a := d.pc c
  if (d.core c).tsk.task.isSome then
    if (d.core c).tsk.abort.isSome then d else raiseAccess img d c a.toNat status
  else syncException d c (excData (2 + 4 * status) a)

/-- The instruction that core `c` has fetched, of class `icls` (R422). -/
def runFetched (c icls : Nat) (f : Img → Dyn → Res) (img : Img) (d : Dyn) : Dyn :=
  let st := d.status c
  match f img d with
  | .done d' goto => retire d' c icls st.pl st.inrep goto
  | .exc d' e => syncException d' c e
  | .wait d' => d'

/-- One instruction of core `c` at its boundary, of class `icls` (R422): what comes first is taken first, the
word at the PC is fetched, and the instruction runs; a word that is none raises ILLEGAL (R181). -/
def bronze (c : Core) (icls : Nat) (f : Img → Dyn → Res) (img : Img) (d : Dyn) : Dyn :=
  if d.issues c.val then
    match boundaryEvent d c.val with
    | some d' => d'
    | none =>
      if fetchDenied img d c.val then syncException d c.val (excAccess 1 (d.pc c.val))
      else match fetch img d c.val with
        | (d1, .word) => runFetched c.val icls f img (issueAt d1 c.val)
        | (d1, .illegal) => syncException (issueAt d1 c.val) c.val excIllegal
        | (d1, .failed status) => fetchFailed img d1 c.val status
  else d

/-- Count a load or a store of a core (Table 17.4), and note a tagged one's address (R426). -/
def countAccess (d : Dyn) (c ev a : Nat) : Dyn :=
  sampleAccess
    (countEv d (coreSrc c) ev 1 { EvInfo.plain with priv := Priv.num (d.status c).pl, addr := some a }) c a

/-- A store of any length: its 64-byte parts are `part`ed one by one (counted, signed), and the parts
in one aligned 128-byte block go out as one WRITE packet (R220, R344); error responses are
asynchronous (R222). -/
def blockStore (img : Img) (c a : Nat) (bytes : List Byte) (part : Dyn → Nat → List Byte → Dyn)
    (d : Dyn) : Dyn :=
  (packetsOf a bytes.length).foldl (fun d p =>
    let data (q : Nat × Nat) : List Byte := (bytes.drop (q.1 - a)).take q.2
    let d1 := (pieces 64 3 p.1 p.2).foldl (fun d q => part d q.1 (data q)) d
    let (d2, r) := plainStore img d1 c p.1 (data p)
    if 2 ≤ r.status then storeFailed img d2 c p.1 r.status else d2) d

/-- Count a circular-outside event (R187). -/
def countOutside (d : Dyn) (c : Nat) (b : Bool) : Dyn :=
  countEv d (coreSrc c) 0x0107 (b2n b) { EvInfo.plain with priv := Priv.num (d.status c).pl }

end Sys2Proof.Machine
end

