-- ==== Sys2Proof/Machine/Accumulator.lean ====
section
/-! DEFINITION. Bronze multiply-accumulate and accumulator instructions (R174, R189 to R191). -/

namespace Sys2Proof.Machine

/-- The low and high signed halves of a word: I and Q of a complex value (Table 7.1). -/
def loHalf (w : Word) : Int := sx 16 w.toNat
def hiHalf (w : Word) : Int := sx 16 (w.toNat / 65536)

/-- Write an exact sum to accumulator `k`: wrapped, or saturated with ASAT (R190). -/
def putAcc (d : Dyn) (c k : Nat) (sat : Bool) (x : Int) : Dyn :=
  if sat then (d.asat c (clips 72 x)).wacc c k (BitVec.ofInt 72 (satN 72 x))
  else d.wacc c k (BitVec.ofInt 72 x)

/-- An instruction that saturated counts once (Table 17.4). -/
def countSat (d : Dyn) (c icls : Nat) (b : Bool) : Dyn :=
  countEv d (coreSrc c) 0x0108 (b2n b)
    { EvInfo.plain with priv := Priv.num (d.status c).pl, icls := some icls }

/-- A real operation of Table 7.12: `f` gives the exact sum from A, the doubling and the operands. -/
def macReal (c : Core) (acc : BitVec 3) (ra rb : Reg5) (frac sat : Bool) (rsv : BitVec 7)
    (f : Int → Int → Word → Word → Int) (_ : Img) (d : Dyn) : Res :=
  legally (decide (rsv = 0)) d (fun d =>
    let x := f (d.racc c.val acc.toNat).toInt (if frac then 2 else 1) (d.rd c.val ra) (d.rd c.val rb)
    .done (putAcc (countSat d c.val 1 (sat && clips 72 x)) c.val acc.toNat sat x) none)

/-- A complex operation of Table 7.12 on an even accumulator pair (R173, R189). -/
def macCplx (c : Core) (acc : BitVec 3) (ra rb : Reg5) (frac sat : Bool) (rsv : BitVec 7)
    (f : Int → Int → Int → Word → Word → Int × Int) (_ : Img) (d : Dyn) : Res :=
  legally (decide (rsv = 0) && decide (acc.toNat % 2 = 0)) d (fun d =>
    let r := f (d.racc c.val acc.toNat).toInt (d.racc c.val (acc.toNat + 1)).toInt
      (if frac then 2 else 1) (d.rd c.val ra) (d.rd c.val rb)
    let d0 := countSat d c.val 1 (sat && (clips 72 r.1 || clips 72 r.2))
    .done (putAcc (putAcc d0 c.val acc.toNat sat r.1) c.val (acc.toNat + 1) sat r.2) none)

/-- The product of two complex words, and of the first with the conjugate of the second. -/
def cmulRe (a b : Word) : Int := loHalf a * loHalf b - hiHalf a * hiHalf b
def cmulIm (a b : Word) : Int := loHalf a * hiHalf b + hiHalf a * loHalf b
def cmulJRe (a b : Word) : Int := loHalf a * loHalf b + hiHalf a * hiHalf b
def cmulJIm (a b : Word) : Int := hiHalf a * loHalf b - loHalf a * hiHalf b

def execMpyW (c : Core) (acc : BitVec 3) (ra rb : Reg5) (frac sat : Bool) (rsv : BitVec 7)
    (s : State) : Out :=
  act (bronze c 1 (macReal c acc ra rb frac sat rsv (fun _ k a b => k * (a.toInt * b.toInt)))) s
def execMacW (c : Core) (acc : BitVec 3) (ra rb : Reg5) (frac sat : Bool) (rsv : BitVec 7)
    (s : State) : Out :=
  act (bronze c 1 (macReal c acc ra rb frac sat rsv (fun x k a b => x + k * (a.toInt * b.toInt)))) s
def execMsuW (c : Core) (acc : BitVec 3) (ra rb : Reg5) (frac sat : Bool) (rsv : BitVec 7)
    (s : State) : Out :=
  act (bronze c 1 (macReal c acc ra rb frac sat rsv (fun x k a b => x - k * (a.toInt * b.toInt)))) s
def execMacH2 (c : Core) (acc : BitVec 3) (ra rb : Reg5) (frac sat : Bool) (rsv : BitVec 7)
    (s : State) : Out :=
  act (bronze c 1 (macReal c acc ra rb frac sat rsv
    (fun x k a b => x + k * (loHalf a * loHalf b) + k * (hiHalf a * hiHalf b)))) s
def execCmpy (c : Core) (acc : BitVec 3) (ra rb : Reg5) (frac sat : Bool) (rsv : BitVec 7)
    (s : State) : Out :=
  act (bronze c 1 (macCplx c acc ra rb frac sat rsv
    (fun _ _ k a b => (k * cmulRe a b, k * cmulIm a b)))) s
def execCmac (c : Core) (acc : BitVec 3) (ra rb : Reg5) (frac sat : Bool) (rsv : BitVec 7)
    (s : State) : Out :=
  act (bronze c 1 (macCplx c acc ra rb frac sat rsv
    (fun x y k a b => (x + k * cmulRe a b, y + k * cmulIm a b)))) s
def execCmacj (c : Core) (acc : BitVec 3) (ra rb : Reg5) (frac sat : Bool) (rsv : BitVec 7)
    (s : State) : Out :=
  act (bronze c 1 (macCplx c acc ra rb frac sat rsv
    (fun x y k a b => (x + k * cmulJRe a b, y + k * cmulJIm a b)))) s
def execCmsu (c : Core) (acc : BitVec 3) (ra rb : Reg5) (frac sat : Bool) (rsv : BitVec 7)
    (s : State) : Out :=
  act (bronze c 1 (macCplx c acc ra rb frac sat rsv
    (fun x y k a b => (x - k * cmulRe a b, y - k * cmulIm a b)))) s

/-- A narrowing of accumulator `k` to `n` bits: the value, and whether it clipped (R11, R191). -/
def narrowAcc (d : Dyn) (c k n s : Nat) : Int × Bool :=
  let x := roundShift (d.racc c k).toInt s
  (satN n x, clips n x)

/-- An accumulator operation with its reserved byte zero. -/
def accOp (ok : Bool) (rsv : BitVec 8) (f : Dyn → Dyn) (_ : Img) (d : Dyn) : Res :=
  legally (decide (rsv = 0) && ok) d (fun d => .done (f d) none)

def execArdW (c : Core) (acc : BitVec 3) (rd : Reg5) (sh : BitVec 6) (rsv : BitVec 8) (s : State) : Out :=
  act (bronze c 1 (accOp true rsv (fun d =>
    let (v, cl) := narrowAcc d c.val acc.toNat 32 sh.toNat
    ((countSat d c.val 1 cl).dsat c.val cl).wd c.val rd (BitVec.ofInt 32 v)))) s
def execArdH (c : Core) (acc : BitVec 3) (rd : Reg5) (sh : BitVec 6) (rsv : BitVec 8) (s : State) : Out :=
  act (bronze c 1 (accOp true rsv (fun d =>
    let (v, cl) := narrowAcc d c.val acc.toNat 16 sh.toNat
    ((countSat d c.val 1 cl).dsat c.val cl).wd c.val rd (BitVec.ofInt 32 v)))) s
def execArdC (c : Core) (acc : BitVec 3) (rd : Reg5) (sh : BitVec 6) (rsv : BitVec 8) (s : State) : Out :=
  act (bronze c 1 (accOp (decide (acc.toNat % 2 = 0)) rsv (fun d =>
    let (v, cl) := narrowAcc d c.val acc.toNat 16 sh.toNat
    let (v', cl') := narrowAcc d c.val (acc.toNat + 1) 16 sh.toNat
    ((countSat d c.val 1 (cl || cl')).dsat c.val (cl || cl')).wd c.val rd
      (BitVec.ofInt 16 v' ++ BitVec.ofInt 16 v)))) s
def execAwr (c : Core) (acc : BitVec 3) (rd : Reg5) (sh : BitVec 6) (rsv : BitVec 8) (s : State) : Out :=
  act (bronze c 1 (accOp true rsv (fun d =>
    d.wacc c.val acc.toNat (BitVec.ofInt 72 ((d.rd c.val rd).toInt * (2 ^ sh.toNat : Nat)))))) s
def execAclr (c : Core) (acc : BitVec 3) (_rd : Reg5) (_sh : BitVec 6) (rsv : BitVec 8) (s : State) : Out :=
  act (bronze c 1 (accOp true rsv (fun d => d.wacc c.val acc.toNat 0))) s
def execAshr (c : Core) (acc : BitVec 3) (_rd : Reg5) (sh : BitVec 6) (rsv : BitVec 8) (s : State) : Out :=
  act (bronze c 1 (accOp true rsv (fun d =>
    d.wacc c.val acc.toNat (BitVec.ofInt 72 (roundShift (d.racc c.val acc.toNat).toInt sh.toNat))))) s
def execArdl (c : Core) (acc : BitVec 3) (rd : Reg5) (_sh : BitVec 6) (rsv : BitVec 8) (s : State) : Out :=
  act (bronze c 1 (accOp true rsv (fun d =>
    d.wd c.val rd ((d.racc c.val acc.toNat).extractLsb' 0 32)))) s
def execArdm (c : Core) (acc : BitVec 3) (rd : Reg5) (_sh : BitVec 6) (rsv : BitVec 8) (s : State) : Out :=
  act (bronze c 1 (accOp true rsv (fun d =>
    d.wd c.val rd ((d.racc c.val acc.toNat).extractLsb' 32 32)))) s
def execArdx (c : Core) (acc : BitVec 3) (rd : Reg5) (_sh : BitVec 6) (rsv : BitVec 8) (s : State) : Out :=
  act (bronze c 1 (accOp true rsv (fun d =>
    d.wd c.val rd (((d.racc c.val acc.toNat).extractLsb' 64 8).signExtend 32)))) s

/-- AINS (Table 7.14): which bits of A the register replaces. -/
def insAcc (a : BitVec 72) (w : Word) (part : Nat) : BitVec 72 :=
  match part with
  | 0 => a.extractLsb' 32 40 ++ w
  | 1 => a.extractLsb' 64 8 ++ w ++ a.extractLsb' 0 32
  | _ => w.extractLsb' 0 8 ++ a.extractLsb' 0 64

def execAins (c : Core) (acc : BitVec 3) (rd : Reg5) (sh : BitVec 6) (rsv : BitVec 8) (s : State) : Out :=
  act (bronze c 1 (accOp (decide (sh.toNat ≤ 2)) rsv (fun d =>
    d.wacc c.val acc.toNat (insAcc (d.racc c.val acc.toNat) (d.rd c.val rd) sh.toNat)))) s

end Sys2Proof.Machine
end

