-- ==== Sys2Proof/Machine/Crypto.lean ====
section
/-! DEFINITION. The ciphers and checks that the spec names by their standards: AES-256 (FIPS 197), GCM
(SP 800-38D), AES-KW (SP 800-38F), SHA-384 (FIPS 180-4) and ECDSA P-384 (FIPS 186-5) (R34, R36, R375,
R388, R394). Their constants are PRESUMED from the standards (log 37), and computed where they can be. -/

namespace Sys2Proof.Machine

/-! ### AES-256 -/

/-- Multiplication by x in GF(2^8) with polynomial 0x11B. -/
def gfDouble (a : Nat) : Nat := if a < 128 then 2 * a else (2 * a) ^^^ 0x11B

/-- Every byte of a block doubled. -/
def doubleAll (s : Nat) : Nat :=
  (s &&& 0x7F7F7F7F7F7F7F7F7F7F7F7F7F7F7F7F) * 2 ^^^ (s / 128 &&& 0x01010101010101010101010101010101) * 0x1B

/-- Every byte of a block times a constant below 16 in GF(2^8). -/
def timesAll (k s : Nat) : Nat :=
  let s2 := doubleAll s
  let s4 := doubleAll s2
  let pick (i x : Nat) : Nat := if k.testBit i then x else 0
  pick 0 s ^^^ pick 1 s2 ^^^ pick 2 s4 ^^^ pick 3 (doubleAll s4)

/-- Every column turned so that its byte r is the old byte r + k. -/
def turnColumns (k s : Nat) : Nat :=
  let low := (2 ^ (32 - 8 * k) - 1) * 0x1000000010000000100000001
  (s / 2 ^ (8 * k) &&& low) + (s * 2 ^ (32 - 8 * k) &&& (2 ^ 128 - 1 - low))

/-- The S-box, a row of 16 bytes a number, the first byte of a row most significant. -/
def sboxRows : List Nat :=
  [0x637c777bf26b6fc53001672bfed7ab76, 0xca82c97dfa5947f0add4a2af9ca472c0,
   0xb7fd9326363ff7cc34a5e5f171d83115, 0x04c723c31896059a071280e2eb27b275,
   0x09832c1a1b6e5aa0523bd6b329e32f84, 0x53d100ed20fcb15b6acbbe394a4c58cf,
   0xd0efaafb434d338545f9027f503c9fa8, 0x51a3408f929d38f5bcb6da2110fff3d2,
   0xcd0c13ec5f974417c4a77e3d645d1973, 0x60814fdc222a908846eeb814de5e0bdb,
   0xe0323a0a4906245cc2d3ac629195e479, 0xe7c8376d8dd54ea96c56f4ea657aae08,
   0xba78252e1ca6b4c6e8dd741f4bbd8b8a, 0x703eb5664803f60e613557b986c11d9e,
   0xe1f8981169d98e949b1e87e9ce5528df, 0x8ca1890dbfe6426841992d0fb054bb16]

/-- The inverse S-box. -/
def invSboxRows : List Nat :=
  [0x52096ad53036a538bf40a39e81f3d7fb, 0x7ce339829b2fff87348e4344c4dee9cb,
   0x547b9432a6c2233dee4c950b42fac34e, 0x082ea16628d924b2765ba2496d8bd125,
   0x72f8f66486689816d4a45ccc5d65b692, 0x6c704850fdedb9da5e154657a78d9d84,
   0x90d8ab008cbcd30af7e45805b8b34506, 0xd02c1e8fca3f0f02c1afbd0301138a6b,
   0x3a9111414f67dcea97f2cfcef0b4e673, 0x96ac7422e7ad3585e2f937e81c75df6e,
   0x47f11a711d29c5896fb7620eaa18be1b, 0xfc563e4bc6d279209adbc0fe78cd5af4,
   0x1fdda8338807c731b11210592780ec5f, 0x60517fa919b54a0d2de57a9f93c99cef,
   0xa0e03b4dae2af5b0c8ebbb3c83539961, 0x172b047eba77d626e169146355210c7d]

def lookup (rows : List Nat) (a : Nat) : Nat := rows.getD (a / 16) 0 / 2 ^ (8 * (15 - a % 16)) % 256

/-- Byte `i` of a word or a block, byte 0 least significant. -/
def byteOf (x i : Nat) : Nat := x / 2 ^ (8 * i) % 256

/-- The number whose byte `i` is `f i`, for `n` bytes. -/
def ofBytes (n : Nat) (f : Nat → Nat) : Nat := (List.range n).foldl (fun a i => a + f i * 2 ^ (8 * i)) 0

def subWord (w : Nat) : Nat := ofBytes 4 (fun i => lookup sboxRows (byteOf w i))

/-- The next word of the AES-256 key expansion, on the words so far, last one first. -/
def expandStep (ws : List Nat) (i : Nat) : List Nat :=
  let prev := ws.headD 0
  let rcon := (List.range (i / 8 - 1)).foldl (fun a _ => gfDouble a) 1
  let t := if i % 8 = 0 then subWord (prev / 2 ^ 8 + prev % 2 ^ 8 * 2 ^ 24) ^^^ rcon
    else if i % 8 = 4 then subWord prev
    else prev
  (ws.getD 7 0 ^^^ t) :: ws

/-- The 15 round keys of a 256-bit key, each a block. -/
def aesRoundKeys (key : Nat) : List Nat :=
  let first := (List.range 8).foldl (fun ws i => key / 2 ^ (32 * i) % 2 ^ 32 :: ws) []
  let words := ((List.range 52).foldl (fun ws k => expandStep ws (k + 8)) first).reverse
  (chunks 4 words).map (fun c => c.foldr (fun w a => w + 2 ^ 32 * a) 0)

/-- SubBytes and ShiftRows on a column-ordered block, and their inverse. -/
def subShift (s : Nat) : Nat := ofBytes 16 (fun i => lookup sboxRows (byteOf s ((i + 4 * (i % 4)) % 16)))
def invSubShift (s : Nat) : Nat := ofBytes 16 (fun i => lookup invSboxRows (byteOf s ((i + 12 * (i % 4)) % 16)))

/-- Every column times the circulant of `m` (MixColumns and its inverse). -/
def mixColumns (m : List Nat) (s : Nat) : Nat :=
  (List.range 4).foldl (fun a k => a ^^^ timesAll (m.getD k 0) (turnColumns k s)) 0

/-- AES-256 of one block under expanded round keys. -/
def aesEncrypt (rks : List Nat) (block : List Byte) : List Byte :=
  let s13 := (List.range 13).foldl (fun s i => mixColumns [2, 3, 1, 1] (subShift s) ^^^ rks.getD (i + 1) 0)
    (leNat block ^^^ rks.getD 0 0)
  leBytes 16 (subShift s13 ^^^ rks.getD 14 0)

/-- The inverse cipher on a block whose byte 0 is least significant. -/
def aesDecrypt (rks : List Nat) (block : Nat) : Nat :=
  let s13 := (List.range 13).foldl (fun s i => invSubShift (mixColumns [14, 11, 13, 9] (s ^^^ rks.getD (13 - i) 0)))
    (invSubShift (block ^^^ rks.getD 14 0))
  s13 ^^^ rks.getD 0 0

/-- The key check value: 3 bytes of AES-256 of a zero block (Table 15.4). -/
def keyCheck (key : Nat) : List Byte := (aesEncrypt (aesRoundKeys key) (zeros 16)).take 3

/-! ### GCM -/

/-- A block as GHASH reads it: bit 0 of the field is the most significant bit of byte 0. -/
def blockNat (b : List Byte) : Nat := beNat ((b ++ zeros 16).take 16)

/-- Multiplication in GHASH's field. -/
def ghashMul (x y : Nat) : Nat :=
  ((List.range 128).foldl (fun (acc : Nat × Nat) i =>
    let z := if x.testBit (127 - i) then acc.1 ^^^ acc.2 else acc.1
    let v := if acc.2 % 2 = 1 then (acc.2 / 2) ^^^ (0xE1 * 2 ^ 120) else acc.2 / 2
    (z, v)) (0, y)).1

/-- GHASH goes on over padded data. -/
def ghashFeed (h acc : Nat) (l : List Byte) : Nat :=
  (chunks 16 l).foldl (fun a b => ghashMul (a ^^^ blockNat b) h) acc

/-- The counter-mode text from counter `ctr` up. -/
def ctrText (rks : List Nat) (iv : List Byte) (ctr : Nat) (text : List Byte) : List Byte :=
  let blocks := chunks 16 text
  (((List.range blocks.length).zip blocks).map (fun e =>
    let ks := aesEncrypt rks (iv ++ beBytes 4 (ctr + e.1))
    e.2.zipWith (· ^^^ ·) ks)).flatten

/-- GHASH's key. -/
def ghashKey (rks : List Nat) : Nat := blockNat (aesEncrypt rks (zeros 16))

/-- GCM's tag (96-bit IV): GHASH's state after the padded additional data and ciphertext takes in their
lengths. -/
def gcmTag (rks : List Nat) (iv : List Byte) (aadLen textLen acc : Nat) : List Byte :=
  let last := beBytes 8 (8 * aadLen) ++ beBytes 8 (8 * textLen)
  beBytes 16 (ghashMul (acc ^^^ blockNat last) (ghashKey rks) ^^^ blockNat (aesEncrypt rks (iv ++ beBytes 4 1)))

/-- GCM's tag of a whole message. -/
def gcmTagOf (rks : List Nat) (iv aad cipher : List Byte) : List Byte :=
  let h := ghashKey rks
  gcmTag rks iv aad.length cipher.length (ghashFeed h (ghashFeed h 0 aad) cipher)

/-! ### AES-KW -/

/-- Unwrap five 8-byte blocks: the key of 32 bytes, none where the integrity check fails. -/
def keyUnwrap (kek : Nat) (wrapped : List Byte) : Option (List Byte) :=
  let rks := aesRoundKeys kek
  let steps : List (Nat × Nat) :=
    ((List.range 6).map (fun j => (List.range 4).map (fun i => (5 - j, 4 - i)))).flatten
  let (a, r) := steps.foldl (fun (acc : Nat × List Nat) (st : Nat × Nat) =>
    let t := 4 * st.1 + st.2
    let b := aesDecrypt rks ((acc.1 ^^^ t * 2 ^ 56) + 2 ^ 64 * acc.2.getD (st.2 - 1) 0)
    (b % 2 ^ 64, acc.2.set (st.2 - 1) (b / 2 ^ 64)))
    (leNat (wrapped.take 8), (chunks 8 (wrapped.drop 8)).map leNat)
  if a = 0xA6A6A6A6A6A6A6A6 then some ((r.map (leBytes 8)).flatten) else none

/-! ### SHA-384 -/

/-- The integer `k`-th root of `n`, built from bit `i - 1` down. -/
def rootBits (k n : Nat) : Nat → Nat → Nat
  | 0, acc => acc
  | i + 1, acc => rootBits k n i (if (acc + 2 ^ i) ^ k ≤ n then acc + 2 ^ i else acc)

/-- The first 80 primes. -/
def primes80 : List Nat :=
  ((List.range 410).drop 2).filter (fun n => ((List.range 21).drop 2).all (fun d => n % d ≠ 0 || n == d))

/-- Round constants: 64 fraction bits of the cube roots of the first 80 primes. -/
def shaK : List Nat := primes80.map (fun p => rootBits 3 (p * 2 ^ 192) 68 0 % 2 ^ 64)

/-- Initial value of SHA-384: 64 fraction bits of the square roots of the ninth to sixteenth primes. -/
def sha384Init : List Nat :=
  ((primes80.drop 8).take 8).map (fun p => rootBits 2 (p * 2 ^ 128) 68 0 % 2 ^ 64)

def rotr64 (x k : Nat) : Nat := (x / 2 ^ k ||| x * 2 ^ (64 - k)) % 2 ^ 64

/-- The message schedule of a block. -/
def shaSchedule (block : List Byte) : List Nat :=
  let w0 := ((chunks 8 block).map beNat).reverse
  ((List.range 64).foldl (fun w _ =>
    let x15 := w.getD 14 0
    let x2 := w.getD 1 0
    let s0 := rotr64 x15 1 ^^^ rotr64 x15 8 ^^^ x15 / 2 ^ 7
    let s1 := rotr64 x2 19 ^^^ rotr64 x2 61 ^^^ x2 / 2 ^ 6
    ((w.getD 15 0 + s0 + w.getD 6 0 + s1) % 2 ^ 64) :: w) w0).reverse

/-- One compression. -/
def shaBlock (hs : List Nat) (block : List Byte) : List Nat :=
  let out := ((shaSchedule block).zip shaK).foldl (fun (v : List Nat) (wk : Nat × Nat) =>
    let a := v.getD 0 0
    let b := v.getD 1 0
    let c := v.getD 2 0
    let e := v.getD 4 0
    let f := v.getD 5 0
    let g := v.getD 6 0
    let s1 := rotr64 e 14 ^^^ rotr64 e 18 ^^^ rotr64 e 41
    let ch := (e &&& f) ^^^ ((e ^^^ (2 ^ 64 - 1)) &&& g)
    let t1 := v.getD 7 0 + s1 + ch + wk.2 + wk.1
    let s0 := rotr64 a 28 ^^^ rotr64 a 34 ^^^ rotr64 a 39
    let mj := (a &&& b) ^^^ (a &&& c) ^^^ (b &&& c)
    [(t1 + s0 + mj) % 2 ^ 64, a, b, c, (v.getD 3 0 + t1) % 2 ^ 64, e, f, g]) hs
  hs.zipWith (fun x y => (x + y) % 2 ^ 64) out

/-- SHA-384 of a message: 48 bytes. -/
def sha384 (msg : List Byte) : List Byte :=
  let pad := (239 - msg.length % 128) % 128
  let full := msg ++ [0x80] ++ zeros pad ++ beBytes 16 (8 * msg.length)
  (((chunks 128 full).foldl shaBlock sha384Init).map (beBytes 8)).flatten.take 48

/-! ### ECDSA P-384 -/

def p384 : Nat := 2 ^ 384 - 2 ^ 128 - 2 ^ 96 + 2 ^ 32 - 1
def n384 : Nat := 0xffffffffffffffffffffffffffffffffffffffffffffffffc7634d81f4372ddf581a0db248b0a77aecec196accc52973
def b384 : Nat := 0xb3312fa7e23ee7e4988e056be3f82d19181d9c6efe8141120314088f5013875ac656398d8a2ed19d2a85c8edd3ec2aef
def gx384 : Nat := 0xaa87ca22be8b05378eb1c71ef320ad746e1d3b628ba79b9859f741e082542a385502f25dbf55296c3a545e3872760ab7
def gy384 : Nat := 0x3617de4a96262c6f5d9e98bf9292dc29f8f41dbd289a147ce9da3113b5f0b8c00a60b1ce1d7e819d7a431d7c90ea0e5f

/-- `b ^ e` modulo `m` over the low `bits` bits of `e`. -/
def powMod (m b e : Nat) : Nat → Nat
  | 0 => 1
  | k + 1 =>
    let h := powMod m b (e / 2) k
    if e % 2 = 1 then h * h % m * b % m else h * h % m

/-- The inverse modulo a 384-bit prime. -/
def invMod (m a : Nat) : Nat := powMod m (a % m) (m - 2) 384

/-- A point of P-384, none at infinity. -/
abbrev Point := Option (Nat × Nat)

def pointAdd (p q : Point) : Point :=
  match p, q with
  | none, _ => q
  | _, none => p
  | some (x1, y1), some (x2, y2) =>
    if x1 = x2 ∧ (y1 + y2) % p384 = 0 then none
    else
      let l := if x1 = x2 then (3 * x1 * x1 + (p384 - 3)) * invMod p384 (2 * y1) % p384
        else (y2 + p384 - y1) * invMod p384 (x2 + p384 - x1) % p384
      let x3 := (l * l + 2 * p384 - x1 - x2) % p384
      some (x3, (l * (x1 + p384 - x3) + p384 - y1) % p384)

def pointMul (k : Nat) (p : Point) : Point :=
  ((List.range 384).foldl (fun (acc : Point × Point) i =>
    (if k.testBit i then pointAdd acc.1 acc.2 else acc.1, pointAdd acc.2 acc.2)) (none, p)).1

/-- A point lies on the curve. -/
def onCurve (x y : Nat) : Bool :=
  decide (x < p384) && decide (y < p384)
  && (y * y % p384 == (x * x * x + (p384 - 3) * x + b384) % p384)

/-- ECDSA verification of a digest. -/
def ecdsaVerify (qx qy : Nat) (digest : List Byte) (r s : Nat) : Bool :=
  onCurve qx qy && decide (0 < r) && decide (r < n384) && decide (0 < s) && decide (s < n384)
  && (let e := beNat (digest.take 48)
      let w := invMod n384 s
      match pointAdd (pointMul (e * w % n384) (some (gx384, gy384))) (pointMul (r * w % n384) (some (qx, qy))) with
      | some (x, _) => x % n384 == r
      | none => false)

end Sys2Proof.Machine
end

