-- ==== Sys2Proof/Machine/Dsp.lean ====
section
/-! DEFINITION. The arithmetic of the transform and beam engines: sample formats, constants,
rotations and the FFT (R11, R61 to R65). -/

namespace Sys2Proof.Machine

/-- A complex integer. -/
structure Cx where
  re : Int
  im : Int
deriving DecidableEq, Repr

def Cx.zero : Cx := { re := 0, im := 0 }
def Cx.add (a b : Cx) : Cx := { re := a.re + b.re, im := a.im + b.im }
def Cx.sub (a b : Cx) : Cx := { re := a.re - b.re, im := a.im - b.im }
def Cx.mul (a b : Cx) : Cx := { re := a.re * b.re - a.im * b.im, im := a.re * b.im + a.im * b.re }
def Cx.conj (a : Cx) : Cx := { re := a.re, im := -a.im }
/-- Multiplication by j. -/
def Cx.rot (a : Cx) : Cx := { re := -a.im, im := a.re }
def Cx.norm2 (a : Cx) : Nat := (a.re * a.re + a.im * a.im).toNat
/-- Both components narrowed by `s` bits (R11). -/
def Cx.narrow (a : Cx) (s : Nat) : Cx := { re := roundShift a.re s, im := roundShift a.im s }

/-- Saturation to a format's range (R62), and whether it clips. -/
def clampTo (top x : Int) : Int := if x < -top then -top else if top < x then top else x

def Cx.clamp (a : Cx) (top : Int) : Cx := { re := clampTo top a.re, im := clampTo top a.im }

/-- Components that saturation to `top` clips (R62). -/
def Cx.clipped (a : Cx) (top : Int) : Nat :=
  b2n (decide (clampTo top a.re ≠ a.re)) + b2n (decide (clampTo top a.im ≠ a.im))

/-- Tops of TW24, FD16 and Q1.17 (Table 3.4). -/
def topTW24 : Int := 8388607
def topFD16 : Int := 32767
def topQ17 : Int := 131071

/-- Saturate a list of samples; the second part counts clipped components. -/
def clampAll (top : Int) (l : List Cx) : List Cx × Nat :=
  (l.map (fun x => x.clamp top), l.foldl (fun n x => n + x.clipped top) 0)

/-- An FD16 word (Table 3.4). -/
def cxOfWord (w : Nat) : Cx := { re := sx 16 (w % 65536), im := sx 16 (w / 65536) }
def wordOfCx (a : Cx) : List Byte := leBytes 2 (wrapN 16 a.re) ++ leBytes 2 (wrapN 16 a.im)

/-- The 32-bit words of a buffer. -/
def wordsOf (l : List Byte) : List Nat := (chunks 4 l).map leNat

/-- FD16 words of a buffer. -/
def cxsOf (l : List Byte) : List Cx := (wordsOf l).map cxOfWord

/-- C18 coefficients: real, or I then Q words (Table 3.4). -/
def coefs (complex : Bool) (l : List Byte) : List Cx :=
  if complex then (chunks 2 (wordsOf l)).map (fun p => { re := sx 18 (p.getD 0 0), im := sx 18 (p.getD 1 0) })
  else (wordsOf l).map (fun w => { re := sx 18 w, im := 0 })

/-! ### Constants (R62) -/

/-- 2 pi in units of 2^-120. -/
def twoPi120 : Nat :=
  2 * 31415926535897932384626433832795028841971693993751 * 2 ^ 120 / 10 ^ 49

/-- Terms of the cosine series with `x` in units of 2^-120: `term` is the present one. -/
def cosSeries (x2 : Nat) : Nat → Nat → Int → Int → Int
  | 0, _, _, acc => acc
  | fuel + 1, k, term, acc =>
    let next := -(term * (x2 : Int) / 2 ^ 120 / (((2 * k + 1) * (2 * k + 2) : Nat) : Int))
    cosSeries x2 fuel (k + 1) next (acc + next)

/-- cos(2 pi num / den) in units of 2^-120. -/
def cos120 (num den : Nat) : Int :=
  let x := twoPi120 * (num % den) / den
  cosSeries (x * x / 2 ^ 120) 40 0 (2 ^ 120) (2 ^ 120)

/-- A real constant given in units of 2^-120 as a Q1.17 constant. -/
def q17 (x : Int) : Int := clampTo topQ17 (roundShift x 103)

/-- e^(j 2 pi num / den) through constants (R62). -/
def unit17 (num den : Nat) : Cx :=
  { re := q17 (cos120 num den), im := q17 (cos120 (4 * num + 3 * den) (4 * den)) }

/-- An angle of num / den turns, modulo 1, rounded half up to 24 bits (R62). -/
def angle24 (num : Int) (den : Nat) : Nat :=
  ((2 ^ 25 * (num % (den : Int)) + (den : Int)) / (2 * (den : Int)) % 2 ^ 24).toNat

/-- The rotation of a sample by an angle of `a` / 2^24 turns (R62). -/
def rotate24 (x : Cx) (a : Nat) : Cx := (x.mul (unit17 (a % 2 ^ 24) (2 ^ 24))).narrow 17

/-! ### FFT (R65) -/

/-- Put four lists of one length together entry by entry. -/
def weave4 : List Cx → List Cx → List Cx → List Cx → List Cx
  | a :: as, b :: bs, c :: cs, e :: es => a :: b :: c :: e :: weave4 as bs cs es
  | _, _, _, _ => []

/-- A butterfly leg's twiddle: m / n turns, forward or inverse. A leg whose m is 0 has no product. -/
def twiddle (inv : Bool) (m n : Nat) (x : Cx) : Cx :=
  if m = 0 then x
  else (x.mul (unit17 (if inv then m % n else (n - m % n) % n) n)).narrow 17

/-- Radix-4 decimation in frequency with a final radix-2 stage (R65); natural order both ways.
`fuel` is the number of stages. -/
def fftAux (inv : Bool) : Nat → List Cx → List Cx
  | 0, x => x
  | fuel + 1, x =>
    let n := x.length
    if n = 2 then
      match x with
      | [a, b] => [a.add b, a.sub b]
      | _ => x
    else if n < 4 then x
    else
      let q := n / 4
      let at_ (i : Nat) : Cx := x.getD i Cx.zero
      let leg (r i : Nat) : Cx :=
        let a := at_ i
        let b := at_ (i + q)
        let c := at_ (i + 2 * q)
        let e := at_ (i + 3 * q)
        let jb := if inv then b.rot else b.conj.rot.conj
        let je := if inv then e.rot else e.conj.rot.conj
        let s := match r with
          | 0 => ((a.add b).add c).add e
          | 1 => ((a.add jb).sub c).sub je
          | 2 => ((a.sub b).add c).sub e
          | _ => ((a.sub jb).sub c).add je
        twiddle inv (r * i) n s
      let sub (r : Nat) : List Cx := fftAux inv fuel ((List.range q).map (leg r))
      weave4 (sub 0) (sub 1) (sub 2) (sub 3)

def fft (inv : Bool) (x : List Cx) : List Cx := fftAux inv 12 x

/-! ### BFP blocks (R63, R64) -/

/-- A component of packed mantissas. -/
def mantissa (w : Nat) (x : Nat) (i : Nat) : Int := sx w (x >>> (i * w))

/-- A block record as 16 samples; none for an erased or invalid block (R63). -/
def unpackBlock (w : Nat) (rec : List Byte) : Option (List Cx) :=
  let e := fld rec 0 1 % 16
  if 8 ≤ e then none
  else
    let x := leNat (rec.drop 1)
    let s : Int := ((2 ^ (e + 16 - w) : Nat) : Int)
    some ((List.range 16).map (fun i =>
      { re := mantissa w x (2 * i) * s, im := mantissa w x (2 * i + 1) * s }))

/-- A component fits in w-bit two's complement after narrowing. -/
def fitsW (w : Nat) (x : Int) : Bool := !clips w x

/-- Components of a block, I before Q. -/
def blockComps (l : List Cx) : List Int := l.flatMap (fun x => [x.re, x.im])

/-- The exponent that packing chooses: the smallest that fits, else 7 (R64). -/
def packExp (w : Nat) (comps : List Int) : Nat :=
  ((List.range 8).find? (fun e => comps.all (fun c => fitsW w (roundShift c (e + 16 - w))))).getD 7

/-- Pack 16 samples: the record, the samples as packed, and clipped components (R64). Where no exponent
fits, every component saturates to the symmetric range. -/
def packBlock (w : Nat) (l : List Cx) : List Byte × List Cx × Nat :=
  let comps := blockComps l
  let e := packExp w comps
  let top : Int := ((2 ^ (w - 1) - 1 : Nat) : Int)
  let narrowed := comps.map (fun c => roundShift c (e + 16 - w))
  let ms := if narrowed.all (fitsW w) then narrowed else narrowed.map (clampTo top)
  let bad := (List.zip narrowed ms).countP (fun p => decide (p.1 ≠ p.2))
  let word := ms.foldr (fun m a => wrapN w m + 2 ^ w * a) 0
  let s : Int := ((2 ^ (e + 16 - w) : Nat) : Int)
  (leBytes 1 e ++ leBytes (4 * w) word,
    (chunks 2 ms).map (fun p => { re := p.getD 0 0 * s, im := p.getD 1 0 * s }), bad)

/-! ### Exact comparisons of powers of ten -/

/-- Decimal digits of a number; 0 for 0. -/
def digitsAux : Nat → Nat → Nat
  | 0, _ => 0
  | fuel + 1, n => if n = 0 then 0 else 1 + digitsAux fuel (n / 10)

def digits (n : Nat) : Nat := digitsAux (n.log2 + 1) n

/-- ⌊log10 (a / b)⌋ for positive numbers. -/
def log10Floor (a b : Nat) : Int :=
  if b ≤ a then (digits (a / b) : Int) - 1 else -((digits ((b + a - 1) / a - 1) : Nat) : Int)

/-- ⌊100 log10 (a / b) + 1/2⌋ for positive numbers. -/
def centiBel (a b : Nat) : Int := (log10Floor (a ^ 200) (b ^ 200) + 1) / 2

/-- a / b > 10^(k / 100), exactly. -/
def exceeds10 (a b : Nat) (k : Int) : Bool :=
  if 0 ≤ k then decide (b ^ 100 * 10 ^ k.toNat < a ^ 100)
  else decide (b ^ 100 < a ^ 100 * 10 ^ (-k).toNat)

/-- ⌊√n⌋. -/
def isqrt (n : Nat) : Nat := rootBits 2 n (n.log2 / 2 + 1) 0

end Sys2Proof.Machine
end

