-- ==== Sys2Proof/Machine/CipherSt.lean ====
section
/-! DEFINITION. The key store and the cipher engines' locks (R382 to R393). -/

namespace Sys2Proof.Machine

def KeySlot.empty : KeySlot := { key := 0, use := 0, origin := 0, gen := 0 }

def CipherSt.reset : CipherSt :=
  { owner := 0, pending := false, urgent := false, susp := none, resumed := none, direct := none,
    status := 0xFF, copies := [] }

def Dyn.key (d : Dyn) (s : Nat) : KeySlot := Map.get KeySlot.empty d.keys s
def Dyn.cipherEng (d : Dyn) (e : Nat) : CipherSt := Map.get CipherSt.reset d.cipher e

def Dyn.onCipher (d : Dyn) (e : Nat) (f : CipherSt → CipherSt) : Dyn :=
  { d with cipher := Map.upd CipherSt.reset d.cipher e f }

/-- Source identifier of cipher engine `e`, and of the key store (R375). -/
def cipherSrc (e : Nat) : Nat := 0x0900 + e
def keyStoreSrc : Nat := 0x0910

/-- The dispatched message that an engine runs, by task and attempt. -/
def runningMsg (d : Dyn) (e : Nat) : Option (Nat × Nat) :=
  (d.unit (cipherSrc e)).running.map (fun n => (n, (d.task n).attempts))

/-- The suspended message: one whose job was discarded is gone (R385). -/
def suspended (d : Dyn) (e : Nat) : Option Suspended :=
  match (d.cipherEng e).susp with
  | some s => if runningMsg d e = some s.task then some s else none
  | none => none

/-- A message that holds its key: a direct one, or a dispatched one that is not suspended and is not
held back by an urgent lock. -/
def keyHolder (d : Dyn) (e : Nat) : Option (Option (Nat × Nat)) :=
  let c := d.cipherEng e
  if c.direct.isSome then some none
  else if (suspended d e).isSome || (c.owner != 0 && (!c.pending || c.urgent))
    || (d.unit (cipherSrc e)).finished.isSome then none
  else (runningMsg d e).map some

/-- Write or erase a slot: GENERATION counts, and an engine whose message runs keeps its copy (R386,
R389, R390). -/
def writeKey (d : Dyn) (slot : Nat) (key use origin : Nat) : Dyn :=
  let old := d.key slot
  let d1 := (List.range 8).foldl (fun d e =>
    match keyHolder d e with
    | some t => d.onCipher e (fun c =>
        let mine := c.copies.filter (fun k => k.task == t)
        if mine.any (fun k => k.slot == slot) then { c with copies := mine }
        else { c with copies := mine ++ [{ task := t, slot, old }] })
    | none => d) d
  { d1 with keys := Map.set d1.keys slot { key, use, origin, gen := (old.gen + 1) % 65536 } }

/-- Erase slots 0 to 62 (R393, R407). -/
def eraseKeys (d : Dyn) : Dyn := (List.range 63).foldl (fun d s => writeKey d s 0 0 0) d

/-- A slot as the message `t` of engine `e` sees it, and whether it was written since (R389, R390). -/
def keyFor (d : Dyn) (e slot : Nat) (t : Option (Nat × Nat)) : KeySlot × Bool :=
  match (d.cipherEng e).copies.find? (fun k => k.task == t && k.slot == slot) with
  | some k => (k.old, true)
  | none => (d.key slot, false)

/-- The 16-byte result of Table 15.2. -/
def cipherResult (status kind flags gen bytes : Nat) : List Byte :=
  leBytes 1 status ++ leBytes 1 kind ++ leBytes 2 flags ++ leBytes 2 gen ++ zeros 2 ++ leBytes 4 bytes ++ zeros 4

/-- A direct job's handles, 0xFFFF left out: AAD, IN, OUT (Table 15.1). -/
def directInputs (blk : List Byte) : List Nat :=
  (if fld blk 0x10 2 = 0xFFFF then [] else [fld blk 0x10 2]) ++ [fld blk 0x12 2]

/-- An engine's job is over: its copies, context and progress with it (R385, R389). -/
def forgetMessage (d : Dyn) (e : Nat) : Dyn :=
  d.onCipher e (fun c => { c with
    copies := c.copies.filter (fun k => k.task.isNone), susp := none, resumed := none })

/-- The report of a lock that an event of R385 releases: class 0. Its code is free among those of Table 17.3 that
class 0 has in the cipher subsystem or in common (log 49). -/
def lockReport (d : Dyn) (e : Nat) : Dyn :=
  let (fv, d1) := freshNat d
  event d1 (cipherSrc e) 0 (if fv % 2 = 0 then 0x0981 else 0x0082) []

/-- The next start releases every lock that is held (R385). -/
def lockReports (d : Dyn) : Dyn :=
  (List.range 8).foldl (fun d e => if (d.cipherEng e).owner = 0 then d else lockReport d e) d

end Sys2Proof.Machine
end

