-- ==== Sys2Proof/Machine/TimeOps.lean ====
section
/-! DEFINITION. The time unit (14): the servo, steps of device time, pulse generators and PPS. -/

namespace Sys2Proof.Machine

/-- Source identifiers of the time base and of the Ethernet timing ports (14). -/
def timeSrc : Nat := 0x0A00
def portSrc (port : Nat) : Nat := 0x0A00 + port

def Dyn.onTime (d : Dyn) (f : TimeSt → TimeSt) : Dyn := { d with time := f d.time }

/-- One clock of the time base (R356). -/
def tickClock (d : Dyn) : Dyn :=
  d.onTime (fun t => { t with t := t.t + (4 * ((2 ^ 48 : Nat) : Int) + 4 * t.rate).toNat })

/-- PORTS of the TIME record (Table 14.1). -/
def timePorts (img : Img) : Nat := timeField img 0 1 % 4

/-- A downlink container of one of the cell's streams waits in a transmit lane block (R364). -/
def containerWaits (img : Img) (d : Dyn) (cell : Nat) : Bool :=
  d.lanes.any (fun e => e.2.bridle.dlq.any (fun c =>
    (streamRecs img c.stream 1).any (fun r => mapsCell img r cell)))

/-- The cell is quiet (R364). -/
def cellQuiet (img : Img) (d : Dyn) (cell : Nat) : Bool :=
  !bit (Map.get 0 d.time.cellActive (cell / 32)).toNat (cell % 32) && !containerWaits img d cell

/-- Every cell is quiet (R364). -/
def allQuiet (img : Img) (d : Dyn) : Bool :=
  (img.records secCells).all (fun r => cellQuiet img d (fld r 0 1))

/-! ### Pulse generators (R371, R372) -/

def PulseSt.reset : PulseSt :=
  { armHi := 0, hiRead := 0, armed := none, level := false, lastRise := none, since := 0 }

def Dyn.pulse (d : Dyn) (g : Nat) : PulseSt := Map.get PulseSt.reset d.time.pulses g

def Dyn.onPulse (d : Dyn) (g : Nat) (f : PulseSt → PulseSt) : Dyn :=
  d.onTime (fun t => { t with pulses := Map.upd PulseSt.reset t.pulses g f })

/-- The PULSES record of a generator (Table 14.5). -/
def pulseRec (img : Img) (g : Nat) : Option (List Byte) := img.recordBy secPulses 0 1 g

def pulsePeriodic (r : List Byte) : Bool := fld r 1 1 == 2
def pulseWidth (r : List Byte) : Nat := fld r 0x14 4

/-- What a lane strobe's edges are moved ahead by: TX_ADJ of its lane (R372). -/
def strobeLead (img : Img) (r : List Byte) : Int :=
  if fld r 2 1 = 2 then laneTxAdj img (fld r 5 1) else 0

/-- The TDD unit of an edge for one lane (R297, Table 11.3): header and payload word. -/
def tddUnit (img : Img) (lane cell at_ : Nat) (rising : Bool) : List Nat :=
  let slots (dir : Nat) : Nat :=
    (((img.records secAntenna).filter (fun r =>
        fld r 4 1 == lane && mapsCell img r cell && fld r 1 1 % 2 == dir)).map (fun r => fld r 5 1)).foldl
      (fun m s => m ||| 2 ^ s) 0
  let lead := bits (img.reg (0x05030004 + 0x40 * lane)) 23 0 * 64
  let param := b2n rising + 2 * slots 0 + 2 ^ 17 * slots 1
  [2 + 256 + 2 ^ 16 * 0x02 + 2 ^ 24 * 1 + 2 ^ 26 * param, (at_ + lead) % 2 ^ 64]

/-- Every event of a cell's generator is one TDD unit on each lane that carries the cell (R297). -/
def tddEvent (img : Img) (d : Dyn) (g at_ : Nat) (rising : Bool) : Dyn :=
  ((img.records secCells).filter (fun r => fld r 0x1E 1 == g)).foldl (fun d c =>
    let cell := fld c 0 1
    let lanes := (((img.records secAntenna).filter (fun r => mapsCell img r cell)).map
      (fun r => fld r 4 1)).eraseDups
    lanes.foldl (fun d n =>
      d.onBridle n (fun b => { b with due := b.due ++ [tddUnit img n cell at_ rising] })) d) d

/-- A pulse rises at tick `t` (R372). -/
def pulseRise (img : Img) (d : Dyn) (g t : Nat) : Dyn :=
  tddEvent img (d.onPulse g (fun p => { p with level := true, lastRise := some t, since := t + 1 })) g t true

/-- The next edge of a running generator, when its time has come; a strobe's edge comes TX_ADJ early (R372).
A falling edge that coincides with the next rising edge is dropped. -/
def pulseEdge (img : Img) (d : Dyn) (g : Nat) : Dyn :=
  let p := d.pulse g
  match pulseRec img g with
  | none => d
  | some r =>
    if !d.time.run.testBit g then d
    else
      let now := (d.now : Int) + strobeLead img r
      let due : Option Nat :=
        if pulsePeriodic r then
          let t := now - (now - timeOffset img - (fld r 8 4 : Nat)) % ((fld r 0x10 4 : Nat) : Int)
          if (p.since : Int) ≤ t then some t.toNat else none
        else p.armed.filter (fun t => decide ((t : Int) ≤ now))
      let rise (d : Dyn) (t : Nat) : Dyn :=
        pulseRise img (if pulsePeriodic r then d else d.onPulse g (fun p => { p with armed := none })) g t
      match p.level, p.lastRise with
      | true, some t0 =>
        let fall := t0 + pulseWidth r
        if due == some fall then rise d fall
        else if (fall : Int) ≤ now then
          tddEvent img (d.onPulse g (fun p => { p with level := false })) g fall false
        else match due with
          | some t => rise d t
          | none => d
      | _, _ => match due with
        | some t => rise d t
        | none => d

def execPulseEdge (g : BitVec 4) (s : State) : Out := act (fun img d => pulseEdge img d g.toNat) s

/-- An armed time is given up, with a report that names no item (R372, R414). -/
def pulseDrop (d : Dyn) (g : Nat) : Dyn :=
  event (d.onPulse g (fun p => { p with armed := none })) timeSrc 0 0x0A84 []

/-- An armed time already past, or passed in a forward step, fires at once with a report (R372). -/
def pulseLate (img : Img) (d : Dyn) (g : Nat) : Dyn := pulseRise img (pulseDrop d g) g d.now

/-- The armed time of a generator that does not run has passed: it is dropped (R372). -/
def dropPassed (d : Dyn) (g : Nat) : Dyn :=
  match (d.pulse g).armed with
  | some t => when_ (!d.time.run.testBit g && decide (t < d.now)) (fun d => pulseDrop d g) d
  | none => d

/-- A write of PULSE_ARM_LO: the generator is armed with the HI word written last (Table 14.12). -/
def pulseArm (img : Img) (d : Dyn) (m : Master) (g : Nat) (v : Word) : Dyn :=
  if !m.isTaskOrHost then writeRefused d timeSrc
  else match pulseRec img g with
  | none => d
  | some r =>
    if pulsePeriodic r then writeRefused d timeSrc
    else
      let t := (d.pulse g).armHi.toNat * 2 ^ 32 + v.toNat
      let d1 := d.onPulse g (fun p => { p with armed := some t, hiRead := p.armHi })
      if t < d.now then
        if d.time.run.testBit g then pulseLate img d1 g else pulseDrop d1 g
      else d1

/-- A write of PULSE_ARM_HI, refused for a PERIODIC generator (R372, Table 14.12). -/
def pulseArmHi (img : Img) (d : Dyn) (m : Master) (g : Nat) (v : Word) : Dyn :=
  if !m.isTaskOrHost || (pulseRec img g).any pulsePeriodic then writeRefused d timeSrc
  else d.onPulse g (fun p => { p with armHi := v })

def execPulseArm (m : Master) (g : BitVec 4) (value : Word) (s : State) : Out :=
  act (fun img d => pulseArm img d m g.toNat value) s

/-- An armed time that passes while RUN is 0 is dropped, with a report (R372). -/
def execArmedTimePassed (g : BitVec 4) (s : State) : Out := act (fun _ d => dropPassed d g.toNat) s

/-- The generators that PULSES defines. -/
def pulseMask (img : Img) : Nat :=
  (img.records secPulses).foldl (fun m r => m ||| 2 ^ fld r 0 1) 0

/-- A generator stops: a pulse that is high falls, an edge with the time it comes (R372). -/
def pulseStop (img : Img) (d : Dyn) (g : Nat) : Dyn :=
  when_ (d.pulse g).level (fun d =>
    tddEvent img (d.onPulse g (fun p => { p with level := false })) g d.now false) d

/-- A write of PULSE_CTRL (R372, Table 14.11). A generator that stops goes to its inactive level, and a
time that passed while it did not run is dropped before it runs. -/
def pulseCtrl (img : Img) (d : Dyn) (m : Master) (v : Nat) : Dyn :=
  if !m.isTaskOrHost then writeRefused d timeSrc
  else
    let run := Nat.land (v % 65536) (pulseMask img)
    let changed := (List.range 16).filter (fun g => run.testBit g != d.time.run.testBit g)
    let d1 := (changed.foldl dropPassed d).onTime (fun t => { t with run })
    changed.foldl (fun d g => (if run.testBit g then d else pulseStop img d g).onPulse g (fun p =>
      { p with since := d.now })) d1

def execPulseCtrl (m : Master) (value : Word) (s : State) : Out :=
  act (fun img d => pulseCtrl img d m value.toNat) s

/-! ### Steps and the servo (R363 to R366) -/

/-- The last multiple of a grid's period at or before tick `t`, counted from T_OFFSET (R167, R370). -/
def gridBefore (img : Img) (period : Nat) (t : Int) : Int :=
  timeOffset img + (t - timeOffset img) / (period : Int) * (period : Int)

/-- The slot-boundary period (Table 6.7). -/
def boundaryPeriod (img : Img) : Nat := 1966080 / 2 ^ (img.reg 0x08000008 % 4)

/-- From now on the grid counts: at the start of SERVICE and at a step, only slot boundaries, pulses and
seconds from now on are met (R367, R372, R373). -/
def gridFrom (img : Img) (d : Dyn) : Dyn :=
  (List.range 16).foldl (fun d g => d.onPulse g (fun p => { p with since := d.now }))
    (d.onTime (fun t => { t with
      boundary := some (gridBefore img (boundaryPeriod img) ((d.now : Int) - 1)), ppsSince := d.now }))

/-- A pulse and a PPS pulse in progress keep their length over a step (log 125). -/
def moveHigh (delta : Int) (d : Dyn) : Dyn :=
  (List.range 16).foldl (fun d g => d.onPulse g (fun p =>
      { p with lastRise := p.lastRise.map (fun t => ((t : Int) + delta).toNat) }))
    (d.onTime (fun t => { t with ppsAt := ((t.ppsAt : Int) + delta).toNat }))

/-- Device time steps by `-theta`, in 2^-16 ns (R363, R367, R372, R427). -/
def stepTime (img : Img) (d : Dyn) (theta : Int) : Dyn :=
  let old := d.now
  let t' := (d.time.t : Int) - theta * 196608 * (2 ^ 32 : Nat) / 100000
  let d1 := d.onTime (fun t => { t with
    t := (t' % ((2 ^ 112 : Nat) : Int)).toNat, steps := satAdd 255 t.steps 1, stepUsed := true, reqStamp := [] })
  let d2 := gridFrom img (moveHigh ((d1.now : Int) - old) { d1 with perf := { d1.perf with stepped := true } })
  (List.range 16).foldl (fun d g =>
    match (d.pulse g).armed with
    | some t => if decide (old ≤ t) && decide (t < d.now) && d.time.run.testBit g then pulseLate img d g else d
    | none => d) d2

/-- RATE is clamped (R356). -/
def clampRate (r : Int) : Int := max (-56294995342) (min 56294995342 r)

def servoNum : Servo → Nat
  | .freerun => 0
  | .acquiring => 1
  | .locked => 2
  | .holdover => 3

/-- The servo steers by rate; its law is not given (R363; log 13). -/
def steer (d : Dyn) (theta : Int) : Dyn :=
  d.onTime (fun t => { t with rate := clampRate (Config.servoRate (servoNum t.servo) theta t.rate) })

/-- Whole seconds of device time, in Tc (R355). -/
def secondTc : Nat := 1966080000

/-- The newest of a record of rates that cover `n` Tc. -/
def lastSpan : Nat → List (Int × Nat) → List (Int × Nat)
  | _, [] => []
  | n, (r, k) :: rest => if n ≤ k then [(r, n)] else (r, k) :: lastSpan (n - k) rest

/-- The time that RATE has stood in LOCKED enters the record, which holds HOLD_AVG seconds (R365). -/
def recordRate (img : Img) (d : Dyn) : Dyn :=
  let now := d.now
  d.onTime (fun t =>
    if t.servo = .locked then { t with
      lockedRates := lastSpan (timeField img 0x18 2 * secondTc) ((t.rate, now - t.rateSince) :: t.lockedRates)
      rateSince := now }
    else t)

/-- The mean of a record of rates, weighed by time and rounded half up; none of an empty one (R365, R11). -/
def meanRate (l : List (Int × Nat)) : Option Int :=
  let n := (l.map (·.2)).foldl (· + ·) 0
  if n = 0 then none else some (roundDiv ((l.map (fun x => x.1 * (x.2 : Int))).foldl (· + ·) 0) n)

/-- The servo enters HOLDOVER at the mean RATE of the last HOLD_AVG seconds in LOCKED (R365). -/
def holdover (img : Img) (d : Dyn) (sticky : Bool) : Dyn :=
  (recordRate img d).onTime (fun t => { t with
    servo := .holdover, sticky, rate := (meanRate t.lockedRates).getD t.rate, valid := 0, within := 0, beyond := 0 })

/-- An offset in whole nanoseconds, rounded half up (R11). -/
def nsOf (theta : Int) : Int := roundDiv theta 65536

/-- A number of nanoseconds lies below an offset's size. -/
def beyondNs (limit : Nat) (theta : Int) : Bool := decide (limit * 65536 < theta.natAbs)

/-- GM_DISCONTINUITY of the port in use, with the offset (R365, R414). -/
def gmJump (d : Dyn) (theta : Int) : Dyn :=
  raiseUnit d (portSrc d.time.port) 0x0A01 0 (wrapN 32 (satN 32 (nsOf theta)))

/-- One valid measurement in ACQUIRING, or in HOLDOVER after a loss of master (Table 14.4, R365): RATE stands
in HOLDOVER (log 108). Measurements are counted before they are judged. -/
def acquireMeas (img : Img) (d : Dyn) (theta : Int) : Dyn :=
  let jump := beyondNs (timeField img 0x10 4) theta
  let d1 := d.onTime (fun t => { t with
    valid := t.valid + 1, within := if beyondNs (timeField img 0x14 4) theta then 0 else t.within + 1 })
  let finish (d : Dyn) : Dyn :=
    if 16 ≤ d.time.within then
      (let now := d.now; d.onTime (fun t => { t with servo := .locked, beyond := 0, rateSince := now }))
    else d
  if d.time.servo = .holdover then
    if jump then gmJump (d1.onTime (fun t => { t with sticky := true })) theta else finish d1
  else if d1.time.valid < 16 then d1
  else if allQuiet img d1 && !d1.time.stepUsed then finish (stepTime img d1 theta)
  else if !jump then finish (steer d1 theta)
  else event (holdover img d1 true) timeSrc 7 0x0A82 []

/-- One valid measurement in LOCKED (R365). -/
def lockedMeas (img : Img) (d : Dyn) (theta : Int) : Dyn :=
  if beyondNs (timeField img 0x10 4) theta then
    let d1 := d.onTime (fun t => { t with beyond := t.beyond + 1 })
    if 3 ≤ d1.time.beyond then gmJump (holdover img d1 true) theta else d1
  else steer (recordRate img (d.onTime (fun t => { t with beyond := 0 }))) theta

/-- A valid measurement from the selected master, its offset in 2^-16 ns (R359, R363). -/
def measure (img : Img) (d : Dyn) (port : Nat) (theta : Int) : Dyn :=
  let d1 := countEv d (portSrc port) 0x0A00 1 EvInfo.plain
  let d2 := d1.onTime (fun t => { t with theta := max (-2147483647) (min 2147483647 (nsOf theta)) })
  match d2.time.servo with
  | .freerun => d2
  | .acquiring => acquireMeas img d2 theta
  | .locked => lockedMeas img d2 theta
  | .holdover => if d2.time.sticky then d2 else acquireMeas img d2 theta

def portNum (port : Bool) : Nat := if port then 2 else 1

/-! ### PTP messages (R359 to R361) -/

/-- A word of a port's address block, as its bytes (Table 14.2). -/
def portBytes (img : Img) (p off n : Nat) : List Byte :=
  let all := (List.range 16).map (fun w => leBytes 4 (img.reg (0x0A000400 + 0x40 * (p - 1) + 4 * w)))
  ((all.flatten).drop off).take n

/-- The port is in use. -/
def portUsed (img : Img) (p : Nat) : Bool := (timePorts img).testBit (p - 1)

/-- A message of the port's domain over the transport of its profile: Ethernet, or its version of IP
(R359). -/
def heardPtp (img : Img) (p domain transport : Nat) : Bool :=
  portUsed img p && domain == timeField img 6 1
  && transport == (if timeField img 1 1 = 0 then 0 else leNat (portBytes img p 8 1))

/-- Stated ingress and egress latency by SPEED, in 0.1 ns (Table 14.3). -/
def macLatency (speed : Nat) : Nat × Nat :=
  match speed with
  | 0 => (1680, 1040)
  | 1 => (544, 416)
  | _ => (340, 272)

/-- delayAsymmetry of a port, in 2^-16 ns: its ASYM under COMPENSATED (R361). -/
def portAsym (img : Img) (p : Nat) : Int :=
  if (timeField img 5 1).testBit (p - 1) then sx 32 (timeField img (0x18 + 4 * p) 4) else 0

/-- A message comes from a master that the port may hear: under G.8275.2 from MASTER of the port's block, by
unicast as negotiated with it (R359, R360; log 151). -/
def fromMaster (img : Img) (p : Nat) (sender : List Byte) : Bool :=
  timeField img 1 1 == 0 || sender == portBytes img p 0x30 (if portBytes img p 8 1 = [4] then 4 else 16)

/-- What a port's timestamp points read, with 8 fractional bits: the copy of its transmit domain at egress, and of
its recovered receive domain at ingress (R357, R361, Table 1.5). -/
def portEgress (d : Dyn) (p : Nat) : Nat := d.now256At (portSrc p)
def portIngress (d : Dyn) (p : Nat) : Nat := d.now256At (receiveDomain (portSrc p))

/-- The offset theta = device time - master time in 2^-16 ns: the port's timestamps of the Sync and of the
Delay_Req corrected to the ball, the corrections of both directions and the asymmetry applied (R359, R361; IEEE
1588). A timestamp of 1/256 Tc is 3,125/24 of the unit. -/
def offsetOf (img : Img) (p : Nat) (t2 t3 : Int) (m : PtpExchange) : Int :=
  let (ingress, egress) := macLatency (timeField img (1 + p) 1)
  let stamps : Int := 31250 * (t2 + t3) + 24 * 65536 * ((egress : Int) - ingress)
  let masters : Int := 65536 * ((m.t1 : Int) + m.t4) + m.syncCorrection - m.respCorrection
  roundDiv (stamps - 240 * masters) 480 - portAsym img p

/-- The alternate BMCA's order of two masters, the port number standing as localPriority (PRESUMED,
log 30: ITU-T G.8275.1 clause 6.3): the grandmaster's identity decides beyond clockClass 127 alone, and after it the
distance and the sender. -/
def betterMaster (p : Nat) (a : PtpMaster) (q : Nat) (b : PtpMaster) : Bool :=
  let key (p : Nat) (m : PtpMaster) : List Nat :=
    [m.clockClass, m.accuracy, m.variance, m.priority2, p, if m.clockClass ≤ 127 then 0 else m.grandmaster,
      m.stepsRemoved] ++ m.sender.map BitVec.toNat
  match ((key p a).zip (key q b)).find? (fun x => x.1 != x.2) with
  | some (x, y) => decide (x < y)
  | none => true

/-- The best of the masters heard, and its port (R359). -/
def selectMaster : List (Nat × PtpMaster) → Option (Nat × PtpMaster)
  | [] => none
  | x :: rest => some (rest.foldl (fun best e => if betterMaster best.1 best.2 e.1 e.2 then best else e) x)

/-- The port and the sender of the selected master. -/
def masterId (l : List (Nat × PtpMaster)) : Option (Nat × List Byte) :=
  (selectMaster l).map (fun x => (x.1, x.2.sender))

/-- The masters heard, and the port of the best of them. A Delay_Req to another master has no answer from it. -/
def setMasters (d : Dyn) (masters : List (Nat × PtpMaster)) : Dyn :=
  let best := masterId masters
  d.onTime (fun t => { t with
    masters, port := (best.map (·.1)).getD 0
    reqStamp := if masterId t.masters = best then t.reqStamp else [] })

/-- A valid measurement: all of it from the selected master, in answer to a Delay_Req (R359). -/
def execPtpMeasurement (port : Bool) (m : PtpExchange) (s : State) : Out :=
  actPins (fun img d =>
    let p := portNum port
    let req := d.time.reqStamp
    when_ (masterId d.time.masters == some (p, m.sender) && heardPtp img p m.domain m.transport
        && fromMaster img p m.sender && req.any (fun e => e.1 == p))
      (fun d => measure img (d.onTime (fun t => { t with reqStamp := Map.del t.reqStamp p })) p
        (offsetOf img p ((portIngress d p : Int) - m.syncAgo) ((Map.get 0 req p : Nat) : Int) m)) d) s

/-- What a port hears of a master: its last Announce (R359). -/
def hearMaster (l : List (Nat × PtpMaster)) (p : Nat) (m : PtpMaster) : List (Nat × PtpMaster) :=
  let same (e : Nat × PtpMaster) : Bool := e.1 == p && e.2.sender == m.sender
  if l.any same then l.map (fun e => if same e then (p, m) else e) else l ++ [(p, m)]

def execAnnounce (port : Bool) (m : PtpMaster) (s : State) : Out :=
  actPins (fun img d =>
    let p := portNum port
    when_ (heardPtp img p m.domain m.transport && fromMaster img p m.sender)
      (fun d => setMasters d (hearMaster d.time.masters p m)) d) s

/-- No master remains (R365). -/
def noMaster (img : Img) (d : Dyn) : Dyn :=
  let d1 := event d timeSrc 7 0x0A81 []
  match d1.time.servo with
  | .locked => holdover img d1 false
  | .acquiring => d1.onTime (fun t => { t with valid := 0, within := 0 })
  | _ => d1

/-- The masters that are heard from now on, and what follows where none remains. -/
def keepMasters (img : Img) (d : Dyn) (l : List (Nat × PtpMaster)) : Dyn :=
  let d1 := setMasters d l
  if l.isEmpty then noMaster img d1 else d1

/-- The announce receipt timeout of a port's master: another one is selected, or none remains (R359, R365).
Which of several masters have fallen silent is a free choice, one of them at least (log 140). -/
def masterLost (img : Img) (d : Dyn) : Dyn :=
  match d.time.masters with
  | [] => d
  | [_] => keepMasters img d []
  | l =>
    let (v, d1) := freshNat d
    let first := v % l.length
    keepMasters img d1 ((((List.range l.length).zip l).filter (fun e => e.1 != first && !bit v (8 + e.1))).map (·.2))

def execMasterLost (s : State) : Out := act (fun img d => masterLost img d) s

/-- SYNCE of the TIME record. -/
def syncePort (img : Img) : Nat := timeField img 4 1

def execSynceLost (s : State) : Out :=
  act (fun img d => when_ (decide (syncePort img ≠ 0) && d.time.synceLock) (fun d =>
    event (d.onTime (fun t => { t with synceLock := false })) timeSrc 7 0x0A83 []) d) s

def execSynceLinkUp (s : State) : Out :=
  actPins (fun img d => when_ (decide (syncePort img ≠ 0))
    (fun d => d.onTime (fun t => { t with synceLock := true })) d) s

/-- A new acquisition (R366); with PORTS 0 it is refused. -/
def reacquire (img : Img) (d : Dyn) : Dyn :=
  if timePorts img = 0 then writeRefused d timeSrc
  else (recordRate img d).onTime (fun t => { t with
    servo := .acquiring, valid := 0, within := 0, beyond := 0, stepUsed := false, sticky := false })

/-- A write of TIME_CTRL (Table 14.7). -/
def timeCtrl (img : Img) (d : Dyn) (m : Master) (op : Nat) : Dyn :=
  if !m.isExecOrHost then writeRefused d timeSrc
  else if op = 0 then d
  else if op = 1 then reacquire img d
  else writeRefused d timeSrc

def execReacquire (m : Master) (s : State) : Out := act (fun img d => timeCtrl img d m 1) s

/-- The port sends a Delay_Req to the selected master, and its timestamp is kept for the answer (R359, R361). -/
def execPtpDelayReq (port : Bool) (s : State) : Out :=
  act (fun _ d =>
    let p := portNum port
    when_ (decide (d.time.port = p)) (fun d => d.onTime (fun t => { t with
      delayReqs := Map.upd 0 t.delayReqs p (· + 1), reqStamp := Map.set t.reqStamp p (portEgress d p) })) d) s

/-- ARP and neighbour discovery are answered for the port's own address (R359). -/
def execArpRequest (port : Bool) (target : List Byte) (s : State) : Out :=
  actPins (fun img d =>
    let p := portNum port
    let n := if portBytes img p 8 1 = [4] then 4 else if portBytes img p 8 1 = [6] then 16 else 0
    when_ (portUsed img p && decide (n ≠ 0) && decide (target = portBytes img p 0x10 n))
      (fun d => d.onTime (fun t => { t with arpReplies := Map.upd 0 t.arpReplies p (· + 1) })) d) s

/-! ### CELL_ACTIVE and PPS (R364, R373) -/

/-- Bits of CELL_ACTIVE_k whose cells have a CELLS record. -/
def cellMask (img : Img) (k : Nat) : Nat :=
  (img.records secCells).foldl (fun m r =>
    if fld r 0 1 / 32 = k then m ||| 2 ^ (fld r 0 1 % 32) else m) 0

/-- A write of CELL_ACTIVE_k (R374, Table 14.10). -/
def cellActive (img : Img) (d : Dyn) (m : Master) (k : Nat) (v : Word) : Dyn :=
  if !m.isTaskOrHost then writeRefused d timeSrc
  else d.onTime (fun t => { t with
    cellActive := Map.set t.cellActive k (BitVec.ofNat 32 (Nat.land v.toNat (cellMask img k))) })

def execCellActive (m : Master) (k : BitVec 3) (value : Word) (s : State) : Out :=
  act (fun img d => cellActive img d m k.toNat value) s

/-- PPS_WIDTH in Tc; 100 µs without a TIME record (R358, R373). -/
def ppsWidth (img : Img) : Nat :=
  (match timeRecord img with | some r => fld r 0x1A 2 | none => 100) * 196608 / 100

/-- PPS_OUT rises at a whole second, and falls PPS_WIDTH later (R373). -/
def ppsOut (img : Img) (d : Dyn) : Dyn :=
  let t := d.now / secondTc * secondTc
  if d.time.ppsOut then
    if d.time.ppsAt + ppsWidth img ≤ d.now then d.onTime (fun x => { x with ppsOut := false }) else d
  else if d.dst.state = .service ∧ d.time.ppsSince ≤ t then
    d.onTime (fun x => { x with ppsOut := true, ppsAt := t, ppsSince := t + 1 })
  else d

def execPpsOut (s : State) : Out := act (fun img d => ppsOut img d) s

/-- A rising edge on PPS_IN is timestamped (R373). -/
def execPpsIn (s : State) : Out :=
  actPins (fun _ d => d.onTime (fun t => { t with ppsIn := BitVec.ofNat 64 d.now })) s

end Sys2Proof.Machine
end

