-- ==== Sys2Proof/Machine/Orders.lean ====
section
/-! DEFINITION. Standing orders (R143 to R149): matching, counting, actions, holds and releases. -/

namespace Sys2Proof.Machine

/-- Fields of a standing-order record (Table 5.6). -/
def Order.cond (o : Order) : Nat := fld o.record 0 2
def Order.source (o : Order) : Nat := fld o.record 2 2
def Order.mask (o : Order) : Nat := fld o.record 4 2
def Order.action (o : Order) : Nat := fld o.record 6 1
def Order.threshold (o : Order) : Nat := fld o.record 8 2
def Order.window (o : Order) : Nat := fld o.record 0xC 4
def Order.param (o : Order) : Nat := fld o.record 0x10 8

/-- Categories of Table 5.7: 0 task, 1 unit, 2 signal. -/
def actionCat (a : Nat) : Nat := if a ≤ 2 then 0 else if a = 8 then 2 else 1

/-- The actions Table 5.5 allows for a condition; none for an unknown one. -/
def allowedActions (cond : Nat) : List Nat :=
  match cond with
  | 0x0101 => [1, 2, 5, 8]
  | 0x0102 => [1, 2, 5, 8]
  | 0x0103 => [1, 2, 8]
  | 0x0104 => [2, 5, 8]
  | 0x0201 => [1, 2, 5, 8]
  | 0x0301 => [1, 2, 5, 8]
  | 0x0311 => [6, 3, 8]
  | 0x0401 => [1, 2, 5, 8]
  | 0x0601 => [1, 2, 8]
  | 0x0611 => [4, 3, 8]
  | 0x0701 => [2, 8]
  | 0x0702 => [1, 2, 8]
  | 0x0711 => [3, 8]
  | 0x0712 => [3, 8]
  | 0x0801 => [2, 8]
  | 0x0802 => [8]
  | 0x0901 => [1, 2, 5, 8]
  | 0x0A01 => [7, 3, 8]
  | _ => []

/-- The condition is a unit condition of Table 5.5. -/
def isUnitCond (cond : Nat) : Bool := [0x0311, 0x0611, 0x0711, 0x0712, 0x0A01].contains cond

/-- PARAM breaks Table 5.7 (R145). -/
def paramBad (action param : Nat) : Bool :=
  if action = 1 ∨ action = 2 then decide (param = 0) || decide (4 ≤ param)
  else if action = 8 then
    decide (bits param 7 5 ≠ 0) || decide (bits param 15 9 ≠ 0) || decide (param / 2 ^ 32 ≠ 0)
  else decide (param ≠ 0)

/-- R145 refuses the record. -/
def orderBad (r : List Byte) : Bool :=
  let o : Order := { record := r, image := false, counts := [] }
  !(allowedActions o.cond).contains o.action
  || decide (o.threshold = 0)
  || (decide (actionCat o.action = 0) && (decide (o.threshold ≠ 1) || decide (o.window ≠ 0)))
  || paramBad o.action o.param

/-- The order matches a condition from a source (Table 5.6). -/
def Order.matches (o : Order) (cond src : Nat) : Bool :=
  o.cond == cond && Nat.land src o.mask == Nat.land o.source o.mask

/-- The first matching order of a category, with its index (R145). -/
def firstOrder (d : Dyn) (cond src cat : Nat) : Option (Nat × Order) :=
  d.disp.orders.find? (fun e => e.2.matches cond src && actionCat e.2.action == cat)

/-- Some order matches, whatever its category (R148). -/
def anyOrder (d : Dyn) (cond src : Nat) : Bool := d.disp.orders.any (fun e => e.2.matches cond src)

/-- Milliseconds of tick time. -/
def Dyn.nowMs (d : Dyn) : Nat := d.dispNow / 1966080

/-- One occurrence of a condition matched by order `i` (R145): the counts, and whether it acts. -/
def countOrder (d : Dyn) (i : Nat) (o : Order) (src : Nat) : Dyn × Bool :=
  let (c0, st0) := Map.get (0, 0) o.counts src
  let c1 := if o.window ≠ 0 ∧ o.window ≤ d.nowMs - st0 then 0 else c0
  let st := if c1 = 0 then d.nowMs else st0
  let c2 := c1 + 1
  let fires := decide (o.threshold ≤ c2)
  let o' := { o with counts := Map.set o.counts src (if fires then 0 else c2, st) }
  ({ d with disp := { d.disp with orders := Map.set d.disp.orders i o' } }, fires)

/-- The unit or signal order that acts on this occurrence, the unit order before the signal order; 0xFFFF
where none does (R414, log 100). -/
def actingOrder (d : Dyn) (cond src : Nat) : Nat :=
  let fires (cat : Nat) : Option Nat := (firstOrder d cond src cat).bind (fun e =>
    if (countOrder d e.1 e.2 src).2 then some e.1 else none)
  ((fires 1).or (fires 2)).getD 0xFFFF

/-! ### Units of a class (Table 6.6) and their availability (R161) -/

/-- Source identifiers of a resource class. -/
def classUnits (cls : Nat) : List Nat :=
  match cls with
  | 0 => (List.range 192).map (0x0100 + ·)
  | 1 => (List.range 32).map (0x0300 + ·)
  | 2 => (List.range 32).map (0x0320 + ·)
  | 3 => (List.range 48).map (0x0400 + ·)
  | 4 => (List.range 8).map (0x0430 + ·)
  | 5 => (List.range 8).map (0x0438 + ·)
  | 6 => (List.range 8).map (0x0900 + ·)
  | _ => []

/-- Not withdrawn, held, fenced or powered off (R139, R161). -/
def inService (d : Dyn) (s : Nat) : Bool :=
  let u := d.unit s
  d.powered s && !u.withdrawn && !u.held && !u.silent && !u.isolated
  && !(match d.power.leaving, domainOf s with
       | some (k, _), some k' => k == k'
       | _, _ => false)
  && !(match d.power.rising, domainOf s with
       | some (k, _), some k' => k == k'
       | _, _ => false)
  && !((endpointOf s).any (fun e => d.portMode e == 1))

/-- Room for a job: a core waits in TWAIT and no task of the dispatcher runs on it still, whose detection
is not arbitrated yet (R131, log 118); an engine holds fewer than two jobs and, a cipher engine, is not
locked (R161, R382). -/
def hasRoom (d : Dyn) (s : Nat) : Bool :=
  if srcSub s = 1 then
    let t := (d.core (srcInst s)).tsk
    t.run = .active && t.waiting && t.abort.isNone
      && !(d.disp.tasks.any (fun e => e.2.state = .running && (e.2.unit == s || e.2.shadow == some s)))
  else
    let u := d.unit s
    !(u.running.isSome && u.queued.isSome) && !(srcSub s == 9 && (d.cipherEng (srcInst s)).owner != 0)

def available (d : Dyn) (s : Nat) : Bool := inService d s && hasRoom d s

/-! ### Holds (R148) -/

/-- A job queued behind the running one returns to its ready list (R148). UNIT keeps the unit it was returned from
(R170; log 164). -/
def returnQueued (img : Img) (d : Dyn) (s : Nat) : Dyn :=
  match (d.unit s).queued with
  | none => d
  | some n =>
    let t := d.task n
    let d1 := t.outputs.foldl (fun d o => setHandle img d o.handle (fun x => { x with state := 0 })) d
    let d2 := t.inputs.foldl (fun d e => decReaders img d e.handle) d1
    let d3 := d2.setTask n { t with
      state := .ready, attempts := t.attempts - 1, units := t.units.dropLast,
      enterStep := d.disp.step, readySince := d.dispNow }
    d3.setUnit s (fun u => { u with queued := none })

/-- The units that share a withdrawal: a Pewter source stands for its whole tile (Table 5.7). -/
def spanOf (s : Nat) : List Nat :=
  if srcSub s = 2 then (List.range 4).map (fun k => 0x0100 + 4 * srcInst s + k) ++ [s] else [s]

def withdrawUnit (img : Img) (d : Dyn) (s : Nat) : Dyn :=
  (spanOf s).foldl (fun d u => returnQueued img (d.setUnit u (fun x => { x with withdrawn := true })) u) d

def holdUnit (img : Img) (d : Dyn) (s : Nat) : Dyn :=
  (spanOf s).foldl (fun d u => returnQueued img (d.setUnit u (fun x => { x with held := true })) u) d

/-- The units that a condition holds without an order (Table 5.5). -/
def holdsOf (cond src : Nat) (shadow : Option Nat) : List Nat :=
  match cond with
  | 0x0101 => [src]
  | 0x0102 => src :: shadow.toList
  | 0x0104 => [src]
  | 0x0201 => [src]
  | 0x0301 => [src]
  | 0x0401 => [src]
  | 0x0901 => [src]
  | _ => []

/-- A silent target that no order covers: its endpoint's units are fenced from new work (R327, R331, Table 5.5). -/
def fenceSilent (img : Img) (d : Dyn) (s : Nat) : Dyn :=
  match endpointOf s with
  | none => d
  | some e => (unitsAt e).foldl
      (fun d u => returnQueued img (d.setUnit u (fun x => { x with silent := true })) u) d

/-! ### GPIO drives of orders (R144, R447) -/

def PinSt.reset : PinSt := { order := none, source := 0 }

/-- SET_GPIO: drive a pin, for a time or until released (Table 5.7). -/
def orderDrive (d : Dyn) (param src : Nat) : Dyn :=
  let pin := bits param 4 0
  let ms := bits param 31 16
  let until_ := if ms = 0 then 0 else d.dispNow + ms * 1966080
  { d with gpio := Map.upd PinSt.reset d.gpio pin (fun _ => { order := some (until_, bit param 8), source := src }) }

/-! ### Acting -/

/-- A WITHDRAW would take the last available unit of the source's class (R145, R413). -/
def isLastUnit (d : Dyn) (s : Nat) : Bool :=
  let span := spanOf s
  match classOf (if srcSub s = 2 then 0x0100 + 4 * srcInst s else s) with
  | some c =>
    let live := (classUnits c).filter (inService d)
    !live.isEmpty && live.all (fun u => span.contains u)
  | none => false

/-- The conditions whose records carry EXTRA (R414): TFAULT, GM_DISCONTINUITY, JOB_INVALID and SCRUB_POISON. -/
def extraListed (cond : Nat) : Bool := [0x0103, 0x0A01, 0x0802, 0x0711].contains cond

/-- The record of a condition or of an action on it (R413, R414): EXTRA is 0 for a condition that R414
does not list. -/
def condReport (d : Dyn) (src cls cond : Nat) (task : Option Nat) (action addr order extra : Nat)
    (last : Bool) : Dyn :=
  issue d { mkReport d src cls 0 cond task action (condDetail addr order (if extraListed cond then extra else 0)) with lastUnit := last }

/-- The effect of a unit or signal action (Table 5.7). -/
def unitAction (img : Img) (d : Dyn) (action param src extra : Nat) : Dyn :=
  match action with
  | 4 => match endpointOf src with
    | some e => requestChange d e 2 0x0800
    | none => d
  | 5 => withdrawUnit img d src
  | 6 => if d.blanked.contains extra then d else { d with blanked := extra :: d.blanked }
  | 7 => reacquire img d
  | 8 => orderDrive d param src
  | _ => d

/-- The first unit order and the first signal order on a condition: counted, and each that fires adds
its class 7 record and acts (R145). -/
def actOrder (img : Img) (d : Dyn) (cat cond src : Nat) (task : Option Nat) (addr extra : Nat) : Dyn :=
  match firstOrder d cond src cat with
  | none => d
  | some (i, o) =>
    let (d1, fires) := countOrder d i o src
    if fires then
      let last := decide (o.action = 5) && isLastUnit d1 src
      unitAction img (condReport d1 src 7 cond task o.action addr i extra last) o.action o.param src extra
    else d1

def actOrders (img : Img) (d : Dyn) (cond src : Nat) (task : Option Nat) (addr extra : Nat) : Dyn :=
  actOrder img (actOrder img d 1 cond src task addr extra) 2 cond src task addr extra

/-- The class of a unit condition's record where nothing is held: 6 for SCRUB_POISON (R347), else 7
(R413). -/
def unitCondClass (cond : Nat) : Nat := if cond = 0x0711 then 6 else 7

/-- A condition with no task (R131, R145, R148). An order that matches covers it, whatever it does, and nothing is
held then, a silent target's fence of R327 and Table 5.5 among it (R144, R145; log 106). -/
def unitCondition (img : Img) (d : Dyn) (src cond addr extra : Nat) : Dyn :=
  let held := !anyOrder d cond src && (!(holdsOf cond src none).isEmpty || decide (cond = 0x0611))
  let d1 := condReport d src (if held then 6 else unitCondClass cond) cond none 0 addr
    (actingOrder d cond src) extra false
  let d2 := actOrders img d1 cond src none addr extra
  let d3 := if held && decide (cond = 0x0611) then fenceSilent img d2 src else d2
  if held then (holdsOf cond src none).foldl (holdUnit img) d3 else d3

/-! ### The end of a direct cipher job (R383) -/

/-- The condition of a response of status 2 or above to a direct job's access. -/
def directCond (status : Nat) : Nat := if status = 4 then 0x0702 else 0x0601

/-- A direct job completes: RESULT is written, OUT takes its state where the job had one, 0 EMPTY or a final
one, and CIPHER_DIRECT is set. Where RESULT is refused the job ends in ERROR. -/
def directDone (img : Img) (d : Dyn) (e addr status : Nat) (out : Option (Nat × Nat)) (result : List Byte) : Dyn :=
  let (d1, r) := memStore img d { source := cipherSrc e, priv := 0 } (addr + 0x30) result
  let refused := decide (2 ≤ r.status)
  let d2 := match out with
    | none => d1
    | some (h, st) =>
      if st = 0 || refused then setHandle img d1 h (fun x => { x with state := 0 }) else commitBuffer img d1 h st
  let d3 := d2.onCipher e (fun c => { c with
    direct := none, status := if refused then 5 else status, copies := c.copies.filter (fun k => k.task.isSome) })
  if refused then unitCondition img d3 (cipherSrc e) (directCond r.status) (addr + 0x30) 0 else d3

/-- A running direct job ends: its inputs are unpinned, and OUT takes its state. -/
def directEnd (img : Img) (d : Dyn) (e status st : Nat) (result : List Byte) : Dyn :=
  match (d.cipherEng e).direct with
  | none => d
  | some (addr, blk) =>
    directDone img ((directInputs blk).foldl (decReaders img) d) e addr status (some (fld blk 0x14 2, st)) result

/-- FLAGS of a result (Table 15.2). -/
def msgFlags (superseded susp : Bool) : Nat := b2n superseded + 2 * b2n susp

/-- A detection in a direct job: STATUS ERROR, and OUT returns to EMPTY (R383). How much text the engine had
processed by then is free, up to `most` bytes (R378; log 148). -/
def directError (img : Img) (d : Dyn) (e most : Nat) : Dyn :=
  match (d.cipherEng e).direct with
  | none => d
  | some (_, blk) =>
    let (k, sup) := keyFor d e (fld blk 1 1) none
    let (fv, d1) := freshNat d
    directEnd img d1 e 5 0 (cipherResult 5 (fld blk 0 1) (msgFlags sup false) k.gen (fv % (most + 1)))

/-- Text bytes of the direct job that an engine runs (Table 15.1). -/
def directText (d : Dyn) (e : Nat) : Nat :=
  match (d.cipherEng e).direct with
  | none => 0
  | some (_, blk) => fld blk 0x1C 4

end Sys2Proof.Machine
end

