-- ==== Sys2Proof/Machine/Dispatcher.lean ====
section
/-! DEFINITION. The Reel dispatcher's operations (05, 06): ending a task on its unit, task conditions,
replay and fallback, commit, dispatch, cancel and slot boundaries. -/

namespace Sys2Proof.Machine

/-- The dispatcher takes the commands of OP 0 at the head of its queue, which have no effect (R157; log 152). -/
def takeNops (d : Dyn) : Dyn :=
  if d.disp.halted then d else { d with disp := { d.disp with cmdQ := d.disp.cmdQ.dropWhile (·.op == 0) } }

/-- The arbiter step counter goes on. -/
def nextStep (d : Dyn) : Dyn := takeNops { d with disp := { d.disp with step := d.disp.step + 1 } }

/-! ### Ending a task on its unit -/

/-- The core's TCOMMIT is answered (R194 steps 5 and 6): RD, STATUS.TASK clear, and it
retires; every tag of the port is freed (R241). -/
def answerCommit (d : Dyn) (c : Nat) (rdVal : Word) : Dyn :=
  match (d.core c).tsk.commit with
  | none => d
  | some k =>
    let pl := (d.status c).pl
    let d1 := d.wd c (BitVec.ofNat 5 k.rd) rdVal
    let d2 := d1.onTsk c (fun t => { t with commit := none, task := none, abort := none })
    let d3 := d2.onStatus c (fun x => { x with task := false, shadow := false })
    let d4 := d3.onPort c (fun p => { p with busy := [], results := [] })
    retire d4 c 7 pl false none

/-- The dispatcher runs the core's task on it still (R194). -/
def taskLive (d : Dyn) (c : Nat) : Bool :=
  ((d.core c).tsk.task).any (fun n =>
    let t := d.task n
    decide (t.state = .running) && (t.unit == coreSrc c || t.shadow == some (coreSrc c)))

/-- The core waits in TCOMMIT for its Pewter commands (R194 step 2). -/
def commitWaits (d : Dyn) (c : Nat) : Bool :=
  (d.core c).tsk.commit.isSome && !(d.core c).port.queue.isEmpty

/-- The core's TCOMMIT has waited long enough: for a task that has ended it is answered (R194). -/
def settleCommit (d : Dyn) (c : Nat) : Dyn :=
  if commitWaits d c || taskLive d c then d else answerCommit d c 1

/-- The time a core has been busy with its task since it was counted last (R172). -/
def addBusy (d : Dyn) (c : Nat) : Dyn :=
  { d with perf := { d.perf with
      busyRun := Map.upd 0 d.perf.busyRun c (satAdd 0xFFFFFFFF · (d.dispNow - (d.core c).tsk.since)) } }

/-- A core's task is over: its busy time ends (R172). -/
def endBusy (d : Dyn) (c : Nat) : Dyn :=
  if (d.core c).tsk.busy then (addBusy d c).onTsk c (fun t => { t with busy := false }) else d

/-- A core's task ends by a condition, a cancel or an abandonment: reported through RD once TCOMMIT
is issued, after the Pewter commands that it waits for, and through ABORT before (R194, R200). -/
def endOnCore (d : Dyn) (c detail cond : Nat) : Dyn :=
  let d1 := endBusy d c
  if commitWaits d1 c then d1
  else if (d1.core c).tsk.commit.isSome then answerCommit d1 c 1
  else if (d1.core c).tsk.task.isNone then d1
  else if (d1.core c).tsk.abort.isSome then d1
  else d1.onTsk c (fun t => { t with abort := some (detail, BitVec.ofNat 16 cond) })

/-- The job queued behind an engine's running one starts, once that is gone. -/
def startNext (d : Dyn) (s : Nat) : Dyn :=
  if (d.unit s).running.isSome then d
  else
    let d1 := d.setUnit s (fun u => { u with running := u.queued, queued := none, finished := none })
    if srcSub s = 9 then forgetMessage d1 (srcInst s) else d1

/-- An engine drops a job; the one behind the running job starts at the end of the arbiter step (R148). -/
def dropJob (d : Dyn) (s n : Nat) : Dyn :=
  let u := d.unit s
  if u.running = some n then d.setUnit s (fun x => { x with running := none, finished := none })
  else if u.queued = some n then
    d.setUnit s (fun x => { x with queued := none })
  else d

/-- The unit, or both cores of a pair, give up task `n` (R132, R141, R166 to R168). A condition on one
core of a pair stops the other with DETAIL 5. -/
def endOnUnits (d : Dyn) (n src detail cond : Nat) : Dyn :=
  let t := d.task n
  if t.cls = 0 then
    let one (d : Dyn) (s : Nat) : Dyn :=
      endOnCore d (srcInst s) (if t.shadow.isSome ∧ (detail = 1 ∨ detail = 2 ∨ detail = 6) ∧ s ≠ src then 5 else detail) cond
    (t.shadow.toList).foldl one (one d t.unit)
  else dropJob d t.unit n

/-- Outputs go back to EMPTY (R132). -/
def emptyOutputs (img : Img) (d : Dyn) (n : Nat) : Dyn :=
  (d.task n).outputs.foldl (fun d o => setHandle img d o.handle (fun x => { x with state := 0 })) d

/-- Outputs go back to EMPTY and inputs are unpinned (R132, R134). -/
def unpin (img : Img) (d : Dyn) (n : Nat) : Dyn :=
  (d.task n).inputs.foldl (fun d e => decReaders img d e.handle) (emptyOutputs img d n)

/-! ### Conditions against a task -/

/-- Every output commits in a final state (R130, R142). -/
def commitOutputs (img : Img) (d : Dyn) (outs : List HEntry) (st : Nat) : Dyn :=
  outs.foldl (fun d o => enterFinal img d o.handle st) d

/-- R138. -/
def TaskEntry.isPure (t : TaskEntry) : Bool :=
  (decide (t.cls ≠ 0) || t.pure)
  && !(t.inputs.any (fun i => t.outputs.any (fun o => i.handle == o.handle)))

/-- A unit that ran no earlier attempt, nor, after PEWTER_PARITY, another core of its tile (R139). -/
def qualifies (t : TaskEntry) (s : Nat) : Bool :=
  !t.units.contains s
  && !(t.avoidTiles && t.units.any (fun u => srcInst u / 4 == srcInst s / 4))

/-- R137: the replay's four conditions. Condition 4 asks for a unit in service; the replay waits in
its list for room (R139; log 19). -/
def canReplay (d : Dyn) (t : TaskEntry) : Bool :=
  decide (t.replays < 2) && t.isPure && decide (d.dispNow + t.est ≤ t.deadline)
  && (classUnits t.cls).any (fun u => inService d u && qualifies t u)

/-- A fallback (R142): outputs commit ERASED or BLANKED, and the task is done. -/
def fallBack (img : Img) (d : Dyn) (n : Nat) (result : List Byte) : Dyn :=
  let t := d.task n
  let st := if t.fallback = 1 then 3 else 4
  finishTask img (commitOutputs img d t.outputs st) n (st - 1) result

/-- The source a condition is reported with: a parity failure in one core's share of its Pewter engine
is the engine's (R233, R251). -/
def conditionSource (s cond : Nat) : Nat :=
  if srcSub s = 1 ∧ cond = 0x0201 then 0x0200 + srcInst s / 4 else s

/-- The units whose task a condition of source `s` concerns: itself, and for a failure in a Pewter
engine's shared control every core of the tile (R251). -/
def conditionHomes (s : Nat) : List Nat :=
  if srcSub s = 2 then (List.range 4).map (fun k => coreSrc (4 * srcInst s + k)) else [s]

/-- The units on which task `n` runs: its cores, or the engine whose running job it is. A job that is only
queued on an engine runs on none (R131). -/
def runsOn (d : Dyn) (n : Nat) : List Nat :=
  let t := d.task n
  if t.cls = 0 then t.unit :: t.shadow.toList
  else if (d.unit t.unit).running = some n then [t.unit] else []

/-- A detection that concerns some of the `units` is theirs no more: for a Pewter engine's it stays the
detection of the tile's other cores. -/
def detectOthers (units : List Nat) (r : Raised) : List Raised :=
  let homes := conditionHomes r.unit
  if homes.any units.contains then
    (homes.filter (fun h => !units.contains h)).map (fun h => { r with unit := h })
  else [r]

/-- A task has left the `units` it ran on: a detection that they still have pending for it is a unit condition
with no task (R131, R168). -/
def freeDetects (img : Img) (units : List Nat) (d : Dyn) : Dyn :=
  (d.disp.detects.filter (fun r => (conditionHomes r.unit).any units.contains)).foldl (fun d r =>
      unitCondition img d (conditionSource r.unit r.cond) r.cond r.addr.toNat r.extra.toNat)
    { d with disp := { d.disp with detects := d.disp.detects.flatMap (detectOthers units) } }

/-- Task `t`, which ran on `units`, has left them, and an engine goes on with the job behind it. -/
def leaveUnits (img : Img) (t : TaskEntry) (units : List Nat) (d : Dyn) : Dyn :=
  let d1 := freeDetects img units d
  if t.cls = 0 then d1 else startNext d1 t.unit

/-- What a condition against task `n` does in its arbiter step (R132, R137, R142, R145, R148).
`home` is the unit whose task it is,
`result` what an engine returned with an INVALID job. An engine reports JOB_INVALID in class 6 (R87, R118), and
a fallback has its class 3 report besides (R142, R413; log 115). A task that was never sent has its inputs
unpinned already; a POISONED input empties its outputs all the same (log 116). -/
def taskOutcome (img : Img) (d : Dyn) (n src home cond addr extra detail : Nat) (result : List Byte) : Dyn :=
  let t0 := d.task n
  let running := decide (t0.state = .running)
  let d1 := if running then unpin img (endOnUnits d n home detail cond) n
    else if cond = 0x0701 then emptyOutputs img d n else d
  let d2 := if cond = 0x0801 then countEv d1 0x0800 0x0802 1 EvInfo.plain else d1
  let d3 := d2.onTask n (fun t =>
    { t with condition := cond, avoidTiles := t.avoidTiles || decide (cond = 0x0201) })
  let t := d3.task n
  let taskOrd := firstOrder d3 cond src 0
  let permits (o : Order) : Bool := (t.fallback == 1 && bit o.param 0) || (t.fallback == 2 && bit o.param 1)
  let rep (d : Dyn) (cls act ord : Nat) : Dyn := condReport d src cls cond (some n) act addr ord extra false
  let tail (d : Dyn) : Dyn := actOrders img d cond src (some n) addr extra
  let hold (d : Dyn) (act ord : Nat) : Dyn :=
    let d' := tail (rep (finishTask img d n 4 result) 6 act ord)
    if anyOrder d3 cond src then d' else (holdsOf cond src t.shadow).foldl (holdUnit img) d'
  if cond = 0x0802 then
    let ord := actingOrder d3 cond src
    if t.fallback = 1 ∨ t.fallback = 2 then
      let d4 := fallBack img d3 n result
      tail (rep (if src = 0x0800 then d4 else rep d4 6 0 ord) 3 0 ord)
    else hold d3 0 (actingOrder d3 cond src)
  else match taskOrd with
    | none => hold d3 0 (actingOrder d3 cond src)
    | some (i, o) =>
      if o.action = 1 && canReplay d3 t then
        let d4 := d3.setTask n { t with
          state := .ready, replays := t.replays + 1, enterStep := d3.disp.step, readySince := d3.dispNow }
        tail (rep (countEv d4 0x0800 0x0801 1 EvInfo.plain) 2 1 i)
      else if permits o then tail (rep (fallBack img d3 n result) 3 o.action i)
      else hold d3 o.action i

/-- A condition is raised against task `n` in an arbiter step; a task that ran leaves its units. -/
def taskCondition (img : Img) (d : Dyn) (n src home cond addr extra detail : Nat) (result : List Byte) : Dyn :=
  let t := d.task n
  let d1 := taskOutcome img d n src home cond addr extra detail result
  if t.state = .running then leaveUnits img t (runsOn d n) d1 else d1

/-- The task that runs on a source: a core's or an engine's running job; a Pewter engine's condition
concerns the core it served last. -/
def taskOn (d : Dyn) (s : Nat) : Option Nat :=
  (d.disp.tasks.find? (fun e => e.2.state = .running
    && (e.2.unit == s || e.2.shadow == some s)
    && (decide (e.2.cls = 0) || (d.unit s).running == some e.1))).map (·.1)

/-- A declared input in whose buffer an address lies becomes POISONED, as a read met poison there (R132).
An engine reads no ERASED or BLANKED buffer: where it needs one, the handle stays as it is (R89). -/
def poisonInput (img : Img) (d : Dyn) (n home addr : Nat) : Dyn :=
  match (d.task n).inputs.find? (fun e => match bufferOf img e.handle with
      | some b => decide (b.addr ≤ addr) && decide (addr < b.addr + b.size)
      | none => false) with
  | some e =>
    let st := (handleOf img d e.handle).state
    if srcSub home ≠ 1 && (st == 3 || st == 4) then d else poisonHandle img d e.handle
  | none => d

/-- A core that is not in a task takes ABORT with DETAIL 2 (R200, R251). -/
def abortIdle (d : Dyn) (c cond : Nat) : Dyn :=
  let t := (d.core c).tsk
  if t.run = .active && t.abort.isNone && t.task.isNone then
    d.onTsk c (fun t => { t with abort := some (2, BitVec.ofNat 16 cond) })
  else d

/-- CORE_PARITY on a core in a handler halts it (R201). The cause has no CODE, and its CONDITION is
CORE_PARITY (log 118). -/
def parityHalt (d : Dyn) (c : Nat) : Dyn := haltCore d c { code := 0, detail := 0, cond := 0x0101, addr := none }

/-- The engine discards a core's commands that are not complete (R239, R251). -/
def discardCommands (d : Dyn) (c : Nat) : Dyn :=
  (countEv d (0x0200 + c / 4) 0x0201 (b2n (!(d.core c).port.queue.isEmpty)) EvInfo.plain).onPort c (fun p =>
    { p with queue := [], busy := [] })

/-- A detection on one unit (R131, R132): against its task, or with no task a unit condition, whose
core takes ABORT (R200). The ABORT of a fabric or memory condition was raised with its response. In a
direct cipher job it is a unit condition (R383). -/
def detectOn (img : Img) (d0 : Dyn) (home src cond addr extra : Nat) : Dyn :=
  let d := if srcSub home = 1 ∧ cond = 0x0201 then discardCommands d0 (srcInst home) else d0
  if srcSub home = 9 ∧ (d.cipherEng (srcInst home)).direct.isSome then
    unitCondition img (directError img d (srcInst home) (directText d (srcInst home))) src cond addr extra
  else if srcSub home = 1 && cond == 0x0101 && (d.status (srcInst home)).hact
      && decide ((d.core (srcInst home)).tsk.run = .active) then
    parityHalt d (srcInst home)
  else match taskOn d home with
  | some n =>
    let d1 := taskCondition img d n src home cond addr extra
      (if cond = 0x0103 then 1 else if cond = 0x0104 then 6 else 2) []
    if cond = 0x0701 then poisonInput img d1 n home addr else d1
  | none =>
    let d1 := unitCondition img d src cond addr extra
    if srcSub home = 1 && (cond == 0x0101 || cond == 0x0201) then abortIdle d1 (srcInst home) cond else d1

/-- A detection that the arbiter accepts. -/
def detection (img : Img) (d : Dyn) (s cond addr extra : Nat) : Dyn :=
  (conditionHomes s).foldl (fun d home => detectOn img d home (conditionSource s cond) cond addr extra) d

/-! ### Commit (R130, R131, R140, R141, R166) -/

/-- The unit's job is over: the one behind it starts; a held or withdrawn unit's was returned (R148). -/
def releaseUnit (d : Dyn) (s : Nat) : Dyn :=
  startNext (d.setUnit s (fun u => { u with running := none, finished := none })) s

/-- Commit task `n` with a final state and a result (R130 step 3); outputs in `keep` commit COMMITTED
(R122). -/
def commitTask (img : Img) (d : Dyn) (n final : Nat) (keep : List Nat) (result : List Byte) : Dyn :=
  let t := d.task n
  let d1 := t.outputs.foldl (fun d o =>
    enterFinal img d o.handle (if keep.contains o.handle then 2 else final)) d
  let d2 := t.inputs.foldl (fun d e => decReaders img d e.handle) d1
  finishTask img d2 n (final - 1) result

/-- The final signature of a core (R140). -/
def signature (d : Dyn) (c : Nat) : Nat := (d.core c).tsk.sig.toNat ^^^ 0xFFFFFFFFFFFFFFFF

/-- A pending detection of a unit that runs task `n` (R131). -/
def pendingDetect (d : Dyn) (n : Nat) : Option Raised :=
  let t := d.task n
  d.disp.detects.find? (fun r => (conditionHomes r.unit).any (fun h => h == t.unit || some h == t.shadow))

/-- Take a raised condition out of the queue. -/
def dropDetect (d : Dyn) (r : Raised) : Dyn :=
  { d with disp := { d.disp with detects := dropFirst (· == r) d.disp.detects } }

/-- A core has signalled completion: its TCOMMIT waits for no Pewter command (R194 step 3). -/
def signalled (d : Dyn) (c : Nat) : Bool := (d.core c).tsk.commit.isSome && !commitWaits d c

/-- A core's completion signal, of a pair once both have signalled (R130, R141, R194). -/
def coreCompletion (img : Img) (d : Dyn) (n : Nat) : Dyn :=
  let t := d.task n
  let c := srcInst t.unit
  let ready := signalled d c && (match t.shadow with | some s => signalled d (srcInst s) | none => true)
  if !ready then d
  else match (d.core c).tsk.commit with
    | none => d
    | some k =>
      if t.deadline < d.dispNow then taskCondition img d n 0x0800 0x0800 0x0801 0 0 2 []
      else if (match t.shadow with | some s => signature d c != signature d (srcInst s) | none => false) then
        taskCondition img d n t.unit t.unit 0x0102 0 0 2 []
      else
        let d1 := commitTask img d n k.final [] k.result
        let finish (d : Dyn) (s : Nat) : Dyn := answerCommit (endBusy d (srcInst s)) (srcInst s) 0
        (t.shadow.toList).foldl finish (finish d1 t.unit)

/-- A job commits with FLAGS.MASK: the stream's first excursion alarms, a later one is counted, and
MASK_EXCURSION is raised (R76). -/
def maskAlarm (d : Dyn) (s task stream band : Nat) (excess : Int) : Dyn :=
  let v := Map.get 0 d.mask stream
  let d1 := if bit v 0 then
      { d with mask := Map.set d.mask stream (satAdd 0xFFFF (v / 65536) 1 * 65536 + 1) }
    else eventTask { d with mask := Map.set d.mask stream 1 } s 7 0x0381 (some task)
      (leBytes 2 stream ++ leBytes 2 band ++ leBytes 2 (wrapN 16 excess))
  raiseUnit d1 s 0x0311 0 stream

/-- The code-block headers that a decode job rewrites when its task commits (R111); a refused write is
a condition of a unit whose last task has committed: a unit condition with no task (R131). -/
def writeHeaders (img : Img) (s : Nat) (hs : List (Nat × List Byte)) (d : Dyn) : Dyn :=
  hs.foldl (fun d h =>
    let (d1, r) := memStore img d { source := s, priv := 0 } h.1 h.2
    if r.status < 2 then d1 else unitCondition img d1 s (directCond r.status) h.1 0) d

/-- An engine's completion signal (R130). An INVALID result after DEADLINE is JOB_INVALID and not LATE (log 163). -/
def engineCompletion (img : Img) (d : Dyn) (n s : Nat) (r : JobResult) : Dyn :=
  let t := d.task n
  match r.invalid with
  | some (addr, off) => taskCondition img d n s s 0x0802 addr off 2 r.result
  | none =>
    if t.deadline < d.dispNow then taskCondition img d n 0x0800 0x0800 0x0801 0 0 2 []
    else
      let d1 := commitTask img d n r.final r.keep r.result
      let d2 := writeHeaders img s r.headers (releaseUnit d1 s)
      match r.mask with
      | some (k, band, excess) => maskAlarm d2 s n k band excess
      | none => d2

/-- TASK_COMMIT: the completion signal of a unit is arbitrated; a detection already raised wins (R131). -/
def taskCommit (img : Img) (d : Dyn) (s : Nat) : Dyn :=
  match taskOn d s with
  | none => d
  | some n =>
    match pendingDetect d n with
    | some r => detection img (dropDetect d r) r.unit r.cond r.addr.toNat r.extra.toNat
    | none =>
      if srcSub s = 1 then coreCompletion img d n
      else match (d.unit s).finished with
        | some r => engineCompletion img d n s r
        | none => d

def execTaskCommit (unit : Half) (s : State) : Out := act (fun img d =>
  if d.disp.halted then d else nextStep (taskCommit img d unit.toNat)) s

/-- A parity failure that is found at a word of local memory stands in the word (R177; log 138). -/
def markParity (d : Dyn) (unit cond addr : Nat) : Dyn :=
  if srcSub unit = 1 ∧ cond = 0x0101 ∧ inLocal addr then
    d.onCore (srcInst unit) (fun x => { x with
      parity := if x.parity.contains (addr / 4) then x.parity else addr / 4 :: x.parity })
  else d

/-- TASK_DETECTION: one raised by the device is taken from its queue; a detector may also fire now. -/
def execTaskDetection (unit cond : Half) (addr : Addr) (extra : Word) (s : State) : Out :=
  act (fun img d =>
    let r : Raised := { unit := unit.toNat, cond := cond.toNat, addr, extra }
    if d.disp.halted || isUnitCond cond.toNat || (allowedActions cond.toNat).isEmpty then d
    else nextStep (detection img (markParity (dropDetect d r) unit.toNat cond.toNat addr.toNat) unit.toNat cond.toNat addr.toNat extra.toNat)) s

/-- UNIT_CONDITION (R145). -/
def execUnitCondition (source cond : Half) (addr : Addr) (extra : Word) (s : State) : Out :=
  act (fun img d =>
    let r : Raised := { unit := source.toNat, cond := cond.toNat, addr, extra }
    if isUnitCond cond.toNat then
      nextStep (unitCondition img { d with disp := { d.disp with unitConds := dropFirst (· == r) d.disp.unitConds } }
        source.toNat cond.toNat addr.toNat extra.toNat)
    else d) s

/-! ### Dispatch (R161 to R165) -/

/-- A running task holds a handle as output (R129). -/
def heldOutput (d : Dyn) (h : Nat) : Bool :=
  d.disp.tasks.any (fun e => e.2.state = .running && e.2.outputs.any (fun o => o.handle == h))

/-- Output busy (R129, R162): an output is read, held by a running task, or WRITING for a lane or ring
block. -/
def outputBusy (img : Img) (d : Dyn) (t : TaskEntry) : Bool :=
  t.outputs.any (fun o => let x := handleOf img d o.handle
    x.readers != 0 || x.state == 1 || heldOutput d o.handle)

/-- Every input is in a final state (R129): a producer may have taken a ready task's input again. -/
def inputsFinal (img : Img) (d : Dyn) (t : TaskEntry) : Bool :=
  t.inputs.all (fun e => isFinal (handleOf img d e.handle).state)

/-- The ready tasks of a class in their order (R162). -/
def readyList (d : Dyn) (cls : Nat) : List Nat :=
  let l := d.disp.tasks.filter (fun e => e.2.state = .ready && e.2.cls == cls)
  let byNum := l.map (fun e => (e.1, e.2))
  (sortBy (fun e => e.2.deadline) (sortBy (fun e => e.2.enterStep) byNum)).map (·.1)

/-- The estimated start on a unit (R165). -/
def startOn (d : Dyn) (s : Nat) : Nat :=
  match (d.unit s).running with
  | some m => if srcSub s = 1 then d.dispNow else max d.dispNow ((d.task m).dispatchTick + (d.task m).est)
  | none => d.dispNow

/-- The lockstep tasks that a core is kept for, while the task stands in its list and the core waits (R164). -/
def keptCore (d : Dyn) : List (Nat × Nat × Nat) :=
  d.disp.kept.filter (fun k => (d.task k.1).state = .ready && (d.task k.1).enterStep == k.2.1 && available d k.2.2)

/-- Task `n` stands behind task `k` in their class's list (R162). -/
def standsBehind (d : Dyn) (n k : Nat) : Bool :=
  let x := d.task n
  let y := d.task k
  decide (y.deadline < x.deadline) || (y.deadline == x.deadline
    && (decide (y.enterStep < x.enterStep) || (y.enterStep == x.enterStep && decide (k < n))))

/-- The units that qualify for task `n`: available, on none of its earlier units, and not kept for a task that
stands before it in the list (R139, R163, R164). -/
def openTo (d : Dyn) (n : Nat) : List Nat :=
  (classUnits (d.task n).cls).filter (fun u => available d u && qualifies (d.task n) u
    && !((keptCore d).any (fun k => k.2.2 == u && standsBehind d n k.1)))

/-- The unit the arbiter picks: one with no job before others, then the lowest instance (R163). -/
def pickUnit (d : Dyn) (n : Nat) : Option Nat :=
  let l := openTo d n
  (l.find? (fun u => (d.unit u).running.isNone)).or l.head?

/-- A lockstep task's primary and its shadow in another tile (R163). -/
def pickPair (d : Dyn) (n : Nat) : Option Nat × Option Nat :=
  match openTo d n with
  | [] => (none, none)
  | p :: rest => (some p, rest.find? (fun u => srcInst u / 4 != srcInst p / 4))

/-- The first task that is not output busy is a lockstep task, and one core alone qualifies: it is kept for the
task, where no other core is kept already (R164; log 153). -/
def keepCore (d : Dyn) (n u : Nat) : Dyn :=
  let l := (keptCore d).filter (·.1 != n)
  if l.all (·.2.2 == u) then { d with disp := { d.disp with kept := l ++ [(n, (d.task n).enterStep, u)] } } else d

/-- TWAIT completes with a task (R193). -/
def completeTwait (d : Dyn) (c n : Nat) (t : TaskEntry) (shadow : Bool) : Dyn :=
  let d1 := d.wd c 28 (BitVec.ofNat 32 t.arg)
  let d2 := d1.wd c 29 (BitVec.ofNat 32 (t.arg / 2 ^ 32))
  let d3 := d2.wd c 30 (BitVec.ofNat 32 n)
  let d4 := d3.wd c 31 (BitVec.ofNat 32 (t.attempts + 256 * b2n t.lockstep + 512 * b2n shadow))
  let d5 := d4.wp c 14 (BitVec.ofNat 48 t.work)
  let d6 := d5.onStatus c (fun s => { s with task := true, shadow := shadow })
  let d7 := d6.onTsk c (fun x =>
    { x with waiting := false, task := some n, since := d.dispNow, busy := true, sig := 0xFFFFFFFFFFFFFFFF, abort := none })
  retire d7 c 7 .exec false none

/-- The actions of a dispatch (R129), then the task goes to its unit. -/
def sendTask (img : Img) (d : Dyn) (n s : Nat) (shadow : Option Nat) : Dyn :=
  let t0 := d.task n
  let wait := d.dispNow - t0.readySince
  let d0 := { d with perf := { d.perf with
    waitRun := Map.upd 0 d.perf.waitRun t0.cls (fun w => min 0xFFFFFFFF (max w wait)) } }
  let d1 := t0.inputs.foldl (fun d e => incReaders img d e.handle) d0
  let d2 := t0.outputs.foldl
    (fun d o => setHandle img d o.handle (fun x => { x with state := 1, task := n })) d1
  let t := { t0 with
    state := .running, attempts := t0.attempts + 1, units := t0.units ++ s :: shadow.toList,
    unit := s, shadow, dispatchTick := d.dispNow }
  let d3 := countEv (d2.setTask n t) 0x0800 0x0800 1 EvInfo.plain
  if t.cls = 0 then
    let d4 := completeTwait d3 (srcInst s) n t false
    match shadow with
    | some h => completeTwait d4 (srcInst h) n t true
    | none => d4
  else d3.setUnit s (fun u =>
    if u.running.isNone then { u with running := some n, finished := none } else { u with queued := some n })

/-- One step of a class arbiter over its list: at most one dispatch, any number of late tasks (R162).
A task with a POISONED input is that one dispatch, and is not sent (R128, R132; log 116).
`first` says that no task that is not output busy was met. -/
def arbitrate (img : Img) : List Nat → Bool → Dyn → Dyn
  | [], _, d => d
  | n :: rest, first, d =>
    let t := d.task n
    if t.state ≠ .ready || !inputsFinal img d t || outputBusy img d t then arbitrate img rest first d
    else
      let choice : Option (Nat × Option Nat) × Dyn :=
        if t.lockstep then
          match pickPair d n with
          | (some p, some s) => (some (p, some s), d)
          | (some p, none) => (none, if first && openTo d n == [p] then keepCore d n p else d)
          | (none, _) => (none, d)
        else ((pickUnit d n).map (fun u => (u, none)), d)
      match choice with
      | (none, d1) => arbitrate img rest false d1
      | (some (u, sh), _) =>
        if t.deadline < startOn d u + t.est then
          let d1 := if t.optional then finishTask img d n 7 []
            else taskCondition img d n 0x0800 0x0800 0x0801 0 0 2 []
          arbitrate img rest false d1
        else if t.inputs.any (fun e => (handleOf img d e.handle).state == 5) then
          taskCondition img d n 0x0800 0x0800 0x0701 0 0 2 []
        else sendTask img d n u sh

def execDispatch (cls : Fin 7) (s : State) : Out :=
  act (fun img d => if d.disp.halted then d
    else nextStep (arbitrate img (readyList d cls.val) true d)) s

/-! ### Commands of TASK_CMD (R157 to R160, R168) -/

/-- A write of TASK_CMD (R157, Table 6.3): cores at EXEC or TASK and the supervisor. Every accepted write enters the
queue, that of OP 0 too, which is taken without an effect (log 152). -/
def taskCmdWrite (img : Img) (d : Dyn) (m : Master) (v : Nat) : Dyn :=
  let op := bits v 17 16
  if !mayPost m || (taskTable img).isNone then masterRefused d 0x0800 m.source
  else { d with disp := { d.disp with cmdQ := d.disp.cmdQ ++ [{ op, task := bits v 14 0 }] } }

/-- The fields of a posted descriptor (Table 6.4). -/
def parseTask (r : List Byte) : TaskEntry :=
  let fl := fld r 1 1
  { TaskEntry.free with
    cls := fld r 0 1, pure := bit fl 0, lockstep := bit fl 1, optional := bit fl 2, autofree := bit fl 3,
    fallback := fld r 2 1, cprop := fld r 3 1, deadline := fld r 8 8, est := fld r 0x10 4,
    condTask := if fld r 0x14 2 = 0xFFFF then none else some (fld r 0x14 2),
    condMask := fld r 0x16 2, work := fld r 0x20 6, arg := fld r 0x28 8 }

/-- Entries of a handle list (Table 6.5). -/
def parseHandles (l : List Byte) : List HEntry :=
  (chunks 8 l).map (fun e => { handle := fld e 0 2, mode := fld e 2 1, gen := fld e 4 2 })

/-- A field of the descriptor lies outside its range (R158). -/
def descBad (r : List Byte) (t : TaskEntry) : Bool :=
  decide (6 < t.cls) || decide (2 < t.fallback) || decide (1 < t.cprop)
  || decide (1024 < fld r 4 2) || decide (1024 < fld r 6 2) || decide (t.est = 0)
  || (match t.condTask with | some k => decide (32767 < k) || decide (t.condMask = 0) | none => false)
  || decide (fld r 0x18 6 % 8 ≠ 0) || (decide (t.cls ≠ 0) && decide (t.work % 64 ≠ 0))

/-- POST of a FREE entry (R157 to R160); none when it needs more free wait links than remain. A descriptor whose NIN or
NOUT is out of range has no handle lists (log 162). -/
def postTask (img : Img) (d : Dyn) (n base : Nat) : Option Dyn :=
  let a := base + 64 * n
  let (d1, r) := memLoad img d dispSender a 64
  if 2 ≤ r.status then
    let t := { TaskEntry.free with state := .waiting }
    let d2 := writeComp img (d1.setTask n t) n (zeros 32)
    some (taskCondition img d2 n 0x0800 0x0800 0x0802 a 0 2 [])
  else
    let t0 := parseTask r.data
    let nin := fld r.data 4 2
    let nout := fld r.data 6 2
    let tooLong := decide (1024 < nin) || decide (1024 < nout)
    let (d2, h) := if tooLong || decide (nin + nout = 0) then (d1, Resp.ok)
      else memLoad img d1 dispSender (fld r.data 0x18 6) (8 * (nin + nout))
    let hs := parseHandles h.data
    let ins := hs.take nin
    let outs := (hs.drop nin).take nout
    let t1 := { t0 with state := .waiting, inputs := ins, outputs := outs }
    let invalid := decide (2 ≤ h.status) || descBad r.data t0
      || (ins ++ outs).any (fun e => (bufferOf img e.handle).isNone)
      || ((handleTable img).isNone && decide (nin + nout ≠ 0))
      || ins.any (fun e => decide (1 < e.mode))
      || (t0.lockstep && decide (t0.cls ≠ 0))
      || (match t0.condTask with
          | some k => k == n || decide ((d2.task k).state = .free)
          | none => false)
      || ins.any (fun e => decide (inputNow img d2 e = .lapsed))
    if invalid then
      let d3 := writeComp img (d2.setTask n t1) n (zeros 32)
      some (taskCondition img d3 n 0x0800 0x0800 0x0802 0 0 2 [])
    else
      let awaited := ins.filter (fun e => decide (inputNow img d2 e = .awaited))
      if 131072 < linksUsed d2 + awaited.length then none
      else
        let d3 := writeComp img d2 n (zeros 32)
        let done := match t0.condTask with
          | some k => decide ((d3.task k).state = .done)
          | none => false
        let d4 := d3.setTask n { t1 with awaited, gated := t0.condTask.isSome && !done }
        match t0.condTask with
        | some k =>
          if done && !gateOpen (d4.task k) t0.condMask then some (finishTask img d4 n 7 [])
          else some (checkReady d4 n d4.disp.step)
        | none => some (checkReady d4 n d4.disp.step)

/-- Cancel task `n` (R168): `byCmd` for a CANCEL command. -/
def cancelTask (img : Img) (d : Dyn) (n : Nat) (byCmd : Bool) : Dyn :=
  match (d.task n).state with
  | .free | .done =>
    if byCmd then { d with disp := { d.disp with stray := satAdd 1023 d.disp.stray 1 } } else d
  | .waiting | .ready => finishTask img d n 5 []
  | .running =>
    let d1 := unpin img (endOnUnits d n 0x0800 3 0) n
    leaveUnits img (d.task n) (runsOn d n) (finishTask img d1 n 6 [])

/-- The command at the head of the queue, when it is the one named: it leaves the queue and acts. -/
def headCmd (op task : Nat) (f : Dyn → Option Dyn) (d0 : Dyn) : Dyn :=
  let d := takeNops d0
  match d.disp.cmdQ with
  | [] => d
  | q :: rest =>
    if q.op = op ∧ q.task = task ∧ d.disp.halted = false then
      match f { d with disp := { d.disp with cmdQ := rest } } with
      | some d' => nextStep d'
      | none => d
    else d

def execPost (task : BitVec 15) (s : State) : Out :=
  act (fun img d => headCmd 1 task.toNat (fun d =>
    match (d.task task.toNat).state, taskTable img with
    | .free, some base => postTask img d task.toNat base
    | .free, none => some d
    | _, _ => some (writeRefused d 0x0800)) d) s

def execCancel (task : BitVec 15) (s : State) : Out :=
  act (fun img d => headCmd 2 task.toNat (fun d => some (cancelTask img d task.toNat true)) d) s

def execFree (task : BitVec 15) (s : State) : Out :=
  act (fun _ d => headCmd 3 task.toNat (fun d =>
    if (d.task task.toNat).state = .done then
      some (d.onTask task.toNat (fun t => { t with state := .free }))
    else some (writeRefused d 0x0800)) d) s

/-- The first propagated cancel is arbitrated (R169). -/
def execCascade (s : State) : Out :=
  act (fun img d => match d.disp.cascades with
    | [] => d
    | n :: rest => if d.disp.halted then d
      else nextStep (cancelTask img { d with disp := { d.disp with cascades := rest } } n false)) s

/-- Walk the wait links of the first handle that became final, four links per step (R160). -/
def walkHandle (img : Img) (d : Dyn) (h : Nat) : Dyn :=
  let waiting := (d.disp.tasks.filter (fun e => e.2.state = .waiting
    && e.2.awaited.any (fun w => w.handle == h))).map (·.1)
  let (d1, k) := waiting.foldl (fun (acc : Dyn × Nat) n =>
    let t := acc.1.task n
    let links := (t.awaited.filter (fun w => w.handle == h)).length
    let lapsed := t.awaited.any (fun w => w.handle == h && decide (inputNow img acc.1 w = .lapsed))
    let t' := { t with awaited := t.awaited.filter (fun w =>
      !(w.handle == h && decide (inputNow img acc.1 w = .satisfied))) }
    let d' := if lapsed then taskCondition img acc.1 n 0x0800 0x0800 0x0802 0 0 2 []
      else checkReady (acc.1.setTask n t') n (acc.1.disp.step + (acc.2 + links - 1) / 4)
    (d', acc.2 + links)) (d, 0)
  { d1 with disp := { d1.disp with step := d1.disp.step + max 1 ((k + 3) / 4) } }

def execHandleWalk (s : State) : Out :=
  act (fun img d => match d.disp.walks with
    | [] => d
    | h :: rest => if d.disp.halted then d
      else walkHandle img { d with disp := { d.disp with walks := rest } } h) s

/-! ### Slot boundaries and the halt -/

/-- A late task at a slot boundary (R167). -/
def boundaryLate (img : Img) (tb : Int) (d : Dyn) (n : Nat) : Dyn :=
  let t := d.task n
  match t.state with
  | .waiting | .ready =>
    if (t.deadline : Int) - (t.est : Int) < tb then
      if t.optional then finishTask img d n 7 [] else taskCondition img d n 0x0800 0x0800 0x0801 0 0 4 []
    else d
  | .running => if (t.deadline : Int) < tb then taskCondition img d n 0x0800 0x0800 0x0801 0 0 4 [] else d
  | _ => d

/-- The boundary walk, by DEADLINE - EST (R167), in one step (log 126). -/
def slotBoundary (img : Img) (tb : Int) (d : Dyn) : Dyn :=
  let l := d.disp.tasks.filter (fun e => e.2.state = .waiting || e.2.state = .ready || e.2.state = .running)
  let order := (sortBy (fun e : Nat × TaskEntry => e.2.deadline + 2 ^ 32 - e.2.est) l).map (·.1)
  order.foldl (boundaryLate img tb) d

/-- A slot boundary has been reached since the last one that was sent (R167, R367, R370). -/
def execSlotBoundary (s : State) : Out :=
  act (fun img d =>
    let tb := gridBefore img (boundaryPeriod img) d.now
    if d.time.boundary = some tb then d
    else
      let d1 := d.onTime (fun t => { t with boundary := some tb })
      if d1.disp.halted then d1 else nextStep (slotBoundary img tb d1)) s

def execDispatcherHalted (s : State) : Out :=
  act (fun _ d =>
    if d.disp.halted then d
    else event { d with disp := { d.disp with halted := true } } 0x0800 7 0x0881 []) s

end Sys2Proof.Machine
end

