-- ==== Sys2Proof/Machine/Engine.lean ====
section
/-! DEFINITION. What every engine job shares (R87, R88, R118): the job block, the checks of its
fields and buffers, the reads of its buffers, and the end of a job before its commit. -/

namespace Sys2Proof.Machine

/-- A running job as its engine sees it. -/
structure Job where
  unit : Nat
  task : Nat
  /-- Address of the job block. -/
  base : Nat
  blk : List Byte
deriving DecidableEq, Repr

/-- How a job ends before its commit. -/
inductive JobEnd where
  /-- INVALID: the address of the first offending field, and its job-block offset (R87). -/
  | invalid (addr off : Nat)
  /-- A condition is raised against the task (R89, Table 7.15). -/
  | detect (cond addr : Nat)
  /-- Complete: the outputs' final state, FLAGS and the other result bytes, and what it writes. -/
  | done (r : JobResult) (writes : List (Nat × List Byte))
deriving DecidableEq, Repr

/-- KINDs of a class (R87, R118, R379). -/
def kindsOf (cls : Nat) : List Nat :=
  match cls with
  | 1 => [0x01, 0x02, 0x03, 0x04]
  | 2 => [0x11, 0x12]
  | 3 => [0x21, 0x22, 0x27]
  | 4 => [0x23, 0x24]
  | 5 => [0x25, 0x26]
  | 6 => [0x31, 0x32]
  | _ => []

/-- A field of the job block. -/
def Job.f (j : Job) (off size : Nat) : Nat := fld j.blk off size

/-- The job-block offset of the first check that fails; the checks stand in the order of the fields. -/
def firstBad (l : List (Bool × Nat)) : Option Nat := (l.find? (fun x => x.1)).map (·.2)

/-- A job whose block is offending at `off`. -/
def Job.bad (j : Job) (off : Nat) : JobEnd := .invalid (j.base + off) off

/-- An input handle that a job may not read `n` bytes of: not declared, not in a final state, or too
small (R87, R135). -/
def badIn (img : Img) (d : Dyn) (j : Job) (h n : Nat) : Bool :=
  !((d.task j.task).inputs.any (fun e => e.handle == h))
  || !isFinal (handleOf img d h).state
  || (match bufferOf img h with
      | some b => decide (b.size < n)
      | none => true)

/-- An output handle that a job may not write `n` bytes of (R87, R135). -/
def badOut (img : Img) (d : Dyn) (j : Job) (h n : Nat) : Bool :=
  !((d.task j.task).outputs.any (fun e => e.handle == h))
  || (match bufferOf img h with
      | some b => decide (b.size < n)
      | none => true)

/-- A run of consecutive handles holds a bad one. -/
def badRunOf (bad : Nat → Bool) (first count : Nat) : Bool :=
  (List.range count).any (fun i => bad (first + i))

/-- A control buffer that the block does not name itself: not final or too small (R87). -/
def badOther (img : Img) (d : Dyn) (h n : Nat) : Bool :=
  !isFinal (handleOf img d h).state
  || (match bufferOf img h with
      | some b => decide (b.size < n)
      | none => true)

/-- The address of a handle's buffer. -/
def addrOf (img : Img) (h : Nat) : Nat := ((bufferOf img h).map Buf.addr).getD 0

/-- An engine as a sender of packets. -/
def engineSender (s : Nat) : Sender := { source := s, priv := 0 }

/-- The condition of a response of status 2 or above to an access of task `n` at `a` (Table 5.5): to a
declared input's uncorrectable data, to other data, or an error response. -/
def engineCond (img : Img) (d : Dyn) (n a status : Nat) : Nat :=
  if status = 4 then
    if (d.task n).inputs.any (fun e => match bufferOf img e.handle with
        | some b => decide (b.addr ≤ a) && decide (a < b.addr + b.size)
        | none => false) then 0x0701 else 0x0702
  else 0x0601

/-- Read memory packet by packet up to the first that fails: its address and status. -/
def readPackets (img : Img) (w : Sender) : List (Nat × Nat) → List Byte → Dyn →
    Dyn × (List Byte ⊕ (Nat × Nat))
  | [], got, d => (d, .inl got)
  | (a, n) :: rest, got, d =>
    let (d1, r) := memPacket img d w a (.read n)
    if r.status ≤ 1 then readPackets img w rest (got ++ r.data) d1 else (d1, .inr (a, r.status))

/-- Write memory packet by packet up to the first that fails. -/
def writePackets (img : Img) (w : Sender) : List (Nat × List Byte) → Dyn → Dyn × Option (Nat × Nat)
  | [], d => (d, none)
  | (a, b) :: rest, d =>
    let (d1, r) := memPacket img d w a (.write b)
    if r.status ≤ 1 then writePackets img w rest d1 else (d1, some (a, r.status))

/-- A write of any length as packets (R320). -/
def splitWrite (a : Nat) (b : List Byte) : List (Nat × List Byte) :=
  (packetsOf a b.length).map (fun p => (p.1, (b.drop (p.1 - a)).take p.2))

/-- A read that a job makes of one of its buffers. -/
structure Want where
  handle : Nat
  /-- First byte and number of bytes. -/
  from_ : Nat
  bytes : Nat
  /-- A control buffer: erased or blanked is a detector event (R89). -/
  control : Bool
deriving DecidableEq, Repr

/-- What a job read: the handle's state and the bytes; zeros of an erased or blanked buffer (R128). -/
structure Got where
  state : Nat
  data : List Byte
deriving DecidableEq, Repr

/-- Read one buffer. -/
def readBuf (img : Img) (d : Dyn) (j : Job) (w : Want) : Dyn × (Got ⊕ JobEnd) :=
  let st := (handleOf img d w.handle).state
  let a := addrOf img w.handle + w.from_
  if st = 5 then (d, .inr (.detect 0x0701 a))
  else if st = 3 ∨ st = 4 then
    if w.control then (d, .inr (.detect 0x0701 a))
    else (d, .inl { state := st, data := zeros w.bytes })
  else
    match readPackets img (engineSender j.unit) (packetsOf a w.bytes) [] d with
    | (d1, .inl data) => (d1, .inl { state := st, data })
    | (d1, .inr (b, status)) => (d1, .inr (.detect (engineCond img d1 j.task b status) b))

/-- Read the buffers of a job in order, up to the first that raises a condition. -/
def readBufs (img : Img) (j : Job) : List Want → List Got → Dyn → Dyn × (List Got ⊕ JobEnd)
  | [], got, d => (d, .inl got)
  | w :: rest, got, d =>
    match readBuf img d j w with
    | (d1, .inl g) => readBufs img j rest (got ++ [g]) d1
    | (d1, .inr e) => (d1, .inr e)

/-- Check the block, read the buffers, then go on with what was read. -/
def withBufs (img : Img) (j : Job) (bad : Option Nat) (wants : List Want) (d : Dyn)
    (f : List Got → Dyn → Dyn × JobEnd) : Dyn × JobEnd :=
  match bad with
  | some off => (d, j.bad off)
  | none =>
    match readBufs img j wants [] d with
    | (d1, .inl gs) => f gs d1
    | (d1, .inr e) => (d1, e)

/-- The i-th thing read. -/
def gotAt (gs : List Got) (i : Nat) : Got := gs.getD i { state := 0, data := [] }

/-- Write the outputs of a finished job; a refused write raises a condition instead (R130, R344). -/
def landWrites (img : Img) (d : Dyn) (j : Job) (writes : List (Nat × List Byte)) : Dyn × Option (Nat × Nat) :=
  match writePackets img (engineSender j.unit) (writes.flatMap (fun w => splitWrite w.1 w.2)) d with
  | (d1, none) => (d1, none)
  | (d1, some (a, status)) => (d1, some (engineCond img d1 j.task a status, a))

/-- The counter events of a finished job: JOBS, and SATURATED and ERASED of Table 3.15 or ITERATIONS
and CB_FAILED of Table 4.11 (Table 17.4). -/
def countJob (d : Dyn) (s : Nat) (r : JobResult) : Dyn :=
  let c (d : Dyn) (ev n : Nat) : Dyn := countEv d s ev n EvInfo.plain
  if srcSub s = 3 then
    c (c (c d 0x0300 1) 0x0302 (fld r.result 4 4)) 0x0303 (fld r.result 8 2)
  else if srcSub s = 4 then
    c (c (c d 0x0400 1) 0x0402 (fld r.result 8 4)) 0x0403 (fld r.result 6 2)
  else d

/-- The result of an INVALID job: STATUS 2 and its KIND (Tables 3.15, 4.11, 15.5). -/
def invalidResult (j : Job) (addr off : Nat) : JobResult :=
  { final := 2, result := (leBytes 1 2 ++ leBytes 1 (j.f 0 1) ++ zeros 14), invalid := some (addr, off) }

/-- A job reaches its end: what it answers waits for the completion signal. A job that completes INVALID writes
nothing (R90). -/
def endJob (img : Img) (j : Job) (x : Dyn × JobEnd) : Dyn :=
  let finish (d : Dyn) (r : JobResult) : Dyn :=
    (countJob d j.unit r).setUnit j.unit (fun u => { u with finished := some r })
  match x with
  | (d, .invalid addr off) => finish d (invalidResult j addr off)
  | (d, .detect cond addr) => raiseTask d j.unit cond addr 0
  | (d, .done r writes) =>
    match landWrites img d j writes with
    | (d1, none) => finish d1 r
    | (d1, some (cond, addr)) => raiseTask d1 j.unit cond addr 0

/-- The engine `s` runs its dispatched job from start to end, when its KIND is `kind`, or when its
KIND belongs to no job of the class and it is INVALID (R87, R118, 06). -/
def runEngine (s kind : Nat) (f : Img → Job → Dyn → Dyn × JobEnd) (img : Img) (d : Dyn) : Dyn :=
  match (d.unit s).running with
  | none => d
  | some n =>
    if (d.unit s).finished.isSome || (pendingDetect d n).isSome then d
    else
      let base := (d.task n).work
      match readPackets img (engineSender s) (packetsOf base 64) [] d with
      | (d1, .inr (a, status)) => raiseTask d1 s (engineCond img d1 n a status) a 0
      | (d1, .inl blk) =>
        let j : Job := { unit := s, task := n, base, blk }
        if j.f 0 1 = kind then endJob img j (f img j d1)
        else if ((classOf s).map kindsOf |>.getD []).contains (j.f 0 1) then d
        else endJob img j (d1, j.bad 0)

/-- The 16-byte result of Table 3.15. -/
def engineResult (j : Job) (status flags sat erased events aux : Nat) : List Byte :=
  leBytes 1 status ++ leBytes 1 (j.f 0 1) ++ leBytes 2 flags ++ leBytes 4 (min sat 0xFFFFFFFF)
  ++ leBytes 2 (min erased 0xFFFF) ++ leBytes 2 (min events 0xFFFF) ++ leBytes 4 (min aux 0xFFFFFFFF)

end Sys2Proof.Machine
end

