-- ==== Sys2Proof/Machine/Beam.lean ====
section
/-! DEFINITION. The WEIGHT and MAP jobs of the beam engines (R84 to R89). -/

namespace Sys2Proof.Machine

/-! ### WEIGHT (R84) -/

/-- y_o(k) for one output and one resource element, before narrowing (R84). -/
def weightSum (w : List Cx) (x : List (List Cx)) (set inputs outputs o k : Nat) : Cx :=
  (List.range inputs).foldl (fun acc a =>
    acc.add ((w.getD (set * outputs * inputs + o * inputs + a) Cx.zero).mul ((x.getD a []).getD k Cx.zero)))
    Cx.zero

/-- A WEIGHT job (R84, R87, R89, Table 3.13). An RE_COUNT out of range sizes the buffers that fields at earlier
offsets name all the same (log 156). -/
def weightJob (img : Img) (j : Job) (d : Dyn) : Dyn × JobEnd :=
  let inputs := j.f 2 2
  let outputs := j.f 4 2
  let shift := j.f 6 1
  let reFirst := j.f 0x10 2
  let count := j.f 0x12 2
  let g := match j.f 1 1 with
    | 0 => 1
    | 1 => 12
    | 2 => 24
    | 3 => 48
    | _ => count
  let wbytes := divUp count (max g 1) * outputs * inputs * 4
  let bad := firstBad
    [ (decide (4 < j.f 1 1), 1),
      (decide (inputs = 0) || decide (256 < inputs), 2),
      (decide (outputs = 0) || decide (256 < outputs) || decide (4096 < inputs * outputs), 4),
      (decide (31 < shift), 6),
      (badRunOf (fun h => badIn img d j h (4 * (reFirst + count))) (j.f 8 2) inputs, 8),
      (badRunOf (fun h => badOut img d j h (4 * count)) (j.f 0xA 2) outputs, 0xA),
      (badIn img d j (j.f 0xC 2) wbytes, 0xC),
      (decide (count = 0) || decide (3300 < count), 0x12) ]
  let wants := ({ handle := j.f 0xC 2, from_ := 0, bytes := wbytes, control := true } : Want)
    :: (List.range inputs).map (fun a =>
      { handle := j.f 8 2 + a, from_ := 4 * reFirst, bytes := 4 * count, control := false : Want })
  withBufs img j bad wants d (fun gs d1 =>
    let ins := gs.drop 1
    let lost := ins.countP (fun x => decide (x.state ≠ 2))
    let erased := ins.countP (fun x => decide (x.state = 3))
    let blank := ins.all (fun x => x.state == 4)
    if lost = inputs then
      (d1, .done
        { final := if blank then 4 else 3, result := engineResult j 1 (if blank then 1 else 8) 0 erased 0 0 } [])
    else
      let w := cxsOf (gotAt gs 0).data
      let x := ins.map (fun i => cxsOf i.data)
      let outs := (List.range outputs).map (fun o =>
        clampAll topFD16 ((List.range count).map (fun k =>
          (weightSum w x (k / g) inputs outputs o k).narrow shift)))
      let sat := outs.foldl (fun n o => n + o.2) 0
      (d1, .done { final := 2, result := engineResult j 0 0 sat erased 0 0 }
        ((outs.zip (List.range outputs)).map (fun e =>
          (addrOf img (j.f 0xA 2 + e.2), e.1.1.flatMap wordOfCx)))))

/-! ### MAP (R85, R86) -/

/-- Bit `i` of a sequence in a buffer (R92). -/
def seqBit (b : List Byte) (i : Nat) : Nat := b2n ((b.getD (i / 8) 0).getLsbD (7 - i % 8))

/-- Bits per symbol of a QM code (Table 3.8). -/
def qmBits (qm : Nat) : Nat := if qm = 0 then 1 else qm

/-- G of a QM code (Table 3.8). -/
def qmGain (qm : Nat) : Nat :=
  match qm with
  | 4 => 41449
  | 6 => 20225
  | 8 => 10053
  | 10 => 5019
  | _ => 92682

/-- The level of one component from its bits, most significant first (TS 38.211 clause 5.1). -/
def beamLevel : List Nat → Int
  | [] => 1
  | [b] => 1 - 2 * (b : Int)
  | b :: rest => (1 - 2 * (b : Int)) * ((2 ^ rest.length : Nat) - beamLevel rest)

/-- Symbol `i` of an entry from its Qm bits (TS 38.211 clause 5.1). -/
def modSymbol (qm i : Nat) (bs : List Nat) : Cx :=
  let idx := List.range bs.length
  if qm ≤ 1 then
    let c : Int := 1 - 2 * (bs.getD 0 0 : Nat)
    if qm = 0 ∧ i % 2 = 1 then { re := -c, im := c } else { re := c, im := c }
  else
    { re := beamLevel ((idx.filter (fun k => k % 2 == 0)).map (fun k => bs.getD k 0)),
      im := beamLevel ((idx.filter (fun k => k % 2 == 1)).map (fun k => bs.getD k 0)) }

/-- A modulated component before saturation (R86). -/
def modScale (scale qm : Nat) (c : Cx) : Cx :=
  let g : Int := (scale * qmGain qm : Nat)
  Cx.narrow { re := g * c.re, im := g * c.im } 17

/-- A list entry (Table 3.14). -/
structure MapEntry where
  type : Nat
  qm : Nat
  layer : Nat
  /-- NLAYERS or STRIDE. -/
  n : Nat
  re : Nat
  count : Nat
  source : Nat
  scale : Nat
  off : Nat
deriving DecidableEq, Repr

def mapEntry (b : List Byte) (i : Nat) : MapEntry :=
  let o := 16 * i
  { type := fld b o 1, qm := fld b (o + 1) 1, layer := fld b (o + 2) 1, n := fld b (o + 3) 1,
    re := fld b (o + 4) 2, count := fld b (o + 6) 2, source := fld b (o + 8) 2, scale := fld b (o + 0xA) 2,
    off := fld b (o + 0xC) 4 }

/-- A position of a layer: none while free, else its value. -/
abbrev Layer := List (Option Cx)

/-- Bytes a named source must hold. -/
def MapEntry.sourceBytes (e : MapEntry) : Nat := if e.type = 2 then 4 * (e.off + e.count) else 0

/-- Checks of one entry, with offsets in the list (R85, R87); a job RE_COUNT that is itself out of range
bounds nothing. -/
def entryChecks (img : Img) (d : Dyn) (j : Job) (layers reCount i : Nat) (e : MapEntry) : List (Bool × Nat) :=
  let o := 16 * i
  let top := if e.type = 1 then 8 else 12
  let known := decide (0 < reCount) && decide (reCount ≤ 3300)
  let last := if e.type = 1 then e.re + e.count else e.re + (e.count - 1) * e.n + 1
  [ (decide (e.type = 0) || decide (3 < e.type), o),
    (e.type == 1 && !([0, 1, 2, 4, 6, 8, 10]).contains e.qm, o + 1),
    (decide (layers ≤ e.layer), o + 2),
    (decide (e.n = 0) || decide (top < e.n) || (e.type == 1 && decide (layers < e.layer + e.n)), o + 3),
    (known && (if e.count = 0 then e.type == 1 && decide (reCount < e.re) else decide (reCount ≤ e.re)), o + 4),
    (known && decide (e.count ≠ 0) && decide (reCount < last), o + 6),
    (e.type != 3 && badIn img d j e.source e.sourceBytes, o + 8),
    (decide (32767 < e.scale), o + 0xA),
    (e.type == 3 && decide (2 ^ layers ≤ e.off), o + 0xC) ]

/-- Put a value at a position of a layer. -/
def putRe (ls : List Layer) (layer re : Nat) (v : Cx) : List Layer :=
  ls.modify layer (fun l => l.set re (some v))

/-- Pass 1 of one entry: RESERVE and COPY (R85); the count is of saturated components. -/
def mapPass1 (acc : List Layer × Nat) (e : MapEntry) (g : Got) : List Layer × Nat :=
  if e.type = 3 then
    ((List.range 32).foldl (fun ls y =>
      if e.off.testBit y then
        (List.range e.count).foldl (fun ls i => putRe ls y (e.re + i * e.n) Cx.zero) ls
      else ls) acc.1, acc.2)
  else if e.type = 2 then
    let vals := (cxsOf (g.data.drop (4 * e.off))).take e.count
    (vals.zip (List.range vals.length)).foldl (fun a p =>
      let v := Cx.narrow { re := p.1.re * e.scale, im := p.1.im * e.scale } 15
      (putRe a.1 e.layer (e.re + p.2 * e.n) (v.clamp topFD16), a.2 + v.clipped topFD16)) acc
  else acc

/-- What the MOD pass has done: layers, saturated components, erased codewords, positions left
unfilled, bits left. -/
structure ModSt where
  layers : List Layer
  sat : Nat
  erased : Nat
  unfilled : Nat
  left : Nat

/-- Pass 2 of one entry: MOD (R85, R86, R89). -/
def mapPass2 (s : ModSt) (e : MapEntry) (g : Got) : ModSt :=
  if e.type ≠ 1 then s
  else
    let ys := (List.range e.n).map (e.layer + ·)
    let usable := ((List.range e.count).map (e.re + ·)).filter (fun re =>
      ys.all (fun y => ((s.layers.getD y []).getD re none).isNone))
    let want := usable.length * e.n
    let q := qmBits e.qm
    let nbits := 8 * g.data.length
    let silent := decide (g.state ≠ 2)
    let fill := if silent then want else min want ((nbits - e.off) / q)
    let (ls, sat) := (List.range fill).foldl (fun (a : List Layer × Nat) i =>
      let v := if silent then Cx.zero
        else modScale e.scale e.qm (modSymbol e.qm i ((List.range q).map (fun k => seqBit g.data (e.off + i * q + k))))
      (putRe a.1 (e.layer + i % e.n) (usable.getD (i / e.n) 0) (v.clamp topFD16), a.2 + v.clipped topFD16))
      (s.layers, s.sat)
    { layers := ls, sat, erased := s.erased + b2n (decide (g.state = 3)), unfilled := s.unfilled + (want - fill),
      left := s.left + (if silent ∨ fill < want then 0 else nbits - (e.off + want * q)) }

/-- A MAP job (R85 to R89, Table 3.14). An RE_COUNT out of range sizes the output buffers all the same (log 156). -/
def mapJob (img : Img) (j : Job) (d : Dyn) : Dyn × JobEnd :=
  let layers := j.f 1 1
  let entries := j.f 2 2
  let reCount := j.f 8 2
  let bad := firstBad
    [ (decide (layers = 0) || decide (32 < layers), 1),
      (decide (entries = 0) || decide (1024 < entries), 2),
      (badIn img d j (j.f 4 2) (16 * entries), 4) ]
  withBufs img j bad [{ handle := j.f 4 2, from_ := 0, bytes := 16 * entries, control := true }] d (fun gs d1 =>
    let es := (List.range entries).map (mapEntry (gotAt gs 0).data)
    match firstBad ((es.zip (List.range entries)).flatMap (fun p => entryChecks img d1 j layers reCount p.2 p.1)) with
    | some off => (d1, .invalid (addrOf img (j.f 4 2) + off) 4)
    | none =>
      let wants := es.map (fun e =>
        { handle := e.source, from_ := 0,
          bytes := if e.type = 1 then ((bufferOf img e.source).map Buf.size).getD 0 else e.sourceBytes,
          control := decide (e.type = 2) : Want })
      let named := (es.zip wants).filter (fun p => p.1.type != 3)
      let late := firstBad
        [ (badRunOf (fun h => badOut img d1 j h (4 * reCount)) (j.f 6 2) layers, 6),
          (decide (reCount = 0) || decide (3300 < reCount), 8) ]
      withBufs img j late (named.map (·.2)) d1 (fun hs d2 =>
        let work := (named.map (·.1)).zip hs
        let find (k : Nat) : Got := gotAt hs ((es.take k).countP (fun e => e.type != 3))
        let start : List Layer := List.replicate layers (List.replicate reCount none)
        let (l1, sat1) := (es.zip (List.range entries)).foldl (fun a p => mapPass1 a p.1 (find p.2)) (start, 0)
        let m := work.foldl (fun s p => mapPass2 s p.1 p.2)
          { layers := l1, sat := sat1, erased := 0, unfilled := 0, left := 0 }
        (d2, .done
          { final := 2, result := engineResult j 0 0 m.sat m.erased m.unfilled m.left }
          ((m.layers.zip (List.range layers)).map (fun p =>
            (addrOf img (j.f 6 2 + p.2), (p.1.map (fun v => v.getD Cx.zero)).flatMap wordOfCx))))))

/-- WEIGHT on beam engine `e` (R84). -/
def execWeight (e : Fin 32) (s : State) : Out := act (runEngine (0x0320 + e.val) 0x11 weightJob) s

/-- MAP on beam engine `e` (R85). -/
def execMap (e : Fin 32) (s : State) : Out := act (runEngine (0x0320 + e.val) 0x12 mapJob) s

end Sys2Proof.Machine
end

