-- ==== Sys2Proof/Machine/Bridle.lean ====
section
/-! DEFINITION. Bridle (R286 to R300): uplink containers, control units, delay and time marks. -/

namespace Sys2Proof.Machine

/-- A lane block as a sender. -/
def laneSender (n : Nat) : Sender := { source := laneSrc n, priv := 0 }

/-- Where the symbol of container index `q` stands in its subframe (R291). -/
def qSymbol (i : StreamInfo) (q : Nat) : Nat := q % i.syms

/-- B of container `q`. -/
def qBlocks (i : StreamInfo) (q : Nat) : Nat := i.blocks (qSymbol i q)

/-- Indices before a stream's grid wraps (R291). -/
def qTotal (i : StreamInfo) : Nat := 10240 * i.syms

/-- The handle of container `q` of a stream (R291). -/
def qHandle (img : Img) (s dir q : Nat) : Nat :=
  let (first, depth) := ringOf img s dir
  first + q % max 1 depth

def bufAddr (img : Img) (h : Nat) : Nat := ((bufferOf img h).map Buf.addr).getD 0

/-- A container header (Table 11.2). -/
def contHeader (i : StreamInfo) (q erased time : Nat) : List Byte :=
  leBytes 2 (q / i.syms / 10) ++ leBytes 1 (q / i.syms % 10) ++ leBytes 1 (qSymbol i q)
  ++ leBytes 2 (qBlocks i q) ++ leBytes 2 erased ++ leBytes 1 i.width ++ leBytes 1 i.slot ++ zeros 6
  ++ leBytes 8 time ++ zeros 40

/-- Write into an open container's buffer; a refused write stops it (R293). -/
def contWrite (img : Img) (d : Dyn) (n slot off : Nat) (bytes : List Byte) : Dyn :=
  match d.lanes.find? (fun e => e.1 == n) with
  | none => d
  | some (_, x) =>
    match x.bridle.opened.find? (fun e => e.1 == slot) with
    | none => d
    | some (_, c) =>
      if c.refused || c.discard then d
      else
        let (d1, r) := memStore img d (laneSender n) (bufAddr img c.handle + off) bytes
        if r.status < 2 then d1
        else d1.onBridle n (fun b => { b with opened := Map.set b.opened slot { c with refused := true } })

/-- A container of an uplink slot closes (R293, R294). -/
def closeCont (img : Img) (d : Dyn) (n slot : Nat) : Dyn :=
  match (d.lane n).bridle.opened.find? (fun e => e.1 == slot) with
  | none => d
  | some (_, c) =>
    let leave (d : Dyn) : Dyn := d.onBridle n (fun b =>
      { b with opened := Map.del b.opened slot, closed := Map.set b.closed slot c.q })
    let countErased (d : Dyn) : Dyn := d.onBridle n (fun b => { b with erased := satAdd 0xFFFF b.erased 1 })
    match streamInfo img c.stream 0 with
    | none => leave d
    | some i =>
      if c.discard then leave d
      else
        let missing := (List.range (qBlocks i c.q)).filter (fun k => !c.got.contains k)
        let d1 := missing.foldl (fun d k =>
          contWrite img d n slot (0x40 + k * i.recLen) (15 :: zeros (4 * i.width))) d
        let d2 := contWrite img d1 n slot 0 (contHeader i c.q (qBlocks i c.q - c.good) c.time)
        let refused := (d2.lane n).bridle.opened.any (fun e => e.1 == slot && e.2.refused)
        if refused then
          event (countErased (leave (commitBuffer img d2 c.handle 3))) (laneSrc n) 3 0x0589 []
        else if c.good = 0 then countErased (leave (commitBuffer img d2 c.handle 3))
        else leave (commitBuffer img d2 c.handle 2)

/-- The lane leaves LOCKED: every open container closes (R294). -/
def closeAll (img : Img) (d : Dyn) (n : Nat) : Dyn :=
  (d.lane n).bridle.opened.foldl (fun d e => closeCont img d n e.1) d

/-- How many words follow a header, or the kind of its breach (R287, R289, R296). An IQ unit of an
unknown slot has no known length (log 33). -/
def bridleLen (img : Img) (n h : Nat) : Sum Nat Nat :=
  if h % 16 = 1 then
    if bit h 9 then .inr 0
    else match (slotStream img n (bits h 7 4) 0).bind (fun s => streamInfo img s 0) with
      | some i => .inr (divUp (bits h 15 10 * (4 + 32 * i.width)) 64)
      | none => .inl 3
  else if h % 16 = 2 then
    let code := bits h 23 16
    if code = 0x81 ∨ code = 0x82 ∨ 0xC0 ≤ code then
      if bits h 25 24 = 3 then .inl 2 else .inr (bits h 25 24)
    else .inl 1
  else .inl 1

/-- What the protocol block does with breaches and events before a unit (R287, R304). `nak` is a
Paretlink receiver's answer. -/
def settleRx (nak : Dyn → Dyn) (n : Nat) : Nat → Dyn → Dyn
  | 0, d => d
  | fuel + 1, d =>
    match (d.lane n).rx with
    | .breach kind _ :: rest =>
      settleRx nak n fuel (nak (protoViolation (countEv (d.onLane n (fun x => { x with rx := rest }))
        (laneSrc n) 0x0503 1 EvInfo.plain) n kind))
    | .lostFrame _ :: rest => settleRx nak n fuel (nak (d.onLane n (fun x => { x with rx := rest })))
    | .streamBreak :: rest => settleRx nak n fuel (nak (d.onLane n (fun x => { x with rx := rest })))
    | _ => d

/-- The lane's protocol block takes the next unit when `want` holds of its header. -/
def withUnit (nak : Dyn → Dyn) (want : Nat → Bool) (n : Nat) (f : List Nat → Nat → Dyn → Dyn) (d : Dyn) : Dyn :=
  let d1 := settleRx nak n (d.lane n).rx.length d
  match (d1.lane n).rx with
  | .unit (h :: ws) time :: rest =>
    if want h then
      settleRx nak n rest.length (f (h :: ws) time (d1.onLane n (fun x => { x with rx := rest })))
    else d1
  | _ => d1

/-- A unit is discarded (R314). -/
def discardUnit (d : Dyn) (n kind : Nat) : Dyn :=
  protoViolation (countEv d (laneSrc n) 0x0503 1 EvInfo.plain) n kind

/-! ### Uplink containers (R293) -/

/-- Start the container `q` of a slot with its first unit (R293). -/
def openCont (img : Img) (d : Dyn) (n : Nat) (s : Nat) (i : StreamInfo) (q time : Nat) : Dyn :=
  let h := qHandle img s 0 q
  let free := handleFree d h (handleOf img d h) && (bufferOf img h).isSome
  let c : OpenCont :=
    { stream := s, q, handle := h, time := time / 256, got := [], good := 0, discard := !free, refused := false }
  let d1 := d.onBridle n (fun b => { b with opened := Map.set b.opened i.slot c })
  if free then
    let d2 := setHandle img d1 h (fun x => { x with state := 1 })
    contWrite img d2 n i.slot 0 (contHeader i q 0 (time / 256))
  else
    let marked := d1.disp.eraseMarks.any (fun e => e.1 == h)
    let d2 := dropContainer d1 n
    if marked then d2
    else { d2 with disp := { d2.disp with eraseMarks := d2.disp.eraseMarks ++ [(h, laneSrc n)] } }

/-- Block `k` of a unit's payload, as EXP and packed mantissas (R288). -/
def wireBlock (payload width k : Nat) : Nat × Nat :=
  let x := payload >>> (k * (4 + 32 * width))
  (x % 16, (x / 16) % 2 ^ (32 * width))

/-- The unit belongs to a container whose units are discarded: its handle was not free, or a write of it was refused
(R293). -/
def contGone (d : Dyn) (n slot : Nat) : Bool :=
  (d.lane n).bridle.opened.any (fun e => e.1 == slot && (e.2.discard || e.2.refused))

/-- The blocks of a unit enter the open container (R292, R293); a unit that it discards is counted (R421). -/
def fillCont (img : Img) (d : Dyn) (n : Nat) (i : StreamInfo) (h : Nat) (ws : List Nat) : Dyn :=
  let first := bits h 27 16
  let count := bits h 15 10
  let payload := ws.foldr (fun w a => w % 2 ^ 64 + 2 ^ 64 * a) 0
  let blocks := (List.range count).map (fun k => if bit h 9 then (0, 0) else wireBlock payload i.width k)
  let bytes := (blocks.map (fun b => leBytes 1 b.1 ++ leBytes (4 * i.width) b.2)).flatten
  let d0 := countEv d (laneSrc n) 0x0503 (b2n (contGone d n i.slot)) EvInfo.plain
  let d1 := (blocks.filter (fun b => decide (8 ≤ b.1) && decide (b.1 ≤ 14))).foldl
    (fun d _ => protoViolation d n 5) d0
  let d2 := contWrite img d1 n i.slot (0x40 + first * i.recLen) bytes
  d2.onBridle n (fun b => { b with opened := match b.opened.find? (fun e => e.1 == i.slot) with
    | some (_, c) => Map.set b.opened i.slot
        { c with got := c.got ++ (List.range count).map (first + ·),
                 good := c.good + (blocks.filter (fun x => decide (x.1 < 8))).length }
    | none => b.opened })

/-- Index `a` comes after `b` on a stream's grid. -/
def qLater (total a b : Nat) : Bool :=
  let k := (a + total - b) % total
  decide (0 < k) && decide (k < total / 2)

/-- A received IQ unit (R289, R293, Table 11.7). -/
def iqUnit (img : Img) (n : Nat) (u : List Nat) (time : Nat) (d : Dyn) : Dyn :=
  let h := u.headD 0
  let d0 := if bits h 63 50 ≠ 0 ∨ bit h 39 then protoViolation d n 8 else d
  match slotStream img n (bits h 7 4) 0 with
  | none => discardUnit d0 n 3
  | some s =>
    match streamInfo img s 0 with
    | none => discardUnit d0 n 3
    | some i =>
      let count := bits h 15 10
      let first := bits h 27 16
      let sym := bits h 38 32
      let sub := bits h 31 28
      let q := (bits h 49 40 * 10 + sub) * i.syms + sym
      if count = 0 ∨ 9 < sub ∨ i.syms ≤ sym ∨ qBlocks i q < first + count ∨ i.maxBlocks < count then
        discardUnit d0 n 4
      else
        let cur := (d0.lane n).bridle.opened.find? (fun e => e.1 == i.slot)
        let old : Bool := match cur with
          | some (_, c) => decide (c.q ≠ q) && !qLater (qTotal i) q c.q
          | none => match (d0.lane n).bridle.closed.find? (fun e => e.1 == i.slot) with
            | some (_, qc) => !qLater (qTotal i) q qc
            | none => false
        if old then discardUnit d0 n 6
        else
          let d1 := match cur with
            | some (_, c) => if c.q = q then d0 else openCont img (closeCont img d0 n i.slot) n s i q time
            | none => openCont img d0 n s i q time
          let dup := (d1.lane n).bridle.opened.any (fun e => e.1 == i.slot
            && (List.range count).any (fun k => e.2.got.contains (first + k)))
          if dup then discardUnit d1 n 6
          else
            let d2 := fillCont img d1 n i h (u.drop 1)
            if bit h 8 then closeCont img d2 n i.slot else d2

def noNak (d : Dyn) : Dyn := d

def execIqUnit (l : Lane) (s : State) : Out :=
  act (fun img d => when_ (decide (l.val < 64)) (fun d =>
    withUnit noNak (fun h => h % 16 == 1) l.val (iqUnit img l.val) d) d) s

/-- Four base symbols after its first unit an open container closes (R294). -/
def execContainerTimeout (l : Lane) (slot : BitVec 4) (s : State) : Out :=
  act (fun img d =>
    match (d.lane l.val).bridle.opened.find? (fun e => e.1 == slot.toNat) with
    | none => d
    | some (_, c) => match streamInfo img c.stream 0 with
      | none => d
      | some i =>
        let wait := (List.range 4).foldl (fun a k => a + symTc i.mu i.ext ((c.q + k + 1) % i.syms)) 0
        when_ (decide (c.time + wait ≤ d.now)) (fun d => closeCont img d l.val slot.toNat) d) s

/-! ### Control units (R296, R298) -/

/-- CODE of a control unit's header. -/
def ctrlCode (h : Nat) : Nat := bits h 23 16

/-- A write of BR_CTRL_SEND (R298): the unit is read from slot memory and queued, its reserved header bits as
zero (R9, R296). A second payload
word that WORDS names lies beyond the 16 bytes and is a free value (log 34). -/
def brCtrlSend (img : Img) (d : Dyn) (m : Master) (n : Nat) (v : Nat) : Dyn :=
  if !m.isTaskOrHost then writeRefused d (laneSrc n)
  else
    let (d1, r) := memLoad img d (laneSender n) (bits v 27 4 * 16) 16
    let read := leNat (r.data.take 8)
    let h := read - bits read 15 9 * 2 ^ 9
    let code := ctrlCode h
    let ok := decide (r.status < 2) && (code == 1 || (decide (0x40 ≤ code) && decide (code ≤ 0x7F)))
      && decide ((d1.lane n).bridle.ctrlq.length < 16)
    if !ok then writeRefused d1 (laneSrc n)
    else
      let (fv, d2) := freshNat d1
      let words := [h, leNat (r.data.drop 8), fv % 2 ^ 64].take (1 + bits h 25 24)
      d2.onBridle n (fun b => { b with ctrlq := b.ctrlq ++ [words] })

def execBrCtrlSend (m : Master) (l : Lane) (value : Word) (s : State) : Out :=
  act (fun img d => when_ (decide (l.val < 64))
    (fun d => brCtrlSend img d m l.val value.toNat) d) s

/-- A board ALARM (R296). -/
def alarmUnit (n : Nat) (u : List Nat) (_time : Nat) (d : Dyn) : Dyn :=
  let h := u.headD 0
  let param := bits h 63 26
  let code := bits param 15 0
  let raised := bit param 16
  let slot := bits h 7 4
  let board := b2n (bit h 8)
  let w0 := if bits h 25 24 = 0 then 0 else (u.drop 1).headD 0
  let d0 := if bits h 15 9 ≠ 0 then protoViolation d n 8 else d
  let d1 := d0.onBridle n (fun b => { b with alarms :=
    let rest := b.alarms.filter (fun a => a != (slot, board, code))
    if raised then (slot, board, code) :: rest else rest })
  event d1 (laneSrc n) (if raised then 7 else 0) 0x0587
    (leBytes 1 slot ++ leBytes 1 board ++ leBytes 2 code ++ leBytes 8 w0)

def execAlarm (l : Lane) (s : State) : Out :=
  act (fun _ d => when_ (decide (l.val < 64)) (fun d =>
    withUnit noNak (fun h => h % 16 == 2 && ctrlCode h == 0x82) l.val (alarmUnit l.val) d) d) s

/-- A unit of the integrator's codes (R296). -/
def boardMessage (n : Nat) (u : List Nat) (_time : Nat) (d : Dyn) : Dyn :=
  let h := u.headD 0
  let words := bits h 25 24
  let w0 := if words = 0 then 0 else (u.drop 1).headD 0
  let w1 := if words = 2 then (u.drop 2).headD 0 else 0
  let d0 := if bits h 15 9 ≠ 0 then protoViolation d n 8 else d
  let d1 := event d0 (laneSrc n) 0 0x0588 (leBytes 8 h ++ leBytes 4 w0)
  if words = 0 then d1
  else event d1 (laneSrc n) 0 0x058C (leBytes 4 (w0 / 2 ^ 32) ++ leBytes 8 w1)

def execBoardMessage (l : Lane) (s : State) : Out :=
  act (fun _ d => when_ (decide (l.val < 64)) (fun d =>
    withUnit noNak (fun h => h % 16 == 2 && decide (0xC0 ≤ ctrlCode h)) l.val (boardMessage l.val) d) d) s

/-! ### Delay and time marks (R299, R300) -/

/-- 1 ms has passed since the lane's last DELAY_REQ (R299). -/
def reqTime (d : Dyn) (n : Nat) : Bool :=
  match (d.lane n).bridle.reqTick with
  | some t => decide (t + 1966080 ≤ d.now) || decide (d.now < t)
  | none => true

/-- Once per 1 ms a lane in DATA is to send a DELAY_REQ with the next ID (R299). -/
def execDelayReq (l : Lane) (s : State) : Out :=
  act (fun _ d => when_ (decide (l.val < 64) && decide ((d.lane l.val).teth.state = 6) && reqTime d l.val)
    (fun d => d.onBridle l.val (fun b =>
      { b with reqId := (b.reqId + 1) % 256, reqDue := true, reqSent := none, reqTick := some d.now })) d) s

/-- A DELAY_RESP: RTT = t4 - t1 - TURN x T_sym / 16 (R299), or a violation. -/
def delayResp (img : Img) (n : Nat) (u : List Nat) (time : Nat) (d : Dyn) : Dyn :=
  let h := u.headD 0
  let id := bits h 33 26
  let b := (d.lane n).bridle
  let d0 := if bits h 15 9 ≠ 0 then protoViolation d n 8 else d
  match b.reqSent with
  | some (frame, t1) =>
    if id = b.reqId ∧ (d.lane n).teth.frames ≤ frame + 64 then
      let turn := bits ((u.drop 1).headD 0) 31 0
      let rtt := ((time : Int) - t1) * rttUnit (laneRate img d n) - turn * (256 * 196608)
      d0.onTime (fun t => { t with rtts := Map.upd [] t.rtts n (fun l => (rtt :: l).take 16) })
    else discardUnit d0 n 7
  | none => discardUnit d0 n 7

def execDelayResp (l : Lane) (s : State) : Out :=
  act (fun img d => when_ (decide (l.val < 64)) (fun d =>
    withUnit noNak (fun h => h % 16 == 2 && ctrlCode h == 0x81) l.val (delayResp img l.val) d) d) s

/-- From the first valid RTT a TIME_MARK is due in the next frame (R300). -/
def execTimeMark (l : Lane) (s : State) : Out :=
  act (fun _ d => when_ (decide (l.val < 64) && decide ((d.lane l.val).teth.state = 6)
      && !(Map.get [] d.time.rtts l.val).isEmpty)
    (fun d => d.onBridle l.val (fun b => { b with markDue := true })) d) s

end Sys2Proof.Machine
end

