-- ==== Sys2Proof/Machine/Messages.lean ====
section
/-! DEFINITION. Management messages of VC 0: their header, their answers, and the requests that are refused
by OP or LENGTH alone (R309, R310, R312). -/

namespace Sys2Proof.Machine

/-- STATUS of an unknown OP, of an operand outside its command's rule, and of a command the state does not
allow (R309). -/
def badOp : Nat := 0xF001
def badOperand : Nat := 0xF002
def wrongState : Nat := 0xF003

/-- The 48-byte completion (R312). -/
def completion (pstatus : Nat) (parts : List Nat) : List Byte :=
  let failed := ((List.range parts.length).zip parts).foldl (fun n e => if 2 ≤ e.2 then n + 2 ^ e.1 else n) 0
  leBytes 1 pstatus ++ zeros 1 ++ leBytes 2 parts.length ++ zeros 4 ++ leBytes 40 failed

/-- The operand bytes that a command may have (Tables 11.6 and 15.4); none for an unknown OP. Commands whose
answer to a bad length has a form of its own are checked by their meanings. -/
def lengthFits (op n : Nat) : Option Bool :=
  match op with
  | 0x0001 => some (n == 8)
  | 0x0002 => some (decide (8 ≤ n) && decide (n ≤ 1028) && decide (n % 4 = 0))
  | 0x0003 => some (n == 12)
  | 0x0004 => some (decide (9 ≤ n) && decide (n ≤ 65544))
  | 0x0010 => some (n == 2)
  | 0x0020 => some (n == 32)
  | 0x0021 => some (n == 2)
  | 0x0022 => some (n == 4)
  | 0x0030 => some (n == 48)
  | 0x0031 => some (n == 4)
  | 0x0040 => some (n == 8)
  | 0x0041 => some (n == 8)
  | 0x0042 => some (decide (5 ≤ n) && decide (n ≤ 65540))
  | 0x0043 => some (n == 1)
  | 0x0044 => some (n == 20)
  | 0x0050 => some (decide (4 ≤ n))
  | 0x0060 => some (n == 0)
  | 0x0070 => some (n == 0)
  | 0x0071 => some (n == 0)
  | _ => none

/-- What a refusal by length carries: the completion of R312, or REASON 3 (Table 15.4). -/
def badLengthBody (op : Nat) : List Byte :=
  if op = 3 ∨ op = 4 then completion 5 []
  else if op = 0x30 then zeros 2 ++ leBytes 1 3 ++ zeros 3
  else if op = 0x50 then leBytes 1 3 ++ zeros 3
  else []

/-- The answer to a message that its OP or LENGTH refuses: its header holds OP, TAG and LENGTH (R309). -/
def malformed (m : List Byte) : Option MgmtAnswer :=
  let op := fld m 0 2
  let refuse (code : Nat) (body : List Byte) : MgmtAnswer :=
    { op := op % 0x8000 + 0x8000, tag := BitVec.ofNat 16 (fld m 2 2), code, body }
  match lengthFits op (fld m 8 4) with
  | none => some (refuse badOp [])
  | some fits =>
    if fits && decide (m.length = 16 + fld m 8 4) then none else some (refuse badOperand (badLengthBody op))

/-- The supervisor answers the malformed messages that head the order of arrival (R309, R310). -/
def answerMalformed : List (List Byte) → Dyn → Dyn
  | [], d => { d with inbox := [] }
  | m :: rest, d =>
    match malformed m with
    | some a => answerMalformed rest { d with answers := d.answers ++ [a], taken := d.taken + 1 }
    | none => { d with inbox := m :: rest }

/-- A whole message arrives on VC 0 (R306, R309). -/
def messageIn (d : Dyn) (m : List Byte) : Dyn := answerMalformed (d.inbox ++ [m]) d

/-- A response, with bit 15 of OP set; the supervisor then looks at the next message. -/
def answer (d : Dyn) (op : Nat) (tag : Half) (code : Nat) (body : List Byte) : Dyn :=
  answerMalformed d.inbox { d with answers := d.answers ++ [{ op := op + 0x8000, tag, code, body }] }

/-- The supervisor takes a command: the oldest message of VC 0, where the sender sent it there (R306). -/
def takeCmd (d : Dyn) : Dyn := { d with taken := d.taken + 1, inbox := d.inbox.drop 1 }

end Sys2Proof.Machine
end

