-- ==== Sys2Proof/Machine/Paretlink.lean ====
section
/-! DEFINITION. Paretlink (R302 to R308): retry, credits and rings. -/

namespace Sys2Proof.Machine

/-- How many words follow a header, or the kind of its breach (Table 11.4, R287). -/
def linkLen (h : Nat) : Sum Nat Nat :=
  if h % 16 = 1 then
    if 124 < bits h 34 28 then .inl 2 else .inr (bits h 34 28 + 1)
  else if 2 ≤ h % 16 ∧ h % 16 ≤ 5 then .inr 1
  else .inl 1

/-- The CRC word of a unit's header and payload words (R302). -/
def unitCrc (ws : List Nat) : Nat := crc32 ((ws.map (leBytes 8)).flatten)

/-- A unit with its CRC word. -/
def sealUnit (ws : List Nat) : List Nat := ws ++ [unitCrc ws]

/-- The unit's CRC word holds. -/
def unitGood (u : List Nat) : Bool := u.getLastD 0 == unitCrc u.dropLast

/-- A gap, a failure or a lost frame: NAK once, until the PSN arrives or 256 frame periods pass (R304). -/
def nakNow (n : Nat) (d : Dyn) : Dyn :=
  let frames := (d.lane n).teth.frames
  d.onLink n (fun k => match k.nakAt with
    | some f => if frames < f + 256 then k else { k with nakDue := true, nakAt := some frames }
    | none => { k with nakDue := true, nakAt := some frames })

/-! ### Virtual channels -/

/-- VC_CONFIG_v and VC_HANDLES_v (Tables 11.14, 11.15). -/
def vcConfig (img : Img) (v : Nat) : Nat := img.reg (0x05034000 + 0x10 * v)
def vcHandles (img : Img) (v : Nat) : Nat := img.reg (0x05034004 + 0x10 * v)

/-- The lane that carries a VC, none while it is disabled; VC 0 is always on lane 64 (R306). -/
def vcLane (img : Img) (v : Nat) : Option Nat :=
  if v = 0 then some 64
  else if bit (vcConfig img v) 31 then some (64 + bits (vcConfig img v) 30 27) else none

def rxLog (img : Img) (v : Nat) : Nat := bits (vcConfig img v) 26 23
def txLog (img : Img) (v : Nat) : Nat := bits (vcConfig img v) 22 19

/-- TOTAL that the T96 advertises on a VC (R306). -/
def grant (img : Img) (d : Dyn) (v : Nat) : Nat :=
  if v = 0 then (16 + d.taken) % 65536
  else ((d.vc v).rxConsumed + (d.vc v).discarded + 2 ^ rxLog img v) % 65536

/-- A buffer event of the VC is not accepted yet: 256 of ring blocks wait before it (R171, Table 6.9). -/
def vcEventWaits (img : Img) (d : Dyn) (v : Nat) : Bool :=
  let ringOf (k h : Nat) : Bool :=
    let first := bits (vcHandles img k) 15 0
    decide (first ≤ h) && decide (h < first + 2 ^ rxLog img k)
  let ring := d.disp.bufferEvents.filter (fun e =>
    (List.range 63).any (fun k => (vcLane img (k + 1)).isSome && ringOf (k + 1) e.1))
  v ≠ 0 && (ring.drop 256).any (fun e => ringOf v e.1)

/-! ### Incoming messages (R307) -/

/-- A ring descriptor (Table 11.5). -/
def descBytes (bytes handle flags vc time : Nat) : List Byte :=
  leBytes 4 bytes ++ leBytes 2 handle ++ leBytes 1 flags ++ leBytes 1 vc ++ leBytes 8 time

/-- The payload differs from BYTES (R307); one unit with FIRST, LAST and ERASED carries none (R308). -/
def lengthBreach (r : OpenRx) (whole : Bool) : Bool :=
  decide (r.words ≠ divUp r.bytes 8) && !(whole && r.erased && decide (r.words = 0))

/-- The open message of a VC ends; `bad` commits it ERASED (R307). `whole`: its one unit was FIRST and LAST. -/
def endMessage (img : Img) (d : Dyn) (n v : Nat) (bad whole : Bool) : Dyn :=
  match (d.vc v).rx with
  | none => d
  | some r =>
    let d0 := d.onVc v (fun x => { x with rx := none })
    if r.discard then d0
    else
    let short := lengthBreach r whole
    let d1 := if short && !bad then protoViolation d0 n 7 else d0
    if v = 0 then (if bad || short || r.erased then d1 else messageIn d1 (r.body.take r.bytes))
    else
      let er := bad || short || r.erased || r.refused
      let e := (d1.vc v).rxProduced % 2 ^ rxLog img v
      let desc := bufAddr img (bits (vcHandles img v) 31 16) + 16 * e
      let (d2, _) := memStore img d1 (laneSender n) desc (descBytes r.bytes r.handle (b2n er) v r.time)
      (commitBuffer img d2 r.handle (if er then 3 else 2)).onVc v (fun x =>
        { x with rxProduced := (x.rxProduced + 1) % 65536 })

/-- A message that uses no ring entry: its units are discarded, this and those that follow (`fillMessage`), and
DISCARDED counts it (R307). -/
def discardMessage (d : Dyn) (v : Nat) : Dyn :=
  let r : OpenRx :=
    { bytes := 0, handle := 0, words := 0, erased := false, refused := false, discard := true,
      time := 0, body := [] }
  d.onVc v (fun x =>
    { x with discarded := (x.discarded + 1) % 65536, rx := some r })

/-- A FIRST unit starts a message, with a credit or against one (R306, R307). -/
def startMessage (img : Img) (d : Dyn) (n v h time : Nat) : Dyn :=
  let bytes := bits h 63 40
  let c := d.vc v
  let room := (grant img d v + 65536 - c.rxStarted) % 65536
  let d0 := d.onVc v (fun x => { x with rxStarted := (x.rxStarted + 1) % 65536 })
  if room = 0 ∨ 32768 ≤ room then discardMessage (protoViolation d0 n 5) v
  else
    let fresh (handle : Nat) : OpenRx :=
      { bytes, handle, words := 0, erased := bit h 12, refused := false, discard := false,
        time := time / 256, body := [] }
    if v = 0 then
      if 65600 < bytes then discardMessage (protoViolation d0 n 7) v
      else d0.onVc v (fun x => { x with rx := some (fresh 0) })
    else
      let handle := bits (vcHandles img v) 15 0 + c.rxProduced % 2 ^ rxLog img v
      let size := ((bufferOf img handle).map Buf.size).getD 0
      if size < bytes then discardMessage (protoViolation d0 n 7) v
      else if !handleFree d0 handle (handleOf img d0 handle) then
        event (discardMessage d0 v) (laneSrc n) 6 0x058B []
      else (setHandle img d0 handle (fun x => { x with state := 1 })).onVc v (fun x =>
        { x with rx := some (fresh handle) })

/-- Payload words land in the open message (R307); the units of a discarded one are counted (R421). -/
def fillMessage (img : Img) (d0 : Dyn) (n v : Nat) (ws : List Nat) : Dyn :=
  match (d0.vc v).rx with
  | none => d0
  | some r =>
    let d := countEv d0 (laneSrc n) 0x0503 (b2n r.discard) EvInfo.plain
    let all := (ws.map (leBytes 8)).flatten
    let part := all.take (r.bytes - 8 * r.words)
    let (d1, bad) := if v = 0 || r.discard || r.refused || part.isEmpty then (d, r.refused)
      else
        let (d', resp) := memStore img d (laneSender n) (bufAddr img r.handle + 8 * r.words) part
        (d', decide (2 ≤ resp.status))
    d1.onVc v (fun x => { x with rx := some { r with
      words := r.words + ws.length, refused := bad, body := if v = 0 then r.body ++ all else [] } })

/-- An accepted DATA unit (R304 to R307). -/
def acceptData (img : Img) (d : Dyn) (n : Nat) (u : List Nat) (time : Nat) : Dyn :=
  let h := u.headD 0
  let v := bits h 9 4
  let ws := (u.drop 1).dropLast
  if vcLane img v ≠ some n then
    let d1 := discardUnit d n 4
    if bit h 10 then d1.onVc v (fun x => { x with discarded := (x.discarded + 1) % 65536 }) else d1
  else
    let d1 := if bit h 10 then
        let d0 := if (d.vc v).rx.isSome then endMessage img (protoViolation d n 6) n v true false else d
        startMessage img d0 n v h time
      else d
    if (d1.vc v).rx.isNone then discardUnit d1 n 6
    else
      let d2 := fillMessage img d1 n v ws
      let d3 := d2.onVc v (fun x => { x with rx := x.rx.map (fun r => { r with erased := r.erased || bit h 12 }) })
      if bit h 11 then endMessage img d3 n v false (bit h 10) else d3

/-- Reserved header bits of a Paretlink unit (Table 11.4). -/
def linkReserved (h : Nat) : Bool :=
  match h % 16 with
  | 1 => decide (bits h 15 13 ≠ 0) || decide (bits h 39 35 ≠ 0) || (!bit h 10 && decide (bits h 63 40 ≠ 0))
  | 2 => decide (bits h 15 4 ≠ 0) || decide (bits h 63 28 ≠ 0)
  | 3 => decide (bits h 15 4 ≠ 0) || decide (bits h 63 28 ≠ 0)
  | 4 => decide (bits h 31 10 ≠ 0) || decide (bits h 63 48 ≠ 0)
  | _ => decide (bits h 63 4 ≠ 0)

/-- A received unit whose CRC is checked first: a failure discards it with the rest of its frame
(R287, R304). The units of one frame carry one time. -/
def checkedUnit (f : List Nat → Nat → Dyn → Dyn) (n : Nat) (u : List Nat) (time : Nat) (d : Dyn) : Dyn :=
  if unitGood u then f u time (if linkReserved (u.headD 0) then protoViolation d n 9 else d)
  else
    let sameFrame : RxItem → Bool
      | .unit _ t => t == time
      | .breach _ t => t == time
      | _ => false
    nakNow n (discardUnit (d.onLane n (fun x => { x with rx := x.rx.dropWhile sameFrame })) n 3)

def linkUnit (l : Lane) (type : Nat) (f : List Nat → Nat → Dyn → Dyn) (d : Dyn) : Dyn :=
  when_ (decide (64 ≤ l.val)) (fun d =>
    withUnit (nakNow l.val) (fun h => h % 16 == type) l.val (checkedUnit f l.val) d) d

/-- A DATA unit by its PSN: accepted, a duplicate, or a gap (R304). -/
def dataUnit (img : Img) (n : Nat) (u : List Nat) (time : Nat) (d : Dyn) : Dyn :=
  let k := (d.lane n).link
  let psn := bits (u.headD 0) 27 16
  let back := (k.rxPsn + 4096 - psn) % 4096
  if psn = k.rxPsn then
    let frames := (d.lane n).teth.frames
    let d1 := d.onLink n (fun k => { k with
      rxPsn := (k.rxPsn + 1) % 4096, nakAt := none, unacked := k.unacked + 1
      unackedAt := if k.unacked = 0 then frames else k.unackedAt
      ackDue := k.ackDue || decide (16 ≤ k.unacked + 1) })
    acceptData img d1 n u time
  else if back ≤ 2048 then
    (countEv d (laneSrc n) 0x0503 1 EvInfo.plain).onLink n (fun k => { k with ackDue := true })
  else nakNow n d

def execData (l : Lane) (s : State) : Out :=
  act (fun img d => linkUnit l 1 (dataUnit img l.val) d) s

/-! ### Acknowledgement (R303) -/

/-- Bytes of a management message (R309): an answer's header and body. -/
def answerBytes (a : MgmtAnswer) : List Byte :=
  leBytes 2 a.op ++ leBytes 2 a.tag.toNat ++ leBytes 2 a.code ++ zeros 2 ++ leBytes 4 a.body.length
  ++ zeros 4 ++ a.body

/-- A message's last unit is acknowledged: FLAGS.DONE, VC and TIME are written, FLAGS' reserved bits as zero
(R9, R308, Table 11.5). -/
def messageDone (img : Img) (d : Dyn) (n : Nat) (m : SentMsg) : Dyn :=
  let d1 := d.onVc m.vc (fun x => { x with txDone := (x.txDone + 1) % 65536 })
  if m.vc = 0 then { d1 with answers := d1.answers.drop 1 }
  else
    let desc := bufAddr img (bits (vcConfig img m.vc) 15 0) + 16 * ((d.vc m.vc).txDone % 2 ^ txLog img m.vc)
    let (d2, r) := memLoad img d1 (laneSender n) (desc + 6) 1
    (memStore img d2 (laneSender n) (desc + 6)
      ((r.data.headD 0 &&& 1 ||| 0x80) :: leBytes 1 m.vc ++ leBytes 8 (d.nowAt (laneSrc n)))).1

/-- Units before `p` are acknowledged; false when `p` lies outside the window (R303). -/
def acknowledge (img : Img) (d : Dyn) (n p : Nat) : Dyn × Bool :=
  let k := (d.lane n).link
  let oldest := match k.window with
    | (q, _) :: _ => q
    | [] => k.txPsn
  let count := (p + 4096 - oldest) % 4096
  if k.window.length < count then (d, false)
  else
    let gone := (k.window.take count).map (·.1)
    let done := k.sent.filter (fun m => gone.contains m.lastPsn)
    let d1 := d.onLink n (fun k => { k with
      window := k.window.drop count, sent := k.sent.filter (fun m => !gone.contains m.lastPsn)
      advanced := if count = 0 then k.advanced else (d.lane n).teth.frames })
    (done.foldl (fun d m => messageDone img d n m) d1, true)

def ackUnit (img : Img) (n : Nat) (u : List Nat) (_time : Nat) (d : Dyn) : Dyn :=
  let (d1, ok) := acknowledge img d n (bits (u.headD 0) 27 16)
  if ok then d1 else protoViolation d n 8

def execAck (l : Lane) (s : State) : Out := act (fun img d => linkUnit l 2 (ackUnit img l.val) d) s

/-- Everything from the oldest unacknowledged unit is resent (R303). With nothing to resend no resend
starts. -/
def resendAll (d : Dyn) (n : Nat) : Dyn :=
  d.onLink n (fun k => if k.window.isEmpty then k else { k with
    resend := k.window.map (·.2), replays := satAdd 0xFFFF k.replays 1 })

def nakUnit (img : Img) (n : Nat) (u : List Nat) (_time : Nat) (d : Dyn) : Dyn :=
  let (d1, ok) := acknowledge img d n (bits (u.headD 0) 27 16)
  if ok then resendAll d1 n else protoViolation d n 8

def execNak (l : Lane) (s : State) : Out := act (fun img d => linkUnit l 3 (nakUnit img l.val) d) s

/-- 1,024 frame periods without progress (R303); they count anew from here. -/
def execRetryTimeout (l : Lane) (s : State) : Out :=
  act (fun _ d =>
    let k := (d.lane l.val).link
    when_ (decide (64 ≤ l.val) && !k.window.isEmpty
        && decide (k.advanced + 1024 ≤ (d.lane l.val).teth.frames))
      (fun d => (resendAll d l.val).onLink l.val (fun k =>
        { k with advanced := (d.lane l.val).teth.frames })) d) s

/-- A CREDIT unit (R306). -/
def creditUnit (u : List Nat) (_time : Nat) (d : Dyn) : Dyn :=
  let h := u.headD 0
  d.onVc (bits h 9 4) (fun x => { x with total := bits h 47 32 })

def execCredit (l : Lane) (s : State) : Out := act (fun _ d => linkUnit l 4 creditUnit d) s

/-! ### RESET (R305) -/

/-- The VCs of a lane. -/
def laneVcs (img : Img) (n : Nat) : List Nat := (List.range 64).filter (fun v => vcLane img v == some n)

/-- An outgoing message that is not fully acknowledged starts again from its FIRST unit. -/
def restartTx (img : Img) (d : Dyn) (v : Nat) : Dyn :=
  let d1 := match (d.vc v).tx with
    | some t => match t.handle with
      | some h => decReaders img d h
      | none => d
    | none => d
  d1.onVc v (fun x => { x with tx := none, txStarted := x.txDone, total := 0, advert := none })

def resetUnit (img : Img) (n : Nat) (_u : List Nat) (_time : Nat) (d : Dyn) : Dyn :=
  let vs := laneVcs img n
  let d1 := vs.foldl (fun d v => endMessage img d n v true false) d
  let d3 := vs.foldl (restartTx img) d1
  let frames := (d3.lane n).teth.frames
  let d4 := d3.onLink n (fun k => { k with
    rxPsn := 0, txPsn := 0, window := [], resend := [], sent := [], nakAt := none, nakDue := false,
    ackDue := false, unacked := 0
    resetLeft := match k.resetAt with
      | some f => if frames ≤ f + 16 then k.resetLeft else 16
      | none => 16 })
  event d4 (laneSrc n) 0 0x058A []

def execReset (l : Lane) (s : State) : Out := act (fun img d => linkUnit l 5 (resetUnit img l.val) d) s

/-! ### Ring indices (R307, R308) -/

/-- A write of RX_CONSUMED (Table 11.16); beyond RX_PRODUCED it is ignored (R308). -/
def rxConsume (img : Img) (d : Dyn) (_m : Master) (v : Nat) (x : Half) : Dyn :=
  let c := d.vc v
  if v = 0 then d
  else
    let ahead := (x.toNat + 65536 - c.rxProduced) % 65536
    if 0 < ahead ∧ ahead < 32768 then
      writeRefused d (laneSrc ((vcLane img v).getD 64))
    else d.onVc v (fun y => { y with rxConsumed := x.toNat })

/-- A write of TX_POSTED; more than 2^TX_LOG ahead of TX_DONE it is ignored (R308). -/
def txPost (img : Img) (d : Dyn) (_m : Master) (v : Nat) (x : Half) : Dyn :=
  let c := d.vc v
  if v = 0 then d
  else if 2 ^ txLog img v < (x.toNat + 65536 - c.txDone) % 65536 then
    writeRefused d (laneSrc ((vcLane img v).getD 64))
  else d.onVc v (fun y => { y with txPosted := x.toNat })

def execTxPosted (m : Master) (vc : BitVec 6) (value : Half) (s : State) : Out :=
  act (fun img d => txPost img d m vc.toNat value) s

def execRxConsumed (m : Master) (vc : BitVec 6) (value : Half) (s : State) : Out :=
  act (fun img d => rxConsume img d m vc.toNat value) s

end Sys2Proof.Machine
end

