-- ==== Sys2Proof/Machine/Cipher.lean ====
section
/-! DEFINITION. The cipher engines' jobs, locks and direct service (R375 to R385). -/

namespace Sys2Proof.Machine

/-- What a GCM message is (Table 15.1). -/
structure Msg where
  kind : Nat
  slot : Nat
  iv : List Byte
  aad : Nat
  input : Nat
  out : Nat
  aadLen : Nat
  length : Nat
deriving DecidableEq, Repr

def parseMsg (b : List Byte) : Msg :=
  { kind := fld b 0 1, slot := fld b 1 1, iv := (b.drop 4).take 12, aad := fld b 0x10 2, input := fld b 0x12 2,
    out := fld b 0x14 2, aadLen := fld b 0x18 4, length := fld b 0x1C 4 }

/-- Bytes of IN and of OUT: the tag follows the text where it is read or written. -/
def Msg.inBytes (m : Msg) : Nat := if m.kind = 0x32 then m.length + 16 else m.length
def Msg.outBytes (m : Msg) : Nat := if m.kind = 0x31 then m.length + 16 else m.length

/-- Blocks that a message processes. -/
def Msg.blocks (m : Msg) : Nat := divUp m.aadLen 16 + divUp m.length 16

/-- The first offending field of a message (R376, R377): `inBad` and `outBad` judge its buffers, `k` is its
slot as the message sees it. -/
def msgBad (m : Msg) (k : KeySlot) (inBad outBad : Nat → Nat → Bool) : Option Nat :=
  firstBad
    [ (!([0x31, 0x32]).contains m.kind, 0),
      (decide (63 ≤ m.slot) || k.origin == 0 || !bit k.use (m.kind - 0x31), 1),
      (decide (m.aad ≠ 0xFFFF) && inBad m.aad m.aadLen, 0x10),
      (inBad m.input m.inBytes, 0x12),
      (outBad m.out m.outBytes || m.out == m.input, 0x14),
      (decide (65535 < m.aadLen) || (decide (m.aad = 0xFFFF) && decide (m.aadLen ≠ 0)), 0x18),
      (decide (4194224 < m.length), 0x1C) ]

/-- Where a message stands: the next counter block, GHASH's state, and the bytes of AAD and of text processed
(R384). -/
structure MsgCtx where
  counter : Nat
  hash : Nat
  aad : Nat
  bytes : Nat
deriving DecidableEq, Repr

def MsgCtx.start : MsgCtx := { counter := 2, hash := 0, aad := 0, bytes := 0 }

def Suspended.ctx (x : Suspended) : MsgCtx := { counter := x.counter, hash := x.hash, aad := x.aad, bytes := x.bytes }

/-- Where a message starts, or goes on from. -/
def ctxOf (res : Option Suspended) : MsgCtx := (res.map Suspended.ctx).getD MsgCtx.start

/-- Blocks that a message has processed. -/
def MsgCtx.blocks (c : MsgCtx) : Nat := divUp c.aad 16 + divUp c.bytes 16

/-- Where a message stops that stops after `n` blocks, AAD's first: bytes of AAD and of text (R384). -/
def Msg.stopAt (m : Msg) (n : Nat) : Nat × Nat :=
  (min m.aadLen (16 * n), min m.length (16 * (n - divUp m.aadLen 16)))

/-- The reads of a message from a context on: AAD up to byte `upAad`, then IN up to byte `upTo`. -/
def Msg.wants (m : Msg) (c : MsgCtx) (upAad upTo : Nat) : List Want :=
  (if m.aad = 0xFFFF then []
   else [{ handle := m.aad, from_ := c.aad, bytes := upAad - c.aad, control := false }])
  ++ [{ handle := m.input, from_ := c.bytes, bytes := upTo - c.bytes, control := false }]

/-- The AAD and the text of what was read. -/
def Msg.got (m : Msg) (gs : List Got) : List Byte × List Byte :=
  if m.aad = 0xFFFF then ([], (gotAt gs 0).data) else ((gotAt gs 0).data, (gotAt gs 1).data)

/-- AAD or IN is ERASED or BLANKED: the engine processes nothing and reads nothing (R380; log 132). -/
def Msg.erasedIn (img : Img) (d : Dyn) (m : Msg) : Bool :=
  (m.wants MsgCtx.start 0 0).any (fun w => let st := (handleOf img d w.handle).state; st == 3 || st == 4)

/-- Process AAD, then text: the context after it, and what the engine writes (R375). -/
def Msg.process (m : Msg) (rks : List Nat) (c : MsgCtx) (aad text : List Byte) : MsgCtx × List Byte :=
  let body := ctrText rks m.iv c.counter text
  let h := ghashKey rks
  ({ counter := c.counter + divUp text.length 16
     hash := ghashFeed h (ghashFeed h c.hash aad) (if m.kind = 0x31 then body else text)
     aad := c.aad + aad.length
     bytes := c.bytes + text.length }, body)

/-- How a message's processing ends (R379, R380): STATUS, OUT's final state, text bytes processed, and what it
writes at which byte of OUT. -/
structure MsgEnd where
  status : Nat
  final : Nat
  bytes : Nat
  at_ : Nat
  out : List Byte

/-- COMPLETE_ERASED (R380). -/
def MsgEnd.erased : MsgEnd := { status := 1, final := 3, bytes := 0, at_ := 0, out := [] }

/-- Run a message over what was read, from its start or from a context (R375, R379, R391). -/
def runMsg (m : Msg) (key : Nat) (c : MsgCtx) (gs : List Got) : MsgEnd :=
  let rks := aesRoundKeys key
  let (aad, text) := m.got gs
  let n := m.length - c.bytes
  let (c1, body) := m.process rks c aad (text.take n)
  let tag := gcmTag rks m.iv (if m.aad = 0xFFFF then 0 else m.aadLen) m.length c1.hash
  if m.kind = 0x31 then { status := 0, final := 2, bytes := m.length, at_ := c.bytes, out := body ++ tag }
  else if tag = (text.drop n).take 16 then
    { status := 0, final := 2, bytes := m.length, at_ := c.bytes, out := body }
  else { status := 3, final := 3, bytes := m.length, at_ := 0, out := zeros m.length }

/-- A message that is not INVALID runs to its end (R379, R380): `res` is its context, where it resumes. -/
def gcmGo (img : Img) (j : Job) (e : Nat) (m : Msg) (bad : Option Nat) (res : Option Suspended) (d : Dyn) :
    Dyn × JobEnd :=
  let (k, sup) := keyFor d e m.slot (runningMsg d e)
  let gen := (res.map Suspended.gen).getD k.gen
  let flags := msgFlags (sup || res.any Suspended.superseded) res.isSome
  let finish (r : MsgEnd) (d : Dyn) : Dyn × JobEnd :=
    (d, .done { final := r.final, result := cipherResult r.status m.kind flags gen r.bytes }
      [(addrOf img m.out + r.at_, r.out)])
  if bad.isNone && m.erasedIn img d then finish MsgEnd.erased d
  else
    let c := ctxOf res
    withBufs img j bad (m.wants c m.aadLen m.inBytes) d (fun gs d1 =>
      finish (runMsg m k.key c gs) (countEv d1 j.unit 0x0900 (m.blocks - c.blocks) EvInfo.plain))

/-- A dispatched message from its start to its end (R376 to R380). -/
def gcmJob (e : Nat) (img : Img) (j : Job) (d : Dyn) : Dyn × JobEnd :=
  let m := parseMsg j.blk
  gcmGo img j e m (msgBad m (keyFor d e m.slot (runningMsg d e)).1 (badIn img d j) (badOut img d j)) none d

/-- The message that goes on from its context (R391). -/
def resumedMsg (d : Dyn) (e : Nat) : Option Suspended :=
  (d.cipherEng e).resumed.filter (fun x => runningMsg d e == some x.task)

/-- A resumed message to its end, from what its engine holds. -/
def resumedRun (img : Img) (d : Dyn) (e kind : Nat) (x : Suspended) : Dyn :=
  let m := parseMsg x.blk
  let s := cipherSrc e
  if m.kind ≠ kind || (d.unit s).finished.isSome || (pendingDetect d x.task.1).isSome then d
  else
    let j : Job := { unit := s, task := x.task.1, base := (d.task x.task.1).work, blk := x.blk }
    endJob img j (gcmGo img j e m none (some x) d)

/-- Read the buffers of a direct job (R383): a condition of its own ends it, at an address of the last buffer, which
is IN, or before it. -/
def directRead (img : Img) (s : Nat) : List Want → List Got → Dyn → Dyn × (List Got ⊕ (Nat × Nat))
  | [], got, d => (d, .inl got)
  | w :: rest, got, d =>
    let st := (handleOf img d w.handle).state
    let a := addrOf img w.handle
    if st = 5 then (d, .inr (0x0701, a))
    else
      match readPackets img (engineSender s) (packetsOf a w.bytes) [] d with
      | (d1, .inl data) => directRead img s rest (got ++ [{ state := st, data }]) d1
      | (d1, .inr (b, status)) => (d1, .inr (if status = 4 then 0x0701 else 0x0601, b))

/-- The engine ends its direct job (R379, R380, R383). -/
def directRun (img : Img) (d : Dyn) (e kind : Nat) : Dyn :=
  match (d.cipherEng e).direct with
  | none => d
  | some (_, blk) =>
    let m := parseMsg blk
    if m.kind ≠ kind then d
    else
      let s := cipherSrc e
      let (k, sup) := keyFor d e m.slot none
      let finish (r : MsgEnd) (d : Dyn) : Dyn :=
        directEnd img d e r.status r.final (cipherResult r.status m.kind (msgFlags sup false) k.gen r.bytes)
      if m.erasedIn img d then finish MsgEnd.erased d
      else
        match directRead img s (m.wants MsgCtx.start m.aadLen m.inBytes) [] d with
        | (d1, .inr (cond, a)) =>
          let first := addrOf img m.input
          let most := if first ≤ a ∧ a < first + m.inBytes then min m.length (a - first) else 0
          unitCondition img (directError img d1 e most) s cond a 0
        | (d1, .inl gs) =>
          let r := runMsg m k.key MsgCtx.start gs
          let d2 := countEv d1 s 0x0900 m.blocks EvInfo.plain
          match writePackets img (engineSender s) (splitWrite (addrOf img m.out) r.out) d2 with
          | (d3, some (a, status)) => unitCondition img (directError img d3 e m.length) s (directCond status) a 0
          | (d3, none) => finish r d3

/-- A dispatched message may run: none is suspended, and no lock holds it back (R382, R384). -/
def mayRun (d : Dyn) (e : Nat) : Bool :=
  let c := d.cipherEng e
  (suspended d e).isNone && (c.owner == 0 || (c.pending && !c.urgent))

/-! ### The lock (R382, R384, R385) -/

/-- A message stops when `n` blocks are processed, AAD's first: what it has written so far is in OUT, and its
context is saved (R384). One whose start finds it INVALID or without input ends instead, and one that meets a
condition raises it. -/
def saveContext (img : Img) (j : Job) (e : Nat) (tag : Nat × Nat) (n : Nat) (res : Option Suspended) (d : Dyn) : Dyn :=
  let m := parseMsg j.blk
  let (k, sup) := keyFor d e m.slot (some tag)
  let bad := if res.isSome then none else msgBad m k (badIn img d j) (badOut img d j)
  if bad.isSome || m.erasedIn img d then endJob img j (gcmGo img j e m bad res d)
  else
    let c := ctxOf res
    let stop := m.stopAt n
    match readBufs img j (m.wants c (max stop.1 c.aad) (max stop.2 c.bytes)) [] d with
    | (d1, .inr x) => endJob img j (d1, x)
    | (d1, .inl gs) =>
      let (aad, text) := m.got gs
      let (c1, body) := m.process (aesRoundKeys k.key) c aad text
      match landWrites img (countEv d1 j.unit 0x0900 (c1.blocks - c.blocks) EvInfo.plain) j
          [(addrOf img m.out + c.bytes, body)] with
      | (d2, some (cond, a)) => raiseTask d2 j.unit cond a 0
      | (d2, none) =>
        let saved : Suspended :=
          { task := tag, blk := j.blk, gen := (res.map Suspended.gen).getD k.gen
            superseded := sup || res.any Suspended.superseded
            counter := c1.counter, hash := c1.hash, aad := c1.aad, bytes := c1.bytes }
        d2.onCipher e (fun x => { x with resumed := none, susp := some saved })

/-- Suspend the running message after `blocks` blocks (R384). -/
def suspendMsg (img : Img) (d : Dyn) (e blocks : Nat) : Dyn :=
  let s := cipherSrc e
  match (d.unit s).running with
  | none => d
  | some n =>
    if (d.unit s).finished.isSome || (pendingDetect d n).isSome || (suspended d e).isSome then d
    else
      let base := (d.task n).work
      let job (blk : List Byte) : Job := { unit := s, task := n, base, blk }
      let tag := (n, (d.task n).attempts)
      match resumedMsg d e with
      | some x => saveContext img (job x.blk) e tag blocks (some x) d
      | none =>
        match readPackets img (engineSender s) (packetsOf base 64) [] d with
        | (d1, .inr (a, status)) => raiseTask d1 s (engineCond img d1 n a status) a 0
        | (d1, .inl blk) => saveContext img (job blk) e tag blocks none d1

/-- A master that may write CIPHER_LOCK: the supervisor and cores at EXEC (R382). -/
def mayLock : Master → Bool
  | .supervisor => true
  | .core _ .exec => true
  | _ => false

/-- ACQUIRE and ACQUIRE_URGENT (R382). -/
def acquireLock (img : Img) (d : Dyn) (m : Master) (e : Nat) (urgent : Option Nat) : Dyn :=
  if !mayLock m then writeRefused d (cipherSrc e)
  else if (d.cipherEng e).owner ≠ 0 then d
  else
    let d1 := d.onCipher e (fun c => { c with owner := m.source, pending := true, urgent := urgent.isSome })
    match urgent with
    | some blocks => suspendMsg img d1 e blocks
    | none => d1

/-- A suspended message resumes (R391): with its generation it goes on from its context and copies the key,
with another it is aborted. -/
def resumeMsg (img : Img) (d : Dyn) (e : Nat) : Dyn :=
  match suspended d e with
  | none => d.onCipher e (fun c => { c with susp := none })
  | some x =>
    let m := parseMsg x.blk
    let s := cipherSrc e
    let mine (k : KeyCopy) : Bool := k.task == some x.task
    if (d.key m.slot).gen = x.gen then
      d.onCipher e (fun c => { c with susp := none, resumed := some x, copies := c.copies.filter (fun k => !mine k) })
    else
      endJob img { unit := s, task := x.task.1, base := (d.task x.task.1).work, blk := x.blk }
        (d.onCipher e (fun c => { c with susp := none, copies := c.copies.filter (fun k => !mine k) }),
          .done { final := 3, result := cipherResult 4 m.kind (msgFlags x.superseded true) x.gen x.bytes }
            [(addrOf img m.out, zeros m.length)])

/-- With its lock free and no direct job, an engine resumes its suspended message before it takes any new job
(R384, R391). An ACQUIRE that is not granted yet waits for that message to end, and does not keep it from going on
(R382). -/
def resumeIdle (img : Img) (d : Dyn) (e : Nat) : Dyn :=
  let c := d.cipherEng e
  if (c.owner = 0 || (c.pending && !c.urgent)) && c.direct.isNone && c.susp.isSome then resumeMsg img d e else d

/-- The lock is given up (R382, R385); a direct job that runs still ends first. -/
def unlock (img : Img) (d : Dyn) (e : Nat) : Dyn :=
  resumeIdle img (d.onCipher e (fun c => { c with owner := 0, pending := false, urgent := false })) e

/-- RELEASE (R382). -/
def releaseLock (img : Img) (d : Dyn) (m : Master) (e : Nat) : Dyn :=
  let c := d.cipherEng e
  if !mayLock m || c.owner = 0 || c.owner ≠ m.source then writeRefused d (cipherSrc e)
  else unlock img d e

/-- An event of R385 releases a lock, with its report. -/
def forceUnlock (img : Img) (d : Dyn) (e : Nat) : Dyn :=
  if (d.cipherEng e).owner = 0 then d else lockReport (unlock img d e) e

/-- GCM_ENC or GCM_DEC on engine `e`: its direct job when it has one, else its dispatched one, which goes on
where it was resumed. -/
def gcmRun (e kind : Nat) (img : Img) (d : Dyn) : Dyn :=
  if (d.cipherEng e).direct.isSome then resumeIdle img (directRun img d e kind) e
  else
    let d1 := resumeIdle img d e
    if !mayRun d1 e then d1
    else match resumedMsg d1 e with
      | some x => resumedRun img d1 e kind x
      | none => runEngine (cipherSrc e) kind (gcmJob e) img d1

def execGcmEnc (e : Fin 8) (s : State) : Out := act (gcmRun e.val 0x31) s
def execGcmDec (e : Fin 8) (s : State) : Out := act (gcmRun e.val 0x32) s

/-- The lock is granted once the engine holds no dispatched job, or its message is suspended and a queued
one waits (R382). -/
def grantLock (d : Dyn) (e : Nat) : Dyn :=
  let c := d.cipherEng e
  let u := d.unit (cipherSrc e)
  let free := u.running.isNone || (c.urgent && ((suspended d e).isSome || (u.finished.isNone
    && !(match u.running with | some n => (pendingDetect d n).isSome | none => false))))
  if c.pending && free then d.onCipher e (fun c => { c with pending := false }) else d

/-- A write of CIPHER_LOCK (Table 15.5): ACQUIRE_URGENT stops the message after `blocks` blocks. -/
def lockWrite (img : Img) (d : Dyn) (m : Master) (e op blocks : Nat) : Dyn :=
  match op with
  | 0 => if mayLock m then d else writeRefused d (cipherSrc e)
  | 1 => acquireLock img d m e none
  | 2 => acquireLock img d m e (some blocks)
  | _ => releaseLock img d m e

def execAcquire (m : Master) (e : Fin 8) (s : State) : Out :=
  act (fun img d => acquireLock img d m e.val none) s
def execAcquireUrgent (m : Master) (e : Fin 8) (blocks : Nat) (s : State) : Out :=
  act (fun img d => acquireLock img d m e.val (some blocks)) s
def execRelease (m : Master) (e : Fin 8) (s : State) : Out := act (fun img d => releaseLock img d m e.val) s
def execLockGrant (e : Fin 8) (s : State) : Out := act (fun _ d => grantLock d e.val) s

/-! ### Direct service (R383) -/

/-- A direct job is INVALID: it reports, writes RESULT and sets CIPHER_DIRECT. -/
def directInvalid (img : Img) (d : Dyn) (e addr kind off : Nat) : Dyn :=
  directDone img (condReport d (cipherSrc e) 6 0x0802 none 0 (addr + off) 0xFFFF off false) e addr 2 none
    (cipherResult 2 kind 0 0 0)

/-- A handle that a direct job may read or write. -/
def directBad (img : Img) (d : Dyn) (out : Bool) (h n : Nat) : Bool :=
  match bufferOf img h with
  | none => true
  | some b => decide (b.size < n)
      || (if out then !handleFree d h (handleOf img d h) else !isFinal (handleOf img d h).state)

/-- CIPHER_GO (R383). -/
def cipherGo (img : Img) (d : Dyn) (m : Master) (e v : Nat) : Dyn :=
  let c := d.cipherEng e
  if c.owner = 0 || c.owner ≠ m.source || decide (m = .management) || c.pending || c.direct.isSome then
    writeRefused d (cipherSrc e)
  else
    let s := cipherSrc e
    let addr := bits v 27 6 * 64
    match readPackets img (engineSender s) (packetsOf addr 64) [] d with
    | (d1, .inr (a, status)) =>
      unitCondition img (directDone img d1 e addr 5 none (cipherResult 5 0 0 0 0)) s (directCond status) a 0
    | (d1, .inl blk) =>
      let x := parseMsg blk
      match msgBad x (d1.key x.slot) (directBad img d1 false) (directBad img d1 true) with
      | some off => directInvalid img d1 e addr x.kind off
      | none =>
        let d2 := setHandle img ((directInputs blk).foldl (incReaders img) d1) x.out (fun h => { h with state := 1 })
        d2.onCipher e (fun c => { c with direct := some (addr, blk) })

def execCipherGo (m : Master) (e : Fin 8) (value : Word) (s : State) : Out :=
  act (fun img d => cipherGo img d m e.val value.toNat) s

end Sys2Proof.Machine
end

