-- ==== Sys2Proof/Machine/Flash.lean ====
section
/-! DEFINITION. The board's SPI NOR flash and the boot directory (R20 to R23, R53). -/

namespace Sys2Proof.Machine

/-- `n` bytes from `a` up, out of cells that lie at or above `a`; an erased byte reads 0xFF. -/
def fillSpan : Nat → Nat → Map Byte → List Byte
  | 0, _, _ => []
  | n + 1, _, [] => List.replicate (n + 1) 0xFF
  | n + 1, a, (k, v) :: rest =>
    if k = a then v :: fillSpan n (a + 1) rest else 0xFF :: fillSpan n (a + 1) ((k, v) :: rest)

def FlashSt.readN (f : FlashSt) (a n : Nat) : List Byte :=
  fillSpan n a (f.cells.dropWhile (fun e => decide (e.1 < a)))

/-- Erasing sets every byte of the range to 0xFF. -/
def FlashSt.erase (f : FlashSt) (off n : Nat) : FlashSt :=
  { f with cells := f.cells.filter (fun e => decide (e.1 < off) || decide (off + n ≤ e.1)) }

/-- Programming clears bits and sets none (log 51). -/
def programCells : Map Byte → Nat → List Byte → Map Byte
  | m, _, [] => m
  | m, a, b :: rest =>
    let v := Map.get 0xFF m a &&& b
    programCells (if v = 0xFF then Map.del m a else Map.set m a v) (a + 1) rest

def FlashSt.program (f : FlashSt) (off : Nat) (data : List Byte) : FlashSt :=
  { f with cells := programCells f.cells off data }

/-! ### The boot directory (R21, R22) -/

/-- A directory copy (Table 2.1). -/
structure BootDir where
  flags : Nat
  seq : Nat
  aOffset : Nat
  aLength : Nat
  bOffset : Nat
  bLength : Nat
deriving DecidableEq, Repr

/-- The copy at a sector, when MAGIC, VERSION and CRC are correct (R22). -/
def dirAt (f : FlashSt) (off : Nat) : Option BootDir :=
  let b := f.readN off 64
  if fld b 0 4 = 0x44363954 ∧ fld b 4 2 = 1 ∧ fld b 0x3C 4 = crc32 (b.take 0x3C) then
    some { flags := fld b 6 2, seq := fld b 8 4, aOffset := fld b 0xC 4, aLength := fld b 0x10 4,
           bOffset := fld b 0x14 4, bLength := fld b 0x18 4 }
  else none

/-- SEQUENCE a is newer than b (R22). -/
def seqNewer (a b : Nat) : Bool :=
  let k := (a + 2 ^ 32 - b) % 2 ^ 32
  decide (1 ≤ k) && decide (k < 2 ^ 31)

/-- The directory in use and the sector it lies in (R22). -/
def bootDir (f : FlashSt) : Option (BootDir × Nat) :=
  match dirAt f 0, dirAt f 0x1000 with
  | some a, some b => if seqNewer b.seq a.seq then some (b, 0x1000) else some (a, 0)
  | some a, none => some (a, 0)
  | none, some b => some (b, 0x1000)
  | none, none => none

/-- Offset and length of copy 1 (A) or 2 (B). -/
def BootDir.copyRange (b : BootDir) (copy : Nat) : Nat × Nat :=
  if copy = 1 then (b.aOffset, b.aLength) else (b.bOffset, b.bLength)

/-- A directory copy's 64 bytes. -/
def dirBytes (b : BootDir) : List Byte :=
  let body := leBytes 4 0x44363954 ++ leBytes 2 1 ++ leBytes 2 b.flags ++ leBytes 4 b.seq
    ++ leBytes 4 b.aOffset ++ leBytes 4 b.aLength ++ leBytes 4 b.bOffset ++ leBytes 4 b.bLength ++ zeros 32
  body ++ leBytes 4 (crc32 body)

/-- The directory that FLASH_COMMIT writes, and its sector (R53). -/
def commitDir (f : FlashSt) (flags aOffset aLength bOffset bLength : Nat) : BootDir × Nat :=
  let (seq, sector) := match bootDir f with
    | some (b, at_) => ((b.seq + 1) % 2 ^ 32, 0x1000 - at_)
    | none => (1, 0)
  ({ flags := flags % 4, seq, aOffset, aLength, bOffset, bLength }, sector)

/-- FLASH_COMMIT: the other sector is erased and written (R53). -/
def FlashSt.commit (f : FlashSt) (flags aOffset aLength bOffset bLength : Nat) : FlashSt × Nat :=
  let (b, sector) := commitDir f flags aOffset aLength bOffset bLength
  ((f.erase sector 4096).program sector (dirBytes b), b.seq)

/-- What a flash command had done when a reset cut it off: a free part of its work (R53; log 52). -/
def FlashJob.partly (f : FlashSt) (v : Nat) : FlashJob → FlashSt
  | .erase _ off n => f.erase off (v % (n + 1))
  | .program _ off data => f.program off (data.take (v % (data.length + 1)))
  | .verify _ _ => f
  | .commit _ flags ao al bo bl =>
    let (b, sector) := commitDir f flags ao al bo bl
    let k := v % (4096 + 65)
    if k < 4096 then f.erase sector k else (f.erase sector 4096).program sector ((dirBytes b).take (k - 4096))

/-- The flash as the device reads it. Where its commands do not reach the flash, or not all of them, what answers on
the SPI pins is open: a flash of free values (R452; log 78). -/
def seenFlash (reached : Bool) (d : Dyn) : FlashSt × Dyn :=
  if reached then (d.flash, d)
  else
    let (v, d1) := freshNat d
    let (w, d2) := freshNat d1
    let byte (a : Nat) : Nat × Byte := (a, BitVec.ofNat 8 (w / 256 ^ a))
    ({ d.flash with
        responds := bit v 0, sfdp := bit v 1, quad := bit v 2, density := v / 8
        cells := ((List.range (v / 8)).map byte).filter (fun e => e.2 != 0xFF) }, d2)

/-- What the flash command under way leaves on the flash when it ends: its whole effect `all`, none where JTAG held
the SPI pins all the time, and a free part where it held them for part of it (R452; log 78). -/
def leftFlash (j : FlashJob) (all : FlashSt) (d : Dyn) : FlashSt × Dyn :=
  match d.tap.spi with
  | .clear => (all, d)
  | .lost => (d.flash, d)
  | .cut => let (v, d1) := freshNat d; (j.partly d.flash v, d1)

/-- The flash command under way is cut off. -/
def cutFlash (d : Dyn) : Dyn :=
  match d.flash.job with
  | none => { d with flash := { d.flash with restart := none } }
  | some j =>
    let (v, d1) := freshNat d
    let f := if d.tap.spi = .lost then d1.flash else j.partly d1.flash v
    { d1 with flash := { f with job := none, restart := none } }

end Sys2Proof.Machine
end

