-- ==== Sys2Proof/Machine/Reset.lean ====
section
/-! DEFINITION. Resets of the main island and of the device (R393, R408, R409, R418, R439 to R441). -/

namespace Sys2Proof.Machine

/-- The capture after an access (Table 18.14): DONE, ERROR and DATA. -/
def regaccWord (error : Bool) (data : Nat) : Nat := 2 ^ 64 + (if error then 2 ^ 65 else data % 2 ^ 32)

/-- An access under way when the registers that it was to reach go away ends with ERROR 1 and DATA zero, as one made
while they are gone does (R453; log 12). -/
def TapSt.cutOff (t : TapSt) : TapSt :=
  if t.running.isSome then { t with regacc := regaccWord true 0, running := none } else t

/-- The main island as a reset leaves it: every register at its reset value, every key slot empty, the
log and SEQ from zero (R10, R386, R393, R418). Fuses, flash and JTAG stand; BOOTSEL is sampled only at the
release of RESET_N (R441). -/
def islandReset (d : Dyn) (cause : Nat) (ready : Bool) : Dyn :=
  let c := cutFlash d
  { Dyn.reset with
    dst := { DeviceSt.reset with
      startReady := ready, mainEn := true, aonUp := true, vioUp := true, resetCause := cause }
    fuse := c.fuse
    flash := c.flash
    tap := c.tap.cutOff
    free := c.free }

/-- AON_RESET_RELEASE: MAIN_EN rises, and the board's sequencer brings up VIO (R439, Table 18.5). -/
def aonRelease (d : Dyn) : Dyn :=
  if d.dst.aonUp then d else { d with dst := { d.dst with aonUp := true, mainEn := true, vioUp := true } }

def execAonResetRelease (s : State) : Out := actAon (fun _ d => aonRelease d) s

/-- RESET_N: a low of 1.0 µs or longer, while VAON is up (R408, R441). -/
def execResetN (lowNs : Nat) (s : State) : Out :=
  actImg (fun img d =>
    if d.dst.aonUp && decide (1000 ≤ lowNs) then (Img.reset, islandReset d 1 false) else (img, d)) s

/-- RESET_N_RELEASE samples BOOTSEL; the start waits for VCORE (R439, R441). -/
def execResetNRelease (bootsel : Bool) (s : State) : Out :=
  actAon (fun _ d =>
    when_ (d.dst.aonUp && decide (d.dst.state = .boot) && !d.dst.startReady)
      (fun d => { d with dst := { d.dst with bootsel, startReady := true } }) d) s

/-- VCORE_TRIP, with the main island on: a reset that starts again once VCORE holds (R409). -/
def execVcoreTrip (s : State) : Out :=
  actImg (fun img d => if islandUp d then (Img.reset, islandReset d 2 true) else (img, d)) s

/-- VAON_TRIP: the whole device, the always-on domain with it (R409). -/
def execVaonTrip (s : State) : Out :=
  actImg (fun img d =>
    if d.dst.aonUp then
      let c := cutFlash d
      (Img.reset, { Dyn.reset with fuse := c.fuse, flash := c.flash, free := c.free })
    else (img, d)) s

/-- A RESTART takes effect (R311, R418): a new start, which keeps the log and SEQ with the records on their way to
it, the reports of locks that it releases (R385), RESET_CAUSE, tick time (log 53), and what the host has not
acknowledged yet. -/
def restartNow (d0 : Dyn) : Dyn :=
  let d := lockReports d0
  let r := islandReset d d.dst.resetCause true
  { r with
    rep := { r.rep with log := d.rep.log, logWr := d.rep.logWr, ifq := d.rep.ifq, lost := d.rep.lost }
    time := { r.time with t := d.time.t }
    answers := d.answers }

end Sys2Proof.Machine
end

