-- ==== Sys2Proof/Machine/Tether.lean ====
section
/-! DEFINITION. A Tether lane's training, hunting, lock and commands (R267 to R284). -/

namespace Sys2Proof.Machine

/-- STATE of Table 10.9. -/
def stOff : Nat := 0
def stQuiet : Nat := 1
def stSilence : Nat := 2
def stLead : Nat := 3
def stFollow : Nat := 4
def stBoth : Nat := 5
def stData : Nat := 6
def stFailed : Nat := 7

def isTraining (st : Nat) : Bool := decide (2 ≤ st) && decide (st ≤ 5)

/-- The receiver leaves LOCKED or its hunt: open containers close (R294). -/
def dropLock (img : Img) (d : Dyn) (n : Nat) : Dyn :=
  let d1 := if (d.lane n).teth.lock = 2 then closeAll img d n else d
  d1.onTeth n (fun t => { t with
    lock := 0, main := none, shadow := none, badRun := 0, huntSince := t.frames, askSince := none })

/-- The containers that wait for a lane that leaves DATA are dropped, and their READERS fall (R295). -/
def dropWaiting (img : Img) (d : Dyn) (n : Nat) : Dyn :=
  ((d.lane n).bridle.dlq.foldl (fun d c => decReaders img (dropContainer d n) c.handle) d).onBridle n
    (fun b => { b with dlq := [] })

/-- The lane falls silent in state `st`: its lock ends, and what waits for it is dropped. -/
def silenceLane (img : Img) (d : Dyn) (n st : Nat) : Dyn :=
  let now := d.now256
  (dropLock img (dropWaiting img d n) n).onTeth n (fun t => { t with
    state := st, go := false, decided := false, bothAt := none, phaseFrames := 0, phaseAt := now,
    quietLeft := none, sending := false })

/-- A training attempt starts with SILENCE (R269, R272). After a loss of lock the taps' mark stays for the new
lock (R276). -/
def startAttempt (img : Img) (d : Dyn) (n : Nat) (fast : Bool) : Dyn :=
  (silenceLane img d n stSilence).onTeth n (fun t => { t with fast, partnerAsk := false })

/-- A lane enters FAILED (R272). -/
def failLane (img : Img) (d : Dyn) (n : Nat) : Dyn :=
  event (silenceLane img d n stFailed) (laneSrc n) 6 0x0582 []

/-- An attempt fails with a reason (R272). -/
def failAttempt (img : Img) (d : Dyn) (n reason : Nat) : Dyn :=
  let d1 := event d (laneSrc n) 0 0x0581 (leBytes 1 reason)
  if reason = 4 then failLane img d1 n
  else
    let d2 := d1.onTeth n (fun t => { t with tries := satAdd 255 t.tries 1 })
    match laneCfg img d2 n with
    | some c => if c.tries ≠ 0 ∧ c.tries ≤ (d2.lane n).teth.tries then failLane img d2 n
      else startAttempt img d2 n (d2.lane n).teth.fast
    | none => failLane img d2 n

/-! ### Commands (R281, R282) -/

/-- The first step of QUIET in DATA: 16 more frames. -/
def beginQuiet (d : Dyn) (n : Nat) : Dyn :=
  d.onTeth n (fun t => { t with quietLeft := some 16, pendQuiet := false })

/-- RETRAIN, QUIET and WAKE by lane state (R281). A pending QUIET that a command replaces is reported, with its OP
as the replaced command (R414; log 155). TRIES counts from a command that acts (Table 10.9). -/
def laneCommand (img : Img) (d : Dyn) (n op : Nat) : Dyn :=
  let t := (d.lane n).teth
  let replaced (d : Dyn) : Dyn :=
    if t.pendQuiet then
      event (d.onTeth n (fun t => { t with pendQuiet := false })) (laneSrc n) 0 0x0082 (leBytes 1 2)
    else d
  let fresh (d : Dyn) : Dyn := d.onTeth n (fun x => { x with tries := 0 })
  if t.state = stOff then d
  else if op = 1 then startAttempt img (fresh (replaced d)) n false
  else if op = 2 then
    if isTraining t.state then (replaced d).onTeth n (fun x => { x with pendQuiet := true })
    else if t.state = stData then (if t.quietLeft.isSome then d else beginQuiet d n)
    else if t.state = stFailed then (replaced d).onTeth n (fun x => { x with state := stQuiet, tries := 0 })
    else d
  else if op = 3 ∧ t.state = stQuiet then startAttempt img (fresh d) n t.kept
  else d

/-- A write of LANE_CTRL (R281). -/
def laneCtrl (img : Img) (d : Dyn) (m : Master) (n op : Nat) : Dyn :=
  if !m.isExecOrHost then writeRefused d (laneSrc n)
  else if op = 0 then d
  else if (laneRecord img n).isNone || decide (n = 64 ∧ op = 2) then writeRefused d (laneSrc n)
  else laneCommand img d n op

def execRetrain (m : Master) (l : Lane) (s : State) : Out := act (fun img d => laneCtrl img d m l.val 1) s
def execQuiet (m : Master) (l : Lane) (s : State) : Out := act (fun img d => laneCtrl img d m l.val 2) s
def execWake (m : Master) (l : Lane) (s : State) : Out := act (fun img d => laneCtrl img d m l.val 3) s

/-- After the frame with COUNT 0 the lead falls silent; taps, windows and detector are kept (R282). -/
def execQuietCountdownEnd (l : Lane) (s : State) : Out :=
  act (fun img d =>
    let t := (d.lane l.val).teth
    when_ (decide (t.state = stData) && t.quietLeft == some 0) (fun d =>
      (silenceLane img d l.val stQuiet).onTeth l.val (fun t => { t with kept := true })) d) s

/-! ### The schedule (Table 10.4) -/

/-- Periods of a training phase at the lead (Table 10.4). -/
def phaseLength (st : Nat) (fast : Bool) : Nat :=
  if st = stSilence then 64
  else if st = stLead then (if fast then 1024 else 8192)
  else if st = stFollow then (if fast then 1025 else 8193)
  else (if fast then 1024 else 4096)

/-- Move from one phase of training to the next. -/
def toPhase (d : Dyn) (n st : Nat) : Dyn :=
  d.onTeth n (fun t => { t with state := st, phaseFrames := 0, phaseAt := d.now256 })

/-- The lane is in a training phase of which `k` periods have passed. -/
def phasePast (img : Img) (d : Dyn) (n st k : Nat) : Bool :=
  decide ((d.lane n).teth.state = st) && decide (k ≤ phaseClock img d n)

/-- The training phase has reached its end (Table 10.4; log 123). -/
def phaseOver (img : Img) (d : Dyn) (n st : Nat) : Bool :=
  phasePast img d n st (phaseLength st (d.lane n).teth.fast)

def execSilenceEnd (l : Lane) (s : State) : Out :=
  act (fun img d => when_ (phaseOver img d l.val stSilence) (fun d => toPhase d l.val stLead) d) s

/-- The energy of a window that starts at `t` (R268). -/
def windowEnergy (energy : List Nat) (t : Nat) : Nat := ((energy.drop t).take 32).foldl (· + ·) 0

/-- The next window: the start with the greatest energy among those that overlap no chosen window,
the lowest on a tie (R268). -/
def nextWindow (energy : List Nat) (chosen : List Nat) : Option Nat :=
  let free := ((List.range 2401).map (· + 128)).filter
    (fun t => chosen.all (fun w => decide (t + 32 ≤ w) || decide (w + 32 ≤ t)))
  (free.foldl (fun (best : Option (Nat × Nat)) t =>
    let e := windowEnergy energy t
    match best with
    | some (_, b) => if b < e then some (t, e) else best
    | none => some (t, e)) none).map (·.1)

/-- Windows 0 to 7 in turn (R268). -/
def placeWindows (energy : List Nat) : List Nat :=
  (List.range 8).foldl (fun l _ => match nextWindow energy l with
    | some t => l ++ [t]
    | none => l) []

/-- The receiver's taps adapt, unless a lost lock has frozen them; a training attempt adapts them anew (R267, R268,
R276). -/
def adaptTaps (d : Dyn) (n : Nat) : Dyn :=
  if (d.lane n).teth.frozen && !isTraining (d.lane n).teth.state then d
  else
    let (v, d1) := freshNat d
    d1.onTeth n (fun t => { t with taps := LaneTaps.adapted v })

/-- After 1,024 frames of LEAD_ALONE the lead places its windows; the FAST schedule keeps those it finds
(R268). -/
def execEchoWindowPlacement (l : Lane) (energy : List Nat) (s : State) : Out :=
  act (fun img d => when_ (phasePast img d l.val stLead 1024 && !(d.lane l.val).teth.fast)
    (fun d => adaptTaps (d.onTeth l.val (fun t => { t with windows := placeWindows energy })) l.val) d) s

/-- The lead falls silent for FOLLOW_ALONE; the echo depth it reached is a free value (log 32). -/
def execLeadAloneEnd (l : Lane) (s : State) : Out :=
  act (fun img d => when_ (phaseOver img d l.val stLead) (fun d =>
    let (v, d1) := freshNat d
    toPhase ((adaptTaps d1 l.val).onTeth l.val (fun t => { t with echoRes := v % 256, sending := false })) l.val
      stFollow) d) s

def execFollowAloneEnd (l : Lane) (s : State) : Out :=
  act (fun img d => when_ (phaseOver img d l.val stFollow) (fun d =>
    if (d.lane l.val).teth.lock = 2 then toPhase d l.val stBoth else failAttempt img d l.val 2) d) s

/-- The period of BOTH in which the lead decides on GO: period 20,480, or 3,072 when FAST (R272). -/
def goPeriod (fast : Bool) : Nat := if fast then 959 else 4031

/-- A BOTH frame came within the last 16 periods (R272). -/
def recentBoth (img : Img) (d : Dyn) (n : Nat) : Bool :=
  match (d.lane n).teth.bothAt with
  | some k => decide (phaseClock img d n ≤ k + 16)
  | none => false

/-- Once in BOTH the lead decides: GO when both ends are good and a BOTH frame came within the last 16
periods (R272). It goes by the frames that it has received; what the sender believes of them does not count. -/
def execGoDecision (l : Lane) (_ : Bool) (s : State) : Out :=
  act (fun img d =>
    let t := (d.lane l.val).teth
    when_ (phasePast img d l.val stBoth (goPeriod t.fast) && !t.decided) (fun d =>
      let ok := rxGood img d l.val && t.partnerLock && t.partnerGood && recentBoth img d l.val
      d.onTeth l.val (fun t => { t with go := ok, decided := true })) d) s

/-- The end of BOTH: DATA, or reason 3 (R272). A pending QUIET then begins (R281). -/
def bothEnd (img : Img) (d : Dyn) (n : Nat) : Dyn :=
  if (d.lane n).teth.go then
    let d1 := (toPhase d n stData).onTeth n (fun t => { t with
      tries := 0, trained := satAdd 255 t.trained 1, noGo := false, kept := true,
      huntSince := t.frames, askSince := none })
    if (d1.lane n).teth.pendQuiet then beginQuiet d1 n else d1
  else failAttempt img (d.onTeth n (fun t => { t with noGo := true })) n 3

def execBothEnd (l : Lane) (s : State) : Out :=
  act (fun img d => when_ (phaseOver img d l.val stBoth) (fun d => bothEnd img d l.val) d) s

/-- A signal of 50 mV or more where the partner must be silent (R272, Table 10.7 kinds 1 and 7). In QUIET and
FAILED the sender says that it lies beyond the limits of R271 rule 6 or R282 (log 124). -/
def execSignalInSilence (l : Lane) (s : State) : Out :=
  actPins (fun img d =>
    let st := (d.lane l.val).teth.state
    if st = stSilence ∨ st = stLead then failAttempt img (violation d l.val 1) l.val 1
    else if st = stQuiet ∨ st = stFailed then violation d l.val 7
    else d) s

/-! ### Hunting (R273, R274) -/

/-- How many of the low 32 bits are set. -/
def popcount32 (x : Nat) : Nat := ((List.range 32).filter (fun i => x.testBit i)).length

/-- A raw marker is valid as it stands, or on a swapped pair (R273). -/
def markerPlain (raw : Nat) : Bool := decide (popcount32 (raw ^^^ frameMarker) ≤ 2)
def markerSwapped (raw : Nat) : Bool := decide (popcount32 (raw ^^^ frameMarker ^^^ 0x55555555) ≤ 2)

/-- A candidate locks (R274, R276). -/
def gainLock (d : Dyn) (n seq : Nat) (takeover : Bool) : Dyn :=
  let was := (d.lane n).teth.frozen
  let d1 := d.onTeth n (fun t => { t with
    lock := 2, main := none, shadow := none, lastSeq := seq, badRun := 0, frozen := false
    takeovers := if takeover then satAdd 255 t.takeovers 1 else t.takeovers })
  if was then event d1 (laneSrc n) 0 0x0584 [] else d1

/-- A candidate's next marker: one more, or dropped (R274). -/
def Cand.next (c : Cand) (valid : Bool) (seq : Nat) : Option Cand :=
  if valid && seq == (c.seq + 1) % 65536 then some { c with count := c.count + 1, seq } else none

/-- A marker looked for at an alignment by a receiver that is not LOCKED (R274). -/
def huntMarker (d : Dyn) (n align : Nat) (valid : Bool) (seq : Nat) : Dyn :=
  let t := (d.lane n).teth
  let fresh : Option Cand := if valid then some { align, count := 1, seq } else none
  let put (m s : Option Cand) : Dyn :=
    d.onTeth n (fun t => { t with main := m, shadow := s, lock := if m.isSome then 1 else 0 })
  match t.main with
  | none => put fresh none
  | some m =>
    if m.align = align then
      match m.next valid seq with
      | some m' => if m'.count = 3 then gainLock d n seq false else put (some m') t.shadow
      | none => put t.shadow none
    else match t.shadow with
      | none => put t.main fresh
      | some s =>
        if s.align = align then
          match s.next valid seq with
          | some s' => if s'.count = 3 then gainLock d n seq true else put t.main (some s')
          | none => put t.main none
        else d

/-- A marker at this alignment is one that a hunter looks for (R274). -/
def hunterAt (t : TetherSt) (align : Nat) : Bool :=
  match t.main, t.shadow with
  | some m, some s => m.align == align || s.align == align
  | _, _ => true

def execMarkerDetected (l : Lane) (align : Fin 4352) (raw : Word) (seq : Half) (s : State) : Out :=
  actPins (fun img d =>
    let n := l.val
    let t := (d.lane n).teth
    let valid := markerPlain raw.toNat || markerSwapped raw.toNat
    if t.state = stSilence ∨ t.state = stLead then
      if valid then failAttempt img (violation d n 1) n 1 else d
    else if (t.state = stFollow ∨ t.state = stBoth ∨ t.state = stData) ∧ t.lock ≠ 2 then
      let d1 := if !markerPlain raw.toNat && markerSwapped raw.toNat && hunterAt t align.val
        then d.onTeth n (fun t => { t with inverted := true }) else d
      huntMarker d1 n align.val valid seq.toNat
    else d) s

/-! ### Received frames (R275, R276, R284) -/

/-- A frame that is not good, or must not be used, is lost (R275); LOCK_LOSS of them end the lock (R276). -/
def loseFrame (img : Img) (d : Dyn) (n : Nat) : Dyn :=
  let d1 := d.onLane n (fun x => { x with
    rx := x.rx ++ [.lostFrame ((x.teth.lastSeq + x.teth.badRun + 1) % 65536)]
    teth := { x.teth with framesLost := satAdd 0xFFFFFFFF x.teth.framesLost 1, badRun := x.teth.badRun + 1 } })
  match laneCfg img d1 n with
  | none => d1
  | some c =>
    if c.lockLoss ≤ (d1.lane n).teth.badRun then
      event ((dropLock img d1 n).onTeth n (fun t => { t with
        frozen := true, losses := satAdd 0xFFFF t.losses 1 })) (laneSrc n) 6 0x0583 []
    else d1

/-- The partner's reserved FLAGS and LINK bits (Tables 10.3, 10.5). -/
def reservedSet (info : Nat) : Bool :=
  let link := bits info 111 64
  decide (bits info 55 49 ≠ 0) || decide (bits link 7 5 ≠ 0) || decide (bits link 31 29 ≠ 0)
  || decide (bits link 47 40 ≠ 0)

/-- Split a frame's data words into units; a header that cannot be parsed ends the frame (R286, R287). -/
def splitUnits (unitLen : Nat → Sum Nat Nat) : Nat → List Nat → Nat → List RxItem
  | 0, _, _ => []
  | _ + 1, [], _ => []
  | fuel + 1, h :: rest, time =>
    match unitLen h with
    | .inl kind => [.breach kind time]
    | .inr extra =>
      if rest.length < extra then [.breach 2 time]
      else .unit (h :: rest.take extra) time :: splitUnits unitLen fuel (rest.drop extra) time

/-- The frame's words reach the protocol block (R275). -/
def deliverFrame (img : Img) (d : Dyn) (n info : Nat) : Dyn :=
  let words := (List.range (bits info 63 56)).map (payloadWord info)
  let time := (d.lane n).teth.rxTime
  let len := if n < 64 then bridleLen img n else linkLen
  let d1 := countEv d (laneSrc n) 0x0502 words.length EvInfo.plain
  d1.onLane n (fun x => { x with rx := x.rx ++ splitUnits len words.length words time })

/-- What the partner shows in a good frame (Table 10.5). -/
def notePartner (d : Dyn) (n info : Nat) : Dyn :=
  let link := bits info 111 64
  d.onTeth n (fun t => { t with
    partnerLock := link.testBit 24, partnerGood := link.testBit 25, partnerAsk := link.testBit 27,
    partnerMargin := bits link 39 32
    askSince := if link.testBit 24 && !link.testBit 27 then none else some (t.askSince.getD t.frames) })

/-- REQ_RETRAIN of the partner in DATA (R276). -/
def retrainAsked (img : Img) (d : Dyn) (n : Nat) (before : Bool) : Dyn :=
  let t := (d.lane n).teth
  if t.state = stData && t.partnerAsk then
    match laneCfg img d n with
    | some c => if c.auto then startAttempt img d n false
      else if before then d else event d (laneSrc n) 0 0x0585 []
    | none => d
  else d

/-- PHASE the lead expects (R269, R270). -/
def expectedPhase (st : Nat) : Nat := if st = stFollow then 2 else if st = stBoth then 3 else 4

/-- A good frame, by its fields and its SEQ (R272, R275, R284). -/
def goodFrame (img : Img) (d : Dyn) (n info fixed : Nat) : Dyn :=
  let t := (d.lane n).teth
  let d1 := if fixed ≠ 0 then d.onTeth n (fun t => { t with framesFixed := satAdd 0xFFFFFFFF t.framesFixed 1 }) else d
  let words := bits info 63 56
  if !info.testBit 48 then failAttempt img (violation d1 n 2) n 4
  else
    let d2 := if reservedSet info then violation d1 n 6 else d1
    if bits info 67 64 ≠ expectedPhase t.state then
      let d3 := violation d2 n 3
      if t.state = stData then loseFrame img d3 n
      else failAttempt img d3 n (if t.state = stFollow then 2 else 3)
    else if 126 < words ∨ (t.state ≠ stData ∧ words ≠ 0) then loseFrame img (violation d2 n 4) n
    else
      let seq := bits info 47 32
      let at_ := phaseClock img d2 n
      let d3 := (notePartner d2 n info).onTeth n (fun t => { t with
        badRun := 0, lastSeq := seq, bothAt := if t.state = stBoth then some at_ else t.bothAt })
      let d4 := if seq = (t.lastSeq + 1) % 65536 then d3
        else (violation d3 n 5).onLane n (fun x => { x with rx := x.rx ++ [.streamBreak] })
      let d5 := if t.state = stData then deliverFrame img d4 n info else d4
      retrainAsked img d5 n t.partnerAsk

/-- What a frame adds to the lane's records: the time of its first symbol at the ball (R279), the iterations
of its decode and the slicer's squares, of which MARGIN is formed (Table 10.11). -/
def noteFrame (img : Img) (d : Dyn) (n iters ps noise : Nat) : Dyn :=
  let rate := laneRate img d n
  let at_ := d.now256At (receiveDomain (laneSrc n)) - rxLatency256 rate - periods256 1 rate
  d.onTeth n (fun t =>
    let quality := ((ps, noise) :: t.quality).take 1024
    { t with rxTime := at_, quality, margin := marginOf quality, iters := (min 8 iters :: t.iters).take 1024 })

/-- A frame at the receiver's alignment after decoding: the bits that decoding corrected, its iterations and
the slicer's squares (R266, R275, R279). -/
def frameReceived (img : Img) (d : Dyn) (n frame fixed iters ps noise : Nat) : Dyn :=
  let t := (d.lane n).teth
  let info := descramble frame
  if (t.state = stSilence ∨ t.state = stLead ∨ t.state = stFailed) ∧ t.noGo ∧ frameGood frame info
      ∧ bits info 67 64 = 4 then
    violation d n 8
  else if (t.state = stFollow ∨ t.state = stBoth ∨ t.state = stData) ∧ t.lock = 2 then
    let d1 := adaptTaps (noteFrame img d n iters ps noise) n
    if frameGood frame info then goodFrame img d1 n info fixed else loseFrame img d1 n
  else d

/-- The slicer's soft decisions of a frame, as signs and confidences, and its sums of squares. While JTAG
holds the pins no frame comes through: what the lane takes for one fails its checks (R452). -/
def execFrameReceived (l : Lane) (signs : BitVec 8704) (mags : List (BitVec 5)) (ps noise : Nat) (s : State) : Out :=
  act (fun img d =>
    let raw := if pinsTaken d then 0 else signs.toNat
    let (frame, iters) := laneDecode raw mags
    frameReceived img d l.val frame (b2n (frame != raw)) iters ps noise) s

/-- RELOCK frame periods of hunting in DATA, or of a partner without lock: AUTO_RETRAIN trains (R276). -/
def execRelockExpiry (l : Lane) (s : State) : Out :=
  act (fun img d =>
    let n := l.val
    let t := (d.lane n).teth
    match laneCfg img d n with
    | none => d
    | some c =>
      let hunted := decide (t.lock ≠ 2) && decide (c.relock ≤ t.frames - t.huntSince)
      let asked := match t.askSince with
        | some k => decide (c.relock ≤ t.frames - k)
        | none => false
      when_ (c.auto && decide (t.state = stData) && (hunted || asked)) (fun d => startAttempt img d n false) d) s

end Sys2Proof.Machine
end

