-- ==== Sys2Proof/Machine/Power.lean ====
section
/-! DEFINITION. The power controller (16): modes, domains, refusals, DEEPSLEEP and wake, monitors and
adaptive voltage. -/

namespace Sys2Proof.Machine

/-- Source identifier of the power controller. -/
def powerSrc : Nat := 0x0B00

def Dyn.onPower (d : Dyn) (f : PowerSt → PowerSt) : Dyn := { d with power := f d.power }

/-! ### The policy (R398, R399) -/

/-- FLAGS of a domain's POWER_POLICY record, 0 without one (Table 16.2). -/
def domainFlags (img : Img) (k : Nat) : Nat :=
  match (img.records secPower).find? (fun r => fld r 0 1 == 1 && fld r 2 2 == k) with
  | some r => fld r 4 1
  | none => 0

/-- A field of the BOARD record (Table 16.2), 0 while no image is loaded. -/
def boardField (img : Img) (off size : Nat) : Nat :=
  match (img.records secPower).find? (fun r => fld r 0 1 == 2) with
  | some r => fld r off size
  | none => 0

/-- The units of a domain, in order of their source identifiers (Table 16.1). -/
def domainUnits (k : Nat) : List Nat := allSources.filter (fun s => domainOf s == some k)

/-- A unit that the configuration leaves without work: withheld, or a lane without a LANES record (R398). -/
def unitUnused (img : Img) (d : Dyn) (s : Nat) : Bool :=
  (d.unit s).withheld || (srcSub s == 5 && (laneRecord img (srcInst s)).isNone)

/-- The domain is off in mode FULL (R398). -/
def offInFull (img : Img) (d : Dyn) (k : Nat) : Bool :=
  bit (domainFlags img k) 0 || (domainUnits k).all (unitUnused img d)

/-- The domain is off in a mode (Table 16.3). -/
def offInMode (img : Img) (d : Dyn) (mode k : Nat) : Bool :=
  match mode with
  | 0 => offInFull img d k
  | 1 => offInFull img d k || bit (domainFlags img k) 1
  | 2 => offInFull img d k || !(bit (domainFlags img k) 2 || k == 201)
  | _ => true

/-- The number of switchable domains (R397). -/
def domainCount : Nat := 217

/-! ### Agreement (R402) -/

/-- A core that lets its tile stop. -/
def coreIdle (d : Dyn) (c : Nat) : Bool :=
  let t := (d.core c).tsk
  decide (t.run ≠ .active) || t.waiting

/-- A lane that lets its domain stop: OFF, QUIET or FAILED. -/
def laneIdle (d : Dyn) (n : Nat) : Bool := [0, 1, 7].contains (d.lane n).teth.state

/-- A unit is idle: a Pewter engine holds no command, an engine no job, a cipher engine also no lock and no
suspended context. -/
def unitIdle (d : Dyn) (s : Nat) : Bool :=
  let i := srcInst s
  match srcSub s with
  | 1 => coreIdle d i
  | 2 => (List.range 4).all (fun k => (d.core (4 * i + k)).port.queue.isEmpty)
  | 5 => laneIdle d i
  | 9 => (d.unit s).running.isNone && (d.unit s).queued.isNone && (d.cipherEng i).owner == 0
      && (suspended d i).isNone && (d.cipherEng i).direct.isNone
  | _ => (d.unit s).running.isNone && (d.unit s).queued.isNone

def domainIdle (d : Dyn) (k : Nat) : Bool := (domainUnits k).all (unitIdle d)

/-- The unit that a refusal names: the first that is not idle, else the last of the domain, which is a
tile's Pewter engine (R404). -/
def refusingUnit (d : Dyn) (k : Nat) : Nat :=
  match (domainUnits k).find? (fun s => !unitIdle d s) with
  | some s => s
  | none => ((domainUnits k).getLast?).getD powerSrc

/-! ### Switching (R402 step 3, R405, R398) -/

/-- The endpoints of a domain's units. -/
def domainEndpoints (k : Nat) : List Nat := ((domainUnits k).filterMap endpointOf).eraseDups

/-- A PROGRAM record that starts core `c`, with its section's directory index as byte 48 (R31). -/
def programOf (img : Img) (c : Nat) : Option (List Byte) :=
  (img.records secProgram).find? (fun r => bit (fld r 0x10 24) c)

/-- A core as a start or a power-up leaves it (R31, R398). -/
def startedCore (img : Img) (d : Dyn) (c : Nat) : CoreSt :=
  match programOf img c with
  | some r =>
    if (d.unit (coreSrc c)).withheld then CoreSt.reset
    else
      let pc : Addr := BitVec.ofNat 48 (fld r 0 6 + fld r 0xC 4)
      { CoreSt.reset with
        regs := { CoreRegs.reset with
          d := Map.set (Map.set [] 0 (BitVec.ofNat 32 c)) 1 (BitVec.ofNat 32 (fld r 48 1)), pc }
        tsk := { CoreTask.reset with run := .active } }
  | none => CoreSt.reset

/-- A unit loses its power. A core's locks are released at this step (R385). -/
def unitOff (img : Img) (s : Nat) (d : Dyn) : Dyn :=
  match srcSub s with
  | 1 => (List.range 8).foldl (fun d e => if (d.cipherEng e).owner = s then forceUnlock img d e else d)
      (d.setCore (srcInst s) CoreSt.reset)
  | 5 => d.onTeth (srcInst s) (fun t => { t with
      state := stOff, kept := false, lock := 0, main := none, shadow := none, windows := [], taps := LaneTaps.cleared,
      frozen := false })
  | _ => d

/-- A counter bank at power-up: its counts start from zero with OVF clear, its configuration is kept
(R420). -/
def Bank.cleared (b : Bank) : Bank :=
  { b with ctrs := b.ctrs.map (fun e => (e.1, { e.2 with value := 0, hiLatch := 0 })), ovf := 0, arms := [] }

/-- The bank of a unit that is switched on. -/
def clearBank (d : Dyn) (s : Nat) : Dyn :=
  if (Map.get Bank.reset d.perf.banks s).ctrs.isEmpty then d
  else { d with perf := { d.perf with banks := Map.upd Bank.reset d.perf.banks s Bank.cleared } }

/-- A unit is available again after its power-up (R398). -/
def unitOn (img : Img) (s : Nat) (d : Dyn) : Dyn :=
  match srcSub s with
  | 1 => d.setCore (srcInst s) (startedCore img d (srcInst s))
  | 5 => if unitUnused img d s then d
    else d.onTeth (srcInst s) (fun t => { t with
      state := stQuiet, kept := false, windows := []
      taps := LaneTaps.cleared, tries := 0 })
  | _ => d

/-- A fenced domain is switched off; its copy of tick time is invalid (R402). -/
def domainSwitchOff (img : Img) (d : Dyn) (k : Nat) : Dyn :=
  ((domainUnits k).foldl (fun d s => unitOff img s d) d).onPower (fun p => { p with on := Map.set p.on k false })

/-- A domain whose fences are released: its units become available. -/
def domainSwitchOn (img : Img) (d : Dyn) (k : Nat) : Dyn := (domainUnits k).foldl (fun d s => unitOn img s d) d

/-- The endpoints that stand behind no powered unit once domain `k` is off (R329, R331; log 31). -/
def fencesOf (d : Dyn) (k : Nat) : List Nat :=
  (domainEndpoints k).filter (endpointOff (d.onPower (fun p => { p with on := Map.set p.on k false })))

/-- The power controller orders a domain's fences from their routers (R328, R329). -/
def orderFences (d : Dyn) (k : Nat) : Dyn :=
  (fencesOf d k).foldl (fun d e => requestChange d e 1 powerSrc) (d.onPower (fun p => { p with fencing := true }))

/-- A fence stands, every request of its endpoint is answered and none waits to enter the fabric (R329). -/
def fenceStands (d : Dyn) (e : Nat) : Bool :=
  decide (d.portMode e ≠ 0) && d.fab.trackers.all (fun t => t.endpoint != e || t.timedOut)
  && d.fab.waiting.all (fun p => p.src.toNat != e)

/-- A fence cannot apply (R328, R403): its router did not take the change, or its drain, which began when the
change's turn came, has not finished within QLIMIT. -/
def fenceLate (img : Img) (d : Dyn) (e : Nat) : Bool :=
  let mine (c : PortChange) : Bool := c.slot == e % 4 && c.mode == 1
  decide (d.portMode e = 0) && (match (d.changes (e / 4)).find? mine with
    | none => true
    | some c => c.failed || ((d.runningChange (e / 4)).any mine && usPassed d.now c.since (qLimit img)))

/-- No port of a domain is fenced. -/
def unfenced (d : Dyn) (k : Nat) : Bool := (domainEndpoints k).all (fun e => decide (d.portMode e ≠ 1))

/-- The fences of a domain that stays on are given up, or released by quiesce (R404, R405). -/
def releaseFences (d : Dyn) (k : Nat) : Dyn :=
  (domainEndpoints k).foldl (fun d e =>
    let d1 := d.setChanges (e / 4) ((d.changes (e / 4)).filter (fun c => !(c.slot == e % 4 && c.mode == 1)))
    if d1.portMode e = 1 then requestChange d1 e 0 powerSrc else d1) d

/-! ### Changes of mode (R401 to R407) -/

/-- The main island goes: what stays is the always-on domain, the key store, the image, fuses and flash
(R407 steps 3 to 5). Whether the board leaves VIO up is free (log 145). -/
def enterDeepsleep (d : Dyn) : Dyn :=
  let (vio, d1) := freshNat (cutFlash (eraseKeys d))
  { Dyn.reset with
    dst := { d1.dst with state := .deepsleep, phase := 0, mainEn := false, startReady := false, dramUp := false,
                         slotUp := false, waking := false, vioUp := vio % 2 == 1 }
    fuse := d1.fuse
    flash := d1.flash
    power := { d1.power with
      current := 3, target := 3, pend := none, busy := false, rollback := false, todo := [], stopped := []
      leaving := none, fencing := false, releasing := none, rising := none, good := none, copied := false, on := [] }
    keys := d1.keys
    tap := d1.tap.cutOff
    free := d1.free }

/-- A refusal rolls the change back (R404): its fences are released by quiesce, then the domains it stopped are
powered up in reverse order; the refusal is counted, logged and reported in the step that finds it (R403). -/
def refuseDomain (d : Dyn) (k reason : Nat) : Dyn :=
  let src := refusingUnit d k
  let d0 := if d.power.fencing then releaseFences d k else d
  let d1 := d0.onPower (fun p => { p with
    rollback := true, leaving := none, fencing := false, releasing := if unfenced d0 k then none else some k
    todo := p.stopped.map (fun k => (k, true)), stopped := []
    refusals := Map.upd 0 p.refusals p.target (satAdd 0xFFFFFFFF · 1)
    log := Map.set p.log p.logNext { source := src, reason, mode := p.target, tick := d.nowAt powerSrc }
    logNext := (p.logNext + 1) % 16 })
  event d1 powerSrc 4 0x0B82 (leBytes 2 src ++ leBytes 1 d.power.target ++ leBytes 1 reason)

/-- The next switching on: the domain is switched on, its counts start from zero (R420), and its power-good
signal is awaited (R405). -/
def raiseDomain (d : Dyn) (k : Nat) : Dyn :=
  ((domainUnits k).foldl clearBank d).onPower (fun p => { p with
    on := Map.set p.on k true, rising := some (k, d.now), good := none, copied := false })

/-- Withdraw the next domain of a change; a lane that is not quiet refuses at once (R402, R403). -/
def withdrawDomain (d : Dyn) (k : Nat) : Dyn × Bool :=
  if 137 ≤ k ∧ !laneIdle d (k - 137) then (refuseDomain d k 2, false)
  else (d.onPower (fun p => { p with leaving := some (k, d.now), fencing := false }), true)

/-- The change or roll-back is over. -/
def settleChange (d : Dyn) : Dyn :=
  if d.power.rollback then
    d.onPower (fun p => { p with busy := false, rollback := false, target := p.current, stopped := [] })
  else
    let d1 := d.onPower (fun p => { p with
      busy := false, stopped := [], current := p.target
      beforeNap := if p.target = 2 then p.current else p.beforeNap })
    let d2 := event d1 powerSrc 0 0x0B81 []
    if d2.power.current = 3 then enterDeepsleep d2 else d2

/-- Begin a change to `mode` (R401): domains off in rising order, then on in rising order. -/
def planChange (img : Img) (d : Dyn) (mode : Nat) : Dyn :=
  let all := List.range domainCount
  let offs := all.filter (fun k => domainOn d k && offInMode img d mode k)
  let ons := all.filter (fun k => !domainOn d k && !offInMode img d mode k)
  d.onPower (fun p => { p with
    busy := true, rollback := false, target := mode, stopped := []
    todo := offs.map (fun k => (k, false)) ++ ons.map (fun k => (k, true)) })

/-- Go on with the change under way (R402, R404, R405). `fuel` bounds a refusal at once and the roll-back that
it begins. -/
def goOn : Nat → Dyn → Dyn
  | 0, d => d
  | fuel + 1, d =>
    if d.power.releasing.isSome then d
    else match d.power.todo with
    | (k, true) :: _ => raiseDomain d k
    | (k, false) :: _ =>
      let (d1, ok) := withdrawDomain d k
      if ok then d1 else goOn fuel d1
    | [] => settleChange d

/-- A step of the controller that begins in a stable mode starts the pending request (R406). -/
def startPending (img : Img) (d : Dyn) : Dyn :=
  if d.power.busy then d
  else match d.power.pend with
    | none => d
    | some m =>
      let d1 := d.onPower (fun p => { p with pend := none })
      if m = d1.power.current then d1 else goOn 4 (planChange img d1 m)

/-- A request reaches the controller (R406): one that is pending has started by then. -/
def placeRequest (img : Img) (d0 : Dyn) (mode : Nat) : Dyn :=
  let d := startPending img d0
  if d.power.busy then
    match d.power.pend with
    | none => d.onPower (fun p => { p with pend := some mode })
    | some old => event (d.onPower (fun p => { p with pend := some mode })) powerSrc 0 0x0082 (leBytes 1 old)
  else if mode = d.power.current then d
  else goOn 4 (planChange img d mode)

/-- A master that Table 16.3 names for a mode. -/
def powerMaster (m : Master) (mode : Nat) : Bool :=
  if mode ≤ 1 then m.isExecOrHost
  else if mode = 2 then m.isHost
  else match m with
    | .management => true
    | _ => false

/-- A write of POWER_REQ (R401). A mode that the device state does not allow is refused as an access
(log 54). DEEPSLEEP may be asked for in HOLD, as R401 says and R45's list of exits does not: the model's choice
(log 144). -/
def powerRequest (img : Img) (d : Dyn) (m : Master) (mode : Nat) : Dyn :=
  if !powerMaster m mode then writeRefused d powerSrc
  else if !(d.dst.state == .service || (d.dst.state == .hold && mode == 3)) then writeRefused d powerSrc
  else if 2 ≤ mode ∧ !allQuiet img d then refusal d powerSrc 0x0C03 []
  else placeRequest img d mode

def execPowerReqFull (m : Master) (s : State) : Out := act (fun img d => powerRequest img d m 0) s
def execTrim (m : Master) (s : State) : Out := act (fun img d => powerRequest img d m 1) s
def execNap (m : Master) (s : State) : Out := act (fun img d => powerRequest img d m 2) s
def execDeepsleep (m : Master) (s : State) : Out := act (fun img d => powerRequest img d m 3) s

/-- The leaving domain's fences stand and it is idle: it is switched off, and the change goes on (R402). -/
def leaveFenced (img : Img) (d : Dyn) : Dyn :=
  match d.power.leaving with
  | none => d
  | some (k, _) =>
    if d.power.fencing && domainIdle d k && (fencesOf d k).all (fenceStands d) then
      let d1 := domainSwitchOff img d k
      goOn 4 (d1.onPower (fun p => { p with
        leaving := none, fencing := false, stopped := k :: p.stopped, todo := p.todo.drop 1 }))
    else d

/-- The rising domain's fences are released: its units become available, and the change goes on (R405). -/
def riseReleased (img : Img) (d : Dyn) : Dyn :=
  match d.power.rising with
  | none => d
  | some (k, _) =>
    if d.power.copied && unfenced d k then
      let d1 := domainSwitchOn img d k
      goOn 4 (d1.onPower (fun p => { p with rising := none, good := none, copied := false, todo := p.todo.drop 1 }))
    else d

/-- The refusing domain's fences are released: the roll-back goes on (R404). -/
def refusalReleased (d : Dyn) : Dyn :=
  match d.power.releasing with
  | none => d
  | some k => if unfenced d k then goOn 4 (d.onPower (fun p => { p with releasing := none })) else d

/-- The withdrawn domain agrees when it is idle: its fences are ordered, and once they stand it is switched
off (R402, R329). -/
def domainAgree (img : Img) (d : Dyn) : Dyn :=
  match d.power.leaving with
  | none => d
  | some (k, _) =>
    if domainIdle d k then leaveFenced img (if d.power.fencing then d else orderFences d k) else d

def execDomainAgree (s : State) : Out := act domainAgree s

/-- QUIESCE: the change applies, or is given up where QLIMIT has passed, and a change of power that waited for it
goes on (R328, R402, R404, R405). -/
def execQuiesce (r : BitVec 6) (s : State) : Out :=
  act (fun img d => refusalReleased (riseReleased img (leaveFenced img (acceptAgain img d r.toNat)))) s

/-- The withdrawn domain refuses (R403, R404): BUSY after AGREE_LIMIT, FENCE when a fence cannot apply within
QLIMIT. -/
def domainRefused (img : Img) (d : Dyn) (reason : Nat) : Dyn :=
  match d.power.leaving with
  | none => d
  | some (k, since) =>
    let busy := !domainIdle d k && usPassed d.now since (boardField img 0xA 2)
    let late := d.power.fencing && (fencesOf d k).any (fenceLate img d)
    if (reason = 1 && busy) || (reason = 3 && late) then goOn 4 (refuseDomain d k reason) else d

def execDomainRefused (reason : Fin 4) (s : State) : Out := act (fun img d => domainRefused img d reason.val) s

/-- The next distribution word has reached the rising domain: its copy of tick time is valid, and its fences are
released by quiesce (R357, R405). -/
def copyWord (img : Img) (d : Dyn) : Dyn :=
  match d.power.rising, d.power.good with
  | some (k, _), some t =>
    if decide (t ≤ d.now) && !d.power.copied then
      riseReleased img ((releaseFences d k).onPower (fun p => { p with copied := true }))
    else d
  | _, _ => d

/-- The domain that was switched on signals power-good, within 20 µs (R405). Its copy of tick time waits for the
next distribution word, which takes a free time up to 2 µs (R357; log 129). -/
def powerGood (img : Img) (d : Dyn) : Dyn :=
  match d.power.rising with
  | none => d
  | some (_, since) =>
    if d.power.good.isSome || decide (20 * 196608 < (d.now - since) * 100) then d
    else
      let (v, d1) := freshNat d
      copyWord img (d1.onPower (fun p => { p with good := some (d.now + v % 3933) }))

def execPowerGood (s : State) : Out := act powerGood s

/-- No power-good signal within 20 µs: the domain is off again, and the change goes on (R405). -/
def powerGoodFail (d : Dyn) : Dyn :=
  match d.power.rising with
  | none => d
  | some (k, since) =>
    if d.power.good.isSome || !usPassed d.now since 20 then d
    else
      let d1 := d.onPower (fun p => { p with rising := none, on := Map.set p.on k false, todo := p.todo.drop 1 })
      goOn 4 (event d1 powerSrc 6 0x0B83 [])

def execPowerGoodFail (s : State) : Out := act (fun _ d => powerGoodFail d) s

/-- What the controller does at a clock of the time base: a copy that is reached becomes valid, and a pending
request starts (R357, R406). -/
def powerTick (img : Img) (d : Dyn) : Dyn := startPending img (copyWord img d)

/-! ### Wake (R408) -/

/-- The image's WAKE record of a pin for an edge, with a MODES bit set (Table 16.2). -/
def wakes (img : Img) (pin : Nat) (rising : Bool) (modesBit : Nat) : Bool :=
  (img.records secPower).any (fun r =>
    fld r 0 1 == 3 && fld r 2 1 == pin && (fld r 3 1 == (if rising then 0 else 1)) && bit (fld r 4 1) modesBit)

def wakeEdge (img : Img) (d : Dyn) (pin : Nat) (rising : Bool) : Dyn :=
  if d.dst.state = .service && d.power.current == 2 && wakes img pin rising 0 then
    placeRequest img d d.power.beforeNap
  else if d.dst.state = .deepsleep && !d.dst.waking && wakes img pin rising 1 then
    { d with dst := { d.dst with mainEn := true, waking := true, vioUp := true } }
  else d

def execWakeEdge (pin : Fin 32) (rising : Bool) (s : State) : Out :=
  actAon (fun img d => if pinsTaken d then d else wakeEdge img d pin.val rising) s

/-- MAIN_DELAY after MAIN_EN rose: a new start, or the sleep goes on (R408). -/
def execDeepsleepWakeCheck (vcoreMv : Nat) (s : State) : Out :=
  actImg (fun img d =>
    if d.dst.state = .deepsleep && d.dst.waking then
      if 600 < vcoreMv then (Img.reset, islandReset d 3 true)
      else
        let (vio, d1) := freshNat d
        (img, { d1 with dst := { d1.dst with mainEn := false, waking := false, vioUp := vio % 2 == 1 } })
    else (img, d)) s

/-! ### Monitors and adaptive voltage (R409, R411) -/

/-- VCORE_WARNING, with the main island on. -/
def execVcoreWarning (s : State) : Out :=
  act (fun _ d => event (d.onPower (fun p => { p with brown := true })) powerSrc 7 0x0B84 []) s

/-- The policy's limits on the target; none while no image is loaded. -/
def avsLimits (img : Img) : Option (Nat × Nat) :=
  ((img.records secPower).find? (fun r => fld r 0 1 == 2)).map (fun r => (fld r 4 2, fld r 6 2))

/-- The target of the fused table, at most 800 mV (R438), clamped to the policy (R411; log 14). -/
def avsGoal (img : Img) (tj : Int) : Nat :=
  let t := min 800 (Config.avsMillivolts tj)
  match avsLimits img with
  | some (lo, hi) => max lo (min hi t)
  | none => t

/-- AVS_VMIN and AVS_VMAX are both 0: no transactions (R411). -/
def avsOff (img : Img) : Bool := avsLimits img == some (0, 0)

/-- Transactions in a row without acknowledgement after those of `l`, and whether three came in a row (R411). -/
def ackRun : Nat → List Bool → Nat × Bool
  | n, [] => (n, false)
  | n, a :: l =>
    let k := if a then 0 else n + 1
    let (m, b) := ackRun k l
    (m, b || decide (3 ≤ k))

/-- The AVSBus transactions with a target: Vout write, Vout read and Status read, each acknowledged by its bit of
`acked`, on the policy's rail; before an image is loaded the rail is a free value (R411; log 85). -/
def avsWrite (img : Img) (d0 : Dyn) (target : Nat) (acked : BitVec 3) (fault : Bool) (readMv : Nat) : Dyn :=
  let (rail, d) := if (avsLimits img).isSome then (boardField img 8 1, d0)
    else ((freshNat d0).1 % 16, (freshNat d0).2)
  let (noAck, lost) := ackRun d.power.noAck [acked.getLsbD 0, acked.getLsbD 1, acked.getLsbD 2]
  let d1 := d.onPower (fun p => { p with
    avsTarget := target, vout := if acked.getLsbD 1 then readMv else p.vout, noAck, avsRail := rail, avsAt := d.now
    avsFault := lost || (fault && acked.getLsbD 2) })
  if d1.power.avsFault then event d1 powerSrc 7 0x0B85 [] else d1

/-- One revision of the AVS target, once per millisecond and at most 5 mV away (R411). -/
def avsUpdate (img : Img) (d : Dyn) (tj : Int) (acked : BitVec 3) (fault : Bool) (readMv : Nat) : Dyn :=
  if avsOff img || d.power.avsFault || !msPassed d.now d.power.avsAt 1 then d
  else
    let goal := avsGoal img tj
    let now := d.power.avsTarget
    avsWrite img d (if now < goal then min goal (now + 5) else max goal (now - 5)) acked fault readMv

def execAvsUpdate (tj : Int) (acked : BitVec 3) (statusFault : Bool) (readMv : Half) (s : State) : Out :=
  act (fun img d => avsUpdate img d tj acked statusFault readMv.toNat) s

end Sys2Proof.Machine
end

