-- ==== Sys2Proof/Machine/Codec.lean ====
section
/-! DEFINITION. What every codec job shares (04): bits and LLRs, CRCs, the scrambling sequence,
segmentation and rate matching (R92 to R95, R104, R105). -/

namespace Sys2Proof.Machine

/-- `n` bits of a buffer (R92). -/
def bitsOf (b : List Byte) (n : Nat) : List Bool := (List.range n).map (fun i => decide (seqBit b i = 1))

/-- A byte from at most eight bits, the first one most significant (R92). -/
def byteOfBits (l : List Bool) : Byte :=
  BitVec.ofNat 8 ((l ++ List.replicate 8 false).take 8 |>.foldl (fun a b => 2 * a + b2n b) 0)

/-- Bits as a buffer holds them (R92). -/
def bytesOfBits (l : List Bool) : List Byte := (chunks 8 l).map byteOfBits

/-- A number's `n` bits, most significant first. -/
def msbBits (n x : Nat) : List Bool := (List.range n).map (fun i => x.testBit (n - 1 - i))

/-- An LLR8 (R93): -128 reads as -127. -/
def llrOf (b : Byte) : Int := max b.toInt (-127)

/-- LLR8 values of a buffer. -/
def llrsOf (b : List Byte) (n : Nat) : List Int := (b.take n).map llrOf

def byteOfLlr (x : Int) : Byte := BitVec.ofNat 8 (wrapN 8 x)

/-- Saturation to ±127. -/
def sat127 (x : Int) : Int := clampTo 127 x

/-! ### CRC (R94) -/

/-- The parity bits of a sequence: generator `gen` of degree `deg`, register start zero. -/
def parityBits (deg gen : Nat) (l : List Bool) : List Bool :=
  msbBits deg (l.foldl (fun reg b =>
    let top := reg.testBit (deg - 1)
    let sh := 2 * reg % 2 ^ deg
    if top != b then sh ^^^ gen else sh) 0)

def crc24A : List Bool → List Bool := parityBits 24 0x864CFB
def crc24B : List Bool → List Bool := parityBits 24 0x800063
def crc24C : List Bool → List Bool := parityBits 24 0xB2B117
def crc16 : List Bool → List Bool := parityBits 16 0x1021
def crc11 : List Bool → List Bool := parityBits 11 0x621
def crc6 : List Bool → List Bool := parityBits 6 0x21

/-- A sequence whose last `deg` bits are the CRC of the rest. -/
def crcHolds (deg : Nat) (crc : List Bool → List Bool) (l : List Bool) : Bool :=
  crc (l.take (l.length - deg)) == l.drop (l.length - deg)

/-- Length and CRC of a transport block (R94). -/
def tbCrcLen (lte : Bool) (tbs : Nat) : Nat := if lte || decide (3824 < tbs) then 24 else 16
def tbCrc (lte : Bool) (tbs : Nat) (l : List Bool) : List Bool :=
  if lte || decide (3824 < tbs) then crc24A l else crc16 l

/-! ### The Gold sequence (R105; TS 38.211 clause 5.2.1) -/

/-- A 31-bit register after `n` steps, with the taps of x1 or x2; bit 0 is the oldest. -/
def goldStep (taps x : Nat) : Nat :=
  x / 2 + 2 ^ 30 * ((maskBits 31 taps).countP (fun i => x.testBit i) % 2)

def goldRun (taps : Nat) : Nat → Nat → Nat
  | 0, x => x
  | n + 1, x => goldRun taps n (goldStep taps x)

/-- The sequence from a state of both registers, `n` bits. -/
def goldBits : Nat → Nat → Nat → List Bool
  | 0, _, _ => []
  | n + 1, x1, x2 => (x1.testBit 0 != x2.testBit 0) :: goldBits n (goldStep 0x9 x1) (goldStep 0xF x2)

/-- c(from) to c(from + n - 1) for c_init. -/
def gold (cinit from_ n : Nat) : List Bool :=
  goldBits n (goldRun 0x9 (1600 + from_) 1) (goldRun 0xF (1600 + from_) (cinit % 2 ^ 31))

/-! ### Segmentation (R95) -/

/-- How a transport block is cut: code blocks, CRC length per code block, size of each code block with
its filler, and its payload with CRC. -/
structure Segs where
  count : Nat
  crcLen : Nat
  /-- K of code block r, and its filler bits. -/
  sizes : List (Nat × Nat)
deriving DecidableEq, Repr

/-- The lifting sizes of TS 38.212 Table 5.3.2-1 with their set i_LS. -/
def liftings : List (Nat × Nat) :=
  ([2, 3, 5, 7, 9, 11, 13, 15].zip (List.range 8)).flatMap (fun p =>
    ((List.range 8).map (fun k => (p.1 * 2 ^ k, p.2))).filter (fun z => decide (z.1 ≤ 384)))

/-- LDPC: base graph, lifting size, set, K' and the segments (TS 38.212 clause 5.2.2). -/
structure LdpcCode where
  bg : Nat
  z : Nat
  set : Nat
  /-- K' and K. -/
  kp : Nat
  k : Nat
  count : Nat
  crcLen : Nat
deriving DecidableEq, Repr

def LdpcCode.kg (c : LdpcCode) : Nat := if c.bg = 1 then 22 else 10
def LdpcCode.rowsMax (c : LdpcCode) : Nat := if c.bg = 1 then 46 else 42
/-- N of the code (R96). -/
def LdpcCode.n (c : LdpcCode) : Nat := (if c.bg = 1 then 66 else 50) * c.z

/-- The code of a transport block; none when the clause cannot cut it evenly. -/
def ldpcCode (bg tbs : Nat) : Option LdpcCode :=
  let b := tbs + tbCrcLen false tbs
  let kcb := if bg = 1 then 8448 else 3840
  let count := if b ≤ kcb then 1 else divUp b (kcb - 24)
  let crcLen := if count = 1 then 0 else 24
  let b' := b + count * crcLen
  let kp := b' / count
  let kb := if bg = 1 then 22 else if 640 < b then 10 else if 560 < b then 9 else if 192 < b then 8 else 6
  match (sortBy (·.1) liftings).find? (fun z => decide (kp ≤ kb * z.1)) with
  | none => none
  | some z =>
    if b' % count ≠ 0 then none
    else some { bg, z := z.1, set := z.2, kp, k := (if bg = 1 then 22 else 10) * z.1, count, crcLen }

/-- The sizes K of TS 36.212 Table 5.1.3-3. -/
def turboSizes : List Nat :=
  (List.range 60).map (fun i => 40 + 8 * i) ++ (List.range 32).map (fun i => 528 + 16 * i)
  ++ (List.range 32).map (fun i => 1056 + 32 * i) ++ (List.range 64).map (fun i => 2112 + 64 * i)

/-- Turbo segmentation (TS 36.212 clause 5.1.2): K of each code block and the filler of block 0. -/
def turboSegs (tbs : Nat) : Segs :=
  let b := tbs + 24
  let count := if b ≤ 6144 then 1 else divUp b 6120
  let crcLen := if count = 1 then 0 else 24
  let b' := b + count * crcLen
  let kPlus := ((turboSizes.find? (fun k => decide (b' ≤ count * k))).getD 6144)
  let kMinus := ((turboSizes.filter (fun k => decide (k < kPlus))).getLast?).getD 0
  let cMinus := if count = 1 then 0 else (count * kPlus - b') / (kPlus - kMinus)
  let ks := (List.range count).map (fun r => if r < cMinus then kMinus else kPlus)
  let f := ks.foldl (· + ·) 0 - b'
  { count, crcLen, sizes := (ks.zip (List.range count)).map (fun p => (p.1, if p.2 = 0 then f else 0)) }

/-! ### Rate matching (R104) -/

/-- E_r of the j-th of `count` scheduled code blocks (TS 38.212 clause 5.4.2.1, TS 36.212 clause
5.1.4.1.2). -/
def codedBits (g nl qm count j : Nat) : Nat :=
  let g' := g / (nl * qm)
  if j + g' % count < count then nl * qm * (g' / count) else nl * qm * divUp g' count

/-- Circular-buffer positions in the order of transmission from k0, filler and <NULL> skipped. -/
def bufferOrder (ncb k0 : Nat) (null : Nat → Bool) : List Nat :=
  ((List.range ncb).map (fun i => (k0 + i) % ncb)).filter (fun k => !null k)

/-- The position of each of `e` selected bits; positions repeat round the buffer. -/
def selected (order : List Nat) (e : Nat) : List Nat :=
  (List.range e).map (fun i => order.getD (i % order.length) 0)

/-- N_cb and k0 of an LDPC code block (TS 38.212 clause 5.4.2.1). -/
def ldpcNcb (c : LdpcCode) (lbrm : Nat) : Nat :=
  if lbrm = 0 then c.n else min c.n (3 * lbrm / (2 * c.count))

def ldpcK0 (c : LdpcCode) (ncb rv : Nat) : Nat :=
  let m := if c.bg = 1 then [0, 17, 33, 56].getD rv 0 else [0, 13, 25, 43].getD rv 0
  m * ncb / c.n * c.z

/-- A filler position of the circular buffer (R95, R104). -/
def ldpcFiller (c : LdpcCode) (k : Nat) : Bool :=
  decide (c.kp ≤ k + 2 * c.z) && decide (k + 2 * c.z < c.k)

/-- The order in which the Qm-row interleaver sends the `e` selected bits (TS 38.212 clause 5.4.2.2). -/
def qmInterleave {α : Type} (dflt : α) (qm : Nat) (l : List α) : List α :=
  let n := l.length / qm
  (List.range l.length).map (fun i => l.getD (i % qm * n + i / qm) dflt)

/-- Positions of a code block's coded bits, in the order of the codeword. -/
def ldpcPositions (c : LdpcCode) (ncb rv e qm : Nat) : List Nat :=
  qmInterleave 0 qm (selected (bufferOrder ncb (ldpcK0 c ncb rv) (ldpcFiller c)) e)

/-- Turbo: rows of the sub-block interleaver, and K_w (TS 36.212 clause 5.1.4.1). -/
def turboRows (k : Nat) : Nat := divUp (k + 4) 32
def turboKw (k : Nat) : Nat := 3 * 32 * turboRows k

/-- The bit of stream 0, 1 or 2 that stands at place `i` of a sub-block; none for a dummy. -/
def turboPlace (k stream i : Nat) : Option Nat :=
  let r := turboRows k
  let y := if stream = 2 then (turboSub.getD (i / r) 0 + 32 * (i % r) + 1) % (32 * r)
    else turboSub.getD (i / r) 0 + 32 * (i % r)
  let nd := 32 * r - (k + 4)
  if y < nd then none else some (y - nd)

/-- What stands at position `w` of the circular buffer: stream and bit; none for <NULL>. -/
def turboAt (k filler w : Nat) : Option (Nat × Nat) :=
  let kp := 32 * turboRows k
  let (s, i) := if w < kp then (0, w) else (1 + (w - kp) % 2, (w - kp) / 2)
  match turboPlace k s i with
  | none => none
  | some b => if s ≠ 2 ∧ b < filler then none else some (s, b)

def turboNcb (k count lbrm : Nat) : Nat := if lbrm = 0 then turboKw k else min (lbrm / count) (turboKw k)

def turboK0 (k ncb rv : Nat) : Nat :=
  let r := turboRows k
  r * (2 * divUp ncb (8 * r) * rv + 2)

def turboPositions (k filler ncb rv e : Nat) : List Nat :=
  selected (bufferOrder ncb (turboK0 k ncb rv) (fun w => (turboAt k filler w).isNone)) e

end Sys2Proof.Machine
end

