-- ==== Sys2Proof/Machine/Pewter.lean ====
section
/-! DEFINITION. The coprocessor port and the Pewter engine (09). -/

namespace Sys2Proof.Machine

/-! ### Port instructions (R234 to R241) -/

def excPcmdInvalid (off : Nat) : Exc := { code := 0x11, detail := off, cond := 0, addr := none }
def excTagBusy : Exc := { code := 0x12, detail := 0, cond := 0, addr := none }
def excTagIdle : Exc := { code := 0x13, detail := 0, cond := 0, addr := none }
def excContext : Exc := { code := 0x14, detail := 0, cond := 0, addr := none }

/-- The port is enabled at the core's level (R234). -/
def portEnabled (d : Dyn) (c : Nat) : Bool :=
  let e := (d.core c).port.enable.toNat
  match (d.status c).pl with
  | .exec => true
  | .task => bit e 0
  | .plugin => bit e 1

/-- Tags in use: commands not complete and results not collected (Table 9.1). -/
def tagsInUse (p : CorePort) : List Nat :=
  (List.range 64).filter (fun t => p.busy.contains t || p.results.any (fun e => e.1 == t))

/-- Fields of a command (Table 9.5). -/
structure PCmd where
  op : Nat
  conjA : Bool
  conjB : Bool
  acc : Bool
  diag : Bool
  prior : Bool
  rows : Nat
  cols : Nat
  inner : Nat
  dst : Nat
  srcA : Nat
  srcB : Nat
  addr : Nat
  stride : Nat
  exp : Int
  qm : Nat
  shift : Nat
  dexp : Int
  param : Int
  addr2 : Nat
deriving DecidableEq, Repr

def parsePCmd (l : List Byte) : PCmd :=
  let fl := fld l 1 1
  { op := fld l 0 1, conjA := bit fl 0, conjB := bit fl 1, acc := bit fl 2, diag := bit fl 3,
    prior := bit fl 4, rows := fld l 2 1, cols := fld l 3 1, inner := fld l 4 1, dst := fld l 5 1,
    srcA := fld l 6 1, srcB := fld l 7 1, addr := fld l 8 6, stride := fld l 0xE 2,
    exp := sx 8 (fld l 0x10 1), qm := fld l 0x11 1, shift := fld l 0x12 1, dexp := sx 8 (fld l 0x13 1),
    param := sx 32 (fld l 0x14 4), addr2 := fld l 0x18 6 }

def usesCols (op : Nat) : Bool := op != 4
def usesInner (op : Nat) : Bool := op == 3

/-- The stored matrix of a command in memory: rows and elements per row; none where it has none
(R238, R244, R245). -/
def storedShape (p : PCmd) : Option (Nat × Nat) :=
  match p.op with
  | 1 => some (if p.conjA then (p.cols, p.rows) else (p.rows, p.cols))
  | 2 => some (p.rows, p.cols)
  | 3 => if p.srcA = 3 then some (if p.conjA then (p.inner, p.rows) else (p.rows, p.inner))
    else if p.srcB = 3 then some (if p.conjB then (p.cols, p.inner) else (p.inner, p.cols))
    else if p.dst = 3 then some (p.rows, p.cols) else none
  | 5 => if p.dst = 3 then some (p.rows, p.cols) else none
  | 6 => if p.srcA = 3 then some (p.rows, p.cols) else none
  | _ => none

def dimBad (n : Nat) : Bool := decide (n = 0) || decide (16 < n)

/-- The offset of the first offending byte of an invalid command (R238, Table 9.6): the bytes are
scanned from the first, and a breach that lies in two of them is the later one's (log 22). -/
def pcmdFault (p : PCmd) : Option Nat :=
  let hasDst := p.op != 2 && p.op != 7
  let hasA := p.op != 1
  let hasB := p.op == 3 || p.op == 5 || p.op == 6
  let dstTop := if p.op = 3 ∨ p.op = 5 then 3 else 2
  let aTop := if p.op = 3 ∨ p.op = 6 then 3 else 2
  let bTop := if p.op = 3 then 3 else 2
  let checks : List (Bool × Nat) :=
    [ (decide (p.op = 0) || decide (7 < p.op), 0),
      (dimBad p.rows, 2),
      (usesCols p.op && dimBad p.cols, 3),
      (p.op == 6 && decide (p.rows < p.cols), 3),
      (usesInner p.op && dimBad p.inner, 4),
      ((hasDst && decide (dstTop < p.dst)) || (p.acc && p.dst == 3), 5),
      (hasA && (decide (aTop < p.srcA) || (p.op == 3 && p.dst == 3 && p.srcA == 3)), 6),
      (hasB && (if p.op = 6 then (decide (2 < p.srcB) && p.srcB != 0xFF) || p.srcB == p.dst
        else decide (bTop < p.srcB) || (p.op == 3 && p.srcB == 3 && (p.dst == 3 || p.srcA == 3))), 7),
      (decide (p.stride % 4 ≠ 0)
        || (match storedShape p with
          | some (_, n) => decide (p.stride < 4 * n)
          | none => false), 0xE),
      (p.op == 7 && !([1, 2, 4, 6, 8, 10]).contains p.qm, 0x11),
      (decide (63 < p.shift), 0x12) ]
  (checks.find? (fun x => x.1)).map (·.2)

/-- The memory areas that a command names: first byte, length, and whether it must be a multiple of
4 (R237). -/
def pcmdAreas (p : PCmd) : List (Nat × Nat × Bool) :=
  (match storedShape p with
   | some (r, n) => (List.range r).map (fun i => (p.addr + i * p.stride, 4 * n, true))
   | none => [])
  ++ (if p.op = 7 then
        [(p.addr, p.rows * p.cols * p.qm, false), (p.addr2, 8 * p.rows, true)]
        ++ (if p.prior then [(p.addr2 + 128, p.rows * p.cols * p.qm, true)] else [])
      else [])

/-- The first byte of an area that the core may not reach (R237). -/
def areaDenied (d : Dyn) (c : Nat) (area : Nat × Nat × Bool) : Option Nat :=
  let ws := d.windows c
  let plugin := decide ((d.status c).pl = .plugin)
  ((List.range area.2.1).map (area.1 + ·)).find? (fun a =>
    decide (0x00E000000000 ≤ a) || (plugin && !inWindows ws a))

def execPcmd (c : Core) (qs : Reg5) (tag : BitVec 6) (rsv : BitVec 15) (s : State) : Out :=
  act (bronze c 6 (fun _ d =>
    let port := (d.core c.val).port
    let bytes := leBytes 32 (Map.get 0 (d.core c.val).vec.q qs.toNat).toNat
    let p := parsePCmd bytes
    let areas := pcmdAreas p
    if rsv ≠ 0 then .exc d excIllegal
    else if !portEnabled d c.val then .exc d (excCoproc 1)
    else if (tagsInUse port).contains tag.toNat then .exc d excTagBusy
    else match pcmdFault p with
      | some off => .exc d (excPcmdInvalid off)
      | none =>
        match areas.findSome? (areaDenied d c.val) with
        | some a => .exc d (excAccess 0 (BitVec.ofNat 48 a))
        | none =>
          match areas.find? (fun x => x.2.2 && decide (x.1 % 4 ≠ 0)) with
          | some x => .exc d (excAlign (BitVec.ofNat 48 x.1))
          | none =>
            if 16 ≤ port.queue.length then .wait d
            else .done (d.onPort c.val (fun q => { q with
              queue := q.queue ++ [{ bytes, tag := tag.toNat }], busy := tag.toNat :: q.busy })) none)) s

def execPres (c : Core) (rd : Reg5) (tag : BitVec 6) (wait : Bool) (rsv : BitVec 14) (s : State) : Out :=
  act (bronze c 6 (fun _ d =>
    let port := (d.core c.val).port
    if rsv ≠ 0 then .exc d excIllegal
    else if !portEnabled d c.val then .exc d (excCoproc 1)
    else match port.results.find? (fun e => e.1 == tag.toNat) with
      | some e =>
        setD (d.onPort c.val (fun q => { q with results := Map.del q.results tag.toNat })) c rd e.2
      | none =>
        if !port.busy.contains tag.toNat then .exc d excTagIdle
        else if wait then .wait d
        else setD d c rd 0xFFFFFFFF)) s

def execPsync (c : Core) (rsv : BitVec 26) (s : State) : Out :=
  act (bronze c 6 (fun _ d =>
    if rsv ≠ 0 then .exc d excIllegal
    else if !portEnabled d c.val then .exc d (excCoproc 1)
    else if (d.core c.val).port.queue.isEmpty then .done d none else .wait d)) s

/-! ### Matrices and the number format (R242, R243) -/

def Cx.scale (k : Int) (a : Cx) : Cx := { re := k * a.re, im := k * a.im }
def Cx.norm (a : Cx) : Int := a.re * a.re + a.im * a.im

/-- An exact complex matrix with its unit 2^U: entries row by row, 16 to a row. -/
structure CMat where
  els : Map Cx
  unit : Int
deriving DecidableEq, Repr

def CMat.at (m : CMat) (i j : Nat) : Cx := Map.get Cx.zero m.els (16 * i + j)

/-- The matrix of a function on the first rows and columns. -/
def CMat.of (rows cols : Nat) (u : Int) (f : Nat → Nat → Cx) : CMat :=
  { els := ((List.range rows).map (fun i => (List.range cols).map (fun j => (16 * i + j, f i j)))).flatten,
    unit := u }

def PewterMat.reset : PewterMat := { re := [], im := [], exp := 0 }

/-- A workspace register as an exact matrix: mantissas in units of 2^(E - 15) (R242). -/
def PewterMat.exact (w : PewterMat) : CMat :=
  CMat.of 16 16 (w.exp - 15) (fun i j =>
    { re := w.re.getD (16 * i + j) 0, im := w.im.getD (16 * i + j) 0 })

/-- The components of a matrix in the order of its entries. -/
def CMat.comps (m : CMat) : List Int := (m.els.map (fun e => [e.2.re, e.2.im])).flatten

/-- The smallest shift from `s` on that brings every component within 32,767 after rounding. -/
def fitShift (l : List Int) : Nat → Nat → Nat
  | 0, s => s
  | fuel + 1, s =>
    if l.all (fun x => decide ((roundShift x s).natAbs ≤ 32767)) then s else fitShift l fuel (s + 1)

def sat16p (x : Int) : Int := if x > 32767 then 32767 else if x < -32767 then -32767 else x

/-- x times 2^k, rounded where k is negative (R242, R243). -/
def scaleRound (x k : Int) : Int := if 0 ≤ k then x * ((2 ^ k.toNat : Nat) : Int) else roundShift x (-k).toNat

/-- Write an exact result to a workspace register (R242): the register and the saturations. -/
def CMat.normalise (m : CMat) : PewterMat × Nat :=
  let l := m.comps
  let put (e : Int) : PewterMat × Nat :=
    let get (i : Nat) : Cx := Map.get Cx.zero m.els i
    let r (x : Int) : Int := scaleRound x (m.unit + 15 - e)
    ({ re := (List.range 256).map (fun i => sat16p (r (get i).re)),
       im := (List.range 256).map (fun i => sat16p (r (get i).im)), exp := e },
      (l.filter (fun x => decide (sat16p (r x) ≠ r x))).length)
  if l.all (fun x => decide (x = 0)) then put 0
  else put (max (-128) (min 127 (m.unit + fitShift l 512 0 + 15)))

/-- An FD16 word of two components (R238): the bytes I, Q. -/
def fd16Bytes (a : Cx) : List Byte := leBytes 2 (wrapN 16 a.re) ++ leBytes 2 (wrapN 16 a.im)

/-- A component as the engine reads it: -32,768 is taken as -32,767 (R238). -/
def fd16Comp (x : Nat) : Int := let v := sx 16 x; if v = -32768 then -32767 else v

def fd16Read (l : List Byte) : Cx := { re := fd16Comp (fld l 0 2), im := fd16Comp (fld l 2 2) }

/-- A matrix written to memory with exponent `exp` (R242): one byte string per row, and saturations. -/
def CMat.rowsOut (m : CMat) (rows cols : Nat) (exp : Int) : List (List Byte) × Nat :=
  let k := m.unit + 15 - exp
  let v (i j : Nat) : Cx := { re := scaleRound (m.at i j).re k, im := scaleRound (m.at i j).im k }
  let all := (List.range rows).map (fun i => (List.range cols).map (fun j => v i j))
  let sats := (all.flatten.map (fun x => b2n (decide (sat16p x.re ≠ x.re)) + b2n (decide (sat16p x.im ≠ x.im)))).foldl (· + ·) 0
  (all.map (fun r => (r.map (fun x => fd16Bytes { re := sat16p x.re, im := sat16p x.im })).flatten), sats)

/-! ### Exact arithmetic of the factorisations (R246, R247) -/

/-- rnd of a square root: floor of the root plus one half (R243). -/
def rndSqrt (n : Nat) : Nat := let r := isqrt n; if r * r + r < n then r + 1 else r

/-- rnd of a quotient by a positive number (R243). -/
def rndDiv (t d : Int) : Int := (2 * t + d) / (2 * d)

/-- rnd of the exact complex quotient, by components (R247). -/
def rndCDiv (t l : Cx) : Cx :=
  let n := l.norm
  let q := t.mul l.conj
  { re := rndDiv q.re n, im := rndDiv q.im n }

/-- How a command's arithmetic ends: 0 OK, or 1 PIVOT with its index. -/
structure Pivot where
  status : Nat
  index : Nat
deriving DecidableEq, Repr

def Pivot.none : Pivot := { status := 0, index := 0 }

/-- One column of CHOL (R246). -/
def cholCol (n : Nat) (a : Nat → Nat → Cx) (lam : Map Cx) (j : Nat) : Option (Map Cx) :=
  let get (i k : Nat) : Cx := Map.get Cx.zero lam (16 * i + k)
  let s := (a j j).re * 2 ^ 32 - (List.range j).foldl (fun t k => t + (get j k).norm) 0
  if s ≤ 0 then none
  else
    let d : Int := ((rndSqrt s.toNat : Nat) : Int)
    let lam1 := Map.set lam (16 * j + j) { re := d, im := 0 }
    some (((List.range (n - j - 1)).map (· + j + 1)).foldl (fun l i =>
      let t := (List.range j).foldl (fun t k => t.sub ((get i k).mul (get j k).conj))
        ((a i j).scale (2 ^ 32))
      Map.set l (16 * i + j) { re := rndDiv t.re d, im := rndDiv t.im d }) lam1)

/-- The columns of CHOL, to the first that breaks down. -/
def cholCols (n : Nat) (a : Nat → Nat → Cx) : List Nat → Map Cx → Map Cx × Pivot
  | [], lam => (lam, Pivot.none)
  | j :: rest, lam =>
    match cholCol n a lam j with
    | none => (lam, { status := 1, index := j })
    | some lam' => cholCols n a rest lam'

/-- The lower Cholesky factor of the n x n matrix in a register (R246). -/
def chol (n : Nat) (w : PewterMat) : CMat × Pivot :=
  let f := w.exp - 15
  let odd := decide (f % 2 = 1)
  let f' := if odd then f - 1 else f
  let m := w.exact
  let a (i j : Nat) : Cx := if odd then (m.at i j).scale 2 else m.at i j
  let (lam, p) := cholCols n a (List.range n) []
  ({ els := lam, unit := f' / 2 - 16 }, p)

/-- The rows of TRSM in solving order (R247). -/
def trsmRows (cols : Nat) (l : Nat → Nat → Cx) (b : CMat) : List Nat → List Nat → Map Cx → Map Cx × Pivot
  | [], _, x => (x, Pivot.none)
  | i :: rest, done, x =>
    if l i i = Cx.zero then (x, { status := 1, index := i })
    else
      let x' := (List.range cols).foldl (fun x c =>
        let t := done.foldl (fun t k => t.sub ((l i k).mul (Map.get Cx.zero x (16 * k + c))))
          ((b.at i c).scale (2 ^ 16))
        Map.set x (16 * i + c) (rndCDiv t (l i i))) x
      trsmRows cols l b rest (done ++ [i]) x'

/-- Solve L X = B, or L^H X = B (R247). -/
def trsm (n cols : Nat) (conj : Bool) (lw bw : PewterMat) : CMat × Pivot :=
  let lm := lw.exact
  let l (i k : Nat) : Cx := if conj then (lm.at k i).conj else lm.at i k
  let order := if conj then (List.range n).reverse else List.range n
  let (x, p) := trsmRows cols l bw.exact order [] []
  ({ els := x, unit := (bw.exp - 15) - (lw.exp - 15) - 16 }, p)

/-- D = A' B' (R245), exact, without the additions. -/
def mulExact (rows cols inner : Nat) (conjA conjB : Bool) (a b : CMat) : CMat :=
  let a' (i k : Nat) : Cx := if conjA then (a.at k i).conj else a.at i k
  let b' (k j : Nat) : Cx := if conjB then (b.at j k).conj else b.at k j
  CMat.of rows cols (a.unit + b.unit) (fun i j =>
    (List.range inner).foldl (fun t k => t.add ((a' i k).mul (b' k j))) Cx.zero)

/-- Bring a matrix to a smaller unit, exactly. -/
def CMat.toUnit (m : CMat) (u : Int) : CMat :=
  { els := m.els.map (fun e => (e.1, e.2.scale ((2 ^ (m.unit - u).toNat : Nat) : Int))), unit := u }

/-- The exact sum of two matrices over the first rows and columns. -/
def CMat.plus (rows cols : Nat) (a b : CMat) : CMat :=
  let u := min a.unit b.unit
  let x := a.toUnit u
  let y := b.toUnit u
  CMat.of rows cols u (fun i j => (x.at i j).add (y.at i j))

/-! ### DEMAP (R249) -/

/-- The level of one component from its label bits, outermost first (TS 38.211 5.1): each bit picks
the half, the rest the place in it. -/
def qamLevel : List Bool → Int
  | [] => 1
  | [b] => if b then -1 else 1
  | b :: rest =>
    let inner := ((2 ^ rest.length : Nat) : Int) - qamLevel rest
    if b then -inner else inner

/-- The I and Q levels of the label `s` of `qm` bits, b_0 the most significant (Table 3.8). -/
def qamPoint (qm s : Nat) : Int × Int :=
  let b (k : Nat) : Bool := s.testBit (qm - 1 - k)
  if qm = 1 then let v := if b 0 then -1 else 1; (v, v)
  else (qamLevel ((List.range (qm / 2)).map (fun k => b (2 * k))),
        qamLevel ((List.range (qm / 2)).map (fun k => b (2 * k + 1))))

def minOf : List Int → Int
  | [] => 0
  | x :: rest => rest.foldl min x

/-- The LLRs of one symbol (R249): QM values, and whether each saturated. -/
def demapSymbol (qm amp weight shift : Nat) (z : Cx) (prior : Nat → Int) : List (Int × Bool) :=
  let labels := List.range (2 ^ qm)
  let d' (s : Nat) : Int :=
    let p := qamPoint qm s
    let dist := (z.re - p.1 * amp) * (z.re - p.1 * amp) + (z.im - p.2 * amp) * (z.im - p.2 * amp)
    roundShift (weight * dist) shift
  let lab (s k : Nat) : Bool := s.testBit (qm - 1 - k)
  (List.range qm).map (fun k =>
    let m (s : Nat) : Int := 2 * d' s + (List.range qm).foldl (fun t j =>
      if j = k then t else if lab s j then t + prior j else t - prior j) 0
    let v := roundShift (minOf ((labels.filter (fun s => lab s k)).map m)
      - minOf ((labels.filter (fun s => !lab s k)).map m)) 1
    let sat := if v > 127 then 127 else if v < -127 then -127 else v
    (sat, decide (sat ≠ v)))

/-! ### The engine (R233, R239, R250) -/

/-- A core's workspace register. -/
def Dyn.pw (d : Dyn) (c k : Nat) : PewterMat := Map.get PewterMat.reset (d.core c).port.w k
def Dyn.setPw (d : Dyn) (c k : Nat) (m : PewterMat) : Dyn :=
  d.onPort c (fun p => { p with w := Map.set p.w k m })

def TileSt.reset : TileSt := { lastCore := 3 }

/-- The core whose command the engine serves next: round robin from the core after the one served
last (R233). -/
def nextServed (d : Dyn) (t : Nat) : Option Nat :=
  let last := (Map.get TileSt.reset d.tiles t).lastCore
  ((List.range 4).map (fun k => 4 * t + (last + 1 + k) % 4)).find? (fun c =>
    !(d.core c).port.queue.isEmpty)

/-- The result word (Table 9.7). -/
def resultWord (exp : Int) (index sats status : Nat) : Word :=
  BitVec.ofNat 32 (wrapN 8 exp * 2 ^ 24 + index * 2 ^ 16 + min sats 255 * 256 + status)

/-- A command completes: it leaves the queue and its result waits in its tag's slot (R233). It may be the last that
a TCOMMIT of the core waits for (R194). -/
def pewterDone (d : Dyn) (t c : Nat) (cmd : PewterCmd) (r : Word) : Dyn :=
  let d1 := d.onPort c (fun p => { p with
    queue := p.queue.drop 1, busy := p.busy.filter (· != cmd.tag), results := Map.set p.results cmd.tag r })
  let d2 := { d1 with tiles := Map.set d1.tiles t { lastCore := c % 4 } }
  settleCommit (countEv d2 (0x0200 + t) 0x0200 1 EvInfo.plain) c

/-- An error response to the engine's read (R250). -/
def engineReadFailed (img : Img) (d : Dyn) (c a status : Nat) : Dyn :=
  if (d.core c).tsk.task.isSome then raiseAccess img d c a status
  else d.onTsk c (fun t => { t with storeErrs := t.storeErrs ++
    [{ addr := BitVec.ofNat 48 a, kind := status, store := false }] })

/-- Read a byte range as the core's accesses, packet by packet: each that fails raises its own error, at its own
address (R250; log 154). No data where one failed. -/
def engineArea (img : Img) (c a n : Nat) (d : Dyn) : Dyn × Option (List Byte) :=
  (packetsOf a n).foldl (fun (acc : Dyn × Option (List Byte)) p =>
    let (d1, r) := memPacket img acc.1 (coreSender acc.1 c) p.1 (.read p.2)
    if r.status ≤ 1 then (d1, acc.2.map (· ++ r.data)) else (engineReadFailed img d1 c p.1 r.status, none))
    (d, some [])

/-- Read byte ranges as the core's accesses; data where none failed. -/
def engineRead (img : Img) (c : Nat) : List (Nat × Nat) → Dyn → List (List Byte) → Dyn × Option (List (List Byte))
  | [], d, acc => (d, some acc)
  | (a, n) :: rest, d, acc =>
    match engineArea img c a n d with
    | (d1, some l) => engineRead img c rest d1 (acc ++ [l])
    | (d1, none) => ((engineRead img c rest d1 []).1, none)

/-- Join byte strings that follow one another in memory. -/
def joinRuns : List (Nat × List Byte) → List (Nat × List Byte)
  | [] => []
  | (a, x) :: rest =>
    match joinRuns rest with
    | (b, y) :: more => if a + x.length = b then (a, x ++ y) :: more else (a, x) :: (b, y) :: more
    | [] => [(a, x)]

/-- The engine stores packets for its core in order; with no task present on the core it makes no
further write after an error response (R250). True when a response failed. -/
def engineStores (img : Img) (c : Nat) : List (Nat × List Byte) → Dyn → Dyn × Bool
  | [], d => (d, false)
  | (a, bytes) :: rest, d =>
    let d1 := (pieces 64 3 a bytes.length).foldl (fun d q => feedSig d c q.1 ((bytes.drop (q.1 - a)).take q.2)) d
    let (d2, r) := plainStore img d1 c a bytes
    if r.status < 2 then engineStores img c rest d2
    else
      let d3 := storeFailed img d2 c a r.status
      if (d3.core c).tsk.task.isSome then ((engineStores img c rest d3).1, true) else (d3, true)

/-- The engine stores for its core, in ascending order (R250, R252); true when a response failed. -/
def engineWrite (img : Img) (d : Dyn) (c : Nat) (runs : List (Nat × List Byte)) : Dyn × Bool :=
  engineStores img c ((joinRuns runs).flatMap (fun r =>
    (packetsOf r.1 r.2.length).map (fun p => (p.1, (r.2.drop (p.1 - r.1)).take p.2)))) d

/-- The stored matrix of a command, read from memory with exponent EXP (R238, R245). -/
def readStored (img : Img) (d : Dyn) (c : Nat) (p : PCmd) : Dyn × Option CMat :=
  match storedShape p with
  | none => (d, some { els := [], unit := p.exp - 15 })
  | some (r, n) =>
    let (d1, rows) := engineRead img c ((List.range r).map (fun i => (p.addr + i * p.stride, 4 * n))) d []
    (d1, rows.map (fun l => CMat.of r n (p.exp - 15) (fun i j => fd16Read ((l.getD i []).drop (4 * j)))))

/-- An operand: a workspace register, or the memory matrix. -/
def operandOf (d : Dyn) (c code : Nat) (mem : CMat) : CMat := if code = 3 then mem else (d.pw c code).exact

/-- Write a result where DST says: the state, the EXP field, the saturations and an error (R242). -/
def writeResult (img : Img) (d : Dyn) (c : Nat) (p : PCmd) (x : CMat) : Dyn × Int × Nat × Bool :=
  if p.dst = 3 then
    let (rows, sats) := x.rowsOut p.rows p.cols p.exp
    let runs := (List.range rows.length).map (fun i => (p.addr + i * p.stride, rows.getD i []))
    let (d1, err) := engineWrite img d c runs
    (d1, 0, sats, err)
  else
    let (w, sats) := x.normalise
    (d.setPw c p.dst w, w.exp, sats, false)

/-- The head command of the core served next, when its OP is `op`; `f` performs it and gives its
result word. A command whose memory access failed completes with STATUS ERROR (R250). -/
def pewterStep (t : Fin 48) (op : Nat) (f : Img → Dyn → Nat → PCmd → Dyn × Option Word) (img : Img)
    (d : Dyn) : Dyn :=
  if !d.powered (0x0200 + t.val) then d
  else match nextServed d t.val with
    | none => d
    | some c => match (d.core c).port.queue with
      | [] => d
      | cmd :: _ =>
        let p := parsePCmd cmd.bytes
        if p.op = op then
          let (d1, r) := f img d c p
          pewterDone d1 t.val c cmd (r.getD (resultWord 0 0 0 2))
        else d

/-- Finish with the written result. -/
def finishWrite (r : Dyn × Int × Nat × Bool) (pv : Pivot) (more : Nat) : Dyn × Option Word :=
  (r.1, if r.2.2.2 then none else some (resultWord r.2.1 pv.index (r.2.2.1 + more) pv.status))

/-- Results with STATUS PIVOT are counted (Table 17.4). -/
def countPivot (d : Dyn) (c : Nat) (pv : Pivot) : Dyn :=
  countEv d (0x0200 + c / 4) 0x0203 (b2n (pv.status == 1)) EvInfo.plain

/-- LOAD (Table 9.6): mantissas copied with E = EXP, conjugate-transposed with CONJ_A. -/
def doLoad (img : Img) (d : Dyn) (c : Nat) (p : PCmd) : Dyn × Option Word :=
  match readStored img d c p with
  | (d1, none) => (d1, none)
  | (d1, some m) =>
    let v (i j : Nat) : Cx :=
      if i < p.rows ∧ j < p.cols then (if p.conjA then (m.at j i).conj else m.at i j) else Cx.zero
    let w : PewterMat :=
      { re := (List.range 256).map (fun k => (v (k / 16) (k % 16)).re),
        im := (List.range 256).map (fun k => (v (k / 16) (k % 16)).im), exp := p.exp }
    (d1.setPw c p.dst w, some (resultWord p.exp 0 0 0))

/-- STORE (Table 9.6). -/
def doStore (img : Img) (d : Dyn) (c : Nat) (p : PCmd) : Dyn × Option Word :=
  finishWrite (writeResult img d c { p with dst := 3 } (d.pw c p.srcA).exact) Pivot.none 0

/-- MUL (R245). -/
def doMul (img : Img) (d : Dyn) (c : Nat) (p : PCmd) : Dyn × Option Word :=
  match (if p.srcA = 3 ∨ p.srcB = 3 then readStored img d c p else (d, some { els := [], unit := 0 })) with
  | (d1, none) => (d1, none)
  | (d1, some m) =>
    let x := mulExact p.rows p.cols p.inner p.conjA p.conjB (operandOf d1 c p.srcA m) (operandOf d1 c p.srcB m)
    let x1 := if p.acc then CMat.plus p.rows p.cols x (d1.pw c p.dst).exact else x
    let diag := CMat.of 16 16 (p.dexp - 15) (fun i j => if i = j then { re := p.param, im := 0 } else Cx.zero)
    let x2 := if p.diag then CMat.plus p.rows p.cols x1 diag else x1
    finishWrite (writeResult img d1 c p x2) Pivot.none 0

/-- CHOL (R246). -/
def doChol (img : Img) (d : Dyn) (c : Nat) (p : PCmd) : Dyn × Option Word :=
  let (x, pv) := chol p.rows (d.pw c p.srcA)
  finishWrite (writeResult img (countPivot d c pv) c p x) pv 0

/-- TRSM (R247). -/
def doTrsm (img : Img) (d : Dyn) (c : Nat) (p : PCmd) : Dyn × Option Word :=
  let (x, pv) := trsm p.rows p.cols p.conjA (d.pw c p.srcA) (d.pw c p.srcB)
  finishWrite (writeResult img (countPivot d c pv) c p x) pv 0

/-- QR (R248): the four commands with internal temporaries. B has 16 columns (log 22). -/
def doQr (img : Img) (d : Dyn) (c : Nat) (p : PCmd) : Dyn × Option Word :=
  match (if p.srcA = 3 then readStored img d c p else (d, some { els := [], unit := 0 })) with
  | (d1, none) => (d1, none)
  | (d1, some m) =>
    let a := operandOf d1 c p.srcA m
    let (tw, s1) := (mulExact p.cols p.cols p.rows true false a a).normalise
    let (lx, pv) := chol p.cols tw
    let (lw, s2) := lx.normalise
    let (d2, s3) :=
      if p.srcB = 0xFF then (d1, 0)
      else
        let (cw, n1) := (mulExact p.cols 16 p.rows true false a (d1.pw c p.srcB).exact).normalise
        let (y, n2) := (trsm p.cols 16 false lw cw).1.normalise
        (d1.setPw c p.srcB y, n1 + n2)
    let le := lw.exact
    let r : PewterMat :=
      { re := (List.range 256).map (fun k => (le.at (k % 16) (k / 16)).re),
        im := (List.range 256).map (fun k => -(le.at (k % 16) (k / 16)).im), exp := lw.exp }
    ((countPivot d2 c pv).setPw c p.dst r, some (resultWord lw.exp pv.index (s1 + s2 + s3) pv.status))

/-- DEMAP (R249). -/
def doDemap (img : Img) (d : Dyn) (c : Nat) (p : PCmd) : Dyn × Option Word :=
  let n := p.rows * p.cols * p.qm
  let areas := (p.addr2, 8 * p.rows) :: (if p.prior then [(p.addr2 + 128, n)] else [])
  match engineRead img c areas d [] with
  | (d1, none) => (d1, none)
  | (d1, some l) =>
    let table := l.getD 0 []
    let priors := l.getD 1 []
    let z := (d1.pw c p.srcA).exact
    let out := ((List.range p.cols).map (fun j => ((List.range p.rows).map (fun i =>
      let at0 := (j * p.rows + i) * p.qm
      demapSymbol p.qm (fld table (8 * i) 2) (fld table (8 * i + 2) 2) p.shift (z.at i j)
        (fun k => llrOf (priors.getD (at0 + k) 0)))).flatten)).flatten
    let sats := (out.filter (·.2)).length
    let (d2, err) := engineWrite img d1 c [(p.addr, out.map (fun v => BitVec.ofInt 8 v.1))]
    (d2, if err then none else some (resultWord 0 0 sats 0))

def execPewterLoad (t : Fin 48) (s : State) : Out := act (pewterStep t 1 doLoad) s
def execPewterStore (t : Fin 48) (s : State) : Out := act (pewterStep t 2 doStore) s
def execPewterMul (t : Fin 48) (s : State) : Out := act (pewterStep t 3 doMul) s
def execChol (t : Fin 48) (s : State) : Out := act (pewterStep t 4 doChol) s
def execTrsm (t : Fin 48) (s : State) : Out := act (pewterStep t 5 doTrsm) s
def execQr (t : Fin 48) (s : State) : Out := act (pewterStep t 6 doQr) s
def execDemap (t : Fin 48) (s : State) : Out := act (pewterStep t 7 doDemap) s

/-! ### Saving and restoring a context (R253) -/

/-- The checks of CPSAVE and CPREST: `f` runs with the pointer once every command is complete. -/
def contextOp (c : Core) (pn : Reg5) (rsv : BitVec 20) (f : Img → Dyn → Nat → Res) (img : Img)
    (d : Dyn) : Res :=
  let a := (d.rp c.val pn.toNat).toNat
  if rsv ≠ 0 || !isFile16 pn then .exc d excIllegal
  else if (d.status c.val).pl = .plugin then .exc d excPrivilege
  else if !portEnabled d c.val then .exc d (excCoproc 1)
  else if 0x00E000000000 < a + 4096 then .exc d (excAccess 0 (BitVec.ofNat 48 a))
  else if a % 4096 ≠ 0 then .exc d (excAlign (BitVec.ofNat 48 a))
  else if !(d.core c.val).port.queue.isEmpty then .wait d
  else f img d a

/-- The 4 KiB context (Table 9.8). -/
def contextBytes (p : CorePort) : List Byte :=
  let w (k : Nat) : PewterMat := Map.get PewterMat.reset p.w k
  let tags := (List.range 64).foldl (fun n t => if p.results.any (fun e => e.1 == t) then n + 2 ^ t else n) 0
  leBytes 4 0x58435750 ++ leBytes 2 1 ++ zeros 2 ++ leBytes 8 tags
  ++ ((List.range 3).map (fun k => leBytes 1 (wrapN 8 (w k).exp))).flatten ++ zeros 45
  ++ ((List.range 64).map (fun t => leBytes 4 (Map.get 0 p.results t).toNat)).flatten ++ zeros 704
  ++ ((List.range 3).map (fun k => ((List.range 256).map (fun i =>
        fd16Bytes { re := (w k).re.getD i 0, im := (w k).im.getD i 0 })).flatten)).flatten

def execCpsave (c : Core) (pn : Reg5) (rsv : BitVec 20) (s : State) : Out :=
  act (bronze c 6 (contextOp c pn rsv (fun img d a =>
    .done (blockStore img c.val a (contextBytes (d.core c.val).port)
      (fun d q data => feedSig d c.val q data) (sampleAccess d c.val a)) none))) s

/-- A result word of a context: its reserved bits read zero (Table 9.7). -/
def restoredWord (v : Nat) : Word := BitVec.ofNat 32 v &&& 0xFFFFFF0F

/-- The port that a context restores (R253). -/
def restorePort (p : CorePort) (l : List Byte) : CorePort :=
  let tags := fld l 8 8
  let res := ((List.range 64).filter (fun t => tags.testBit t)).map
    (fun t => (t, restoredWord (fld l (0x40 + 4 * t) 4)))
  let w (k : Nat) : PewterMat :=
    { re := (List.range 256).map (fun i => fd16Comp (fld l (0x400 + 1024 * k + 4 * i) 2)),
      im := (List.range 256).map (fun i => fd16Comp (fld l (0x402 + 1024 * k + 4 * i) 2)),
      exp := sx 8 (fld l (0x10 + k) 1) }
  { p with results := res, busy := [], w := [(0, w 0), (1, w 1), (2, w 2)] }

/-- CPREST. Where its read fails it changes nothing: with a task present ABORT comes, with none DATA_ERROR, each as
for a command's read (R250, R253; log 154). -/
def execCprest (c : Core) (pn : Reg5) (rsv : BitVec 20) (s : State) : Out :=
  act (bronze c 6 (contextOp c pn rsv (fun img d a =>
    match engineArea img c.val a 4096 (sampleAccess d c.val a) with
    | (d1, none) => if (d1.core c.val).tsk.task.isSome && !(d1.status c.val).hact then .wait d1 else .done d1 none
    | (d1, some l) =>
      if fld l 0 4 ≠ 0x58435750 ∨ fld l 4 2 ≠ 1 then .exc d1 excContext
      else .done (d1.onPort c.val (fun p => restorePort p l)) none))) s

end Sys2Proof.Machine
end

