-- ==== Sys2Proof/Machine/System.lean ====
section
/-! DEFINITION. Bronze control registers, system and task instructions, fences, interrupts and ABORT
(R178, R193 to R202, R206, R210). -/

namespace Sys2Proof.Machine

/-! ### Control registers (Tables 7.5, 8.3, 9.1) -/

/-- Read and write permission of a control register: the highest PL that may read it, and the highest
that may write it, none where writes are ignored. -/
def csrPerm (i : Nat) : Option (Nat × Option Nat) :=
  if i = 0x00 then some (2, some 2)
  else if i = 0x01 then some (0, none)
  else if i = 0x02 ∨ i = 0x03 then some (0, some 0)
  else if i = 0x04 ∨ i = 0x05 then some (0, none)
  else if 0x06 ≤ i ∧ i ≤ 0x09 then some (0, some 0)
  else if i = 0x0A then some (2, none)
  else if 0x0B ≤ i ∧ i ≤ 0x0F then some (0, some 0)
  else if i = 0x10 ∨ i = 0x11 then some (2, some 1)
  else if i = 0x12 then some (2, some 0)
  else if i = 0x13 then some (2, none)
  else if 0x18 ≤ i ∧ i ≤ 0x1B then some (2, none)
  else if 0x20 ≤ i ∧ i ≤ 0x27 then some (0, some 0)
  else if i = 0x30 then some (2, some 0)
  else if i = 0x31 then some (2, some 2)
  else if i = 0x32 then some (2, some 0)
  else if i = 0x40 then some (2, some 0)
  else if 0x41 ≤ i ∧ i ≤ 0x43 then some (2, none)
  else none

/-- The low and high words of a 48-bit address register (Table 7.5). -/
def loWord (a : Addr) : Word := a.setWidth 32
def hiWord (a : Addr) : Word := (a >>> 32).setWidth 32
def withLo (a : Addr) (w : Word) : Addr := BitVec.ofNat 48 (a.toNat / 2 ^ 32 * 2 ^ 32 + w.toNat)
def withHi (a : Addr) (w : Word) : Addr := BitVec.ofNat 48 (w.toNat % 65536 * 2 ^ 32 + a.toNat % 2 ^ 32)

/-- PTAGS (Table 9.1). -/
def ptags (p : CorePort) : Nat := (tagsInUse p).foldl (fun n t => n + 2 ^ t) 0

/-- A control register's value; reading a LO half latches its HI. CYCLE has counted a clock for
every instruction, and a free number more (log 23). -/
def csrRead (d : Dyn) (c i : Nat) : Dyn × Word :=
  let x := d.core c
  let k := x.ctl
  if i = 0x00 then (d, k.status.word)
  else if i = 0x01 then (d, k.cause)
  else if i = 0x02 then (d, loWord k.epc)
  else if i = 0x03 then (d, hiWord k.epc)
  else if i = 0x04 then (d, loWord k.eaddr)
  else if i = 0x05 then (d, hiWord k.eaddr)
  else if i = 0x06 then (d, loWord k.vbase)
  else if i = 0x07 then (d, hiWord k.vbase)
  else if i = 0x08 then (d, k.exmask)
  else if i = 0x09 then (d, k.imask)
  else if i = 0x0A then (d, BitVec.ofNat 32 (ipend d c))
  else if i = 0x0B then (d, k.dbell)
  else if 0x0C ≤ i ∧ i ≤ 0x0F then (d, Map.get 0 k.escr (i - 0x0C))
  else if i = 0x10 then (d, k.pbind0)
  else if i = 0x11 then (d, k.pbind1)
  else if i = 0x12 then (d, k.rc.setWidth 32)
  else if i = 0x13 then (d, BitVec.ofNat 32 (c + 256 * (c / 4)))
  else if i = 0x18 then
    let (more, d1) := freshNat d
    let v := x.clock + more
    ((d1.onCore c (fun y => { y with clock := v })).onCtl c
      (fun y => { y with cycleHi := BitVec.ofNat 32 (v / 2 ^ 32) }), BitVec.ofNat 32 v)
  else if i = 0x19 then (d, k.cycleHi)
  else if i = 0x1A then
    let t := d.nowAt (coreSrc c)
    (d.onCtl c (fun y => { y with tickHi := BitVec.ofNat 32 (t / 2 ^ 32) }), BitVec.ofNat 32 t)
  else if i = 0x1B then (d, k.tickHi)
  else if 0x20 ≤ i ∧ i ≤ 0x27 then
    (d, if i % 2 = 0 then Map.get 1 k.pwinBase ((i - 0x20) / 2) else Map.get 0 k.pwinLimit ((i - 0x20) / 2))
  else if i = 0x30 then (d, x.vec.enable)
  else if i = 0x31 then (d, BitVec.ofNat 32 x.vec.vl)
  else if i = 0x32 then (d, BitVec.ofNat 32 x.vec.vstart)
  else if i = 0x40 then (d, x.port.enable)
  else if i = 0x41 then
    (d, BitVec.ofNat 32 ((tagsInUse x.port).length * 2 ^ 16 + x.port.queue.length))
  else if i = 0x42 then (d, BitVec.ofNat 32 (ptags x.port))
  else if i = 0x43 then (d, BitVec.ofNat 32 (ptags x.port / 2 ^ 32))
  else (d, 0)

/-- A write of a control register by its field access codes; reserved bits read zero (R9, R178). -/
def csrWrite (d : Dyn) (c i : Nat) (w : Word) : Dyn :=
  let n := w.toNat
  if i = 0x00 then d.onStatus c (fun s => s.write w)
  else if i = 0x02 then d.onCtl c (fun y => { y with epc := withLo y.epc (BitVec.ofNat 32 (n / 4 * 4)) })
  else if i = 0x03 then d.onCtl c (fun y => { y with epc := withHi y.epc w })
  else if i = 0x06 then
    d.onCtl c (fun y => { y with vbase := withLo y.vbase (BitVec.ofNat 32 (n / 4096 * 4096)) })
  else if i = 0x07 then d.onCtl c (fun y => { y with vbase := withHi y.vbase w })
  else if i = 0x08 then d.onCtl c (fun y => { y with exmask := w })
  else if i = 0x09 then d.onCtl c (fun y => { y with imask := w &&& 6 })
  else if i = 0x0B then d.onCtl c (fun y => { y with dbell := y.dbell &&& ~~~w })
  else if 0x0C ≤ i ∧ i ≤ 0x0F then d.onCtl c (fun y => { y with escr := Map.set y.escr (i - 0x0C) w })
  else if i = 0x10 then d.onCtl c (fun y => { y with pbind0 := w })
  else if i = 0x11 then d.onCtl c (fun y => { y with pbind1 := w })
  else if i = 0x12 then d.onCtl c (fun y => { y with rc := BitVec.ofNat 17 n })
  else if 0x20 ≤ i ∧ i ≤ 0x27 then
    d.onCtl c (fun y => if i % 2 = 0 then { y with pwinBase := Map.set y.pwinBase ((i - 0x20) / 2) w }
      else { y with pwinLimit := Map.set y.pwinLimit ((i - 0x20) / 2) w })
  else if i = 0x30 then d.onVec c (fun v => { v with enable := w &&& 15 })
  else if i = 0x31 then d.onVec c (fun v => { v with vl := min 256 (n % 512) })
  else if i = 0x32 then d.onVec c (fun v => { v with vstart := n % 512 })
  else if i = 0x40 then d.onPort c (fun p => { p with enable := w &&& 3 })
  else d

/-- The checks of a control-register access: ILLEGAL for an index outside the tables, PRIVILEGE above
the level (R178). -/
def csrAccess (c : Core) (legal : Bool) (code : Byte) (read : Bool) (f : Dyn → Res) (_ : Img)
    (d : Dyn) : Res :=
  if !legal then .exc d excIllegal
  else match csrPerm code.toNat with
    | none => .exc d excIllegal
    | some (r, w) =>
      let pl := Priv.num (d.status c.val).pl
      if read then if r < pl then .exc d excPrivilege else f d
      else match w with
        | none => .done d none
        | some t => if t < pl then .exc d excPrivilege else f d

def execCsrr (c : Core) (rd rsv : Reg5) (code : Byte) (s : State) : Out :=
  act (bronze c 7 (csrAccess c (decide (rsv = 0)) code true (fun d =>
    let (d1, v) := csrRead d c.val code.toNat
    setD d1 c rd v))) s
def execCsrw (c : Core) (rsv ra : Reg5) (code : Byte) (s : State) : Out :=
  act (bronze c 7 (csrAccess c (decide (rsv = 0)) code false (fun d =>
    .done (csrWrite d c.val code.toNat (d.rd c.val ra)) none))) s
def execCsrs (c : Core) (rsv ra : Reg5) (code : Byte) (s : State) : Out :=
  act (bronze c 7 (csrAccess c (decide (rsv = 0)) code false (fun d =>
    .done (csrWrite d c.val code.toNat ((csrRead d c.val code.toNat).2 ||| d.rd c.val ra)) none))) s
def execCsrc (c : Core) (rsv ra : Reg5) (code : Byte) (s : State) : Out :=
  act (bronze c 7 (csrAccess c (decide (rsv = 0)) code false (fun d =>
    .done (csrWrite d c.val code.toNat ((csrRead d c.val code.toNat).2 &&& ~~~(d.rd c.val ra))) none))) s

/-! ### Exceptions and returns -/

/-- ERET (R197): with ABORT pending the core enters the ABORT vector at once (R200; log 24). With PINREP
set the body is resumed for RC iterations, for none where RC is 0, and its groups of 16 go on from the
iterations made before (R192; log 134). -/
def eret (c : Core) (rsv : BitVec 18) (_ : Img) (d : Dyn) : Res :=
  if rsv ≠ 0 then .exc d excIllegal
  else if (d.status c.val).pl ≠ .exec then .exc d excPrivilege
  else
    let x := (d.core c.val).ctl
    let atEnd := x.status.pinrep && decide (x.rc = 0)
    let d1 := d.onCtl c.val (fun y => { y with
      repDone := if x.status.pinrep then y.repSaved else y.repDone
      status := { y.status with pl := y.status.ppl, inrep := y.status.pinrep && !atEnd, hact := false } })
    match (d.core c.val).tsk.abort with
    | some (detail, cond) => .wait (takeAbort (d1.wpc c.val x.epc) c.val detail cond.toNat)
    | none => .done d1 (some (if atEnd then x.epc + 4 else x.epc))

def execEret (c : Core) (rsv : BitVec 18) (s : State) : Out := act (bronze c 7 (eret c rsv)) s
def execTrap (c : Core) (rsv : BitVec 10) (code : Byte) (s : State) : Out :=
  act (bronze c 7 (fun _ d =>
    if rsv ≠ 0 then .exc d excIllegal else .exc d (excTrap code.toNat))) s
def execBrk (c : Core) (rsv : BitVec 18) (s : State) : Out :=
  act (bronze c 7 (fun _ d => if rsv ≠ 0 then .exc d excIllegal else .exc d excBreak)) s

/-! ### Tasks (R193 to R195) -/

def execTwait (c : Core) (rsv : BitVec 18) (s : State) : Out :=
  act (bronze c 7 (fun _ d =>
    if rsv ≠ 0 then .exc d excIllegal
    else if (d.status c.val).pl ≠ .exec then .exc d excPrivilege
    else if (d.core c.val).tsk.task.isSome then .exc d excTaskOp
    else .wait (d.onTsk c.val (fun t => { t with waiting := true })))) s

/-- TCOMMIT with a final state: it is issued, waits for the core's Pewter commands, then signals; for a task that
has ended it is answered then (R194). -/
def tcommit (c : Core) (rd ra : Reg5) (rsv : Byte) (final : Nat) (_ : Img) (d : Dyn) : Res :=
  if rsv ≠ 0 ∨ 28 < ra.toNat then .exc d excIllegal
  else if (d.status c.val).pl = .plugin then .exc d excPrivilege
  else if (d.core c.val).tsk.task.isNone then .exc d excTaskOp
  else
    let result := ((List.range 4).map (fun k =>
      leBytes 4 (d.rd c.val (BitVec.ofNat 5 (ra.toNat + k))).toNat)).flatten
    let d1 := d.onTsk c.val (fun t => { t with commit := some { final, rd := rd.toNat, result } })
    .wait (settleCommit d1 c.val)

def execTcommit (c : Core) (rd ra : Reg5) (rsv : Byte) (s : State) : Out :=
  act (bronze c 7 (tcommit c rd ra rsv 2)) s
def execTcommitE (c : Core) (rd ra : Reg5) (rsv : Byte) (s : State) : Out :=
  act (bronze c 7 (tcommit c rd ra rsv 3)) s
def execTcommitB (c : Core) (rd ra : Reg5) (rsv : Byte) (s : State) : Out :=
  act (bronze c 7 (tcommit c rd ra rsv 4)) s

/-- TFAULT (R195). It retires, and the ABORT is taken at the first boundary with HACT clear (R200). -/
def tfault (c : Core) (rsvD ra : Reg5) (rsv : Byte) (_ : Img) (d : Dyn) : Res :=
  if rsv ≠ 0 ∨ rsvD ≠ 0 then .exc d excIllegal
  else if (d.status c.val).pl = .plugin then .exc d excPrivilege
  else if (d.core c.val).tsk.task.isNone then .exc d excTaskOp
  else
    let d1 := raiseTask d (coreSrc c.val) 0x0103 0 (d.rd c.val ra).toNat
    .done (d1.onTsk c.val (fun t => { t with abort := t.abort.or (some (1, 0x0103)) })) none

def execTfault (c : Core) (rsvD ra : Reg5) (rsv : Byte) (s : State) : Out :=
  act (bronze c 7 (tfault c rsvD ra rsv)) s

/-! ### Fences (R206): every access of the model completes in its own step, so nothing is
outstanding and they only go on (log 25); FENCE.I empties the instruction cache -/

def fence (rsv : BitVec 18) (_ : Img) (d : Dyn) : Res :=
  if rsv ≠ 0 then .exc d excIllegal else .done d none

def execFenceS (c : Core) (rsv : BitVec 18) (s : State) : Out := act (bronze c 7 (fence rsv)) s
def execFenceA (c : Core) (rsv : BitVec 18) (s : State) : Out := act (bronze c 7 (fence rsv)) s
def execFenceI (c : Core) (rsv : BitVec 18) (s : State) : Out :=
  act (bronze c 7 (fun img d => fence rsv img (if rsv = 0 then d.onCore c.val (fun x => { x with lines := [] }) else d))) s

/-! ### Asynchronous events at a boundary -/

/-- The core is at an instruction boundary, waiting in TWAIT included. -/
def atBoundary (d : Dyn) (c : Nat) : Bool :=
  let t := (d.core c).tsk
  t.run = .active && t.commit.isNone && d.powered (coreSrc c)

/-- ABORT is taken (R200). -/
def abortNow (d : Dyn) (c : Nat) : Dyn :=
  match (d.core c).tsk.abort with
  | some (detail, cond) =>
    if atBoundary d c && !(d.status c).hact then takeAbort d c detail cond.toNat else d
  | none => d

def execAbort (c : Core) (s : State) : Out := act (fun _ d => abortNow d c.val) s

def execStoreDataError (c : Core) (s : State) : Out :=
  act (fun _ d =>
    if atBoundary d c.val && !(d.status c.val).hact && (d.core c.val).tsk.abort.isNone then
      takeStoreErr d c.val
    else d) s

/-- An interrupt is taken (R192, R193, R202): ABORT and then a store error win at the same boundary (R199, R200). -/
def interruptNow (d : Dyn) (c : Nat) : Dyn :=
  if !atBoundary d c then d
  else match boundaryEvent d c with
    | some d' => d'
    | none => match takable d c with
      | none => d
      | some code =>
        if repBoundary d c then
          let d1 := d.onTsk c (fun t => { t with waiting := false })
          takeException d1 c { code, detail := 0, cond := 0, addr := none } (d1.pc c)
        else d

def execInterrupt (c : Core) (s : State) : Out := act (fun _ d => interruptNow d c.val) s

/-- A write to DOORBELL_n (R210). -/
def doorbell (d : Dyn) (m : Master) (n : Nat) (v : Word) : Dyn :=
  if m.isTaskOrHost then d.onCtl n (fun y => { y with dbell := y.dbell ||| v }) else d

def execDoorbell (m : Master) (n : Core) (value : Word) (s : State) : Out :=
  act (fun _ d => doorbell d m n.val value) s

end Sys2Proof.Machine
end

