-- ==== Sys2Proof/Machine/Reports.lean ====
section
/-! DEFINITION. Reports as the supervisor accepts them, counter overflow, epochs and dumps (17). -/

namespace Sys2Proof.Machine

/-- A record's 32 bytes (Table 17.1), with the SEQ that the arbiter gave it. -/
def reportBytes (r : Report) (seq : Nat) : List Byte :=
  leBytes 8 r.time.toNat ++ leBytes 4 seq ++ leBytes 2 r.source.toNat
  ++ leBytes 1 (r.cls + 8 * r.kind + 32 * b2n r.lost + 64 * b2n r.lastUnit)
  ++ [r.action] ++ leBytes 2 r.code.toNat ++ leBytes 2 r.task.toNat ++ detail12 r.detail

/-- An accepted record alerts (R419). -/
def alert (d : Dyn) (cls : Nat) : Dyn :=
  let cfg := d.rep.alertCfg.toNat
  if bit cfg 3 && decide (bits cfg 2 0 ≤ cls) then
    let d1 := { d with rep := { d.rep with
      alertPending := true, alertCount := satAdd 0xFFFF d.rep.alertCount 1 } }
    if bits cfg 15 8 < 192 then
      doorbell d1 .supervisor (bits cfg 15 8) (BitVec.ofNat 32 (2 ^ bits cfg 20 16))
    else d1
  else d

/-- The arbiter accepts the oldest record of a source (R417, R418). -/
def acceptReport (d : Dyn) (src : Nat) : Dyn :=
  match Map.get [] d.rep.ifq src with
  | [] => d
  | r :: rest =>
    let old := d.rep.log.find? (fun e => e.1 == d.rep.logWr.toNat % 1024)
    let full := d.rep.streamOn && decide (d.rep.logWr - d.rep.streamNext = 1024)
    let d0 := if full then { d with rep := { d.rep with
        streamNext := d.rep.streamNext + 1
        streamLost := d.rep.streamLost + (match old with
          | some e => if d.rep.streamMin ≤ e.2.cls then 1 else 0
          | none => 0) } }
      else d
    let d1 := { d0 with rep := { d0.rep with
      ifq := Map.set d.rep.ifq src rest
      log := Map.set d.rep.log (d.rep.logWr.toNat % 1024) r
      logWr := d.rep.logWr + 1 } }
    alert (countEv d1 0x0C00 0x0C00 1 EvInfo.plain) r.cls

def execReportAccept (source : Half) (s : State) : Out :=
  act (fun _ d => acceptReport d source.toNat) s

/-- The event is listed for the unit's kind (R421). -/
def evListed (unit ev : Nat) : Bool :=
  ev / 256 == srcSub unit
  && decide (ev % 256 < [0, 11, 4, 4, 4, 4, 3, 4, 3, 1, 1, 0, 1].getD (srcSub unit) 0)

/-- Counter `k` of a unit adds the count of its event up to and past 2^48 - 1 (R420, R424 to R426).
The events that only a clock shows are counted so (log 28). -/
def execCounterOverflow (unit : Half) (k : BitVec 3) (count : Nat) (s : State) : Out :=
  act (fun _ d =>
    let u := unit.toNat
    let b := Map.get Bank.reset d.perf.banks u
    let c := Map.get Ctr.reset b.ctrs k.toNat
    when_ (decide (k.toNat < bankSize u) && allSources.contains u && d.powered u && bit c.cfg.toNat 31
        && evListed u (c.cfg.toNat % 65536) && privSome c.cfg.toNat (c.cfg.toNat % 65536)
        && decide (2 ^ 48 ≤ c.value + count) && decide (count < 2 ^ 48))
      (fun d =>
        let (fv, d1) := freshNat d
        let b' := ctrAdd b k.toNat count (srcSub u == 1) (decide (d.dst.state ≠ .service)) fv
        let b'' := { b' with arms := b'.arms.map (fun a => { a with fresh := false }) }
        { d1 with perf := { d1.perf with banks := Map.set d1.perf.banks u b'' } }) d) s

/-! ### Epochs (R427) -/

/-- An epoch's length in Tc (R427). -/
def epochTc (img : Img) : Nat := bits (img.reg 0x0C000014) 12 0 * 245760

/-- The epoch in which the present tick lies, modulo 2^32. -/
def epochOf (img : Img) (d : Dyn) : Nat :=
  wrapN 32 (((d.now : Int) - timeOffset img) / (epochTc img : Int))

/-- The tick at which the epoch of the present tick began (R427); a step of device time is a boundary itself. -/
def epochStart (img : Img) (d : Dyn) : Nat :=
  if d.perf.stepped then d.now
  else d.now - (((d.now : Int) - timeOffset img) % (epochTc img : Int)).toNat

def dumpsOn (img : Img) : Bool := bit (img.reg 0x0C000018) 31

/-- Every core's busy time of the epoch so far is added up (R172). -/
def settleBusy (d : Dyn) : Dyn :=
  ((d.cores.map (·.1)).eraseDups.filter (fun c => (d.core c).tsk.busy)).foldl (fun d c =>
    (addBusy d c).onTsk c (fun t => { t with since := d.dispNow })) d

def skipEpoch (d : Dyn) : Dyn :=
  event { d with perf := { d.perf with skipped := satAdd 0xFFFF d.perf.skipped 1 } } 0x0C00 0 0x0C83 []

/-- The boundary of an epoch, or a step of device time that ends it: every unit latches, and a shadow
that is not read yet stays and costs the epoch its dump (R427, R429). -/
def epochBoundary (img : Img) (d : Dyn) : Dyn :=
  let d1 := (d.perf.banks.map (·.1)).foldl countClocks (settleBusy d)
  let off := allSources.filter (fun u => !d1.powered u)
  let l : Latch :=
    { epoch := d1.perf.epoch, tick := d1.now, boundary := epochStart img d1, step := d1.perf.stepped
      banks := d1.perf.banks, off,
      waitMax := d1.perf.waitRun, coreBusy := d1.perf.busyRun }
  let unread := d1.perf.shadow.isSome && dumpsOn img
    && d1.perf.banks.any (fun e => e.2.dump)
  let d2 := { d1 with perf := { d1.perf with
    waitMax := d1.perf.waitRun, coreBusy := d1.perf.busyRun, waitRun := [], busyRun := []
    epoch := epochOf img d1, stepped := false, epochMarks := []
    shadow := if unread then d1.perf.shadow else some l } }
  if unread then skipEpoch d2 else d2

def execEpochBoundary (s : State) : Out :=
  act (fun img d => when_ (decide (epochOf img d ≠ d.perf.epoch) || d.perf.stepped)
    (epochBoundary img) d) s

/-! ### Dumps (R428, R429) -/

/-- A dump record (Table 17.5). -/
def dumpRecord (epoch source format flags tick : Nat) (values : List Byte) : List Byte :=
  leBytes 4 epoch ++ leBytes 2 source ++ leBytes 1 format ++ leBytes 1 flags ++ leBytes 8 tick
  ++ (values ++ zeros 48).take 48

/-- A unit's local tick time as it latches: the first clock of its domain in which its copy has reached the
boundary, at most 8 Tc on (R427, R430; log 26). -/
def latchTick (l : Latch) (src : Nat) : Nat :=
  max l.boundary (localTick (clockDomain src) l.boundary) + Config.latchDelay (clockDomain src) l.boundary % 9

/-- The FORMAT 0 record of a bank; the dispatcher's FORMAT 1 to 17 records follow its own. -/
def bankRecords (l : Latch) (src : Nat) (b : Bank) : List (List Byte) :=
  let off := l.off.contains src
  let one (k : Nat) : List Byte :=
    let c := Map.get Ctr.reset b.ctrs k
    leBytes 6 (if off || decide (bankSize src ≤ k) || !bit c.cfg.toNat 31 then 0 else c.value)
  let fl := b2n off + 2 * b2n (decide (b.ovf ≠ 0)) + 4 * b2n l.step
  let first := dumpRecord l.epoch src 0 fl (latchTick l src) ((List.range 8).map one).flatten
  if src = 0x0800 then
    let busy := (List.range 16).map (fun g => dumpRecord l.epoch src (g + 1) fl (latchTick l src)
      ((List.range 12).map (fun j => leBytes 4 (Map.get 0 l.coreBusy (12 * g + j)))).flatten)
    let wait := dumpRecord l.epoch src 17 fl (latchTick l src)
      ((List.range 7).map (fun c => leBytes 4 (Map.get 0 l.waitMax c))).flatten
    first :: (busy ++ [wait])
  else [first]

/-- The dump of one latch, its trailer last. -/
def dumpOf (d : Dyn) (l : Latch) : List (List Byte) :=
  let dumped := d.perf.banks.filter (fun e => e.2.dump)
  let recs := (dumped.map (fun e => bankRecords l e.1 (Map.get Bank.reset l.banks e.1))).flatten
  recs ++ [dumpRecord l.epoch 0x0C00 0xFF (4 * b2n l.step) l.boundary
    (leBytes 4 (recs.length + 1) ++ leBytes 4 d.perf.skipped)]

/-- The supervisor as a sender of class 2 traffic. -/
def supSender : Sender := { source := 0x0C00, priv := 0 }

/-- The dump engine writes the epoch's records whole, or skips the epoch (R428, R429). -/
def dump (img : Img) (d : Dyn) (l : Latch) : Dyn :=
  let recs := dumpOf d l
  let cfg := img.reg 0x0C000018
  let size := 2 ^ bits cfg 3 0
  let d0 := { d with perf := { d.perf with shadow := none } }
  if size < (d.perf.dumpWr - d.perf.dumpRd).toNat + recs.length then skipEpoch d0
  else
    let base := bits cfg 27 6 * 64
    let wr := d.perf.dumpWr.toNat
    let d1 := ((List.range recs.length).zip recs).foldl
      (fun d e => (memStore img d supSender (base + 64 * ((wr + e.1) % size)) e.2).1) d0
    { d1 with perf := { d1.perf with dumpWr := d.perf.dumpWr + BitVec.ofNat 32 recs.length } }

def execDump (s : State) : Out :=
  act (fun img d => match d.perf.shadow with
    | some l => when_ (dumpsOn img && usPassed d.now l.boundary 2) (fun d => dump img d l) d
    | none => d) s

/-- A write of DUMP_RD by any master (R429, Table 17.8); a value beyond DUMP_WR, modulo 2^32, is ignored with a
report (log 29). -/
def dumpRead (d : Dyn) (v : Word) : Dyn :=
  let p := d.perf
  if decide (0 < (v - p.dumpWr).toInt) then
    writeRefused d 0x0C00
  else { d with perf := { p with dumpRd := v } }

def execDumpRd (_m : Master) (value : Word) (s : State) : Out :=
  act (fun _ d => dumpRead d value) s

end Sys2Proof.Machine
end

