-- ==== Sys2Proof/Machine/Registers.lean ====
section
/-! DEFINITION. Register space (R6 to R10, R13): what every register reads as, what a write to it does,
and the access as a fabric packet (R318). Offsets count from 0x00F0_0000_0000. -/

namespace Sys2Proof.Machine

/-- What a register read answers: the state, which a latching read changes, and the word. -/
abbrev RegRead := Dyn × Nat

/-- Position of `o` in an array of `n` registers every `step` bytes from `base`. -/
def slotIn (o base step n : Nat) : Option Nat :=
  if base ≤ o ∧ (o - base) % step = 0 ∧ (o - base) / step < n then some ((o - base) / step) else none

/-- Group and offset within it, for `n` groups of `step` bytes from `base`. -/
def groupIn (o base step n : Nat) : Option (Nat × Nat) :=
  if base ≤ o ∧ (o - base) / step < n then some ((o - base) / step, (o - base) % step) else none

/-! ### Block 0: identity (R48 to R50) -/

def devStateNum : DevState → Nat
  | .boot => 0
  | .selftest => 1
  | .hold => 2
  | .service => 3
  | .recovery => 4
  | .deepsleep => 5

/-- Capability identifiers and BUILT, in the list's order (Table 2.17). -/
def capTable : List (Nat × Nat) :=
  [(0x0101, 192), (0x0201, 48), (0x0301, 32), (0x0302, 32), (0x0401, 48), (0x0402, 8), (0x0403, 8),
   (0x0501, 80), (0x0601, 64), (0x0701, 16), (0x0702, 32), (0x0801, 1), (0x0901, 8), (0x0902, 64),
   (0x0A01, 2), (0x0A02, 16), (0x0B01, 217), (0x0C01, 1)]

/-- Words of a capability (R49). -/
def capLen (built : Nat) : Nat := 3 + divUp built 32

/-- The list as words from CAP_ROOT on: each capability, then the free words before the next (R49). -/
def capWords (img : Img) : Nat → Nat → List (Nat × Nat) → List Nat
  | _, _, [] => []
  | k, off, (id, built) :: rest =>
    let len := capLen built
    let next := off + 4 * (len + Config.capGap k % 21)
    let av := Map.get 0 img.avail id
    let n := ((List.range built).filter (fun i => av.testBit i)).length
    [id + 65536 + len * 2 ^ 24, if rest.isEmpty then 0 else next, built + n * 65536]
      ++ (List.range (len - 3)).map (fun w => (av >>> (32 * w)) % 2 ^ 32)
      ++ (if rest.isEmpty then [] else List.replicate (Config.capGap k % 21) 0)
      ++ capWords img (k + 1) next rest

def readIdentity (img : Img) (d : Dyn) (o : Nat) : Nat :=
  match o with
  | 0x000 => Config.partNumber
  | 0x004 => Config.stepping
  | 0x010 => Config.capRoot
  | 0x020 => d.dst.phase * 256 + devStateNum d.dst.state
  | 0x030 => d.dst.loadA.toNat
  | 0x034 => d.dst.loadB.toNat
  | 0x038 => img.loaded.toNat
  | 0x040 => img.buildLo.toNat
  | 0x044 => img.buildHi.toNat
  | _ => if Config.capRoot ≤ o ∧ o < 0x800 then
      (capWords img 0 Config.capRoot capTable).getD ((o - Config.capRoot) / 4) 0 else 0

/-! ### Blocks 1 to 4 -/

/-- CORE_STATUS_n (Table 7.18). -/
def coreStatusWord (d : Dyn) (c : Nat) : Nat :=
  let t := (d.core c).tsk
  let u := d.unit (coreSrc c)
  let st := if !d.powered (coreSrc c) then 0
    else match t.run with
      | .stopped => 0
      | .halted => 4
      | .active => if t.task.isSome then 3 else if t.waiting then 2 else 1
  st + 16 * b2n (u.withdrawn || u.held) + 32 * b2n (d.status c).shadow
    + 65536 * (if st = 3 then t.task.getD 0 else 0)

/-- PEWTER_STATUS_t (Table 9.10). -/
def pewterStatusWord (d : Dyn) (t : Nat) : Nat :=
  let u := d.unit (0x0200 + t)
  let depth (k : Nat) : Nat := (d.core (4 * t + k)).port.queue.length
  let busy := (List.range 4).any (fun k => depth k != 0)
  (if !d.powered (0x0200 + t) then 0 else if busy then 2 else 1) + 16 * b2n (u.withdrawn || u.held)
    + 32 * (depth 0 + 32 * (depth 1 + 32 * (depth 2 + 32 * depth 3)))

def readCores (d : Dyn) (o : Nat) : Nat :=
  match slotIn o 0 4 192 with
  | some c => coreStatusWord d c
  | none => 0

def readPewter (d : Dyn) (o : Nat) : Nat :=
  match slotIn o 0 4 48 with
  | some t => pewterStatusWord d t
  | none => 0

/-- MASK_STATE_n (Table 3.6). -/
def readRadio (d : Dyn) (o : Nat) : Nat :=
  match slotIn o 0x10000 4 256 with
  | some n => Map.get 0 d.mask n
  | none => 0

/-! ### Block 5: lanes (R285, R315) -/

/-- ITER_MEAN in 1/16 over the frames kept (Table 10.11). -/
def iterMean (t : TetherSt) : Nat :=
  if t.iters.isEmpty then 0 else min 255 (divRound (16 * t.iters.foldl (· + ·) 0) t.iters.length)

/-- Tables 10.9 to 10.16. -/
def laneGroupRead (img : Img) (d : Dyn) (n g : Nat) : Nat :=
  let t := (d.lane n).teth
  if (laneRecord img n).isNone then 0
  else match g with
  | 0x00 => t.state + 256 * laneRate img d n + 1024 * t.lock + 4096 * b2n (rxGood img d n)
      + 8192 * b2n t.partnerLock + 16384 * b2n t.partnerGood + 32768 * b2n t.inverted + 65536 * t.tries
  | 0x08 => t.margin + 256 * iterMean t + 65536 * t.echoRes + 2 ^ 24 * t.partnerMargin
  | 0x0C => t.framesLost
  | 0x10 => t.framesFixed
  | 0x14 => t.trained + 256 * t.takeovers + 65536 * t.losses
  | 0x18 => t.violations
  | _ => match slotIn g 0x20 4 4 with
    | some k => t.windows.getD (2 * k) 0 + 65536 * t.windows.getD (2 * k + 1) 0
    | none => 0

/-- Tables 11.9 to 11.13. -/
def linkGroupRead (img : Img) (d : Dyn) (n g : Nat) : Nat :=
  let l := d.lane n
  match g with
  | 0x04 => if n < 64 then img.reg (0x05030004 + 0x40 * n) + 2 ^ 24 * (16 - l.bridle.ctrlq.length) else 0
  | 0x08 => if n < 64 then l.bridle.dropped + 65536 * l.bridle.erased else 0
  | 0x10 => if n < 64 then 0 else l.link.naks + 65536 * l.link.replays
  | 0x1C => l.protoViol
  | _ => 0

/-- Tables 11.14 to 11.17; VC 0 is fixed (R315). -/
def vcRead (img : Img) (d : Dyn) (v g : Nat) : Nat :=
  let x := d.vc v
  if v = 0 then (if g = 0 then 2 ^ 31 else 0)
  else match g with
  | 0x0 => vcConfig img v
  | 0x4 => vcHandles img v
  | 0x8 => x.txPosted % 65536 + 65536 * (x.rxConsumed % 65536)
  | 0xC => x.txDone % 65536 + 65536 * (x.rxProduced % 65536)
  | _ => 0

def readLanes (img : Img) (d : Dyn) (o : Nat) : Nat :=
  match groupIn o 0x20000 0x40 80, groupIn o 0x30000 0x40 80, groupIn o 0x34000 0x10 64 with
  | some (n, g), _, _ => laneGroupRead img d n g
  | _, some (n, g), _ => linkGroupRead img d n g
  | _, _, some (v, g) => vcRead img d v g
  | _, _, _ => if 0x32000 ≤ o ∧ o < 0x32800 then img.reg (0x05000000 + o) else 0

/-! ### Blocks 6 and 7: fabric and memory (R333, R354) -/

/-- PENDING of a router: its changes that wait or are being retried, a retry that runs among them (R328, Table
12.9). -/
def pendingChanges (d : Dyn) (r : Nat) : Nat :=
  let first := (d.runningChange r).any (fun c => !c.failed)
  min 8 ((d.changes r).length - b2n first)

/-- ROUTER_STATE_r (Table 12.9). -/
def routerStateWord (d : Dyn) (r : Nat) : Nat :=
  let running := (d.runningChange r).isSome
  let mode (k : Nat) : Nat := d.portMode (4 * r + k)
  b2n running + 256 * (mode 0 + 4 * (mode 1 + 4 * (mode 2 + 4 * mode 3)))
    + 65536 * pendingChanges d r

def readFabric (img : Img) (d : Dyn) (o : Nat) : Nat :=
  match slotIn o 0x1000 4 64, slotIn o 0x1200 4 64, slotIn o 0x2000 4 256, slotIn o 0x3000 4 256 with
  | some r, _, _, _ => routerStateWord d r
  | _, some r, _, _ => Map.get 0 d.fab.headDrop r + 65536 * Map.get 0 d.fab.parity r
  | _, _, some e, _ => Map.get 0 d.fab.asleep e + 65536 * Map.get 0 d.fab.absorbed e
  | _, _, _, some e =>
    Map.get 0 d.fab.crcFail e + 256 * Map.get 0 d.fab.lateResp e + 2 ^ 20 * Map.get 0 d.fab.timeouts e
  | _, _, _, _ => if o = 0 then img.reg 0x06000000 else 0

def readMemory (img : Img) (d : Dyn) (o : Nat) : Nat :=
  match groupIn o 0x1000 0x10 48 with
  | some (u, g) =>
    let m := d.memUnit u
    match g with
    | 0x0 => m.corrected
    | 0x4 => m.refused + 65536 * m.poisoned
    | 0x8 => m.lapMs
    | 0xC => m.level + 65536 * m.laps
    | _ => 0
  | none => if o ≤ 8 ∧ o % 4 = 0 then img.reg (0x07000000 + o) else 0

/-! ### Block 8: dispatcher (R172, R147) -/

def readDispatcher (img : Img) (d : Dyn) (o : Nat) : Nat :=
  match slotIn o 0x40 4 7, slotIn o 0x80 4 7, slotIn o 0x1000 4 192 with
  | some c, _, _ =>
    let l := readyList d c
    l.length + 65536 * (l.filter (fun n => inputsFinal img d (d.task n) && outputBusy img d (d.task n))).length
  | _, some c, _ => Map.get 0 d.perf.waitMax c
  | _, _, some c => Map.get 0 d.perf.coreBusy c
  | _, _, _ =>
    match o with
    | 0x20 => d.disp.cmdQ.length + 65536 * d.disp.stray + 2 ^ 31 * b2n d.disp.halted
    | 0x24 => 131072 - linksUsed d
    | 0x80004 =>
      img.reg 0x08080004 % 512 + 65536 * (256 - d.disp.orders.length)
    | _ => if o = 0 ∨ o = 4 ∨ o = 8 ∨ o = 0x80000 then img.reg (0x08000000 + o) else 0

/-! ### Block 9: cipher and keys (R396) -/

def readCipher (d : Dyn) (o : Nat) : Nat :=
  match slotIn o 0 4 8, slotIn o 0x200 4 8, slotIn o 0x1000 4 64, slotIn o 0x2010 4 12 with
  | some e, _, _, _ =>
    let c := d.cipherEng e
    4 * b2n c.pending + 8 * b2n (suspended d e).isSome + 65536 * c.owner
  | _, some e, _, _ => (d.cipherEng e).status + 256 * b2n (d.cipherEng e).direct.isSome
  | _, _, some s, _ =>
    let k := d.key s
    (if s = 63 then 0 else k.use) + 256 * k.origin + 65536 * k.gen
  | _, _, _, some w => (d.fuse.pkHash >>> (32 * w)) % 2 ^ 32
  | _, _, _, _ =>
    if o = 0x2000 then
      b2n (d.fuse.pkHash != 0) + 2 * b2n d.fuse.sigRequired + 4 * b2n (d.fuse.imageKey != 0)
        + 256 * d.fuse.minSecver
    else 0

/-! ### Block A: time (R374) -/

def readTime (img : Img) (d : Dyn) (o : Nat) : RegRead :=
  let t := d.time
  match slotIn o 0x20 4 8, groupIn o 0x80 8 16, slotIn o 0x1000 4 64, slotIn o 0x1100 4 64 with
  | some k, _, _, _ => (d, (Map.get 0 t.cellActive k).toNat)
  | _, some (g, w), _, _ =>
    match w, (d.pulse g).armed with
    | 0, some a => (d.onPulse g (fun p => { p with hiRead := BitVec.ofNat 32 (a / 2 ^ 32) }), a % 2 ^ 32)
    | 4, some _ => (d, (d.pulse g).hiRead.toNat)
    | _, _ => (d, 0)
  | _, _, some n, _ => (d, let (x, den) := (laneDown img d n (laneRate img d n)).getD (0, 1); wrapN 32 (roundDiv x den))
  | _, _, _, some n => (d, img.reg (0x0A001100 + 4 * n))
  | _, _, _, _ =>
    match o with
    | 0x0000 => (d, servoNum t.servo + 256 * t.port + 1024 * b2n t.synceLock + 2 ^ 24 * t.steps)
    | 0x0008 => (d, wrapN 32 t.theta)
    | 0x0010 => (d.onTime (fun t => { t with rateHi := BitVec.ofNat 32 (wrapN 40 t.rate / 2 ^ 32) }),
        wrapN 40 t.rate % 2 ^ 32)
    | 0x0014 => (d, t.rateHi.toNat)
    | 0x0040 => (d, t.run)
    | 0x0100 => (d.onTime (fun t => { t with ppsInHi := BitVec.ofNat 32 (t.ppsIn.toNat / 2 ^ 32) }),
        t.ppsIn.toNat % 2 ^ 32)
    | 0x0104 => (d, t.ppsInHi.toNat)
    | _ => (d, if 0x400 ≤ o ∧ o < 0x480 then img.reg (0x0A000000 + o) else 0)

/-! ### Block B: power (R412) -/

def readPower (d : Dyn) (o : Nat) : Nat :=
  let p := d.power
  match groupIn o 0x100 8 16, slotIn o 0x200 4 7 with
  | some (i, g), _ =>
    let e := Map.get { source := 0, reason := 0, mode := 0, tick := 0 } p.log i
    if g = 0 then e.mode + 256 * e.reason + 65536 * e.source
    else if g = 4 then bits e.tick 47 16 else 0
  | _, some k => ((List.range 32).filter (fun i => decide (32 * k + i < 217) && domainOn d (32 * k + i))).foldl
      (fun w i => w + 2 ^ i) 0
  | _, _ =>
    match o with
    | 0x0004 => p.current + 4 * p.target + 16 * p.pend.getD 0 + 64 * b2n p.pend.isSome + 128 * b2n p.busy
        + 256 * p.logNext + 2 ^ 30 * b2n p.avsFault + 2 ^ 31 * b2n p.brown
    | 0x0014 => Map.get 0 p.refusals 1
    | 0x0018 => Map.get 0 p.refusals 2
    | 0x001C => Map.get 0 p.refusals 3
    | 0x0300 => p.avsTarget + 65536 * p.vout
    | 0x0400 => d.dst.resetCause
    | _ => 0

/-! ### Block C: supervisor and counter banks (R418, R420, R431) -/

/-- Units that have a counter bank (R420): every source identifier. -/
def hasBank (s : Nat) : Bool := allSources.contains s || s == keyStoreSrc

/-- Word `w` of the log, entry `i` (R418): an entry that no record has reached reads zero. -/
def logWord (d : Dyn) (i w : Nat) : Nat :=
  match d.rep.log.find? (fun e => e.1 == i) with
  | none => 0
  | some (_, r) =>
    let last := wrapN 32 ((d.rep.logWr.toNat : Int) - 1)
    let seq := wrapN 32 ((last : Int) - (((last : Int) - i) % 1024))
    fld (reportBytes r seq) (4 * w) 4

/-- Keep a counter's latched VALUE_HI. -/
def Dyn.onBank (d : Dyn) (s : Nat) (f : Bank → Bank) : Dyn :=
  { d with perf := { d.perf with banks := Map.upd Bank.reset d.perf.banks s f } }

/-- Tables 17.9 to 17.11: SAMPLE_INFO is laid out for core banks alone. -/
def readBank (d0 : Dyn) (s g : Nat) : RegRead :=
  let d := countClocks d0 s
  let b := Map.get Bank.reset d.perf.banks s
  match groupIn g 0 0x18 (bankSize s) with
  | some (k, w) =>
    let c := Map.get Ctr.reset b.ctrs k
    let v := if d.powered s then c.value else 0
    match w with
    | 0x00 => (d, c.cfg.toNat)
    | 0x04 => (d, c.master.toNat)
    | 0x08 => (d, c.base.toNat)
    | 0x0C => (d, c.limit.toNat)
    | 0x10 => (d.onBank s (fun b => { b with ctrs := Map.upd Ctr.reset b.ctrs k (fun c => { c with hiLatch := v / 2 ^ 32 }) }),
        v % 2 ^ 32)
    | 0x14 => (d, if d.powered s then c.hiLatch else 0)
    | _ => (d, 0)
  | none =>
    let core := srcSub s == 1
    match g with
    | 0xC0 => (d, b.ovf)
    | 0xC4 => (d, b2n b.dump)
    | 0xD0 => (d, b.samplePc % 2 ^ 32)
    | 0xD4 => (d, bits b.samplePc 47 32)
    | 0xD8 => (d, if core then b.counter + 8 * b2n b.icmiss + 16 * b2n b.exception + 32 * b2n b.tagged
        + 64 * b2n b.overrun + 128 * b2n b.valid + 65536 * b.latency else 0)
    | 0xDC => (d, b.sampleAddr % 2 ^ 32)
    | 0xE0 => (d, bits b.sampleAddr 47 32)
    | 0xE4 => (d, b.sampleSeed)
    | _ => (d, 0)

/-- R423: a core at TASK that may not read counters reads zero, with one report per epoch. -/
def userRead (d : Dyn) (m : Master) (r : RegRead) : RegRead :=
  match m with
  | .core n .task =>
    if bit d.perf.perfCfg.toNat 0 then r
    else
      let src := coreSrc n.val
      if epochFirst d 0x0081 src then
        (writeRefused (epochMark d 0x0081 src) src, 0)
      else (d, 0)
  | _ => r

def readSupervisor (img : Img) (d : Dyn) (m : Master) (o : Nat) : RegRead :=
  let p := d.perf
  if 0x10000 ≤ o then
    (if hasBank (o / 256) then userRead d m (readBank d (o / 256) (o % 256)) else (d, 0))
  else if 0x8000 ≤ o then (d, logWord d ((o - 0x8000) / 32) ((o - 0x8000) % 32 / 4))
  else match o with
  | 0x00 => (d, d.rep.logWr.toNat)
  | 0x04 => (d, 65536 * d.rep.dropped)
  | 0x08 => (d, d.rep.alertCfg.toNat)
  | 0x0C => (d, b2n d.rep.alertPending + 65536 * d.rep.alertCount)
  | 0x10 => (d, p.perfCfg.toNat)
  | 0x14 => (d, img.reg 0x0C000014)
  | 0x18 => (d, img.reg 0x0C000018)
  | 0x1C => (d, p.dumpWr.toNat)
  | 0x20 => (d, p.dumpRd.toNat)
  | 0x24 => (d, 65536 * p.skipped)
  | 0x28 => (d, p.epoch)
  | _ => (d, 0)

/-! ### Reads -/

/-- The word that a read of the register at offset `off` returns to master `m` (R6, R9). -/
def regRead (img : Img) (d : Dyn) (m : Master) (off : Nat) : RegRead :=
  let o := off % 2 ^ 24
  match off / 2 ^ 24 with
  | 0x0 => (d, readIdentity img d o)
  | 0x1 => (d, readCores d o)
  | 0x2 => (d, readPewter d o)
  | 0x3 => (d, readRadio d o)
  | 0x4 => (d, if o = 0 then img.reg 0x04000000 else 0)
  | 0x5 => (d, readLanes img d o)
  | 0x6 => (d, readFabric img d o)
  | 0x7 => (d, readMemory img d o)
  | 0x8 => (d, readDispatcher img d o)
  | 0x9 => (d, readCipher d o)
  | 0xA => readTime img d o
  | 0xB => (d, readPower d o)
  | 0xC => readSupervisor img d m o
  | _ => (d, 0)

/-! ### Writes -/

/-- The bits of the register at `off` that are IMG (Table 0.1). -/
def imgBits (off : Nat) : Nat :=
  let o := off % 2 ^ 24
  match off / 2 ^ 24 with
  | 0x0 => if o = 0x38 then 0x00FFFF0F else if o = 0x40 ∨ o = 0x44 then 0xFFFFFFFF else 0
  | 0x4 => if o = 0 then 0x0FFFF001 else 0
  | 0x5 =>
    if (slotIn o 0x32000 4 512).isSome then 0x00FFFFFF
    else if (slotIn o 0x30004 0x40 64).isSome then 0x00FFFFFF
    else if (slotIn o 0x34010 0x10 63).isSome then 0xFFF8FFFF
    else if (slotIn o 0x34014 0x10 63).isSome then 0xFFFFFFFF
    else 0
  | 0x6 => if o = 0 then 0x00FF03FF else 0
  | 0x7 => if o = 0 ∨ o = 4 ∨ o = 8 then 0xFFFFFFFF else 0
  | 0x8 =>
    if o = 0 then 0x0FE00001 else if o = 4 then 0x0FF00001 else if o = 8 then 3
    else if o = 0x80000 then 0x0FF00001 else if o = 0x80004 then 0x1FF else 0
  | 0xA => if (slotIn o 0x400 4 32).isSome ∨ (slotIn o 0x1100 4 64).isSome then 0xFFFFFFFF else 0
  | 0xC => if o = 0x14 then 0x1FFF else if o = 0x18 then 0x8FFFFFCF else 0
  | _ => 0

/-- The source that refuses a write to an IMG field: the block's unit 0, the supervisor for the identity
block, and a lane's own for its group (R8, R13; log 56). -/
def refusingSrc (off : Nat) : Nat :=
  match groupIn off 0x05030000 0x40 80 with
  | some (n, _) => laneSrc n
  | none => if off / 2 ^ 24 = 0 then 0x0C00 else off / 2 ^ 24 * 256

/-- A write of a bank register (R420): cores at EXEC, the supervisor and management commands. -/
def writeBank (d : Dyn) (m : Master) (s g : Nat) (v : Word) : Dyn :=
  let x := v.toNat
  let core := srcSub s == 1
  let ctr (f : Ctr → Ctr) (k : Nat) : Dyn :=
    d.onBank s (fun b => { b with ctrs := Map.upd Ctr.reset b.ctrs k f })
  let refused := writeRefused d s
  match groupIn g 0 0x18 (bankSize s) with
  | some (k, w) =>
    if w % 4 ≠ 0 then d
    else if !m.isExecOrHost then refused
    else match w with
      | 0x00 => ctr (fun c => { c with cfg := v &&& (if core then 0xFCFFFFFF else 0xDCFFFFFF) }) k
      | 0x04 => ctr (fun c => { c with master := v }) k
      | 0x08 => ctr (fun c => { c with base := v }) k
      | 0x0C => ctr (fun c => { c with limit := v }) k
      | 0x10 => ctr (fun c => { c with value := c.value / 2 ^ 32 * 2 ^ 32 + x }) k
      | 0x14 => ctr (fun c => { c with
          value := c.value % 2 ^ 32 + x % 65536 * 2 ^ 32, hiLatch := x % 65536 }) k
      | _ => d
  | none =>
    if g = 0xC0 ∨ g = 0xC4 ∨ g = 0xE4 ∨ (core ∧ g = 0xD8) then
      if !m.isExecOrHost then refused
      else match g with
        | 0xC0 => d.onBank s (fun b => { b with ovf := b.ovf ^^^ Nat.land b.ovf x })
        | 0xC4 => d.onBank s (fun b => { b with dump := bit x 0 })
        | 0xD8 => d.onBank s (fun b => { b with
            valid := b.valid && !bit x 7, overrun := b.overrun && !bit x 6 })
        | _ => d.onBank s (fun b => { b with
            sampleSeed := x % 65536, lfsr := if x % 65536 = 0 then 0xACE1 else x % 65536 })
    else d

/-- Writes in the supervisor's block (R419, R420, R429). -/
def writeSupervisor (d : Dyn) (m : Master) (o : Nat) (v : Word) : Dyn :=
  let refused := writeRefused d 0x0C00
  if 0x10000 ≤ o then (if hasBank (o / 256) then writeBank d m (o / 256) (o % 256) v else d)
  else match o with
  | 0x08 => if m.isExecOrHost then { d with rep := { d.rep with alertCfg := v &&& 0x001FFF0F } } else refused
  | 0x0C =>
    if m.isExecOrHost then
      { d with rep := { d.rep with alertPending := d.rep.alertPending && !bit v.toNat 0 } }
    else refused
  | 0x10 => if m.isExecOrHost then { d with perf := { d.perf with perfCfg := v &&& 0x0000FF01 } } else refused
  | 0x20 => dumpRead d v
  | _ => d

/-- A write of MASK_STATE: clearing ALARMED zeroes the register (Table 3.6). -/
def writeMask (d : Dyn) (n : Nat) (v : Nat) : Dyn :=
  if bit v 0 && bit (Map.get 0 d.mask n) 0 then { d with mask := Map.set d.mask n 0 } else d

/-- Writes in the lanes' block (R281, R298, R308). -/
def writeLanes (img : Img) (d : Dyn) (m : Master) (o : Nat) (v : Word) : Dyn :=
  match slotIn o 0x20004 0x40 80, slotIn o 0x30000 0x40 64, slotIn o 0x34018 0x10 63 with
  | some n, _, _ => laneCtrl img d m n (v.toNat % 4)
  | _, some n, _ => brCtrlSend img d m n v.toNat
  | _, _, some k =>
    txPost img (rxConsume img d m (k + 1) (BitVec.ofNat 16 (v.toNat / 65536))) m (k + 1)
      (BitVec.ofNat 16 v.toNat)
  | _, _, _ => d

/-- Writes in the time unit's block (R374). -/
def writeTime (img : Img) (d : Dyn) (m : Master) (o : Nat) (v : Word) : Dyn :=
  match slotIn o 0x20 4 8, groupIn o 0x80 8 16 with
  | some k, _ => cellActive img d m k v
  | _, some (g, w) =>
    if w = 0 then pulseArm img d m g v else pulseArmHi img d m g v
  | _, _ =>
    match o with
    | 0x04 => timeCtrl img d m (v.toNat % 4)
    | 0x40 => pulseCtrl img d m v.toNat
    | _ => d

/-- Writes in the cipher block (R382, R383). An ACQUIRE_URGENT by a register write suspends after a free
number of blocks: the command ACQUIRE_URGENT names it. -/
def writeCipher (img : Img) (d : Dyn) (m : Master) (o : Nat) (v : Word) : Dyn :=
  match slotIn o 0 4 8, slotIn o 0x100 4 8 with
  | some e, _ =>
    let op := v.toNat % 4
    if op = 2 then
      let (n, d1) := freshNat d
      lockWrite img d1 m e op n
    else lockWrite img d m e op 0
  | _, some e => cipherGo img d m e v.toNat
  | _, _ => d

/-- A write of the register at `off` by master `m`: the register's own behaviour, the field access codes
of Table 0.1, and ACCESS_REFUSED where the register has an IMG field (R6, R8, R9). -/
def regWrite (img : Img) (d : Dyn) (m : Master) (off : Nat) (v : Word) : Dyn :=
  let o := off % 2 ^ 24
  if imgBits off ≠ 0 then
    (if m = .loader then d else accessRefused d (refusingSrc off) (regBase + off) m.source)
  else match off / 2 ^ 24 with
  | 0x1 => match slotIn o 0x400 4 192 with
    | some c => doorbell d m c v
    | none => d
  | 0x3 => match slotIn o 0x10000 4 256 with
    | some n => writeMask d n v.toNat
    | none => d
  | 0x5 => writeLanes img d m o v
  | 0x6 => match slotIn o 0x1100 4 64 with
    | some r => portCtrl d m r (v.toNat % 4) (v.toNat / 4 % 4)
    | none => d
  | 0x8 => if o = 0x10 then taskCmdWrite img d m v.toNat else d
  | 0x9 => writeCipher img d m o v
  | 0xA => writeTime img d m o v
  | 0xB =>
    if o = 0 then powerRequest img d m (v.toNat % 4)
    else if o = 4 then d.onPower (fun p => { p with brown := p.brown && !bit v.toNat 31 })
    else d
  | 0xC => writeSupervisor d m o v
  | _ => d

/-! ### The access as a packet (R318, R219) -/

/-- The endpoint that serves a register block; none for an index above 0x0C (R318). -/
def regEndpoint (off : Nat) : Option Nat :=
  match off / 2 ^ 24 with
  | 0x8 => endpointOf 0x0800
  | 0x9 => endpointOf 0x0900
  | 0xA => endpointOf 0x0A00
  | b => if b ≤ 0x0C then endpointOf 0x0C00 else none

/-- Blocks accept only aligned 32-bit words (R219). -/
def regWord (off n : Nat) : Bool := decide (off % 4 = 0) && decide (n = 4)

/-- An access of `n` bytes at offset `off` where it is served: a read, or a write of `w`. -/
def regPerform (img : Img) (d : Dyn) (m : Master) (off n : Nat) (w : Option Word) : Dyn × Resp :=
  if !regWord off n then (d, { status := 5, reason := 3, data := [] })
  else match w with
    | none =>
      let (d1, v) := regRead img d m off
      (d1, { status := 0, reason := 0, data := leBytes 4 v })
    | some v => (regWrite img d m off v, Resp.ok)

/-- A request at its target: register space, memory, or an EVENT, which is only acknowledged (log 59). -/
def performPacket (img : Img) (d : Dyn) (p : Packet) : Dyn × Resp :=
  let a := p.address.toNat
  if p.kind = 3 ∨ a < regBase then performMem img d p
  else if p.kind = 2 then (d, { status := 5, reason := 3, data := [] })
  else regPerform img d (packetMaster p) (a - regBase) p.length.toNat
    (if p.kind = 1 then some (BitVec.ofNat 32 (leNat p.data)) else none)

/-- One packet to register space (R318, R320). The supervisor reaches the blocks it serves itself without the
fabric (log 57). -/
def regPacket (img : Img) (d : Dyn) (m : Master) (off n : Nat) (w : Option Word) : Dyn × Resp :=
  match regEndpoint off with
  | none => (d, { status := 5, reason := 2, data := [] })
  | some e =>
    if (endpointOf m.source).getD 0 = e then regPerform img d m off n w
    else
      let q := requestOf (senderOf m) e 3 (if w.isSome then 1 else 0) (regBase + off) n
        (match w with
         | some v => (leBytes 4 v.toNat ++ zeros (n - 4)).take n
         | none => [])
      exchange performPacket img d q (fun d => regPerform img d m off n w)

/-- A register access by master `m`: one packet per aligned 128-byte block (R320). -/
def regAccess (img : Img) (d : Dyn) (m : Master) (off n : Nat) (w : Option Word) : Dyn × Resp :=
  let (d1, r) := (packetsOf off n).foldl
    (fun (acc : Dyn × Resp) p =>
      let (d', r) := regPacket img acc.1 m p.1 p.2 w
      (d', acc.2.join r)) (d, Resp.ok)
  (d1, if r.status ≤ 1 then r else { r with data := [] })

/-- The TASK_CMD writes of a master's flow that come before its next access to the dispatcher (R321). -/
def cmdsBefore (d : Dyn) (m : Master) : Nat :=
  ((d.fab.inflight ++ d.fab.waiting).filter (fun q => isTaskCmd q && some q.src.toNat == endpointOf m.source
    && some q.dest.toNat == endpointOf 0x0800 && q.cls == 3)).length

/-- An access to the dispatcher that must wait, a write or a read: the command queue has no room for the TASK_CMD
writes before it in its flow, nor for its own (R157, R171, R321). -/
def regWaits (d : Dyn) (m : Master) (off : Nat) (write : Bool) : Bool :=
  let n := cmdsBefore d m + b2n (write && decide (off = 0x08000010) && mayPost m)
  decide (off / 2 ^ 24 = 8) && decide (0 < n) && decide (256 < d.disp.cmdQ.length + n)

/-- REGISTER_WRITE: a write of one word by a master (R6, R8). One that must wait leaves the state. -/
def execRegisterWrite (m : Master) (offset : Word) (value : Word) (s : State) : Out :=
  act (fun img d =>
    if regWaits d m offset.toNat true then d
    else
      let (d1, r) := regAccess img d m offset.toNat 4 (some value)
      { d1 with mem := { d1.mem with lastResp := r } }) s

end Sys2Proof.Machine
end

