-- ==== Sys2Proof/Machine/BronzeMem.lean ====
section
/-! DEFINITION. A Bronze core's scalar loads, stores and atomics (R183, R184, R205, R208). -/

namespace Sys2Proof.Machine

/-- The master of a core's own register accesses: the core at its present level. -/
def coreMaster (d : Dyn) (c : Core) : Master := .core c (d.status c.val).pl

/-- A scalar access as the address checks leave it: where it goes, or what it raises (R176, R177, R184). -/
def checkAccess (d : Dyn) (c : Nat) (a : Addr) (size : Nat) : Option Exc :=
  if accessDenied d c a.toNat size then some (excAccess 0 a)
  else if a.toNat % size ≠ 0 then some (excAlign a)
  else none

/-- A read of `size` bytes by core `c`: local memory, register space, or the fabric. -/
def scalarLoad (img : Img) (d : Dyn) (c : Core) (a size : Nat) : Dyn × Resp :=
  if regBase ≤ a then regAccess img d (coreMaster d c) (a - regBase) size none
  else plainLoad img d c.val a size

/-- A write by core `c`; a shadow's register write goes no further than its signature (R140). -/
def scalarStore (img : Img) (d : Dyn) (c : Core) (a : Nat) (bytes : List Byte) : Dyn × Resp :=
  if regBase ≤ a then
    (if isShadow d c.val then (d, Resp.ok)
     else regAccess img d (coreMaster d c) (a - regBase) bytes.length
       (some (BitVec.ofNat 32 (leNat bytes))))
  else plainStore img d c.val a bytes

/-- The circular-outside event of an AM 1 or AM 2 access (R187). -/
def countCirc (d : Dyn) (c : Nat) (pn : BitVec 4) (f : AddrForm) (size : Nat) : Dyn :=
  countOutside d c (f.step.isSome && d.circOutside c pn.toNat f.addr.toNat size)

/-- The pointer update of a completed access (R186). -/
def stepPtr (d : Dyn) (c : Nat) (pn : BitVec 4) (f : AddrForm) : Dyn :=
  match f.step with
  | some st => d.postMod c pn.toNat st
  | none => d

/-- A read by core `c` that must wait behind the TASK_CMD writes of its flow (R321, R171). -/
def readWaits (d : Dyn) (c : Core) (a : Nat) : Bool :=
  decide (regBase ≤ a) && regWaits d (coreMaster d c) (a - regBase) false

/-- LD and LDU (R183). A read that comes behind held TASK_CMD writes waits with them (R171, R321). -/
def loadOp (c : Core) (rd : Reg5) (pn : BitVec 4) (am : BitVec 3) (sz : BitVec 2) (off : BitVec 12)
    (signed : Bool) (img : Img) (d : Dyn) : Res :=
  let f := d.addrForm c.val pn am sz off
  let size := 2 ^ sz.toNat
  legally f.legal d (fun d =>
    match checkAccess d c.val f.addr size with
    | some e => .exc d e
    | none =>
      if readWaits d c f.addr.toNat then .wait d
      else
        let d1 := countCirc (countAccess d c.val 0x0105 f.addr.toNat) c.val pn f size
        let (d2, r) := scalarLoad img d1 c f.addr.toNat size
        if 2 ≤ r.status then
          loadFailed img d2 c.val f.addr.toNat r.status (fun d v => d.wd c.val rd (BitVec.ofNat 32 v))
        else
          let x := leNat r.data
          let v : Word := if signed then BitVec.ofInt 32 (sx (8 * size) x) else BitVec.ofNat 32 x
          .done ((stepPtr d2 c.val pn f).wd c.val rd v) none)

/-- ST (R183). A TASK_CMD store to a full command queue does not complete (R157). -/
def storeOp (c : Core) (rd : Reg5) (pn : BitVec 4) (am : BitVec 3) (sz : BitVec 2) (off : BitVec 12)
    (img : Img) (d : Dyn) : Res :=
  let f := d.addrForm c.val pn am sz off
  let size := 2 ^ sz.toNat
  let a := f.addr.toNat
  legally f.legal d (fun d =>
    match checkAccess d c.val f.addr size with
    | some e => .exc d e
    | none =>
      if decide (regBase ≤ a) && regWaits d (.core c (d.status c.val).pl) (a - regBase) true && !isShadow d c.val then .wait d
      else
        let bytes := leBytes size (d.rd c.val rd).toNat
        let d1 := feedSig (countCirc (countAccess d c.val 0x0106 a) c.val pn f size) c.val a bytes
        let (d2, r) := scalarStore img d1 c a bytes
        let d3 := if 2 ≤ r.status then storeFailed img d2 c.val a r.status else d2
        .done (stepPtr d3 c.val pn f) none)

def execLd (c : Core) (rd : Reg5) (pn : BitVec 4) (am : BitVec 3) (sz : BitVec 2) (off : BitVec 12)
    (s : State) : Out := act (bronze c 2 (loadOp c rd pn am sz off true)) s
def execLdu (c : Core) (rd : Reg5) (pn : BitVec 4) (am : BitVec 3) (sz : BitVec 2) (off : BitVec 12)
    (s : State) : Out := act (bronze c 2 (loadOp c rd pn am sz off false)) s
def execSt (c : Core) (rd : Reg5) (pn : BitVec 4) (am : BitVec 3) (sz : BitVec 2) (off : BitVec 12)
    (s : State) : Out := act (bronze c 3 (storeOp c rd pn am sz off)) s

/-- An atomic (R208, R196): FUNC `func` on the word at Pa; the old word goes to RD. -/
def atomicOp (c : Core) (func : Nat) (rd ra rb : Reg5) (img : Img) (d : Dyn) : Res :=
  legally (isFile16 ra && !lockstepTask d c.val) d (fun d =>
    let p := d.rp c.val ra.toNat
    let a := p.toNat
    let keep (d : Dyn) (v : Nat) : Dyn := d.wd c.val rd (BitVec.ofNat 32 v)
    match checkAccess d c.val p 4 with
    | some e => .exc d e
    | none =>
      if inLocal a || decide (regBase ≤ a) then loadFailed img d c.val a 5 keep
      else
        let (d1, r) := memPacket img (sampleAccess d c.val a) (coreSender d c.val) a
          (.atomic func (d.rd c.val rb).toNat (d.rd c.val rd).toNat)
        if 2 ≤ r.status then loadFailed img d1 c.val a r.status keep
        else .done (keep d1 (leNat r.data)) none)

def execAtomicSwap (c : Core) (rd ra rb : Reg5) (s : State) : Out := act (bronze c 7 (atomicOp c 0 rd ra rb)) s
def execAtomicAdd (c : Core) (rd ra rb : Reg5) (s : State) : Out := act (bronze c 7 (atomicOp c 1 rd ra rb)) s
def execCas (c : Core) (rd ra rb : Reg5) (s : State) : Out := act (bronze c 7 (atomicOp c 2 rd ra rb)) s
def execAtomicAnd (c : Core) (rd ra rb : Reg5) (s : State) : Out := act (bronze c 7 (atomicOp c 3 rd ra rb)) s
def execAtomicOr (c : Core) (rd ra rb : Reg5) (s : State) : Out := act (bronze c 7 (atomicOp c 4 rd ra rb)) s

end Sys2Proof.Machine
end

