-- ==== Sys2Proof/Machine/Image.lean ====
section
/-! DEFINITION. The image copies in flash and the checks of phases 0x05 and 0x06 and of an image's
structure (R20 to R36, R456). -/

namespace Sys2Proof.Machine

/-- A refusal of the loader (R41): its code, the section's directory index or 0xFF, the record, and the
earlier claimant. -/
structure Refuse where
  code : Nat
  sect : Nat
  rec_ : Nat
  earlier : Nat
  earlierRec : Nat
deriving DecidableEq, Repr

/-- A refusal without an earlier claimant. -/
def refuseAt (code sect rec_ : Nat) : Refuse := { code, sect, rec_, earlier := 0xFF, earlierRec := 0 }

/-- A refusal that no section concerns; its RECORD is 0 (log 61). -/
def refuseAll (code : Nat) : Refuse := refuseAt code 0xFF 0

/-- A section of a copy, its body decrypted (Table 2.3). -/
structure Sect where
  idx : Nat
  type : Nat
  off : Nat
  len : Nat
  plainLen : Nat
  enc : Bool
  body : List Byte
deriving DecidableEq, Repr

/-- A copy that phase 0x06 accepts. -/
structure Image where
  copy : Nat
  secver : Nat
  flags : Nat
  build : List Byte
  dirEnd : Nat
  offset : Nat
  length : Nat
  sects : List Sect
deriving DecidableEq, Repr

/-! ### Phase 0x05 (R20, R22) -/

/-- The flash is refused (R20). -/
def flashRefused (f : FlashSt) : Option Nat :=
  if !f.responds || !f.sfdp then some 0x0101
  else if !f.quad || decide (f.density < 0x100000) then some 0x0102
  else none

/-- The copy range breaks R23. -/
def rangeBad (f : FlashSt) (dir : BootDir) (copy : Nat) : Bool :=
  let (o, n) := dir.copyRange copy
  let (o', n') := dir.copyRange (3 - copy)
  decide (n = 0) || decide (o < 0x10000) || decide (o % 0x10000 ≠ 0) || decide (f.density < o + n)
  || (decide (n' ≠ 0) && decide (o < o' + n') && decide (o' < o + n))

/-! ### Phase 0x06 (R25, R33 to R36, R456) -/

/-- Steps 2 to 7 of R456 on the header of a copy of `n` bytes. -/
def headerCode (h : List Byte) (n minSecver : Nat) : Option Nat :=
  let count := fld h 0x18 2
  let clk := fld h 0x1A 1
  let dirOff := fld h 0x1C 4
  if fld h 0 4 ≠ 0x49363954 then some 0x0201
  else if fld h 4 2 ≠ 1 ∨ fld h 6 2 ≠ 0x80 ∨ count = 0 ∨ 256 < count ∨ (clk ≠ 0 ∧ (clk < 25 ∨ 133 < clk))
      ∨ dirOff % 64 ≠ 0 ∨ dirOff < 0x80 then some 0x0202
  else if fld h 8 4 ≠ n ∨ n % 64 ≠ 0 ∨ 0x4000000 < n ∨ n < dirOff + 32 * count + 256 then some 0x0203
  else if fld h 0xC 4 ≠ Config.partNumber then some 0x0204
  else if Config.stepping < fld h 0x10 2 ∨ fld h 0x12 2 < Config.stepping then some 0x0205
  else if fld h 0x14 2 < minSecver ∨ 64 < fld h 0x14 2 then some 0x0206
  else none

/-- The signature check (R34): the image's FLAGS, its trailer and the digest of the signed range. -/
def signCode (fuse : FuseSt) (flags : Nat) (t digest : List Byte) : Option Nat :=
  let part (o : Nat) : List Byte := (t.drop o).take 48
  if !bit flags 0 then (if fuse.sigRequired then some 0x0208 else none)
  else if fuse.pkHash = 0 ∨ leNat (sha384 (part 0x38 ++ part 0x68)) ≠ fuse.pkHash then some 0x0209
  else if ecdsaVerify (beNat (part 0x38)) (beNat (part 0x68)) digest (beNat (part 0x98)) (beNat (part 0xC8))
    then none
  else some 0x020A

/-- Steps 8 to 10 of R456. -/
def trailerCode (fuse : FuseSt) (bytes : List Byte) (flags : Nat) : Option Nat :=
  let signed := bytes.take (bytes.length - 256)
  let t := bytes.drop (bytes.length - 256)
  if fld t 0 4 ≠ 0x54363954 then some 0x0201
  else
    let digest := sha384 signed
    if (t.drop 8).take 48 ≠ digest then some 0x0207 else signCode fuse flags t digest

/-- Directory entry `i` and its section as stored (R26). -/
def sectAt (bytes : List Byte) (dirOff i : Nat) : Sect :=
  let e := (bytes.drop (dirOff + 32 * i)).take 32
  { idx := i, type := fld e 0 2, off := fld e 4 4, len := fld e 8 4, plainLen := fld e 0xC 4,
    enc := bit (fld e 2 2) 0, body := (bytes.drop (fld e 4 4)).take (fld e 8 4) }

/-- A section decrypted with the image key; none when its tag fails (R36). A section too short for a tag, or
reaching past the copy, has no tag that holds (log 121). -/
def decryptSect (bytes : List Byte) (dirOff key : Nat) (s : Sect) : Option Sect :=
  if !s.enc then some s
  else
    let e := (bytes.drop (dirOff + 32 * s.idx)).take 32
    let iv := (e.drop 0x10).take 12
    let text := s.body.take (s.body.length - 16)
    let rks := aesRoundKeys key
    if 16 ≤ s.body.length ∧ s.body.length = s.len ∧ gcmTagOf rks iv (e.take 16) text = s.body.drop (s.body.length - 16)
    then some { s with body := ctrText rks iv 2 text }
    else none

/-- Steps 11 and 12 of R456; 0x020C names the first encrypted section (log 61). -/
def decryptAll (bytes : List Byte) (dirOff : Nat) (k63 : KeySlot) (l : List Sect) : Sum Refuse (List Sect) :=
  match (if k63.origin = 0 then l.find? Sect.enc else none) with
  | some s => .inl (refuseAt 0x020C s.idx 0)
  | none =>
    let out := l.map (fun s => (s, decryptSect bytes dirOff k63.key s))
    match out.find? (fun e => e.2.isNone) with
    | some e => .inl (refuseAt 0x020B e.1.idx 0)
    | none => .inr (out.filterMap (·.2))

/-- The checks of phases 0x05 and 0x06 on a copy, in the order of R456. -/
def check6 (f : FlashSt) (fuse : FuseSt) (k63 : KeySlot) (dir : BootDir) (copy : Nat) : Sum Refuse Image :=
  if rangeBad f dir copy then .inl (refuseAll 0x0104)
  else
    let (o, n) := dir.copyRange copy
    let h := f.readN o 128
    match headerCode h n fuse.minSecver with
    | some c => .inl (refuseAll c)
    | none =>
      let bytes := f.readN o n
      match trailerCode fuse bytes (fld h 0x16 2) with
      | some c => .inl (refuseAll c)
      | none =>
        let dirOff := fld h 0x1C 4
        let count := fld h 0x18 2
        match decryptAll bytes dirOff k63 ((List.range count).map (sectAt bytes dirOff)) with
        | .inl r => .inl r
        | .inr sects => .inr
            { copy, secver := fld h 0x14 2, flags := fld h 0x16 2, build := (h.drop 0x20).take 8,
              dirEnd := dirOff + 32 * count, offset := o, length := n, sects }

/-! ### Structure (R24, R26 to R28, R30) -/

/-- Table 2.4: type, whether it is required, record length and maximum records. -/
def sectTable : List (Nat × Bool × Nat × Nat) :=
  [(1, true, 64, 256), (2, true, 16, 2048), (3, true, 32, 80), (4, true, 32, 256), (5, false, 16, 65536),
   (6, false, 16, 256), (7, false, 8, 32), (8, false, 32, 16), (9, false, 16, 256), (0xA, false, 64, 1),
   (0xB, false, 32, 256), (0xC, true, 16, 226), (0xD, false, 48, 64), (0xE, false, 12, 4096),
   (0xF, true, 48, 1)]

/-- 0x0305 of a section's body (R26, R27, R30). -/
def formatBad (s : Sect) (recLen most : Nat) : Bool :=
  let n := fld s.body 0 2
  let k := fld s.body 4 4
  decide (s.plainLen + (if s.enc then 16 else 0) ≠ s.len) || decide (s.plainLen < 8)
  || decide (n ≠ recLen) || decide (fld s.body 2 2 ≠ 1) || decide (k = 0) || decide (most < k)
  || (if s.type = secProgram then
        decide (s.plainLen < 56) || decide (s.plainLen ≠ 56 + fld s.body 0x10 4)
      else decide (s.plainLen ≠ 8 + n * k))

/-- The 0x0301 to 0x0305 check of one section after the sections before it. An informational section, of type
0x8000 up, is held to its range and its tag and not to Table 2.3's lengths: the model's choice (R28; log 142). -/
def sectCode (im : Image) (prev : List Sect) (s : Sect) : Option Nat :=
  if s.off % 64 ≠ 0 ∨ s.off < im.dirEnd ∨ im.length - 256 < s.off + s.len
      ∨ prev.any (fun p => decide (p.len ≠ 0) && decide (s.len ≠ 0)
        && decide (s.off < p.off + p.len) && decide (p.off < s.off + s.len)) then some 0x0301
  else if 0x8000 ≤ s.type then none
  else match sectTable.find? (fun e => e.1 == s.type) with
  | none => some 0x0302
  | some (_, _, recLen, most) =>
    let same := (prev.filter (fun p => p.type == s.type)).length
    if (if s.type = secProgram then 64 ≤ same else 1 ≤ same) then some 0x0303
    else if formatBad s recLen most then some 0x0305
    else none

def structScan (im : Image) : List Sect → List Sect → Option Refuse
  | _, [] => none
  | prev, s :: rest =>
    match sectCode im prev s with
    | some c => some (refuseAt c s.idx 0)
    | none => structScan im (s :: prev) rest

/-- The structure checks: every section in directory order, then the missing types (R28, R41; log 60). -/
def structCheck (im : Image) : Option Refuse :=
  match structScan im [] im.sects with
  | some r => some r
  | none =>
    if sectTable.all (fun e => !e.2.1 || im.sects.any (fun s => s.type == e.1)) then none
    else some (refuseAll 0x0304)

/-! ### The records as the configuration holds them -/

/-- A section's records; a PROGRAM record carries its directory index as byte 48. -/
def Sect.records (s : Sect) : List (List Byte) :=
  if s.type = secProgram then [(s.body.drop 8).take 48 ++ leBytes 1 s.idx]
  else chunks (fld s.body 0 2) (s.body.drop 8)

/-- Records by section type, in directory order. -/
def sectionMap (l : List Sect) : Map (List (List Byte)) :=
  l.foldl (fun m s => if 0x8000 ≤ s.type then m else Map.set m s.type (Map.get [] m s.type ++ s.records)) []

/-- The largest MU of CELLS (Table 6.7). -/
def maxMu (cells : List (List Byte)) : Nat := cells.foldl (fun m r => max m (cellMu r)) 0

/-- The IMG registers after BOUNDARY.MU, SO_STATUS.IMAGE of `orders` records (R147) and the REGISTERS records,
in record order (R30, R32). -/
def imgRegs (cells regs : List (List Byte)) (orders : Nat) : Map Word :=
  regs.foldl (fun m r =>
    let off := fld r 0 4
    let k := Nat.land (fld r 4 4) (imgBits off)
    if k = 0 then m
    else
      let old := (Map.get (Map.get 0 imgReset off) m off).toNat
      Map.set m off (BitVec.ofNat 32 ((old ^^^ Nat.land old k) ||| Nat.land (fld r 8 4) k)))
    (Map.set (Map.set [] 0x08000008 (BitVec.ofNat 32 (maxMu cells))) 0x08080004 (BitVec.ofNat 32 orders))

/-- The configuration that a copy stands for, before its availability is known (R39). -/
def Image.config (im : Image) : Img :=
  let sections := sectionMap im.sects
  { Img.reset with
    sections
    regs := imgRegs (Map.get [] sections secCells) (Map.get [] sections secRegisters)
      (Map.get [] sections secOrders).length
    buildLo := BitVec.ofNat 32 (leNat (im.build.take 4))
    buildHi := BitVec.ofNat 32 (leNat (im.build.drop 4)) }

/-- Directory index of a section type that appears once, 0xFF without it. -/
def Image.index (im : Image) (type : Nat) : Nat :=
  match im.sects.find? (fun s => s.type == type) with
  | some s => s.idx
  | none => 0xFF

end Sys2Proof.Machine
end

