-- ==== Sys2Proof/Machine/Checks.lean ====
section
/-! DEFINITION. The record checks of phase 0x07 that end a copy: 0x0306 and 0x020C (R27, R41 and the rules
of each section). A check sees the records before it, last one first. -/

namespace Sys2Proof.Machine

/-- The position of the first record that a check finds bad. -/
def scanRecs (bad : List (List Byte) → List Byte → Bool) : List (List Byte) → Nat → List (List Byte) → Option Nat
  | _, _, [] => none
  | prev, k, r :: rest => if bad prev r then some k else scanRecs bad (r :: prev) (k + 1) rest

/-- A field of an earlier record holds the same value. -/
def seenField (prev : List (List Byte)) (r : List Byte) (off size : Nat) : Bool :=
  prev.any (fun p => fld p off size == fld r off size)

/-! ### CELLS and ANTENNA_MAP (R55 to R60, R70) -/

/-- Channel bandwidths of NR FR1 in units of 100 kHz (Table 3.1). -/
def fr1Bands : List Nat := [50, 100, 150, 200, 250, 300, 400, 500, 600, 700, 800, 900, 1000]

/-- The rows of Table 3.1: RAT, MU, whether extended CP is allowed, bandwidths, least and largest N. -/
def numerologies : List (Nat × Nat × Bool × List Nat × Nat × Nat) :=
  [(0, 0, true, [14, 30, 50, 100, 150, 200], 128, 2048), (1, 0, false, fr1Bands.take 8, 256, 4096),
   (1, 1, false, fr1Bands, 256, 4096), (1, 2, true, fr1Bands.drop 1, 256, 2048),
   (1, 2, true, [500, 1000, 2000], 1024, 4096), (1, 3, false, [500, 1000, 2000, 4000], 512, 4096)]

/-- The cell forms a row of Table 3.1 (R55). -/
def numerologyOk (r : List Byte) : Bool :=
  let n := fld r 8 2
  (List.range 13).any (fun k => n == 2 ^ k) && numerologies.any (fun (rat, mu, ext, bands, lo, hi) =>
    fld r 1 1 == rat && fld r 2 1 == mu && (fld r 3 1 == 0 || (fld r 3 1 == 1 && ext))
    && bands.contains (fld r 4 2) && decide (lo ≤ n) && decide (n ≤ hi))

/-- A DSS pair that R58 allows. -/
def dssOk (r p : List Byte) : Bool :=
  let nr := if fld r 1 1 = 1 then r else p
  fld p 0xB 1 == fld r 0 1 && decide (fld r 1 1 + fld p 1 1 = 1) && fld nr 2 1 == 0 && fld nr 3 1 == 0
  && decide (fld nr 0x1C 1 % 4 = 0) && fld r 4 2 == fld p 4 2 && fld r 8 2 == fld p 8 2
  && fld r 0xC 6 == fld p 0xC 6 && fld r 0x14 6 == fld p 0x14 6

def cellBad (img : Img) (prev : List (List Byte)) (r : List Byte) : Bool :=
  let nrb := fld r 6 2
  let share := fld r 0xB 1
  let tdd := fld r 0x1E 1
  seenField prev r 0 1 || !numerologyOk r || decide (nrb < 6) || decide (275 < nrb)
  || decide (82 * fld r 8 2 < 1200 * nrb) || decide (100 * fld r 4 2 ≤ 12 * nrb * (15 * 2 ^ cellMu r))
  || decide (fld r 0xA 1 % 4 = 0) || (decide (fld r 1 1 = 0) && decide (fld r 0x1C 1 % 4 ≠ 0))
  || (decide (tdd ≠ 0xFF) && (decide (15 < tdd) || (pulseRec img tdd).isNone))
  || (decide (share ≠ 0xFF) && !(match cellRec img share with | some p => dssOk r p | none => false))

/-- A cell's sample rate in kHz (R56). -/
def cellRate (c : List Byte) : Nat := fld c 8 2 * 15 * 2 ^ cellMu c

/-- The rate of a record's stream in kHz (R59). -/
def mapRate (img : Img) (r : List Byte) : Nat :=
  match cellRec img (fld r 2 1) with
  | some c => cellRate c * fld r 3 1
  | none => 0

/-- One ANTENNA_MAP record after another of the same stream and direction (R59, R60). -/
def mapPairBad (img : Img) (r p : List Byte) : Bool :=
  let ext (x : List Byte) : Bool := ((cellRec img (fld x 2 1)).map cellExt).getD false
  let share := ((cellRec img (fld r 2 1)).map (fun c => fld c 0xB 1)).getD 0xFF
  fld p 2 1 == fld r 2 1 || (decide (share ≠ 0xFF) && fld p 2 1 == share)
  || fld p 4 1 != fld r 4 1 || fld p 5 1 != fld r 5 1 || fld p 6 1 != fld r 6 1
  || mapRate img p != mapRate img r || ext r || ext p

def mapBad (img : Img) (prev : List (List Byte)) (r : List Byte) : Bool :=
  let dir := fld r 1 1 % 2
  let ratio := fld r 3 1
  let taps := fld r 7 1
  let delay := fld r 0xE 1
  let same := prev.filter (fun p => fld p 0 1 == fld r 0 1 && fld p 1 1 % 2 == dir)
  (match cellRec img (fld r 2 1) with
    | some c => !bit (fld c 0xA 1) dir
    | none => true)
  || !([1, 2, 4, 8, 16]).contains ratio || decide (63 < fld r 4 1) || decide (15 < fld r 5 1)
  || !([8, 9, 12, 16]).contains (fld r 6 1) || decide (191 < taps) || (decide (taps = 0) && decide (ratio ≠ 1))
  || (if taps = 0 then decide (delay ≠ 0) else decide (taps ≤ delay))
  || (decide (taps ≠ 0) && (bufferOf img (fld r 0xC 2)).isNone)
  || (laneRecord img (fld r 4 1)).isNone || decide (491520 < mapRate img r)
  || decide (4 ≤ same.length) || same.any (mapPairBad img r)
  || prev.any (fun p => fld p 4 1 == fld r 4 1 && fld p 5 1 == fld r 5 1 && fld p 1 1 % 2 == dir
      && fld p 0 1 != fld r 0 1)

/-- DELAY against the stream's shortest base symbol (R60). -/
def delayBad (img : Img) (_ : List (List Byte)) (r : List Byte) : Bool :=
  match streamInfo img (fld r 0 1) (fld r 1 1 % 2) with
  | some i => (List.range i.syms).any (fun l => decide (i.samples l ≤ fld r 0xE 1))
  | none => true

/-! ### LANES, REGIONS, BUFFERS and USER_CONTEXTS -/

def laneBad (_ : List (List Byte)) (r : List Byte) : Bool :=
  let n := fld r 0 1
  decide (79 < n) || decide (2 < fld r 1 1) || fld r 2 1 != (if n < 64 then 0 else 1)
  || (decide (n = 64) && bit (fld r 3 1) 1) || decide (fld r 4 2 < 400) || decide (1000 < fld r 4 2)
  || decide (16 < fld r 6 1) || decide (24 < fld r 7 1) || decide (fld r 8 1 < 4) || decide (fld r 9 1 < 40)
  || decide (120 < fld r 9 1) || decide (fld r 0xC 2 < 64) || (decide (n < 64) && decide (63 < fld r 0xB 1))

/-- Where slot memory ends, and where DRAM begins and ends (R335). -/
def slotEnd : Nat := 0x10000000
def dramBase : Nat := 0x100000000
def dramEnd : Nat := 0xD00000000

def regionBad (prev : List (List Byte)) (r : List Byte) : Bool :=
  let i := regionOfRecord r
  seenField prev r 0 1 || decide (i.base % 65536 ≠ 0) || decide (i.len % 65536 ≠ 0) || decide (i.len = 0)
  || decide (2 < i.geom) || (decide (dramBase ≤ i.base) && decide (i.base < dramEnd) && decide (i.geom ≠ 2))

/-- The region that holds a whole range. -/
def regionOver (img : Img) (a n : Nat) : Option RegionInfo :=
  ((img.records secRegions).map regionOfRecord).find? (fun r => decide (r.base ≤ a) && decide (a + n ≤ r.base + r.len))

/-- Bytes that a BUFFERS record covers. -/
def bufferSpan (r : List Byte) : Nat × Nat := (fld r 8 6, fld r 4 4 * (fld r 0xE 2 * 64))

def bufferBad (img : Img) (_ : List (List Byte)) (r : List Byte) : Bool :=
  let count := fld r 4 4
  decide (1 < fld r 2 1 % 4) || decide (count = 0) || decide (65536 < fld r 0 2 + count)
  || decide (fld r 8 6 % 64 ≠ 0) || decide (fld r 0xE 2 = 0)
  || (regionOver img (bufferSpan r).1 (bufferSpan r).2).isNone

/-- A pool's range of contexts, and its area within its region (R106). -/
def poolRange (r : List Byte) : Nat × Nat := (fld r 0 2, fld r 2 2)
def poolArea (r : List Byte) : Nat × Nat := (fld r 0xC 4 * 128, fld r 2 2 * fld r 4 1 * fld r 8 4)

/-- Two ranges, each by its start and length, overlap. -/
def overlaps (x y : Nat × Nat) : Bool := decide (x.1 < y.1 + y.2) && decide (y.1 < x.1 + x.2)

def poolBad (img : Img) (prev : List (List Byte)) (r : List Byte) : Bool :=
  let (first, count) := poolRange r
  decide (count = 0) || decide (16384 < first + count) || decide (fld r 4 1 = 0) || decide (32 < fld r 4 1)
  || decide (1 < fld r 5 1) || decide (fld r 8 4 % 128 ≠ 0) || decide (fld r 8 4 < 384)
  || (match img.recordBy secRegions 0 1 (fld r 6 1) with
      | some g => decide (fld g 8 6 < dramBase) || decide (dramEnd ≤ fld g 8 6) || decide (fld g 0x10 8 < (poolArea r).1 + (poolArea r).2)
      | none => true)
  || prev.any (fun p => overlaps (poolRange p) (poolRange r)
      || (fld p 6 1 == fld r 6 1 && overlaps (poolArea p) (poolArea r)))

/-! ### PINS, PULSES, REGULATORS, TIME, POWER_POLICY, PROGRAM and WRAPPED_KEYS -/

def pinBad (_ : List (List Byte)) (r : List Byte) : Bool :=
  decide (31 < fld r 0 1) || decide (fld r 1 1 = 0) || decide (5 < fld r 1 1)

/-- A second PULSES record of one generator breaks Table 14.5 and is refused as such (log 121). -/
def pulseBad (prev : List (List Byte)) (r : List Byte) : Bool :=
  let target := fld r 2 1
  let period := fld r 0x10 4
  let width := fld r 0x14 4
  seenField prev r 0 1 || decide (15 < fld r 0 1) || !([1, 2]).contains (fld r 1 1) || decide (2 < target)
  || (decide (target ≠ 0) && decide (31 < fld r 4 1)) || (decide (target = 2) && decide (63 < fld r 5 1))
  || decide (width < 16)
  || (if fld r 1 1 = 2 then
        decide (period < 32) || decide (3932160000 < period) || decide (period ≤ fld r 8 4)
        || decide (period < width + 16)
      else decide (3932160000 < width))

def regulatorBad (prev : List (List Byte)) (r : List Byte) : Bool :=
  decide (63 < fld r 0 1) || decide (3 < fld r 1 1) || decide (3 < fld r 2 1)
  || !hasEndpoint (4 * fld r 0 1 + fld r 1 1) || decide (fld r 4 4 = 0) || decide (8000 < fld r 4 4)
  || decide (fld r 8 4 % 64 ≠ 0) || decide (fld r 8 4 < 192) || decide (1048576 < fld r 8 4)
  || prev.any (fun p => p.take 3 == r.take 3)

def timeBad (_ : List (List Byte)) (r : List Byte) : Bool :=
  let second := decide (fld r 1 1 = 1)
  let dom := fld r 6 1
  let log := sx 8 (fld r 7 1)
  let jump := fld r 0x10 4
  let lock := fld r 0x14 4
  let asym (o : Nat) : Bool := decide (655360000 < (sx 32 (fld r o 4)).natAbs)
  decide (1 < fld r 1 1) || decide (2 < fld r 2 1) || decide (2 < fld r 3 1) || decide (2 < fld r 4 1)
  || (decide (fld r 4 1 ≠ 0) && !bit (fld r 0 1) (fld r 4 1 - 1))
  || (if second then decide (dom < 44) || decide (63 < dom) || decide (log < -7) || decide (0 < log)
      else decide (dom < 24) || decide (43 < dom) || decide (log ≠ -4))
  || decide (jump < 100) || decide (1000000 < jump) || decide (lock < 10) || decide (1000 < lock)
  || decide (jump ≤ lock) || decide (fld r 0x18 2 = 0) || decide (3600 < fld r 0x18 2)
  || decide (fld r 0x1A 2 = 0) || asym 0x1C || asym 0x20

def policyBad (prev : List (List Byte)) (r : List Byte) : Bool :=
  let vmin := fld r 4 2
  let vmax := fld r 6 2
  match fld r 0 1 with
  | 1 =>
    decide (216 < fld r 2 2) || (bit (fld r 4 1) 0 && bit (fld r 4 1) 2)
    || prev.any (fun p => fld p 0 1 == 1 && fld p 2 2 == fld r 2 2)
  | 2 =>
    prev.any (fun p => fld p 0 1 == 2) || decide (fld r 2 2 < 93) || decide (400 < fld r 2 2)
    || !((decide (vmin = 0) && decide (vmax = 0))
        || (decide (650 ≤ vmin) && decide (vmin ≤ vmax) && decide (vmax ≤ 900)))
    || decide (15 < fld r 8 1) || decide (fld r 9 1 = 0) || decide (fld r 0xA 2 = 0)
  | 3 =>
    decide (8 ≤ (prev.filter (fun p => fld p 0 1 == 3)).length) || decide (31 < fld r 2 1)
    || decide (1 < fld r 3 1) || decide (fld r 4 1 % 4 = 0)
  | _ => true

def programBad (_ : List (List Byte)) (r : List Byte) : Bool := decide (fld r 8 4 ≤ fld r 0xC 4)

def keyBad (k63 : KeySlot) (_ : List (List Byte)) (r : List Byte) : Bool :=
  decide (63 < fld r 0 1) || decide (fld r 1 1 = 0) || decide (3 < fld r 1 1)
  || (keyUnwrap k63.key ((r.drop 8).take 40)).isNone

/-! ### The pass over all sections -/

/-- The record of a refusal that no record of its section concerns (log 61). -/
def noRecord : Nat := 0xFFFFFFFF

/-- The first 0x0306 of a section (R27, R29, R257, R399), by its position. -/
def sectionBad (img : Img) (k63 : KeySlot) (type : Nat) (recs : List (List Byte)) : Option Nat :=
  let scan (bad : List (List Byte) → List Byte → Bool) : Option Nat := scanRecs bad [] 0 recs
  let orMissing (ok : Bool) (o : Option Nat) : Option Nat :=
    match o with
    | some k => some k
    | none => if ok then none else some noRecord
  match type with
  | 1 => scan (cellBad img)
  | 2 => (match scan (mapBad img) with
    | some k => some k
    | none => scan (delayBad img))
  | 3 => orMissing (laneRecord img 64).isSome (scan laneBad)
  | 4 => scan regionBad
  | 5 => scan (bufferBad img)
  | 6 => scan (poolBad img)
  | 7 => scan pinBad
  | 8 => scan pulseBad
  | 9 => scan regulatorBad
  | 0xA => scan timeBad
  | 0xC => orMissing (recs.any (fun r => fld r 0 1 == 2)) (scan policyBad)
  | 0xD => scan (keyBad k63)
  | 0xF => scan programBad
  | _ => none

/-- The record checks of a copy, section by section in directory order (R41). -/
def recordCheck (img : Img) (k63 : KeySlot) : List Sect → Option Refuse
  | [] => none
  | s :: rest =>
    if 0x8000 ≤ s.type then recordCheck img k63 rest
    else if s.type = secKeys ∧ k63.origin = 0 then some (refuseAt 0x020C s.idx 0)
    else match sectionBad img k63 s.type s.records with
      | some k => some (refuseAt 0x0306 s.idx k)
      | none => recordCheck img k63 rest

/-! ### Checks on the values that REGISTERS records give (R41) -/

/-- The refusal of a check on register fields, each an offset and a mask: it names the last REGISTERS
record that covers a bit of them, else the section that the rule serves. -/
def registerRefuse (im : Image) (img : Img) (fields : List (Nat × Nat)) (serves : Nat) : Refuse :=
  let recs := img.records secRegisters
  let hits := (List.range recs.length).filter (fun k =>
    let r := recs.getD k []
    fields.any (fun f => fld r 0 4 == f.1 && Nat.land (fld r 4 4) f.2 != 0))
  match hits.getLast? with
  | some k => refuseAt 0x0306 (im.index secRegisters) k
  | none => refuseAt 0x0306 (im.index serves) noRecord

/-- Ranges of IMG fields: register, high bit, low bit, least and largest value (R147, R333, R354, Tables 11.14,
17.7, 17.8). DUMP_CFG.LOG is held to 4 to 15 when ENABLE is 1. -/
def fieldRanges (img : Img) : List (Nat × Nat × Nat × Nat × Nat) :=
  [(0x06000000, 23, 16, 1, 255), (0x06000000, 9, 0, 1, 1023), (0x07000000, 15, 0, 8, 65535),
   (0x07000004, 31, 24, 1, 255), (0x07000004, 11, 0, 1, 4095), (0x07000008, 31, 24, 1, 255),
   (0x07000008, 11, 0, 1, 4095), (0x08080004, 8, 0, 0, 256), (0x0C000014, 12, 0, 1, 8000)]
  ++ (if dumpsOn img then [(0x0C000018, 3, 0, 4, 15)] else [])
  ++ ((List.range 63).map (fun k =>
      [(0x05034010 + 16 * k, 26, 23, 0, 12), (0x05034010 + 16 * k, 22, 19, 0, 12)])).flatten

/-- Bits `hi` to `lo` as a mask. -/
def maskOf (hi lo : Nat) : Nat := 2 ^ (hi + 1) - 2 ^ lo

/-- A table in slot memory lies wholly in one region of small or medium geometry (R107, R126, R155). -/
def tableRegion (img : Img) (a n : Nat) : Option RegionInfo :=
  match regionOver img a n with
  | some r => if r.base < slotEnd ∧ r.geom < 2 then some r else none
  | none => none

/-- The user-context table's range, none while it is not in use (Table 4.4). -/
def contextTable (img : Img) : Option Nat :=
  let r := img.reg 0x04000000
  if bit r 0 then some (bits r 27 12 * 4096) else none

/-- Ranges that other tables hold: handle table and user-context table. -/
def heldTables (img : Img) : List (Nat × Nat) :=
  ((handleTable img).map (fun a => (a, 0x100000))).toList ++ ((contextTable img).map (fun a => (a, 0x40000))).toList

/-- A PROGRAM's load range. -/
def programSpan (r : List Byte) : Nat × Nat := (fld r 0 6, fld r 8 4)

/-- A fault of a table that CTX_TABLE, HANDLE_TABLE, TASK_TABLE or COMP_TABLE locates lies in ENABLE while the table
is not in use, else in BASE: the field concerned, as the register's offset and a mask (R41). -/
def tableField (img : Img) (off : Nat) : Nat × Nat :=
  if bit (img.reg off) 0 then (off, imgBits off - 1) else (off, 1)

/-- R107 fails. -/
def contextsBad (img : Img) : Bool :=
  !(img.records secContexts).isEmpty && (match contextTable img with
    | some a => (tableRegion img a 0x40000).isNone
    | none => true)

/-- R126 fails. -/
def handlesBad (img : Img) : Bool :=
  !(img.records secBuffers).isEmpty && (match handleTable img with
    | some a => (match tableRegion img a 0x100000 with
      | some r =>
        let span := (r.base, r.len)
        (img.records secBuffers).any (fun b => overlaps (bufferSpan b) span)
        || (match contextTable img with | some c => overlaps (c, 0x40000) span | none => false)
      | none => true)
    | none => true)

/-- R155 fails: the register that locates the table at fault. Where one table is not in use beside the other, that
one is at fault; where both are misplaced, TASK_TABLE's is named (log 60). -/
def tasksBad (img : Img) : Option Nat :=
  let held := (img.records secBuffers).map bufferSpan ++ heldTables img ++ (img.records secProgram).map programSpan
  let bad (a n : Nat) : Bool := (tableRegion img a n).isNone || held.any (overlaps (a, n))
  match taskTable img, compTable img with
  | none, none => none
  | some t, some c => if bad t 0x200000 then some 0x08000000 else if bad c 0x100000 then some 0x08000004 else none
  | none, some _ => some 0x08000000
  | some _, none => some 0x08000004

/-- The handle lies in a large region (R338). -/
def largeHandle (img : Img) (h : Nat) : Bool :=
  match bufferOf img h with
  | some b => (match regionOver img b.addr b.size with | some r => r.geom == 2 | none => false)
  | none => false

/-- A handle that holds `n` bytes outside large regions (R291, R306, R338). -/
def handleHolds (img : Img) (n h : Nat) : Bool :=
  (match bufferOf img h with | some b => decide (n ≤ b.size) | none => false) && !largeHandle img h

/-- A stream ring breaks R291 or R338: the bits of the field concerned, DEPTH or FIRST. -/
def ringBad (img : Img) (s dir : Nat) : Option Nat :=
  let (first, depth) := ringOf img s dir
  let hold (n : Nat) : Bool := (List.range depth).all (fun k => handleHolds img n (first + k))
  match streamInfo img s dir with
  | some i =>
    let longest := (List.range i.syms).foldl (fun m l => max m (i.blocks l)) 0
    if depth < 2 ∨ 10 * i.syms % depth ≠ 0 then some 0x00FF0000
    else if hold (64 + longest * i.recLen) then none else some 0xFFFF
  | none => if depth = 0 then none else if depth < 2 then some 0x00FF0000 else if hold 0 then none else some 0xFFFF

/-- A VC breaks R306: it names a lane without a Paretlink record. -/
def vcLaneBad (img : Img) (v : Nat) : Bool :=
  match vcLane img v with
  | some n => (match laneRecord img n with | some r => fld r 2 1 != 1 | none => true)
  | none => false

/-- A handle that a VC names breaks R306 or R338: the field that names it, RX_FIRST, RX_DESC or TX_DESC, as the
register's offset in the VC's pair and a mask (log 60). -/
def vcHandlesBad (img : Img) (v : Nat) : Option (Nat × Nat) :=
  if (vcLane img v).isNone then none
  else if !(List.range (2 ^ rxLog img v)).all (fun k => handleHolds img 0 (bits (vcHandles img v) 15 0 + k)) then
    some (4, 0xFFFF)
  else if !handleHolds img (16 * 2 ^ rxLog img v) (bits (vcHandles img v) 31 16) then some (4, 0xFFFF0000)
  else if !handleHolds img (16 * 2 ^ txLog img v) (bits (vcConfig img v) 15 0) then some (0, 0xFFFF)
  else none

/-- A port in use without an address it needs (R360): the field concerned, MAC, IP or MASTER, as its first word in
the block of Table 14.2 and its length in words. -/
def portBad (img : Img) (p : Nat) : Option (Nat × Nat) :=
  if !bit (timePorts img) (p - 1) then none
  else if leNat (portBytes img p 0 6) = 0 then some (0, 2)
  else if timeField img 1 1 ≠ 1 then none
  else if !([4, 6].contains (leNat (portBytes img p 8 1))) then some (2, 1)
  else if leNat (portBytes img p 0x30 16) = 0 then some (12, 4)
  else none

/-- A bit of an RW register as REGISTERS records leave it, from reset value 0. -/
def loadedBit (img : Img) (off i : Nat) : Bool :=
  (img.records secRegisters).foldl (fun b r =>
    if fld r 0 4 = off ∧ bit (fld r 4 4) i then bit (fld r 8 4) i else b) false

/-- The records of one epoch, trailer included, with the banks that REGISTERS adds to dumps (R428). -/
def epochRecords (img : Img) : Nat :=
  ((allSources ++ [keyStoreSrc]).filter (fun s => loadedBit img (0x0C0000C4 + 256 * s) 0)).foldl
    (fun n s => n + (if s = 0x0800 then 18 else 1)) 1

/-- R428 fails: the bits of DUMP_CFG that are concerned, LOG for a ring with too few entries, BASE for one in a
large region. -/
def dumpBad (img : Img) : Option Nat :=
  let r := img.reg 0x0C000018
  let n := 2 ^ bits r 3 0
  if !dumpsOn img then none
  else if n < epochRecords img then some 0xF
  else if ((img.records secRegions).map regionOfRecord).any (fun g =>
      g.geom == 2 && overlaps (bits r 27 6 * 64, 64 * n) (g.base, g.len)) then some (maskOf 27 6)
  else none

/-- What a refusal of `registerCheck` names: the fields concerned, and the section that the rule serves. -/
abbrev Concerns := List (Nat × Nat) × Nat

/-- An IMG field is outside its range. -/
def rangeConcerns (img : Img) : Option Concerns :=
  ((fieldRanges img).find? (fun f =>
    let v := bits (img.reg f.1) f.2.1 f.2.2.1
    decide (v < f.2.2.2.1) || decide (f.2.2.2.2 < v))).map
    (fun f => ([(f.1, maskOf f.2.1 f.2.2.1)], secRegisters))

/-- A stream's ring (R291). A stream of ANTENNA_MAP without a DEPTH names that section, a ring's handles BUFFERS. -/
def ringConcerns (img : Img) (s dir : Nat) : Option Concerns :=
  (ringBad img s dir).map (fun m => ([(0x05032000 + 0x400 * dir + 4 * s, m)],
    if (streamRecs img s dir).isEmpty then secBuffers else secAntenna))

/-- A VC (R306). -/
def vcConcerns (img : Img) (v : Nat) : Option Concerns :=
  let cfg := 0x05034000 + 16 * v
  if vcLaneBad img v then some ([(cfg, maskOf 30 27)], secLanes)
  else (vcHandlesBad img v).map (fun f => ([(cfg + f.1, f.2)], secBuffers))

/-- An Ethernet port's address block (R360). -/
def portConcerns (img : Img) (p : Nat) : Option Concerns :=
  (portBad img p).map (fun f =>
    ((List.range f.2).map (fun w => (0x0A000400 + 0x40 * (p - 1) + 4 * (f.1 + w), 0xFFFFFFFF)), secTime))

/-- The first refusal that rests on register values (R41; the order of the rules is the model's, log 60). -/
def registerCheck (im : Image) (img : Img) : Option Refuse :=
  let rings := ((List.range 2).map (fun dir => (List.range 256).map (fun s => (s, dir)))).flatten
  let when' (bad : Bool) (off serves : Nat) : Option Concerns :=
    if bad then some ([tableField img off], serves) else none
  (rangeConcerns img
    <|> when' (contextsBad img) 0x04000000 secContexts
    <|> when' (handlesBad img) 0x08080000 secBuffers
    <|> (tasksBad img).map (fun off => ([tableField img off], secRegisters))
    <|> rings.findSome? (fun (e : Nat × Nat) => ringConcerns img e.1 e.2)
    <|> ((List.range 63).map (· + 1)).findSome? (vcConcerns img)
    <|> [1, 2].findSome? (portConcerns img)
    <|> (dumpBad img).map (fun m => ([(0x0C000018, m)], secRegisters))).map
    (fun (c : Concerns) => registerRefuse im img c.1 c.2)

end Sys2Proof.Machine
end

