-- ==== Sys2Proof/Machine/Claims.lean ====
section
/-! DEFINITION. The checks of phase 0x07 that are all reported: 0x0403 to 0x0704 (R15, R16, R31, R32,
R42, R43, R301, R324, R400), and a copy's checks as a whole. -/

namespace Sys2Proof.Machine

/-- The records of a type with their positions. -/
def numbered (l : List (List Byte)) : List (Nat × List Byte) := (List.range l.length).zip l

/-! ### Capacity (0x04xx)

0x0401, 0x0402 and 0x0404 cannot arise: STREAM and CELL are bytes, and contexts that do not overlap lie
below 16,384 (R57, R59, R106). -/

/-- The first position at which a running sum exceeds `top`. -/
def sumPast (top : Nat) : Nat → List (Nat × Nat) → Option Nat
  | _, [] => none
  | acc, (k, n) :: rest => if top < acc + n then some k else sumPast top (acc + n) rest

/-- Antenna bandwidth of a direction, in 100 kHz (R16). No rule says what a 0x0403 refusal names: the model's
choice is the ANTENNA_MAP record at which the running sum passes the limit, once per direction (log 141). -/
def bandwidthPast (img : Img) (dir : Nat) : Option Nat :=
  sumPast 1024000 0 ((numbered (img.records secAntenna)).filterMap (fun e =>
    if fld e.2 1 1 % 2 = dir then
      some (e.1, ((cellRec img (fld e.2 2 1)).map (fun c => fld c 4 2)).getD 0)
    else none))

/-- The streams of a direction on the lanes of a list. -/
def streamsOn (img : Img) (lanes : List Nat) (dir : Nat) : List Nat :=
  ((img.records secAntenna).filterMap (fun r =>
    if fld r 1 1 % 2 = dir ∧ lanes.contains (fld r 4 1) then some (fld r 0 1) else none)).eraseDups

/-- Words per subframe of a lane's streams in a direction (R301 step 1). -/
def laneWords (img : Img) (lane dir : Nat) : Nat :=
  (streamsOn img [lane] dir).foldl (fun n s =>
    match streamInfo img s dir with
    | some i => (List.range i.syms).foldl (fun n l =>
        n + divUp (i.blocks l * (4 + 32 * i.width)) 64 + 2 * divUp (i.blocks l) i.maxBlocks) n
    | none => n) 0

/-- The load exceeds the usable payload of R277 (R301 steps 2 and 3), both sides times 870,400,000,000. -/
def loadPast (words rate : Nat) : Bool :=
  decide (28000000000 * 2 ^ rate * 8064 * 9998 * 100 < (102 * 64 * words * 1000 + 20000000000) * 8704 * 10000)

/-- 0x0405 of a LANES record: its lane's load; and with the first record of a board, the board's streams, which
name that record, and its lanes, which name the fifth lane's record (R42; the records are the model's choice,
log 61). -/
def laneLate (img : Img) (sect : Nat) (k : Nat) (r : List Byte) : List Refuse :=
  let lanes := img.records secLanes
  let n := fld r 0 1
  let board := (numbered lanes).filter (fun e => decide (fld e.2 0 1 < 64) && fld e.2 0xB 1 == fld r 0xB 1)
  let at_ (b : Bool) (k : Nat) : List Refuse := if b then [refuseAt 0x0405 sect k] else []
  if 64 ≤ n then []
  else
    at_ ([0, 1].any (fun dir => loadPast (laneWords img n dir) (fld r 1 1))) k
    ++ (if (board.map (·.1)).head? = some k then
          at_ (decide (4 < board.length)) ((board.map (·.1)).getD 4 0)
          ++ at_ ([0, 1].any (fun dir => decide (16 < (streamsOn img (board.map (fun e => fld e.2 0 1)) dir).length))) k
        else [])

/-- 0x0406 (R336). -/
def regionOutside (r : List Byte) : Bool :=
  let i := regionOfRecord r
  !(decide (i.base + i.len ≤ slotEnd) || (decide (dramBase ≤ i.base) && decide (i.base + i.len ≤ dramEnd)))

/-! ### Claims (0x05xx) -/

/-- Resources that a record claims (Table 2.9): 0 a GPIO, 1 the consumer of a pulse generator, 2 a lane,
3 a key slot. -/
def claimsOf (type : Nat) (r : List Byte) : List (Nat × Nat) :=
  match type with
  | 1 => if fld r 0x1E 1 = 0xFF then [] else [(1, fld r 0x1E 1)]
  | 3 => [(2, fld r 0 1)]
  | 7 => [(0, fld r 0 1)]
  | 8 => if fld r 2 1 = 0 then [] else [(0, fld r 4 1), (1, fld r 0 1)]
  | 0xB => if fld r 6 1 = 8 then [(0, fld r 0x10 1 % 32)] else []
  | 0xC => if fld r 0 1 = 3 then [(0, fld r 2 1)] else []
  | 0xD => [(3, fld r 0 1)]
  | _ => []

def claimCode (kind : Nat) : Nat := [0x0501, 0x0502, 0x0505, 0x0506].getD kind 0

/-- A claim: its kind and number, the section and the record. -/
abbrev Claim := (Nat × Nat) × Nat × Nat

def claimsIn (im : Image) : List Claim :=
  (im.sects.map (fun s => if 0x8000 ≤ s.type then [] else
    ((numbered s.records).map (fun e => (claimsOf s.type e.2).map (fun c => (c, s.idx, e.1)))).flatten)).flatten

/-- The later claims on a resource already claimed, the first claimant in their detail; slot 63 belongs
to the image key (R43). -/
def claimConflicts : List Claim → List Claim → List Refuse
  | _, [] => []
  | held, (c, sect, k) :: rest =>
    match held.find? (fun h => h.1 == c) with
    | some (_, s0, k0) =>
      { code := claimCode c.1, sect, rec_ := k, earlier := s0, earlierRec := k0 } :: claimConflicts held rest
    | none => claimConflicts ((c, sect, k) :: held) rest

/-- Each record that overlaps an earlier one by `hit`. -/
def overlapRefuse (code sect : Nat) (hit : List Byte → List Byte → Bool) :
    List (Nat × List Byte) → List (Nat × List Byte) → List Refuse
  | _, [] => []
  | prev, (k, r) :: rest =>
    let tail := overlapRefuse code sect hit (prev ++ [(k, r)]) rest
    match prev.find? (fun p => hit p.2 r) with
    | some (k0, _) => { code, sect, rec_ := k, earlier := sect, earlierRec := k0 } :: tail
    | none => tail

/-- BUFFERS against BUFFERS, the tables and the programs (R124). -/
def bufferLate (im : Image) (img : Img) : List Refuse :=
  let sect := im.index secBuffers
  let recs := numbered (img.records secBuffers)
  let handles (r : List Byte) : Nat × Nat := (fld r 0 2, fld r 4 4)
  overlapRefuse 0x0503 sect (fun p r => overlaps (handles p) (handles r) || overlaps (bufferSpan p) (bufferSpan r))
    [] recs
  ++ (recs.map (fun e =>
    (if (heldTables img).any (overlaps (bufferSpan e.2)) then [refuseAt 0x0503 sect e.1] else [])
    ++ (match (img.records secProgram).find? (fun p => overlaps (programSpan p) (bufferSpan e.2)) with
        | some p => [{ code := 0x0503, sect, rec_ := e.1, earlier := fld p 48 1, earlierRec := 0 }]
        | none => []))).flatten

/-! ### Sums (0x06xx) -/

/-- 0x0601: the record with which a router's committed rates exceed 800 Gbit/s (R324). -/
def regulatorLate (img : Img) (sect : Nat) : List Refuse :=
  (List.range 64).filterMap (fun router =>
    (sumPast 8000 0 ((numbered (img.records secRegulators)).filterMap (fun e =>
      if fld e.2 0 1 = router then some (e.1, fld e.2 4 4) else none))).map (refuseAt 0x0601 sect))

/-- The maximum of a domain in 10 mW (Table 16.1), a lane's at its LANES rate. -/
def domainMax (img : Img) (k : Nat) : Nat :=
  if k < 48 then 223 else if k < 80 then 70 else if k < 112 then 52 else if k < 128 then 225
  else if k < 132 then 100 else if k < 136 then 75 else if k = 136 then 550
  else match laneRecord img (k - 137) with
    | some r => if fld r 1 1 = 2 then 66 else if fld r 1 1 = 1 then 42 else 30
    | none => 0

/-- The maximum power of the enabled domains, in 10 mW (R400). -/
def powerSum (img : Img) : Nat :=
  (List.range domainCount).foldl (fun n k => n + if bit (domainFlags img k) 0 then 0 else domainMax img k) 9262

def budgetLate (im : Image) (img : Img) : List Refuse :=
  match (numbered (img.records secPower)).find? (fun e => fld e.2 0 1 == 2) with
  | some (k, r) => if 100 * fld r 2 2 < powerSum img then [refuseAt 0x0602 (im.index secPower) k] else []
  | none => []

/-! ### Programs, registers and orders (0x07xx) -/

/-- R31 of each PROGRAM against those before it. -/
def programLate (img : Img) : List (List Byte) → List (List Byte) → List Refuse
  | _, [] => []
  | prev, r :: rest =>
    let sect := fld r 48 1
    let (a, n) := programSpan r
    let cores (p : List Byte) : Nat := fld p 0x10 24
    let placed := ((img.records secRegions).map regionOfRecord).any (fun g =>
      g.exec && decide (g.base ≤ a) && decide (a + n ≤ g.base + g.len))
    let clash (code : Nat) (hit : List Byte → Bool) : List Refuse :=
      match prev.find? hit with
      | some p => [{ code, sect, rec_ := 0, earlier := fld p 48 1, earlierRec := 0 }]
      | none => []
    (if placed then [] else [refuseAt 0x0701 sect 0])
    ++ clash 0x0701 (fun p => overlaps (programSpan p) (a, n))
    ++ clash 0x0702 (fun p => Nat.land (cores p) (cores r) != 0)
    ++ programLate img (prev ++ [r]) rest

/-- The bits of the register at `off` that are RW (Table 0.1). -/
def rwBits (off : Nat) : Nat :=
  let o := off % 2 ^ 24
  match off / 2 ^ 24 with
  | 0x5 => if (slotIn o 0x34018 0x10 63).isSome then 0xFFFFFFFF else 0
  | 0xA =>
    if (slotIn o 0x20 4 8).isSome ∨ (slotIn o 0x80 4 32).isSome then 0xFFFFFFFF else if o = 0x40 then 0xFFFF else 0
  | 0xC =>
    if 0x10000 ≤ o then
      let s := o / 256
      let g := o % 256
      if !hasBank s then 0
      else match groupIn g 0 0x18 (bankSize s) with
        | some (_, w) =>
          if w = 0 then (if srcSub s = 1 then 0xFCFFFFFF else 0xDCFFFFFF)
          else if w = 0x14 then 0xFFFF else if w % 4 = 0 then 0xFFFFFFFF else 0
        | none => if g = 0xC4 then 1 else if g = 0xE4 then 0xFFFF else 0
    else if o = 8 then 0x001FFF0F else if o = 0x10 then 0xFF01 else if o = 0x20 then 0xFFFFFFFF else 0
  | _ => 0

/-- A REGISTERS record that R32 refuses by itself. -/
def targetBad (r : List Byte) : Bool :=
  let off := fld r 0 4
  let m := fld r 4 4
  decide (off % 4 ≠ 0) || decide (off / 2 ^ 24 = 0) || decide (0xC < off / 2 ^ 24)
  || Nat.land m (Nat.lor (imgBits off) (rwBits off)) != m

/-- 0x0703 (R32): one refusal for each record that is bad by itself or overlaps an earlier one (log 62). -/
def registersLate (img : Img) (sect : Nat) : List Refuse :=
  let recs := numbered (img.records secRegisters)
  let bad := recs.filter (fun e => targetBad e.2)
  bad.map (fun e => refuseAt 0x0703 sect e.1)
  ++ (overlapRefuse 0x0703 sect (fun p r => fld p 0 4 == fld r 0 4 && Nat.land (fld p 4 4) (fld r 4 4) != 0) [] recs).filter
      (fun x => bad.all (fun e => e.1 != x.rec_))

/-! ### The whole of phase 0x07 -/

/-- Every refusal of class 0x04xx and above, in rising order of code, section and record (log 62). -/
def lateCheck (im : Image) (img : Img) : List Refuse :=
  let lanes := im.index secLanes
  let regions := im.index secRegions
  let orders := im.index secOrders
  sortBy (fun r => r.code * 2 ^ 40 + r.sect * 2 ^ 32 + r.rec_)
    (([0, 1].filterMap (bandwidthPast img)).map (refuseAt 0x0403 (im.index secAntenna))
    ++ ((numbered (img.records secLanes)).map (fun e => laneLate img lanes e.1 e.2)).flatten
    ++ ((numbered (img.records secRegions)).filter (fun e => regionOutside e.2)).map (fun e => refuseAt 0x0406 regions e.1)
    ++ claimConflicts [((3, 63), 0xFF, 0)] (claimsIn im)
    ++ bufferLate im img
    ++ overlapRefuse 0x0504 regions (fun p r => overlaps (fld p 8 6, fld p 0x10 8) (fld r 8 6, fld r 0x10 8)) []
        (numbered (img.records secRegions))
    ++ regulatorLate img (im.index secRegulators)
    ++ budgetLate im img
    ++ programLate img [] (img.records secProgram)
    ++ registersLate img (im.index secRegisters)
    ++ ((numbered (img.records secOrders)).filter (fun e => orderBad e.2)).map (fun e => refuseAt 0x0704 orders e.1))

/-- The checks of phase 0x07 (R41): the first refusal of class 0x02xx or 0x03xx, else all later ones. That every
structure check (0x0301 to 0x0305, then 0x0304) comes before any record check (0x0306, and R388's 0x020C) is the
model's choice (log 141). -/
def check7 (im : Image) (k63 : KeySlot) : List Refuse :=
  match structCheck im with
  | some r => [r]
  | none =>
    let img := im.config
    match recordCheck img k63 im.sects with
    | some r => [r]
    | none => match registerCheck im img with
      | some r => [r]
      | none => lateCheck im img

/-- The checks of a copy: its refusals, none when it may be loaded, and the copy as read. -/
def checkCopy (f : FlashSt) (fuse : FuseSt) (k63 : KeySlot) (dir : BootDir) (copy : Nat) :
    List Refuse × Option Image :=
  match check6 f fuse k63 dir copy with
  | .inl r => ([r], none)
  | .inr im => (check7 im k63, some im)

/-- FLASH_VERIFY's answer (R52): the first refusal code, 0 when the copy passes; a flash or directory that
phase 0x05 refuses answers with that code (log 121). -/
def verifyCode (f : FlashSt) (fuse : FuseSt) (k63 : KeySlot) (copy : Nat) (whole : Bool) : Nat :=
  match flashRefused f with
  | some c => c
  | none => match bootDir f with
    | none => 0x0103
    | some (dir, _) => match check6 f fuse k63 dir copy with
      | .inl r => r.code
      | .inr im => if whole then ((check7 im k63).map Refuse.code).headD 0 else 0

end Sys2Proof.Machine
end

