-- ==== Sys2Proof/Machine/Polar.lean ====
section
/-! DEFINITION. Polar encoding and successive-cancellation list decoding (R102, R103; TS 38.212
clauses 5.3.1 and 5.4.1). -/

namespace Sys2Proof.Machine

/-- ⌈log2 x⌉ for x ≥ 1. -/
def clog2 (x : Nat) : Nat := if x ≤ 1 then 0 else (x - 1).log2 + 1

/-- A polar code: K bits with CRC, E coded bits, log2 N, parity-check bits. -/
structure PolarCode where
  k : Nat
  e : Nat
  n : Nat
  npc : Nat
  npcWm : Nat
deriving DecidableEq, Repr

/-- n of clause 5.3.1. -/
def polarN (k e nmax : Nat) : Nat :=
  let c := clog2 e
  let n1 := if 8 * e ≤ 9 * 2 ^ (c - 1) ∧ 16 * k < 9 * e then c - 1 else c
  max (min (min n1 (clog2 (8 * k))) nmax) 5

def PolarCode.size (c : PolarCode) : Nat := 2 ^ c.n

/-- J(n): the sub-block interleaver (clause 5.4.1.1). -/
def PolarCode.sub (c : PolarCode) (i : Nat) : Nat :=
  let m := c.size / 32
  polarSub.getD (i / m) 0 * m + i % m

/-- Puncturing rather than shortening (clause 5.4.1.2). -/
def PolarCode.punctures (c : PolarCode) : Bool := decide (16 * c.k ≤ 7 * c.e)

/-- Bits frozen by rate matching (clause 5.4.1.1). -/
def PolarCode.frozenRm (c : PolarCode) : List Nat :=
  let n := c.size
  if n ≤ c.e then []
  else if c.punctures then
    (List.range (n - c.e)).map c.sub
    ++ List.range (if 3 * n ≤ 4 * c.e then divUp (3 * n - 2 * c.e) 4 else divUp (9 * n - 4 * c.e) 16)
  else (List.range (n - c.e)).map (fun i => c.sub (c.e + i))

/-- The K + n_PC most reliable positions that rate matching leaves, least reliable first. -/
def PolarCode.infoSet (c : PolarCode) : List Nat :=
  let froz := c.frozenRm
  let l := polarSeq.filter (fun q => decide (q < c.size) && !froz.contains q)
  l.drop (l.length - (c.k + c.npc))

/-- The code can carry its bits at all. -/
def PolarCode.ok (c : PolarCode) : Bool := decide (c.infoSet.length = c.k + c.npc) && decide (c.k ≤ c.e)

/-- Set bits of an index: its row has weight 2 to that power. -/
def rowPop (i : Nat) : Nat := (maskBits 10 i).length

/-- Parity-check positions (clause 5.3.1.2). -/
def PolarCode.pcSet (c : PolarCode) : List Nat :=
  let info := c.infoSet
  let low := info.take (c.npc - c.npcWm)
  let best := info.drop c.npc
  let lightest := best.foldl (fun m i => min m (rowPop i)) 10
  let wm := if c.npcWm = 0 then [] else ((best.reverse.find? (fun i => rowPop i == lightest)).toList)
  low ++ wm

/-- The cyclic register of the parity-check bits: y0 to y4 (clause 5.3.1.2). -/
def pcShift : List Bool → List Bool
  | [] => []
  | y :: ys => ys ++ [y]

def pcAdd (u : Bool) : List Bool → List Bool
  | [] => []
  | y :: ys => xor y u :: ys

/-- The polar transform of 2^n bits. -/
def polarTransform : Nat → List Bool → List Bool
  | 0, u => u
  | n + 1, u =>
    let h := 2 ^ n
    let a := polarTransform n (u.take h)
    let b := polarTransform n (u.drop h)
    List.zipWith xor a b ++ b

/-- The bits u of the transform: information and parity-check bits in place, frozen bits 0. -/
def PolarCode.place (c : PolarCode) (msg : List Bool) : List Bool :=
  let info := c.infoSet
  let pc := c.pcSet
  ((List.range c.size).foldl (fun (a : List Bool × List Bool × List Bool) i =>
    let y := pcShift a.2.1
    if info.contains i then
      if c.npc ≠ 0 ∧ pc.contains i then (a.1 ++ [y.headD false], y, a.2.2)
      else
        let u := a.2.2.headD false
        (a.1 ++ [u], pcAdd u y, a.2.2.drop 1)
    else (a.1 ++ [false], y, a.2.2)) ([], List.replicate 5 false, msg)).1

/-- The position of d that coded bit `i` carries (clauses 5.4.1.1 and 5.4.1.2). -/
def PolarCode.pick (c : PolarCode) (i : Nat) : Nat :=
  let n := c.size
  if n ≤ c.e then c.sub (i % n) else if c.punctures then c.sub (i + n - c.e) else c.sub i

/-- Rate-matched bits of a message with its CRC, without channel interleaving. -/
def PolarCode.encode (c : PolarCode) (msg : List Bool) : List Bool :=
  let d := polarTransform c.n (c.place msg)
  (List.range c.e).map (fun i => d.getD (c.pick i) false)

/-- The downlink interleaver: which message bit stands at place `i` (clause 5.3.1.1). -/
def ilOrder (k : Nat) : List Nat :=
  (polarIl.filter (fun m => decide (164 - k ≤ m))).map (fun m => m - (164 - k))

/-- The triangular channel interleaver: the index that goes out at each place (clause 5.4.1.3). -/
def bilOrder (e : Nat) : List Nat :=
  let t := ((List.range (e + 1)).find? (fun t => decide (2 * e ≤ t * (t + 1)))).getD e
  (List.range t).flatMap (fun col =>
    ((List.range (t - col)).map (fun row =>
      (List.range row).foldl (fun a r => a + (t - r)) 0 + col)).filter (fun k => decide (k < e)))

/-! ### Encoding (R102) -/

/-- The message of a DCI or BCH with its CRC (R94). -/
def polarMessage (dci : Bool) (rnti : Nat) (payload : List Bool) : List Bool :=
  if dci then
    let p := crc24C (List.replicate 24 true ++ payload)
    payload ++ p.take 8 ++ List.zipWith xor (p.drop 8) (msbBits 16 rnti)
  else payload ++ crc24C payload

/-- E coded bits of a DCI or BCH before scrambling; none where no code of these sizes exists. -/
def polarDown (dci : Bool) (rnti e : Nat) (payload : List Bool) : Option (List Bool) :=
  let msg := polarMessage dci rnti payload
  let k := msg.length
  let c : PolarCode := { k, e, n := polarN k e 9, npc := 0, npcWm := 0 }
  if c.ok then some (c.encode ((ilOrder k).map (fun i => msg.getD i false))) else none

/-! ### Decoding (R103) -/

def polarF (a b : Int) : Int :=
  let m : Int := (min a.natAbs b.natAbs : Nat)
  if (decide (a < 0)) != (decide (b < 0)) then -m else m

def polarG (u : Bool) (a b : Int) : Int := if u then b - a else b + a

/-- The LLR of bit `i` from the channel values and the bits decided before it. -/
def decisionLlr : Nat → List Int → List Bool → Nat → Int
  | 0, l, _, _ => l.headD 0
  | n + 1, l, u, i =>
    let h := 2 ^ n
    let a := l.take h
    let b := l.drop h
    if i < h then decisionLlr n (List.zipWith polarF a b) u i
    else
      let x := polarTransform n (u.take h)
      decisionLlr n ((x.zip (a.zip b)).map (fun p => polarG p.1 p.2.1 p.2.2)) (u.drop h) (i - h)

/-- A path: its decisions, its metric, its parity-check register. -/
structure PolarPath where
  bits : List Bool
  metric : Nat
  reg : List Bool
deriving DecidableEq, Repr

/-- A path takes a decision (R103). -/
def PolarPath.take (p : PolarPath) (llr : Int) (u : Bool) (reg : List Bool) : PolarPath :=
  let bad := u != decide (llr < 0)
  { bits := p.bits ++ [u], metric := p.metric + (if bad then llr.natAbs else 0), reg }

/-- One bit of every path; the LIST paths of lowest metric go on, ties to the lower index (log 47). -/
def PolarCode.listStep (c : PolarCode) (info pc : List Nat) (list : Nat) (llrs : List Int)
    (paths : List PolarPath) (i : Nat) : List PolarPath :=
  let grown := paths.flatMap (fun p =>
    let llr := decisionLlr c.n llrs p.bits i
    let y := pcShift p.reg
    if info.contains i then
      if c.npc ≠ 0 ∧ pc.contains i then [p.take llr (y.headD false) y]
      else [p.take llr false y, p.take llr true (pcAdd true y)]
    else [p.take llr false y])
  (sortBy PolarPath.metric grown).take list

/-- Decode one segment: message bits with CRC of the first path whose CRC passes, else of the first. -/
def PolarCode.decode (c : PolarCode) (list : Nat) (crc : List Bool → Bool) (llrs : List Int) :
    List Bool × Bool :=
  let info := c.infoSet
  let pc := c.pcSet
  let start : List PolarPath := [{ bits := [], metric := 0, reg := List.replicate 5 false }]
  let paths := (List.range c.size).foldl (c.listStep info pc list llrs) start
  let msg (p : PolarPath) : List Bool :=
    ((List.range c.size).filter (fun i => info.contains i && !(c.npc != 0 && pc.contains i))).map
      (fun i => p.bits.getD i false)
  let msgs := paths.map msg
  match msgs.find? crc with
  | some m => (m, true)
  | none => (msgs.headD [], false)

/-- A bit that shortening makes known (log 47). -/
def knownLlr : Int := (2 ^ 30 : Nat)

/-- Channel values of a segment by position of d: repeated ones are summed, punctured ones are 0,
shortened ones are known zeros. -/
def PolarCode.spread (c : PolarCode) (l : List Int) : List Int :=
  let order := bilOrder c.e
  let f := (order.zip l).foldl (fun (a : List Int) p => a.set p.1 p.2) (List.replicate c.e 0)
  let init := if c.e < c.size ∧ ¬ c.punctures then
      ((List.range (c.size - c.e)).map (fun i => c.sub (c.e + i))).foldl (fun (a : List Int) k => a.set k knownLlr)
        (List.replicate c.size 0)
    else List.replicate c.size 0
  (f.zip (List.range c.e)).foldl (fun (a : List Int) p => a.modify (c.pick p.2) (· + p.1)) init

/-- The code of each UCI segment (R103; TS 38.212 clauses 6.3.1.2 to 6.3.1.4). -/
def uciCode (a e : Nat) : Nat × PolarCode :=
  let count := if 1013 ≤ a ∨ (360 ≤ a ∧ 1088 ≤ e) then 2 else 1
  let er := e / count
  let len := divUp a count
  let k := len + (if a < 20 then 6 else 11)
  let npc := if a < 20 then 3 else 0
  (count, { k, e := er, n := polarN k er 10, npc,
            npcWm := if npc = 3 ∧ k + 192 < er + 3 then 1 else 0 })

/-- A decoded UCI: payload bits, segments passed, segments. -/
def polarUci (a e list : Nat) (l : List Int) : List Bool × Nat × Nat :=
  let (count, c) := uciCode a e
  let crc : List Bool → Bool := if a < 20 then crcHolds 6 crc6 else crcHolds 11 crc11
  let segs := (List.range count).map (fun r => c.decode list crc (c.spread ((l.drop (r * c.e)).take c.e)))
  let len := divUp a count
  let bits := segs.flatMap (fun s => s.1.take len)
  (bits.drop (count * len - a), segs.countP (·.2), count)

end Sys2Proof.Machine
end

