-- ==== Sys2Proof/Machine/Ldpc.lean ====
section
/-! DEFINITION. LDPC encoding and layered normalised min-sum decoding (R96 to R99). -/

namespace Sys2Proof.Machine

/-- The entries of row `r`: column and shift modulo Z (R96). -/
def LdpcCode.row (c : LdpcCode) (r : Nat) : List (Nat × Nat) :=
  (List.range (c.kg + c.rowsMax)).filterMap (fun k =>
    (Config.ldpcShift c.bg c.set r k).map (fun s => (k, s % c.z)))

/-- ROWS for the highest circular-buffer index reached (R97). -/
def LdpcCode.rowsFor (c : LdpcCode) (iHi : Nat) : Nat :=
  min c.rowsMax (max 4 (2 + iHi / c.z + 1 - c.kg))

/-! ### Encoding -/

/-- A block of Z bits read with a cyclic shift: bit z is bit z + s. -/
def shiftBlock (z s : Nat) (b : List Bool) : List Bool :=
  (List.range z).map (fun i => b.getD ((i + s) % z) false)

def xorBits (a b : List Bool) : List Bool := List.zipWith xor a b

/-- The sum of row `r` over the columns already known. -/
def ldpcRow (c : LdpcCode) (known : List (List Bool)) (r : Nat) : List Bool :=
  (c.row r).foldl (fun acc e =>
    if e.1 < known.length then xorBits acc (shiftBlock c.z e.2 (known.getD e.1 [])) else acc)
    (List.replicate c.z false)

/-- The shift that column K_g leaves in the sum of rows 0 to 3, in which the double diagonal cancels. -/
def coreShift (c : LdpcCode) : Nat :=
  let ss := (List.range 4).filterMap (fun r => ((c.row r).find? (fun e => e.1 == c.kg)).map (·.2))
  (ss.find? (fun s => ss.count s % 2 == 1)).getD 0

/-- The Z-bit columns of a codeword from its information columns: the first parity column from the sum
of rows 0 to 3, the next three down the double diagonal, then one column for each further row. -/
def ldpcEncode (c : LdpcCode) (rows : Nat) (info : List Bool) : List (List Bool) :=
  let base := (List.range c.kg).map (fun k => (info.drop (k * c.z)).take c.z)
  let s := (List.range 4).foldl (fun acc r => xorBits acc (ldpcRow c base r)) (List.replicate c.z false)
  let p0 := shiftBlock c.z (c.z - coreShift c % c.z) s
  let core := (List.range 3).foldl (fun known r => known ++ [ldpcRow c known r]) (base ++ [p0])
  (List.range (rows - 4)).foldl (fun known r => known ++ [ldpcRow c known (r + 4)]) core

/-- The bit of a codeword at a circular-buffer position (R96: columns 0 and 1 are never sent). -/
def codeBit (c : LdpcCode) (cols : List (List Bool)) (k : Nat) : Bool :=
  let v := k + 2 * c.z
  (cols.getD (v / c.z) []).getD (v % c.z) false

/-! ### Decoding (R98) -/

/-- The decoder's values: APP by variable, check-to-variable messages by (r Z + z, edge), and the
saturations counted. -/
structure LdpcSt where
  app : List Int
  c2v : List (List Int)
  sat : Nat

def sat511 (x : Int) : Int := clampTo 511 x

/-- The smallest value of a list and the smallest of the rest; the first of equals is the smallest. -/
def twoMins : List Nat → Nat × Nat
  | [] => (0, 0)
  | x :: rest => rest.foldl (fun m y =>
      if y < m.1 then (y, m.1) else if y < m.2 then (m.1, y) else m) (x, 2 ^ 20)

/-- One check node (R98). -/
def ldpcCheck (c : LdpcCode) (alpha : Nat) (r z : Nat) (s : LdpcSt) : LdpcSt :=
  let vars := (c.row r).map (fun e => e.1 * c.z + (z + e.2) % c.z)
  let old := s.c2v.getD (r * c.z + z) []
  let raw := (vars.zip (List.range vars.length)).map (fun p => s.app.getD p.1 0 - old.getD p.2 0)
  let t := raw.map sat511
  let (m1, m2) := twoMins (t.map Int.natAbs)
  let neg := t.countP (fun x => decide (x < 0)) % 2 = 1
  let first := (t.findIdx (fun x => x.natAbs == m1))
  let mags := (List.range t.length).map (fun i => ((alpha * (if i = first then m2 else m1) + 4) / 8 : Nat))
  let out := (t.zip mags).map (fun p =>
    let m := sat127 (p.2 : Int)
    if (decide (p.1 < 0)) != neg then -m else m)
  let filler (v : Nat) : Bool := decide (c.kp ≤ v) && decide (v < c.k)
  let next := (t.zip out).map (fun p => p.1 + p.2)
  let app := ((vars.zip next).filter (fun p => !filler p.1)).foldl (fun a p => a.set p.1 (sat511 p.2)) s.app
  let sats := raw.countP (fun x => decide (sat511 x ≠ x)) + mags.countP (fun m => decide (127 < m))
    + ((vars.zip next).filter (fun p => !filler p.1)).countP (fun p => decide (sat511 p.2 ≠ p.2))
  { app, c2v := s.c2v.set (r * c.z + z) out, sat := s.sat + sats }

/-- One iteration over rows 0 to ROWS - 1. -/
def ldpcIter (c : LdpcCode) (alpha rows : Nat) (s : LdpcSt) : LdpcSt :=
  (List.range rows).foldl (fun s r => (List.range c.z).foldl (fun s z => ldpcCheck c alpha r z s) s) s

/-- Hard decisions of the variables. -/
def hardBits (app : List Int) : List Bool := app.map (fun x => decide (x < 0))

/-- Checks that the hard decisions leave unsatisfied. -/
def unsatisfied (c : LdpcCode) (rows : Nat) (app : List Int) : Nat :=
  let bits := hardBits app
  ((List.range rows).flatMap (fun r => (List.range c.z).map (fun z =>
    xorAll ((c.row r).map (fun e => bits.getD (e.1 * c.z + (z + e.2) % c.z) false))))).countP id

/-- What a decoded code block answers. -/
structure CbResult where
  selected : Bool
  pass : Bool
  syndrome : Bool
  early : Bool
  skipped : Bool
  iters : Nat
  unsat : Nat
  sat : Nat
  /-- The hard decisions of its payload and CRC. -/
  bits : List Bool
  /-- Final APP by circular-buffer position. -/
  app : List Int
deriving DecidableEq, Repr

/-- Iterate with early termination (R99): `crc` says whether the code block's CRC holds. The last part says that the
block ended early, before the last iteration allowed (R121; log 157). -/
def ldpcLoop (c : LdpcCode) (alpha rows et : Nat) (crc : List Bool → Bool) : Nat → Nat → LdpcSt → LdpcSt × Nat × Bool
  | 0, n, s => (s, n, false)
  | fuel + 1, n, s =>
    let s1 := ldpcIter c alpha rows s
    let good := decide (unsatisfied c rows s1.app = 0)
    let stop := (et == 1 && good) || (et == 2 && good && crc ((hardBits s1.app).take c.kp))
    if stop then (s1, n + 1, decide (0 < fuel)) else ldpcLoop c alpha rows et crc fuel (n + 1) s1

/-- Decode the combined LLRs of a code block (R97 to R100). -/
def ldpcDecode (c : LdpcCode) (alpha et maxIter iHi : Nat) (crc : List Bool → Bool) (v : List Int) : CbResult :=
  if v.all (fun x => x == 0) then
    { selected := true, pass := false, syndrome := false, early := false, skipped := true, iters := 0,
      unsat := 0, sat := 0, bits := List.replicate c.kp false, app := [] }
  else
    let rows := c.rowsFor iHi
    let total := (c.kg + rows) * c.z
    let app := (List.range total).map (fun i =>
      if c.kp ≤ i ∧ i < c.k then 511 else if i < 2 * c.z then 0 else v.getD (i - 2 * c.z) 0)
    let c2v := List.flatten ((List.range rows).map (fun r =>
      List.replicate c.z (List.replicate (c.row r).length (0 : Int))))
    let (s, n, early) := ldpcLoop c alpha rows et crc maxIter 0 { app, c2v, sat := 0 }
    let bits := (hardBits s.app).take c.kp
    let unsat := unsatisfied c rows s.app
    { selected := true, pass := crc bits, syndrome := decide (unsat = 0), early, skipped := false, iters := n,
      unsat, sat := s.sat, bits, app := s.app.drop (2 * c.z) }

end Sys2Proof.Machine
end

