-- ==== Sys2Proof/Machine/Turbo.lean ====
section
/-! DEFINITION. Turbo encoding (TS 36.212 clause 5.1.3.2) and max-log-MAP decoding (R101). -/

namespace Sys2Proof.Machine

/-- The QPP interleaver: the input index of output `i` for size K. -/
def qpp (k i : Nat) : Nat :=
  let n := turboSizes.findIdx (fun x => x == k)
  (qppF1.getD n 1 * i + qppF2.getD n 0 * i * i) % k

/-- The constituent encoder in state `s` (bit 0 the newest) with an input bit: next state and parity;
feedback 1 + D^2 + D^3, parity 1 + D + D^3. -/
def rscStep (s : Nat) (u : Bool) : Nat × Bool :=
  let s1 := s.testBit 0
  let s2 := s.testBit 1
  let s3 := s.testBit 2
  let a := xor u (xor s2 s3)
  (2 * (s % 4) + b2n a, xor a (xor s1 s3))

/-- The input that brings the register towards zero. -/
def rscTail (s : Nat) : Bool := xor (s.testBit 1) (s.testBit 2)

/-- Parity bits of a sequence, and the last state. -/
def rscRun : List Bool → Nat → List Bool × Nat
  | [], s => ([], s)
  | u :: rest, s =>
    let (s1, p) := rscStep s u
    let (ps, e) := rscRun rest s1
    (p :: ps, e)

/-- The three tail inputs and parities from a state. -/
def rscFlush : Nat → Nat → List (Bool × Bool)
  | 0, _ => []
  | n + 1, s =>
    let u := rscTail s
    let (s1, p) := rscStep s u
    (u, p) :: rscFlush n s1

/-- Streams d0, d1, d2 of K + 4 bits each (TS 36.212 clause 5.1.3.2). -/
def turboEncode (c : List Bool) : List (List Bool) :=
  let k := c.length
  let c' := (List.range k).map (fun i => c.getD (qpp k i) false)
  let (z, e) := rscRun c 0
  let (z', e') := rscRun c' 0
  let t := rscFlush 3 e
  let t' := rscFlush 3 e'
  let x (i : Nat) : Bool := (t.getD i (false, false)).1
  let p (i : Nat) : Bool := (t.getD i (false, false)).2
  let x' (i : Nat) : Bool := (t'.getD i (false, false)).1
  let p' (i : Nat) : Bool := (t'.getD i (false, false)).2
  [c ++ [x 0, p 1, x' 0, p' 1], z ++ [p 0, x 2, p' 0, x' 2], z' ++ [x 1, p 2, x' 1, p' 2]]

/-! ### Decoding -/

/-- A metric that no path reaches. -/
def noPath : Int := -(2 ^ 60 : Nat)

/-- Metric of a branch: a bit 1 costs its LLR (positive favours 0). -/
def branch (u p : Bool) (lu lp : Int) : Int := (if u then -lu else 0) + (if p then -lp else 0)

/-- Forward metrics of the eight states over the trellis; `fixed` marks bits known to be 0 (R101). -/
def forward : List (Int × Int × Bool) → List Int → List (List Int)
  | [], a => [a]
  | (lu, lp, fixed) :: rest, a =>
    let next := (List.range 8).map (fun s' =>
      (List.range 8).foldl (fun best s =>
        [false, true].foldl (fun best u =>
          let (n, p) := rscStep s u
          if n = s' ∧ ¬(fixed ∧ u) then max best (a.getD s noPath + branch u p lu lp) else best) best) noPath)
    a :: forward rest next

/-- Backward metrics, one list of states before each step and one after the last. -/
def backward : List (Int × Int × Bool) → List Int → List (List Int)
  | [], b => [b]
  | (lu, lp, fixed) :: rest, b =>
    let later := backward rest b
    let after := later.headD []
    let here := (List.range 8).map (fun s =>
      [false, true].foldl (fun best u =>
        let (n, p) := rscStep s u
        if fixed ∧ u then best else max best (after.getD n noPath + branch u p lu lp)) noPath)
    here :: later

/-- Only state 0. -/
def onlyZero : List Int := 0 :: List.replicate 7 noPath

/-- A-posteriori LLRs of the first `k` steps of a terminated trellis (max-log-MAP, R101). -/
def mapLlrs (k : Nat) (steps : List (Int × Int × Bool)) : List Int :=
  let a := forward steps onlyZero
  let b := backward steps onlyZero
  (List.range k).map (fun i =>
    let (lu, lp, fixed) := steps.getD i (0, 0, false)
    let best (u : Bool) : Int := (List.range 8).foldl (fun m s =>
      let (n, p) := rscStep s u
      max m ((a.getD i []).getD s noPath + branch u p lu lp + (b.getD (i + 1) []).getD n noPath)) (2 * noPath)
    if fixed then 0 else best false - best true)

/-- The streams of a code block as soft values, from the circular buffer. -/
def turboStreams (k filler : Nat) (v : List Int) : List (List Int) :=
  (List.range (turboKw k)).foldl (fun (ss : List (List Int)) w =>
    match turboAt k filler w with
    | some (s, b) => ss.modify s (fun l => l.set b (v.getD w 0))
    | none => ss) (List.replicate 3 (List.replicate (k + 4) 0))

/-- One full iteration: both constituent decoders, from the extrinsic values of the second (R101). The
second part is the a-posteriori LLRs in natural order. Filler bits are known zeros in both decoders (log 159). -/
def turboIter (k filler alpha : Nat) (d0 d1 d2 : List Int) (ext : List Int) : List Int × List Int :=
  let perm := (List.range k).map (qpp k)
  let x (i : Nat) : Int := d0.getD i 0
  let tail1 := [(d0.getD k 0, d1.getD k 0, false), (d2.getD k 0, d0.getD (k + 1) 0, false),
    (d1.getD (k + 1) 0, d2.getD (k + 1) 0, false)]
  let tail2 := [(d0.getD (k + 2) 0, d1.getD (k + 2) 0, false), (d2.getD (k + 2) 0, d0.getD (k + 3) 0, false),
    (d1.getD (k + 3) 0, d2.getD (k + 3) 0, false)]
  let l1 := mapLlrs k ((List.range k).map (fun i => (x i + ext.getD i 0, d1.getD i 0, decide (i < filler))) ++ tail1)
  let e1 := (List.range k).map (fun i =>
    if i < filler then 0 else roundShift ((alpha : Int) * (l1.getD i 0 - x i - ext.getD i 0)) 3)
  let l2 := mapLlrs k (((perm.zip (List.range k)).map (fun p =>
    (x p.1 + e1.getD p.1 0, d2.getD p.2 0, decide (p.1 < filler)))) ++ tail2)
  let app := (perm.zip l2).foldl (fun (a : List Int) p => a.set p.1 p.2) (List.replicate k 0)
  let e2 := (List.range k).map (fun i =>
    if i < filler then 0 else roundShift ((alpha : Int) * (app.getD i 0 - x i - e1.getD i 0)) 3)
  (e2, app)

/-- Iterate (R101): ET 2 stops once the code block's CRC passes. -/
def turboLoop (k filler alpha et : Nat) (ss : List (List Int)) (crc : List Bool → Bool) :
    Nat → Nat → List Int → List Int → List Int × Nat × Bool
  | 0, n, _, app => (app, n, false)
  | fuel + 1, n, ext, _ =>
    let (e, app) := turboIter k filler alpha (ss.getD 0 []) (ss.getD 1 []) (ss.getD 2 []) ext
    if et = 2 ∧ crc ((hardBits app).drop filler) then (app, n + 1, decide (0 < fuel))
    else turboLoop k filler alpha et ss crc fuel (n + 1) e app

/-- Decode the combined LLRs of a turbo code block (R100, R101). Its values have no width, so that none saturates
(log 160). -/
def turboDecode (k filler alpha et maxIter : Nat) (crc : List Bool → Bool) (v : List Int) : CbResult :=
  if v.all (fun x => x == 0) then
    { selected := true, pass := false, syndrome := false, early := false, skipped := true, iters := 0,
      unsat := 0, sat := 0, bits := List.replicate (k - filler) false, app := [] }
  else
    let (app, n, early) := turboLoop k filler alpha et (turboStreams k filler v) crc maxIter 0
      (List.replicate k 0) (List.replicate k 0)
    let bits := (hardBits app).drop filler
    { selected := true, pass := crc bits, syndrome := false, early, skipped := false, iters := n, unsat := 0,
      sat := 0, bits, app := [] }

end Sys2Proof.Machine
end

