-- ==== Sys2Proof/Machine/CodecJobs.lean ====
section
/-! DEFINITION. The codec's jobs: soft buffers, LDPC, turbo, polar and TB_CRC (R105 to R122). -/

namespace Sys2Proof.Machine

/-- The 16-byte result of Table 4.11. -/
def codecResult (j : Job) (status flags passed failed iterSum iterMax sat skipped : Nat) : List Byte :=
  leBytes 1 status ++ leBytes 1 (j.f 0 1) ++ leBytes 2 flags ++ leBytes 2 (min passed 0xFFFF)
  ++ leBytes 2 (min failed 0xFFFF) ++ leBytes 4 (min iterSum 0xFFFFFFFF) ++ leBytes 1 (min iterMax 255)
  ++ leBytes 1 (min sat 255) ++ leBytes 2 (min skipped 0xFFFF)

/-- A buffer's length differs from what the job reads or writes: lengths count in 64 bytes (R118, log 43). -/
def lengthBad (img : Img) (h n : Nat) : Bool :=
  match bufferOf img h with
  | some b => decide (b.size ≠ 64 * divUp n 64)
  | none => true

/-! ### User contexts (R106 to R108) -/

/-- A user-context entry (Table 4.5). -/
structure UserCtx where
  rnti : Nat
  nid : Nat
  valid : Bool
  lbrm : Nat
deriving DecidableEq, Repr

/-- The pool of a context (Table 4.3). -/
def poolOf (img : Img) (ctx : Nat) : Option (List Byte) :=
  (img.records secContexts).find? (fun r => decide (fld r 0 2 ≤ ctx) && decide (ctx < fld r 0 2 + fld r 2 2))

/-- CTX_TABLE.ENABLE, and the address of an entry (R107, R108). -/
def ctxEnabled (img : Img) : Bool := bit (img.reg 0x04000000) 0
def ctxAddr (img : Img) (ctx : Nat) : Nat := bits (img.reg 0x04000000) 27 12 * 0x1000 + 16 * ctx

def parseCtx (b : List Byte) : UserCtx :=
  { rnti := fld b 0 2, nid := fld b 2 2, valid := bit (fld b 4 1) 0, lbrm := fld b 8 4 }

/-- Read a context's entry once (R108, R122). -/
def readCtx (img : Img) (j : Job) (ctx : Nat) (d : Dyn) (f : UserCtx → Dyn → Dyn × JobEnd) : Dyn × JobEnd :=
  match readPackets img (engineSender j.unit) (packetsOf (ctxAddr img ctx) 16) [] d with
  | (d1, .inl b) => f (parseCtx b) d1
  | (d1, .inr (a, status)) => (d1, .detect (engineCond img d1 j.task a status) a)

/-! ### Soft buffers (R106, R109 to R116) -/

/-- A code-block header (Table 4.6). -/
structure SbHeader where
  held : Bool
  current : Nat
  oldValid : Bool
  code : Nat
  format : Nat
  combines : Nat
  tbs : Nat
  count : Nat
  block : Nat
  ncb : Nat
  iHi : Nat
deriving DecidableEq, Repr

def parseHeader (b : List Byte) : SbHeader :=
  let s := fld b 0 1
  { held := bit s 0, current := b2n (bit s 1), oldValid := bit s 2, code := fld b 1 1, format := fld b 2 1,
    combines := fld b 3 1, tbs := fld b 4 4, count := fld b 8 2, block := fld b 0xA 2, ncb := fld b 0xC 4,
    iHi := fld b 0x10 4 }

def headerBytes (h : SbHeader) : List Byte :=
  leBytes 1 (b2n h.held + 2 * h.current + 4 * b2n h.oldValid) ++ leBytes 1 h.code ++ leBytes 1 h.format
  ++ leBytes 1 h.combines ++ leBytes 4 h.tbs ++ leBytes 2 h.count ++ leBytes 2 h.block ++ leBytes 4 h.ncb
  ++ leBytes 4 h.iHi ++ zeros 108

/-- Geometry of a process's soft buffer (R106, R109). -/
structure SoftBuf where
  base : Nat
  sb4 : Bool
  procBytes : Nat
deriving DecidableEq, Repr

def softBuf (img : Img) (pool : List Byte) (ctx proc : Nat) : SoftBuf :=
  let region := ((img.recordBy secRegions 0 1 (fld pool 6 1)).map (fun r => fld r 8 6)).getD 0
  { base := region + 128 * fld pool 0xC 4 + ((ctx - fld pool 0 2) * fld pool 4 1 + proc) * fld pool 8 4,
    sb4 := decide (fld pool 5 1 = 1), procBytes := fld pool 8 4 }

/-- H of R109, and the stride S. -/
def SoftBuf.half (b : SoftBuf) (ncb : Nat) : Nat := 128 * divUp (ncb * (if b.sb4 then 4 else 8)) 1024
def SoftBuf.stride (b : SoftBuf) (ncb : Nat) : Nat := 128 + 2 * b.half ncb

/-- Stored values as LLR8 (R110). -/
def SoftBuf.values (b : SoftBuf) (ncb : Nat) (bytes : List Byte) : List Int :=
  (List.range ncb).map (fun k =>
    if b.sb4 then
      let x := (bytes.getD (k / 2) 0).toNat
      16 * max (sx 4 (if k % 2 = 0 then x % 16 else x / 16)) (-7)
    else llrOf (bytes.getD k 0))

/-- Values as a half stores them (R110). -/
def SoftBuf.store (b : SoftBuf) (h : Nat) (v : List Int) : List Byte :=
  let q (k : Nat) : Nat := wrapN 4 (clampTo 7 ((v.getD k 0 + 8) / 16))
  if b.sb4 then (List.range h).map (fun i => BitVec.ofNat 8 (q (2 * i) + 16 * q (2 * i + 1)))
  else (List.range h).map (fun i => byteOfLlr (v.getD i 0))

/-- Read 128-byte blocks: a poisoned one gives zeros and is counted, an error response ends it (R113). -/
def readSoft (img : Img) (s : Nat) : Nat → Nat → List Byte → Nat → Dyn → Dyn × (List Byte × Nat ⊕ (Nat × Nat))
  | 0, _, got, poison, d => (d, .inl (got, poison))
  | n + 1, a, got, poison, d =>
    let (d1, r) := memPacket img d (engineSender s) a (.read 128)
    if r.status ≤ 1 then readSoft img s n (a + 128) (got ++ r.data) poison d1
    else if r.status = 4 then readSoft img s n (a + 128) (got ++ zeros 128) (poison + 1) d1
    else (d1, .inr (a, r.status))

/-- What a decode takes of one code block's soft buffer: the header as read, the old values or none, and
the poisoned blocks met. -/
structure OldSoft where
  header : SbHeader
  old : Option (List Int)
  mismatch : Bool
  poison : Nat

/-- How a decode job uses its soft buffer. -/
structure SoftUse where
  buf : SoftBuf
  code : Nat
  tbs : Nat
  count : Nat
  pass : Nat
  newData : Bool
  /-- The largest N_cb of the transport block's code blocks, which gives every area its size (log 48). -/
  ncbMax : Nat

def SoftUse.half (u : SoftUse) : Nat := u.buf.half u.ncbMax
def SoftUse.area (u : SoftUse) (r : Nat) : Nat := u.buf.base + r * u.buf.stride u.ncbMax

/-- Read the header and the half of old values of code block `r` (R111 to R113, R116). -/
def readOld (img : Img) (s : Nat) (u : SoftUse) (ncb r : Nat) (d : Dyn) : Dyn × (OldSoft ⊕ (Nat × Nat)) :=
  let area := u.area r
  match readSoft img s 1 area [] 0 d with
  | (d1, .inr e) => (d1, .inr e)
  | (d1, .inl (hb, p0)) =>
    let h := parseHeader hb
    let wanted := if u.pass = 1 then !u.newData && h.held else h.held && h.oldValid
    let mismatch := h.held && (u.pass != 1 || !u.newData)
      && (h.code != u.code || h.format != b2n u.buf.sb4 || h.tbs != u.tbs || h.count != u.count
          || h.block != r || h.ncb != ncb)
    if !wanted || mismatch then (d1, .inl { header := h, old := none, mismatch, poison := p0 })
    else
      let half := if u.pass = 1 then h.current else 1 - h.current
      match readSoft img s (u.half / 128) (area + 128 + half * u.half) [] 0 d1 with
      | (d2, .inr e) => (d2, .inr e)
      | (d2, .inl (bytes, p)) =>
        (d2, .inl { header := h, old := some (u.buf.values ncb bytes), mismatch, poison := p0 + p })

/-- The combination of R110: old values and the LLRs at each position. -/
def combine (ncb : Nat) (old : Option (List Int)) (positions : List Nat) (llrs : List Int) : List Int :=
  let base := old.getD (List.replicate ncb 0)
  let sum := (positions.zip llrs).foldl (fun (a : List Int) p => a.modify p.1 (· + p.2)) base
  sum.map sat127

/-- The half and the header that pass 1 writes (R111). -/
def newHalf (u : SoftUse) (ncb r iHi : Nat) (o : OldSoft) (v : List Int) :
    (Nat × List Byte) × (Nat × List Byte) :=
  let area := u.area r
  let w := if o.header.held then 1 - o.header.current else 0
  let h : SbHeader :=
    { held := true, current := w, oldValid := o.old.isSome, code := u.code, format := b2n u.buf.sb4,
      combines := if o.old.isSome then min 255 (o.header.combines + 1) else 1, tbs := u.tbs, count := u.count,
      block := r, ncb, iHi }
  ((area + 128 + w * u.half, u.buf.store u.half v), (area, headerBytes h))

/-! ### Decoding jobs (R97 to R101, R110 to R122) -/

/-- What decoding needs of the code, for LDPC and turbo alike. -/
structure DecPlan where
  lte : Bool
  tbs : Nat
  count : Nat
  crcLen : Nat
  /-- CODE of Table 4.6. -/
  code : Nat
  ncb : Nat → Nat
  /-- Positions of the E_r coded bits of code block r in the order of the codeword. -/
  positions : Nat → Nat → List Nat
  /-- Decode code block r: its i_hi and its combined LLRs. -/
  decode : Nat → Nat → (List Bool → Bool) → List Int → CbResult
  /-- Payload bits of code block r with its CRC: K' or K less filler. -/
  bits : Nat → Nat

/-- The fields of a decode job beyond the code (Table 4.7). -/
structure DecFields where
  qm : Nat
  nl : Nat
  g : Nat
  first : Nat
  blocks : Nat
  sel : Nat
  scr : Nat
  loop : Bool
  pass : Nat
  newData : Bool
deriving DecidableEq, Repr

/-- One code block on its way through a decode job. -/
structure DecAcc where
  results : List CbResult
  ext : List Byte
  halves : List (Nat × List Byte)
  headers : List (Nat × List Byte)
  mismatch : Option Nat
  poison : Nat
  poisonAt : Option Nat
  /-- A read of the soft buffer that was answered with an error. -/
  failed : Option (Nat × Nat)

/-- The CRC that a code block must pass (R99). -/
def DecPlan.crc (p : DecPlan) : List Bool → Bool :=
  if p.count = 1 then crcHolds (tbCrcLen p.lte p.tbs) (tbCrc p.lte p.tbs) else crcHolds 24 crc24B

/-- An unselected code block. -/
def CbResult.off (n : Nat) : CbResult :=
  { selected := false, pass := false, syndrome := false, early := false, skipped := false, iters := 0,
    unsat := 0, sat := 0, bits := List.replicate n false, app := [] }

/-- Decode the selected code block `r`, whose LLRs are `raw` and whose scrambling bits are `c`. -/
def decodeBlock1 (img : Img) (s : Nat) (p : DecPlan) (u : SoftUse) (f : DecFields) (e r : Nat)
    (raw : List Int) (c : List Bool) (x : Dyn × DecAcc) : Dyn × DecAcc :=
  if x.2.failed.isSome then x
  else
    let ncb := p.ncb r
    let llrs := (raw.zip c).map (fun q => if q.2 then -q.1 else q.1)
    let pos := p.positions r e
    match readOld img s u ncb r x.1 with
    | (d1, .inr err) => (d1, { x.2 with failed := some err })
    | (d1, .inl o) =>
      let v := combine ncb o.old pos llrs
      let here := pos.foldl max 0
      let iHi := if o.old.isSome then max here o.header.iHi else here
      let res := p.decode r iHi p.crc v
      let exts := (pos.zip (llrs.zip c)).map (fun q =>
        let ev := if res.skipped then 0 else res.app.getD q.1 0 - q.2.1
        (if q.2.2 then -(sat127 ev) else sat127 ev, decide (sat127 ev ≠ ev)))
      let (hw, hd) := newHalf u ncb r iHi o v
      let keep := decide (u.pass = 1)
      (d1, { x.2 with
        results := x.2.results ++ [if f.loop then { res with sat := res.sat + exts.countP (·.2) } else res]
        ext := if f.loop then x.2.ext ++ exts.map (fun q => byteOfLlr q.1) else x.2.ext
        halves := if keep then x.2.halves ++ [hw] else x.2.halves
        headers := if keep then x.2.headers ++ [hd] else x.2.headers
        mismatch := x.2.mismatch.or (if o.mismatch then some r else none)
        poison := x.2.poison + o.poison
        poisonAt := x.2.poisonAt.or (if o.poison ≠ 0 then some r else none) })

/-- CB_STATUS of a code block (R121). -/
def cbStatus (r : CbResult) : List Byte :=
  leBytes 4 (if r.selected then
    min r.unsat 0xFFFF * 65536 + min r.iters 255 * 256 + 16 * b2n r.skipped + 8 * b2n r.early
      + 4 * b2n r.syndrome + 2 * b2n r.pass + 1
  else 0)

/-- Code blocks that CB_SEL schedules (R104). -/
def scheduled (sel : Nat) (count : Nat) (map_ : List Byte) : List Nat :=
  if sel = 0xFFFF then List.range count else (List.range count).filter (fun r => decide (seqBit map_ r = 1))

/-- E_r of a scheduled code block and the codeword offset of its first bit (R104, R105). -/
def blockBits (f : DecFields) (sched : List Nat) (r : Nat) : Nat × Nat :=
  let at_ := sched.findIdx (fun x => x == r)
  (codedBits f.g f.nl f.qm sched.length at_,
    (List.range at_).foldl (fun a k => a + codedBits f.g f.nl f.qm sched.length k) 0)

/-- The reports of R112 and R113. -/
def softReports (d : Dyn) (j : Job) (ctx proc : Nat) (a : DecAcc) : Dyn :=
  let d1 := match a.mismatch with
    | some r => eventTask d j.unit 0 0x0481 (some j.task) (leBytes 2 ctx ++ leBytes 1 proc ++ leBytes 2 r)
    | none => d
  match a.poisonAt with
  | some r => eventTask d1 j.unit 3 0x0482 (some j.task)
      (leBytes 2 ctx ++ leBytes 1 proc ++ leBytes 2 r ++ leBytes 2 a.poison)
  | none => d1

/-- Decode the job's code blocks and form its outputs, once its buffers are read. A blanked IN is read as the zeros it
holds (log 89). -/
def decodeRun (img : Img) (j : Job) (p : DecPlan) (u : SoftUse) (f : DecFields) (cinit : Nat)
    (sched : List Nat) (inState : Nat) (llrs : List Int) (d : Dyn) : Dyn × JobEnd :=
  let range := (List.range f.blocks).map (f.first + ·)
  let chosen := range.filter (fun r => sched.contains r)
  let whole := decide (f.first = 0) && decide (f.blocks = p.count) && decide (f.sel = 0xFFFF)
  let addr (off : Nat) : Nat := addrOf img (j.f off 2)
  if inState = 3 then
    let st := range.flatMap (fun r => cbStatus (if chosen.contains r then
      { CbResult.off 0 with selected := true, skipped := true } else CbResult.off 0))
    (d, .done
      { final := 3, keep := [j.f 0x20 2],
        result := codecResult j 1 (8 + (if f.loop && !chosen.isEmpty then 4 else 0)) 0 chosen.length 0 0 0 f.blocks }
      [(addr 0x20, st)])
  else
    let offs := chosen.map (fun r => (r, blockBits f sched r))
    let acc0 : DecAcc :=
      { results := [], ext := [], halves := [], headers := [], mismatch := none, poison := 0, poisonAt := none,
        failed := none }
    let run := offs.foldl (fun (y : Nat × Dyn × DecAcc) o =>
      let e := o.2.1
      let c := if f.scr = 0 then List.replicate e false else gold cinit o.2.2 e
      (y.1 + e, decodeBlock1 img j.unit p u f e o.1 ((llrs.drop y.1).take e) c y.2)) (0, d, acc0)
    let d1 := run.2.1
    let acc := run.2.2
    match acc.failed with
    | some (a, status) => (d1, .detect (engineCond img d1 j.task a status) a)
    | none =>
      let find (r : Nat) : CbResult := match chosen.findIdx? (fun x => x == r) with
        | some i => acc.results.getD i (CbResult.off 0)
        | none => CbResult.off (p.bits r)
      let all := range.map find
      let payload := (range.zip all).flatMap (fun q => q.2.bits.take (p.bits q.1 - p.crcLen))
      let tbOk := tbCrc p.lte p.tbs (payload.take p.tbs) == (payload.drop p.tbs).take (tbCrcLen p.lte p.tbs)
      let passed := acc.results.countP (·.pass)
      let failed := acc.results.length - passed
      let tbPass := whole && decide (failed = 0) && tbOk
      let flags := b2n whole + 2 * b2n tbPass + 4 * b2n (f.loop && decide (0 < failed))
        + 16 * b2n (acc.poisonAt.isSome) + 32 * b2n (acc.mismatch.isSome)
      let iters := acc.results.map (·.iters)
      let res := codecResult j 0 flags passed failed (iters.foldl (· + ·) 0) (iters.foldl max 0)
        (acc.results.foldl (fun n r => n + r.sat) 0)
        (f.blocks - chosen.length + acc.results.countP (·.skipped))
      let out := bytesOfBits (if whole then payload.take p.tbs else payload)
      (softReports d1 j (j.f 0x10 2) (j.f 0x12 1) acc, .done
        { final := 2, result := res, headers := acc.headers }
        ([(addr 0x1E, out), (addr 0x20, all.flatMap cbStatus)]
          ++ (if f.loop then [(addr 0x22, acc.ext)] else []) ++ acc.halves))

/-- Bits of OUT (R119). -/
def outBits (p : DecPlan) (first blocks sel : Nat) : Nat :=
  if first = 0 ∧ blocks = p.count ∧ sel = 0xFFFF then p.tbs
  else ((List.range blocks).map (fun i => p.bits (first + i) - p.crcLen)).foldl (· + ·) 0

/-- A decode job of either kind (R104 to R122, Table 4.7). `mk` gives the plan for an LBRM, none when
the transport block cannot be cut. -/
def decodeJob (img : Img) (j : Job) (lte : Bool) (mk : Nat → Option DecPlan) (d : Dyn) : Dyn × JobEnd :=
  let ctx := j.f 0x10 2
  let flags := j.f 0xE 1
  let f : DecFields :=
    { qm := j.f 2 1, nl := j.f 3 1, g := j.f 8 4, first := j.f 0x16 2, blocks := j.f 0x18 2, sel := j.f 0x1A 2,
      scr := j.f 0xD 1, loop := bit flags 2, pass := j.f 0xF 1, newData := bit flags 1 }
  let tbs := j.f 4 4
  let bad1 := firstBad
    [ (!lte && !([1, 2]).contains (j.f 1 1), 1),
      (!([1, 2, 4, 6, 8, 10]).contains f.qm, 2),
      (decide (f.nl = 0) || decide (4 < f.nl), 3),
      (decide (tbs < 24) || decide (1277992 < tbs) || (mk 0).isNone
        || (match mk 0 with | some p => decide (256 < p.count) | none => false), 4),
      (decide (f.g % (f.nl * f.qm) ≠ 0), 8),
      (decide (3 < j.f 0xC 1), 0xC),
      (decide ((if lte then 1 else 2) < f.scr), 0xD),
      (lte && f.loop, 0xE),
      (decide (f.pass = 0) || decide ((if lte then 1 else 3) < f.pass), 0xF),
      (!ctxEnabled img || (poolOf img ctx).isNone, 0x10) ]
  match bad1, poolOf img ctx with
  | some off, _ => (d, j.bad off)
  | none, none => (d, j.bad 0x10)
  | none, some pool =>
    readCtx img j ctx d (fun uc d1 =>
      match mk uc.lbrm with
      | none => (d1, j.bad 4)
      | some p =>
        let maxNcb := (List.range p.count).foldl (fun m r => max m (p.ncb r)) 0
        let u : SoftUse :=
          { buf := softBuf img pool ctx (j.f 0x12 1), code := p.code, tbs, count := p.count, pass := f.pass,
            newData := f.newData, ncbMax := maxNcb }
        let bad2 := firstBad
          [ (!uc.valid || decide (maxNcb = 0) || decide (u.buf.procBytes < p.count * u.buf.stride maxNcb), 0x10),
            (decide (fld pool 4 1 ≤ j.f 0x12 1), 0x12),
            (decide (j.f 0x13 1 = 0) || decide ((if lte then 8 else 32) < j.f 0x13 1), 0x13),
            (decide (j.f 0x14 1 < 4) || decide (8 < j.f 0x14 1), 0x14),
            (decide (2 < j.f 0x15 1) || (lte && j.f 0x15 1 == 1), 0x15),
            (decide (p.count ≤ f.first), 0x16),
            (decide (f.blocks = 0) || decide (256 < f.blocks) || decide (p.count < f.first + f.blocks), 0x18),
            (decide (f.sel ≠ 0xFFFF) && (lte || badIn img d1 j f.sel (divUp p.count 8)), 0x1A) ]
        let selWant : List Want := if f.sel = 0xFFFF then []
          else [{ handle := f.sel, from_ := 0, bytes := divUp p.count 8, control := false }]
        withBufs img j bad2 selWant d1 (fun gs d2 =>
          let sched := scheduled f.sel p.count (gotAt gs 0).data
          let chosen := ((List.range f.blocks).map (f.first + ·)).filter (fun r => sched.contains r)
          let llen := chosen.foldl (fun a r => a + (blockBits f sched r).1) 0
          let out := divUp (outBits p f.first f.blocks f.sel) 8
          let inBad (h n : Nat) : Bool := badIn img d2 j h n || lengthBad img h n
          let outBad (h n : Nat) : Bool := badOut img d2 j h n || lengthBad img h n
          let bad3 := firstBad
            [ (inBad (j.f 0x1C 2) llen, 0x1C), (outBad (j.f 0x1E 2) out, 0x1E),
              (outBad (j.f 0x20 2) (4 * f.blocks), 0x20),
              (if f.loop then j.f 0x22 2 == 0xFFFF || outBad (j.f 0x22 2) llen else j.f 0x22 2 != 0xFFFF, 0x22) ]
          let cinit := if f.scr = 2 then uc.rnti * 2 ^ 15 + b2n (bit flags 0) * 2 ^ 14 + uc.nid
            else j.f 0x24 4 % 2 ^ 31
          withBufs img j bad3 [{ handle := j.f 0x1C 2, from_ := 0, bytes := llen, control := false }] d2
            (fun hs d3 => decodeRun img j p u f cinit sched (gotAt hs 0).state (llrsOf (gotAt hs 0).data llen) d3)))

/-- The plan of an LDPC decode (R95 to R99). -/
def ldpcPlan (j : Job) (lbrm : Nat) : Option DecPlan :=
  let tbs := j.f 4 4
  (ldpcCode (j.f 1 1) tbs).map (fun c =>
    let ncb := ldpcNcb c lbrm
    { lte := false, tbs, count := c.count, crcLen := c.crcLen, code := j.f 1 1 - 1, ncb := fun _ => ncb,
      positions := fun _ e => ldpcPositions c ncb (j.f 0xC 1) e (j.f 2 1),
      decode := fun _ iHi crc v => ldpcDecode c (j.f 0x14 1) (j.f 0x15 1) (j.f 0x13 1) iHi crc v,
      bits := fun _ => c.kp })

/-- The plan of a turbo decode (R95, R101, R104). -/
def turboPlan (j : Job) (lbrm : Nat) : Option DecPlan :=
  let tbs := j.f 4 4
  let s := turboSegs tbs
  let size (r : Nat) : Nat × Nat := s.sizes.getD r (40, 0)
  let ncb (r : Nat) : Nat := turboNcb (size r).1 s.count lbrm
  some { lte := true, tbs, count := s.count, crcLen := s.crcLen, code := 2, ncb,
         positions := fun r e => turboPositions (size r).1 (size r).2 (ncb r) (j.f 0xC 1) e,
         decode := fun r _ crc v =>
           turboDecode (size r).1 (size r).2 (j.f 0x14 1) (j.f 0x15 1) (j.f 0x13 1) crc v,
         bits := fun r => (size r).1 - (size r).2 }

/-! ### Encoding jobs (R94 to R97, R101, R104, R105, Table 4.8) -/

/-- What encoding needs of the code. -/
structure EncPlan where
  lte : Bool
  tbs : Nat
  count : Nat
  crcLen : Nat
  /-- Payload bits of code block r with its CRC. -/
  bits : Nat → Nat
  /-- Positions exist in the circular buffer at all. -/
  room : Bool
  /-- The E_r coded bits of code block r from its payload and CRC. -/
  code : Nat → Nat → List Bool → List Bool

/-- Payload and CRC of each code block (R94, R95). -/
def codeBlocks (p : EncPlan) (tb : List Bool) : List (List Bool) :=
  let all := tb ++ tbCrc p.lte p.tbs tb
  ((List.range p.count).foldl (fun (a : List (List Bool) × List Bool) r =>
    let n := p.bits r - p.crcLen
    let b := a.2.take n
    (a.1 ++ [if p.crcLen = 0 then b else b ++ crc24B b], a.2.drop n)) ([], all)).1

/-- An encode job of either kind. A context that it names is checked as a decode job's is (R107; log 158). -/
def encodeJob (img : Img) (j : Job) (lte : Bool) (mk : Nat → Option EncPlan) (d : Dyn) : Dyn × JobEnd :=
  let ctx := j.f 0x10 2
  let none_ := decide (ctx = 0xFFFF)
  let tbs := j.f 4 4
  let f : DecFields :=
    { qm := j.f 2 1, nl := j.f 3 1, g := j.f 8 4, first := j.f 0x12 2, blocks := j.f 0x14 2, sel := j.f 0x16 2,
      scr := j.f 0xD 1, loop := false, pass := 1, newData := false }
  let bad1 := firstBad
    [ (!lte && !([1, 2]).contains (j.f 1 1), 1),
      (!([1, 2, 4, 6, 8, 10]).contains f.qm, 2),
      (decide (f.nl = 0) || decide (4 < f.nl), 3),
      (decide (tbs < 24) || decide (1277992 < tbs) || (mk 0).isNone
        || (match mk 0 with | some p => decide (256 < p.count) | none => false), 4),
      (decide (f.g % (f.nl * f.qm) ≠ 0), 8),
      (decide (3 < j.f 0xC 1), 0xC),
      (decide ((if lte then 1 else 2) < f.scr) || (none_ && f.scr == 2), 0xD),
      (!none_ && (decide (16383 < ctx) || !ctxEnabled img), 0x10) ]
  let go (uc : UserCtx) (d1 : Dyn) : Dyn × JobEnd :=
    match mk uc.lbrm with
    | none => (d1, j.bad 4)
    | some p =>
      let bad2 := firstBad
        [ (!uc.valid || !p.room, 0x10),
          (decide (p.count ≤ f.first), 0x12),
          (decide (f.blocks = 0) || decide (256 < f.blocks) || decide (p.count < f.first + f.blocks), 0x14),
          (decide (f.sel ≠ 0xFFFF) && (lte || badIn img d1 j f.sel (divUp p.count 8)), 0x16) ]
      let selWant : List Want := if f.sel = 0xFFFF then []
        else [{ handle := f.sel, from_ := 0, bytes := divUp p.count 8, control := false }]
      withBufs img j bad2 selWant d1 (fun gs d2 =>
        let sched := scheduled f.sel p.count (gotAt gs 0).data
        let chosen := ((List.range f.blocks).map (f.first + ·)).filter (fun r => sched.contains r)
        let obits := chosen.foldl (fun a r => a + (blockBits f sched r).1) 0
        let inBytes := divUp tbs 8
        let bad3 := firstBad
          [ (badIn img d2 j (j.f 0x18 2) inBytes || lengthBad img (j.f 0x18 2) inBytes, 0x18),
            (badOut img d2 j (j.f 0x1A 2) (divUp obits 8) || lengthBad img (j.f 0x1A 2) (divUp obits 8), 0x1A) ]
        withBufs img j bad3 [{ handle := j.f 0x18 2, from_ := 0, bytes := inBytes, control := false }] d2
          (fun hs d3 =>
            if (gotAt hs 0).state = 3 then
              (d3, .done { final := 3, result := codecResult j 1 8 0 0 0 0 0 (f.blocks - chosen.length) } [])
            else
              let cinit := if f.scr = 2 then uc.rnti * 2 ^ 15 + b2n (bit (j.f 0xE 1) 0) * 2 ^ 14 + uc.nid
                else j.f 0x1C 4 % 2 ^ 31
              let cbs := codeBlocks p (bitsOf (gotAt hs 0).data tbs)
              let out := chosen.flatMap (fun r =>
                let (e, off) := blockBits f sched r
                let b := p.code r e (cbs.getD r [])
                if f.scr = 0 then b else xorBits b (gold cinit off e))
              (d3, .done
                { final := 2, result := codecResult j 0 0 0 0 0 0 0 (f.blocks - chosen.length) }
                [(addrOf img (j.f 0x1A 2), bytesOfBits out)])))
  match bad1 with
  | some off => (d, j.bad off)
  | none => if none_ then go { rnti := 0, nid := 0, valid := true, lbrm := 0 } d else readCtx img j ctx d go

/-- The plan of an LDPC encode. -/
def ldpcEncPlan (j : Job) (lbrm : Nat) : Option EncPlan :=
  let tbs := j.f 4 4
  (ldpcCode (j.f 1 1) tbs).map (fun c =>
    let ncb := ldpcNcb c lbrm
    { lte := false, tbs, count := c.count, crcLen := c.crcLen, bits := fun _ => c.kp, room := decide (ncb ≠ 0),
      code := fun _ e b =>
        let pos := ldpcPositions c ncb (j.f 0xC 1) e (j.f 2 1)
        let info := b ++ List.replicate (c.k - c.kp) false
        let cols := ldpcEncode c (c.rowsFor (pos.foldl max 0)) info
        pos.map (codeBit c cols) })

/-- The plan of a turbo encode. -/
def turboEncPlan (j : Job) (lbrm : Nat) : Option EncPlan :=
  let tbs := j.f 4 4
  let s := turboSegs tbs
  let size (r : Nat) : Nat × Nat := s.sizes.getD r (40, 0)
  some { lte := true, tbs, count := s.count, crcLen := s.crcLen, bits := fun r => (size r).1 - (size r).2,
         room := (List.range s.count).all (fun r => turboNcb (size r).1 s.count lbrm != 0),
         code := fun r e b =>
           let (k, fill) := size r
           let ds := turboEncode (List.replicate fill false ++ b)
           (turboPositions k fill (turboNcb k s.count lbrm) (j.f 0xC 1) e).map (fun w =>
             match turboAt k fill w with
             | some (st, i) => (ds.getD st []).getD i false
             | none => false) }

/-! ### TB_CRC and polar jobs (R102, R103, R119, Tables 4.9, 4.10) -/

/-- Bits of each code block of a transport block in a decode output, CRC and filler removed (R119), for
every base graph that can cut it (R95; Table 4.9 names none). -/
def blockPayloads (lte : Bool) (tbs : Nat) : List (List Nat) :=
  if lte then
    let s := turboSegs tbs
    [s.sizes.map (fun k => k.1 - k.2 - s.crcLen)]
  else
    ([1, 2].filterMap (fun bg => ldpcCode bg tbs)).map (fun c => List.replicate c.count (c.kp - c.crcLen))

/-- The bits that each buffer holds, whose sizes are given, when code blocks fill the buffers in order
and each buffer has just the size its blocks need; none when they do not fit. -/
def blocksIn : List Nat → List Nat → Option (List Nat)
  | [], [] => some []
  | [], _ :: _ => none
  | size :: rest, blocks =>
    match (List.range blocks.length).find? (fun n =>
        decide (64 * divUp ((blocks.take (n + 1)).foldl (· + ·) 0) 512 = size)) with
    | none => none
    | some n =>
      (blocksIn rest (blocks.drop (n + 1))).map ((blocks.take (n + 1)).foldl (· + ·) 0 :: ·)

/-- The bits of each input of a TB_CRC job, base graph 1 before base graph 2 (log 44). -/
def tbInputs (lte : Bool) (tbs : Nat) (sizes : List Nat) : Option (List Nat) :=
  (blockPayloads lte tbs).findSome? (blocksIn sizes)

/-- A TB_CRC job (R119): its inputs, each the bits of whole code blocks, are the transport block and its
CRC (log 44). -/
def tbCrcJob (img : Img) (j : Job) (d : Dyn) : Dyn × JobEnd :=
  let tbs := j.f 4 4
  let lte := decide (j.f 1 1 = 0)
  let count := j.f 2 1
  let need := tbs + tbCrcLen lte tbs
  let size (k : Nat) : Nat := ((bufferOf img (j.f 8 2 + k)).map Buf.size).getD 0
  let parts := tbInputs lte tbs ((List.range count).map size)
  let bad := firstBad
    [ (decide (1 < j.f 1 1), 1), (decide (count = 0) || decide (64 < count), 2),
      (decide (tbs < 24) || decide (1277992 < tbs) || parts.isNone, 4),
      (badRunOf (fun h => badIn img d j h 0) (j.f 8 2) count, 8),
      (badOut img d j (j.f 0xA 2) (divUp tbs 8) || lengthBad img (j.f 0xA 2) (divUp tbs 8), 0xA) ]
  withBufs img j bad ((List.range count).map (fun k =>
    { handle := j.f 8 2 + k, from_ := 0, bytes := size k, control := false : Want })) d (fun gs d1 =>
    if gs.any (fun g => g.state == 3) then
      (d1, .done { final := 3, result := codecResult j 1 (8 * b2n (gs.all (fun g => g.state == 3))) 0 0 0 0 0 0 } [])
    else
      let all := ((gs.zip (parts.getD [])).flatMap (fun p => bitsOf p.1.data p.2)).take need
      let ok := crcHolds (tbCrcLen lte tbs) (tbCrc lte tbs) all
      (d1, .done { final := 2, result := codecResult j 0 (1 + 2 * b2n ok) 0 0 0 0 0 0 }
        [(addrOf img (j.f 0xA 2), bytesOfBits (all.take tbs))]))

/-- A POLAR_DEC job (R103). A and E that admit no polar code are INVALID at E (log 161). -/
def polarDecJob (img : Img) (j : Job) (d : Dyn) : Dyn × JobEnd :=
  let a := j.f 4 2
  let e := j.f 8 4
  let code := uciCode a e
  let bad := firstBad
    [ (!([1, 2, 4, 8]).contains (j.f 1 1), 1), (decide (1 < j.f 2 1), 2),
      (decide (a < 12) || decide (1706 < a), 4),
      (decide (e = 0) || decide (16384 < e) || !code.2.ok, 8),
      (badIn img d j (j.f 0x14 2) e || lengthBad img (j.f 0x14 2) e, 0x14),
      (badOut img d j (j.f 0x16 2) (divUp a 8) || lengthBad img (j.f 0x16 2) (divUp a 8), 0x16) ]
  withBufs img j bad [{ handle := j.f 0x14 2, from_ := 0, bytes := e, control := false }] d (fun gs d1 =>
    if (gotAt gs 0).state = 3 then
      (d1, .done { final := 3, result := codecResult j 1 8 0 code.1 0 0 0 0 } [])
    else
      let raw := llrsOf (gotAt gs 0).data e
      let c := if j.f 2 1 = 0 then List.replicate e false else gold (j.f 0xC 4 % 2 ^ 31) (j.f 0x10 4) e
      let (bits, passed, count) := polarUci a e (j.f 1 1) ((raw.zip c).map (fun q => if q.2 then -q.1 else q.1))
      (d1, .done { final := 2, result := codecResult j 0 0 passed (count - passed) 0 0 0 0 }
        [(addrOf img (j.f 0x16 2), bytesOfBits bits)]))

/-- A POLAR_ENC job (R102). -/
def polarEncJob (img : Img) (j : Job) (d : Dyn) : Dyn × JobEnd :=
  let dci := decide (j.f 1 1 = 0)
  let a := j.f 4 2
  let e := j.f 8 4
  let bad := firstBad
    [ (decide (1 < j.f 1 1), 1), (decide (1 < j.f 2 1), 2),
      (if dci then decide (a < 12) || decide (140 < a) else decide (a ≠ 32), 4),
      ((if dci then decide (e = 0) || decide (8192 < e) else decide (e ≠ 864))
        || (polarDown dci 0 e (List.replicate a false)).isNone, 8),
      (badIn img d j (j.f 0x14 2) (divUp a 8) || lengthBad img (j.f 0x14 2) (divUp a 8), 0x14),
      (badOut img d j (j.f 0x16 2) (divUp e 8) || lengthBad img (j.f 0x16 2) (divUp e 8), 0x16) ]
  withBufs img j bad [{ handle := j.f 0x14 2, from_ := 0, bytes := divUp a 8, control := false }] d (fun gs d1 =>
    if (gotAt gs 0).state = 3 then
      (d1, .done { final := 3, result := codecResult j 1 8 0 0 0 0 0 0 } [])
    else
      let bits := (polarDown dci (j.f 6 2) e (bitsOf (gotAt gs 0).data a)).getD []
      let out := if j.f 2 1 = 0 then bits else xorBits bits (gold (j.f 0xC 4 % 2 ^ 31) (j.f 0x10 4) e)
      (d1, .done { final := 2, result := codecResult j 0 0 0 0 0 0 0 0 }
        [(addrOf img (j.f 0x16 2), bytesOfBits out)]))

/-! ### The commands -/

def execLdpcDec (e : Fin 48) (s : State) : Out :=
  act (runEngine (0x0400 + e.val) 0x21 (fun img j d => decodeJob img j false (ldpcPlan j) d)) s

def execLdpcEnc (e : Fin 48) (s : State) : Out :=
  act (runEngine (0x0400 + e.val) 0x22 (fun img j d => encodeJob img j false (ldpcEncPlan j) d)) s

def execTbCrc (e : Fin 48) (s : State) : Out := act (runEngine (0x0400 + e.val) 0x27 tbCrcJob) s

def execTurboDec (e : Fin 8) (s : State) : Out :=
  act (runEngine (0x0430 + e.val) 0x23 (fun img j d => decodeJob img j true (turboPlan j) d)) s

def execTurboEnc (e : Fin 8) (s : State) : Out :=
  act (runEngine (0x0430 + e.val) 0x24 (fun img j d => encodeJob img j true (turboEncPlan j) d)) s

def execPolarDec (e : Fin 8) (s : State) : Out := act (runEngine (0x0438 + e.val) 0x25 polarDecJob) s

def execPolarEnc (e : Fin 8) (s : State) : Out := act (runEngine (0x0438 + e.val) 0x26 polarEncJob) s

end Sys2Proof.Machine
end

