-- ==== Sys2Proof/Machine/FrameBuild.lean ====
section
/-! DEFINITION. Building and sending a frame: the words ready on the lane, and LINK (R270, R278, R290,
R295 to R308). The order in which a frame takes what is ready is the model's (log 35). -/

namespace Sys2Proof.Machine

/-- The words of a frame under construction, and the words that still fit. -/
def roomLeft (ws : List Nat) : Nat := 126 - ws.length

/-- Cut a bit string into 64-bit words (R288). -/
def cutWords (n x : Nat) : List Nat := (List.range n).map (fun k => (x >>> (64 * k)) % 2 ^ 64)

/-! ### Bridle -/

/-- Take whole units from a queue while they fit. -/
def takeUnits : List (List Nat) → List Nat → List Nat × List (List Nat)
  | [], ws => (ws, [])
  | u :: rest, ws => if u.length ≤ roomLeft ws then takeUnits rest (ws ++ u) else (ws, u :: rest)

/-- DELAY_REQ and TIME_MARK units (Table 11.3). -/
def delayReqUnit (id : Nat) : List Nat := [2 + 256 + 2 ^ 16 * 0x04 + 2 ^ 26 * id]
def timeMarkUnit (value : Nat) : List Nat := [2 + 256 + 2 ^ 16 * 0x03 + 2 ^ 24 * 1, value % 2 ^ 64]

/-- The TIME_MARK of a frame whose first symbol crosses the ball at `t` (in 1/256 Tc) (R300, R368). -/
def markValue (img : Img) (d : Dyn) (n t : Nat) : Nat :=
  let (x, den) := (laneDown img d n (laneRate img d n)).getD (0, 1)
  (roundDiv (((t : Int) + 256 * laneTxAdj img n) * den + x) (256 * den)).toNat

/-- The control units of a Bridle frame. -/
def bridleControl (img : Img) (d : Dyn) (n t : Nat) : List Nat × Dyn :=
  let b := (d.lane n).bridle
  let (w1, due) := takeUnits b.due []
  let w2 := w1 ++ (if b.reqDue && decide (1 ≤ roomLeft w1) then delayReqUnit b.reqId else [])
  let sent := b.reqDue && decide (1 ≤ roomLeft w1)
  let mark := b.markDue && decide (2 ≤ roomLeft w2)
  let w3 := w2 ++ (if mark then timeMarkUnit (markValue img d n t) else [])
  let (w4, one) := takeUnits (b.ctrlq.take 1) w3
  (w4, d.onBridle n (fun b => { b with
    due, markDue := b.markDue && !mark, reqDue := b.reqDue && !sent
    reqSent := if sent then some ((d.lane n).teth.frames, t) else b.reqSent
    ctrlq := if one.isEmpty then b.ctrlq.drop 1 else b.ctrlq }))

/-- An IQ unit header (Table 11.1). -/
def iqHeader (i : StreamInfo) (q slot first count : Nat) (zero last : Bool) : Nat :=
  1 + 2 ^ 4 * slot + 2 ^ 8 * b2n last + 2 ^ 9 * b2n zero + 2 ^ 10 * count + 2 ^ 16 * first
  + 2 ^ 28 * (q / i.syms % 10) + 2 ^ 32 * qSymbol i q + 2 ^ 40 * (q / i.syms / 10)

/-- A block record as EXP and packed mantissas (R292). -/
def recordBlock (r : List Byte) : Nat × Nat := ((r.headD 0).toNat % 16, leNat (r.drop 1))

/-- `c` blocks of the head container went out; after LAST it leaves and READERS falls (R129, R290). -/
def dlAdvance (img : Img) (d : Dyn) (n : Nat) (c : DlCont) (i : StreamInfo) (count : Nat) : Dyn :=
  if c.pos + count = qBlocks i c.q then
    decReaders img (d.onBridle n (fun b => { b with dlq := b.dlq.drop 1 })) c.handle
  else d.onBridle n (fun b => { b with dlq := { c with pos := c.pos + count } :: b.dlq.drop 1 })

/-- Fill the rest of a frame with IQ units of the waiting containers (R290, R295). -/
def fillIq (img : Img) (n : Nat) : Nat → List Nat → Dyn → List Nat × Dyn
  | 0, ws, d => (ws, d)
  | fuel + 1, ws, d =>
    match (d.lane n).bridle.dlq with
    | [] => (ws, d)
    | c :: rest =>
      match streamInfo img c.stream 1 with
      | none => fillIq img n fuel ws (decReaders img (d.onBridle n (fun b => { b with dlq := rest })) c.handle)
      | some i =>
        let left := min i.maxBlocks (qBlocks i c.q - c.pos)
        let unit (count : Nat) (zero : Bool) (payload : List Nat) : List Nat :=
          iqHeader i c.q c.slot c.pos count zero (decide (c.pos + count = qBlocks i c.q)) :: payload
        if roomLeft ws = 0 then (ws, d)
        else if c.zero then
          fillIq img n fuel (ws ++ unit left true []) (dlAdvance img d n c i left)
        else
          let a := bufAddr img c.handle + 0x40 + c.pos * i.recLen
          let (d1, r) := memLoad img d (laneSender n) a (left * i.recLen)
          if 2 ≤ r.status then
            let d2 := d1.onBridle n (fun b => { b with
              dlq := { c with zero := true } :: rest, erased := satAdd 0xFFFF b.erased 1 })
            fillIq img n fuel ws
              (event d2 (laneSrc n) 3 0x0589 (leBytes 2 c.stream ++ leBytes 4 c.q))
          else
            let blocks := (chunks i.recLen r.data).map recordBlock
            let zeroRun := (blocks.takeWhile (fun b => b.2 == 0)).length
            if zeroRun ≠ 0 then
              fillIq img n fuel (ws ++ unit zeroRun true []) (dlAdvance img d1 n c i zeroRun)
            else
              let run := (blocks.takeWhile (fun b => b.2 != 0)).length
              let bitsPer := 4 + 32 * i.width
              let count := min run ((roomLeft ws - 1) * 64 / bitsPer)
              if count = 0 then (ws, d1)
              else
                let x := (blocks.take count).foldr (fun b acc => b.1 + 16 * b.2 + 2 ^ bitsPer * acc) 0
                fillIq img n fuel (ws ++ unit count false (cutWords (divUp (count * bitsPer) 64) x))
                  (dlAdvance img d1 n c i count)

/-! ### Paretlink -/

/-- RESET, NAK, ACK and CREDIT units (R303 to R306). A unit accepted before frame F is acknowledged in frame F + 31 at
the latest (R304). -/
def linkControl (img : Img) (d : Dyn) (n : Nat) : List Nat × Dyn :=
  let k := (d.lane n).link
  let frames := (d.lane n).teth.frames
  let w1 := if k.resetLeft ≠ 0 then sealUnit [5] else []
  let ackAge := decide (k.unacked ≠ 0) && decide (k.unackedAt + 31 ≤ frames)
  let ack := ackAge || (k.ackDue && !k.nakDue)
  let w2 := w1 ++ (if k.nakDue then sealUnit [3 + 2 ^ 16 * k.rxPsn] else [])
    ++ (if ack then sealUnit [2 + 2 ^ 16 * k.rxPsn] else [])
  let d1 := d.onLink n (fun k => { k with
    resetLeft := k.resetLeft - 1, resetAt := if k.resetLeft ≠ 0 then some frames else k.resetAt
    naks := if k.nakDue then satAdd 0xFFFF k.naks 1 else k.naks, nakDue := false
    ackDue := k.ackDue && !ack, unacked := if ack then 0 else k.unacked })
  (laneVcs img n).foldl (fun (acc : List Nat × Dyn) v =>
    let x := acc.2.vc v
    let total := if vcEventWaits img acc.2 v then (x.advert.map (·.1)).getD 0 else grant img acc.2 v
    let due := match x.advert with
      | some (t, f) => decide (t ≠ total) || decide (f + 256 ≤ frames)
      | none => true
    if due && decide (2 ≤ roomLeft acc.1) then
      (acc.1 ++ sealUnit [4 + 2 ^ 4 * v + 2 ^ 32 * total],
        acc.2.onVc v (fun y => { y with advert := some (total, frames) }))
    else acc) (w2, d1)

/-- The next message of a VC, when it may start: its bytes and handle, whether it goes out erased, and
for VC 0 its bytes (R306, R308, R309). -/
def nextMessage (img : Img) (d : Dyn) (n v : Nat) : Option (Nat × Option Nat × Bool × List Byte) × Dyn :=
  let x := d.vc v
  let credit := (x.total + 65536 - x.txStarted) % 65536
  if credit = 0 ∨ 32768 ≤ credit then (none, d)
  else if v = 0 then
    match d.answers.drop ((x.txStarted + 65536 - x.txDone) % 65536) with
    | a :: _ => (some ((answerBytes a).length, none, false, answerBytes a), d)
    | [] => (none, d)
  else if x.txPosted = x.txStarted then (none, d)
  else
    let desc := bufAddr img (bits (vcConfig img v) 15 0) + 16 * (x.txStarted % 2 ^ txLog img v)
    let (d1, r) := memLoad img d (laneSender n) desc 16
    let h := fld r.data 4 2
    let st := (handleOf img d1 h).state
    if 2 ≤ r.status then (none, d1)
    else if st = 2 then (some (fld r.data 0 4, some h, false, []), d1)
    else if st = 3 ∨ st = 4 then (some (fld r.data 0 4, some h, true, []), d1)
    else (none, d1)

/-- Words of a message's payload from word `k` on; a failed read gives free values (log 36). -/
def messageWords (img : Img) (d : Dyn) (n : Nat) (t : OpenTx) (count : Nat) : List Nat × Dyn :=
  let len := min (8 * count) (t.bytes - 8 * t.words)
  match t.handle with
  | none => (cutWords count (leNat ((t.body.drop (8 * t.words)).take len)), d)
  | some h =>
    let (d1, r) := memLoad img d (laneSender n) (bufAddr img h + 8 * t.words) len
    if r.status < 2 then (cutWords count (leNat r.data), d1)
    else
      let (fv, d2) := freshNat d1
      (cutWords count fv, d2)

/-- A new DATA unit is numbered, kept and, when it ends a message, remembered (R303, R308). -/
def postUnit (d : Dyn) (n v : Nat) (u : List Nat) (last : Bool) : Dyn :=
  d.onLink n (fun k => { k with
    window := k.window ++ [(k.txPsn, u)], txPsn := (k.txPsn + 1) % 4096
    sent := if last then k.sent ++ [{ vc := v, lastPsn := k.txPsn }] else k.sent
    advanced := if k.window.isEmpty then (d.lane n).teth.frames else k.advanced })

/-- A DATA unit header (Table 11.4). -/
def dataHeader (v psn len bytes : Nat) (first last erased : Bool) : Nat :=
  1 + 2 ^ 4 * v + 2 ^ 10 * b2n first + 2 ^ 11 * b2n last + 2 ^ 12 * b2n erased + 2 ^ 16 * psn
  + 2 ^ 28 * len + 2 ^ 40 * (if first then bytes else 0)

/-- One more unit of the open message of a VC; with its last read the block gives READERS back (R308). -/
def sendPart (img : Img) (d : Dyn) (n v room : Nat) (t : OpenTx) (first : Bool) : List Nat × Dyn :=
  let left := divUp t.bytes 8 - t.words
  let len := min 124 (min left (room - 2))
  if len = 0 ∧ left ≠ 0 then ([], d)
  else
    let (ws, d1) := messageWords img d n t len
    let last := decide (t.words + len = divUp t.bytes 8)
    let u := sealUnit (dataHeader v (d1.lane n).link.txPsn len t.bytes first last false :: ws)
    let d2 := postUnit (match t.handle with
      | some h => if last then decReaders img d1 h else d1
      | none => d1) n v u last
    (u, d2.onVc v (fun x => { x with tx := if last then none else some { t with words := t.words + len } }))

/-- One DATA unit of a VC within `room` words, none when there is nothing to send. -/
def sendUnit (img : Img) (d : Dyn) (n v room : Nat) : List Nat × Dyn :=
  match (d.vc v).tx with
  | some t => sendPart img d n v room t false
  | none =>
    match nextMessage img d n v with
    | (none, d1) => ([], d1)
    | (some (bytes, handle, erased, body), d1) =>
      let started (d : Dyn) : Dyn := d.onVc v (fun x => { x with txStarted := (x.txStarted + 1) % 65536 })
      if erased then
        let u := sealUnit [dataHeader v (d1.lane n).link.txPsn 0 bytes true true true]
        (u, postUnit (started d1) n v u true)
      else if room < 3 ∧ bytes ≠ 0 then ([], d1)
      else
        let d2 := match handle with
          | some h => incReaders img d1 h
          | none => d1
        sendPart img (started d2) n v room { bytes, handle, words := 0, body } true

/-- Fill the rest of a frame with DATA units (R303, R308). -/
def fillData (img : Img) (n : Nat) : Nat → List Nat → Dyn → List Nat × Dyn
  | 0, ws, d => (ws, d)
  | fuel + 1, ws, d =>
    let k := (d.lane n).link
    if roomLeft ws < 2 ∨ 2048 ≤ k.window.length ∨ k.resend ≠ [] then (ws, d)
    else
      let (u, d1) := (laneVcs img n).foldl (fun (acc : List Nat × Dyn) v =>
        if acc.1.isEmpty then sendUnit img acc.2 n v (roomLeft ws) else acc) ([], d)
      if u.isEmpty then (ws, d1) else fillData img n fuel (ws ++ u) d1

/-- Units to be sent again (R303). -/
def resendUnits (d : Dyn) (n : Nat) (ws : List Nat) : List Nat × Dyn :=
  let (ws', rest) := takeUnits (d.lane n).link.resend ws
  (ws', d.onLink n (fun k => { k with resend := rest }))

/-! ### The frame -/

/-- The data words of the next frame in DATA. -/
def frameWords (img : Img) (d : Dyn) (n t : Nat) : List Nat × Dyn :=
  if n < 64 then
    let (ws, d1) := bridleControl img d n t
    fillIq img n 256 ws d1
  else
    let (w1, d1) := linkControl img d n
    let (w2, d2) := resendUnits d1 n w1
    fillData img n 126 w2 d2

/-- LINK (Table 10.5) of the next frame. -/
def linkWord (img : Img) (d : Dyn) (n : Nat) : Nat :=
  let t := (d.lane n).teth
  let phase := if t.state = stLead then 1 else if t.state = stBoth then 3 else 4
  let count := if t.state = stData then (match t.quietLeft with | some k => k - 1 | none => 0)
    else phaseLength t.state t.fast - 1 - t.phaseFrames
  phase + 2 ^ 4 * b2n t.fast + 2 ^ 8 * count + 2 ^ 24 * b2n (t.lock == 2)
  + 2 ^ 25 * b2n (rxGood img d n) + 2 ^ 26 * b2n (t.go && t.state == stBoth)
  + 2 ^ 28 * b2n (t.state == stData && t.quietLeft.isSome) + 2 ^ 32 * t.margin

/-- The next frame period of a lane: the frame that it sends, or a silent period of training (R269, R278,
R282). -/
def frameBuild (img : Img) (d : Dyn) (n : Nat) : Dyn :=
  let t := (d.lane n).teth
  let silent := !(t.state = stLead || t.state = stBoth || t.state = stData)
    || (t.state = stData && t.quietLeft == some 0)
  if silent then
    (if isTraining t.state then
      d.onTeth n (fun t => { t with frames := t.frames + 1, phaseFrames := t.phaseFrames + 1 })
    else d)
  else
    let at_ := d.now256At (laneSrc n) + txLatency256 (laneRate img d n)
    let link := linkWord img d n
    let (ws, d1) := if t.state = stData then frameWords img d n at_ else ([], d)
    let frame := encodeFrame t.txSeq 0 ws.length link ws
    let d2 := countEv (countEv d1 (laneSrc n) 0x0500 1 EvInfo.plain) (laneSrc n) 0x0501 ws.length EvInfo.plain
    d2.onTeth n (fun t => { t with
      txFrame := frame, txTime := at_, sending := true
      txBefore := if t.sending then symLevel t.txFrame 4351 else 0, txSeq := (t.txSeq + 1) % 65536, frames := t.frames + 1
      phaseFrames := t.phaseFrames + 1, quietLeft := t.quietLeft.map (· - 1) })

def execFrameBuild (l : Lane) (s : State) : Out := act (fun img d => frameBuild img d l.val) s

end Sys2Proof.Machine
end

