-- ==== Sys2Proof/Machine/Integer.lean ====
section
/-! DEFINITION. Bronze integer, immediate, pointer, branch and REP instructions (R192, R209). -/

namespace Sys2Proof.Machine

/-- d = f(a, b) (Table 7.17). -/
def aluR (c : Core) (rd ra rb : Reg5) (f : Word → Word → Word) (_ : Img) (d : Dyn) : Res :=
  setD d c rd (f (d.rd c.val ra) (d.rd c.val rb))

/-- d = sat32 of an exact result; DSAT on clip, which counts as a saturation (R209, Table 17.4). -/
def aluSat (c : Core) (rd : Reg5) (x : Int) (d : Dyn) : Res :=
  let cl := clips 32 x
  let d1 := countEv d (coreSrc c.val) 0x0108 (b2n cl)
    { EvInfo.plain with priv := Priv.num (d.status c.val).pl, icls := some 0 }
  setD (d1.dsat c.val cl) c rd (BitVec.ofInt 32 (satN 32 x))

/-- d = f(a), RB reserved. -/
def aluU (c : Core) (rd ra rsv : Reg5) (f : Word → Word) (_ : Img) (d : Dyn) : Res :=
  legally (decide (rsv = 0)) d (fun d => setD d c rd (f (d.rd c.val ra)))

/-- d = f(a, imm). -/
def aluI (c : Core) (rd ra : Reg5) (imm : Half) (f : Word → Half → Word) (_ : Img) (d : Dyn) : Res :=
  setD d c rd (f (d.rd c.val ra) imm)

/-- Leading zeros, 0 to 32. -/
def clz32 (x : Word) : Nat := 32 - (if x.toNat = 0 then 0 else Nat.log2 x.toNat + 1)

/-- Leading sign bits after bit 31, 0 to 31. -/
def cls32 (x : Word) : Nat := clz32 (if bit x.toNat 31 then ~~~x else x) - 1

def execAdd (c : Core) (rd ra rb : Reg5) (s : State) : Out :=
  act (bronze c 0 (aluR c rd ra rb (fun a b => a + b))) s
def execSub (c : Core) (rd ra rb : Reg5) (s : State) : Out :=
  act (bronze c 0 (aluR c rd ra rb (fun a b => a - b))) s
def execAdds (c : Core) (rd ra rb : Reg5) (s : State) : Out :=
  act (bronze c 0 (fun _ d => aluSat c rd ((d.rd c.val ra).toInt + (d.rd c.val rb).toInt) d)) s
def execSubs (c : Core) (rd ra rb : Reg5) (s : State) : Out :=
  act (bronze c 0 (fun _ d => aluSat c rd ((d.rd c.val ra).toInt - (d.rd c.val rb).toInt) d)) s
def execAnd (c : Core) (rd ra rb : Reg5) (s : State) : Out :=
  act (bronze c 0 (aluR c rd ra rb (fun a b => a &&& b))) s
def execOr (c : Core) (rd ra rb : Reg5) (s : State) : Out :=
  act (bronze c 0 (aluR c rd ra rb (fun a b => a ||| b))) s
def execXor (c : Core) (rd ra rb : Reg5) (s : State) : Out :=
  act (bronze c 0 (aluR c rd ra rb (fun a b => a ^^^ b))) s
def execAndn (c : Core) (rd ra rb : Reg5) (s : State) : Out :=
  act (bronze c 0 (aluR c rd ra rb (fun a b => a &&& ~~~b))) s
def execSll (c : Core) (rd ra rb : Reg5) (s : State) : Out :=
  act (bronze c 0 (aluR c rd ra rb (fun a b => a <<< (b.toNat % 32)))) s
def execSrl (c : Core) (rd ra rb : Reg5) (s : State) : Out :=
  act (bronze c 0 (aluR c rd ra rb (fun a b => a >>> (b.toNat % 32)))) s
def execSra (c : Core) (rd ra rb : Reg5) (s : State) : Out :=
  act (bronze c 0 (aluR c rd ra rb (fun a b => a.sshiftRight (b.toNat % 32)))) s
def execMul (c : Core) (rd ra rb : Reg5) (s : State) : Out :=
  act (bronze c 0 (aluR c rd ra rb (fun a b => a * b))) s
def execMulh (c : Core) (rd ra rb : Reg5) (s : State) : Out :=
  act (bronze c 0 (aluR c rd ra rb (fun a b => BitVec.ofInt 32 (a.toInt * b.toInt / 2 ^ 32)))) s
def execMulhu (c : Core) (rd ra rb : Reg5) (s : State) : Out :=
  act (bronze c 0 (aluR c rd ra rb (fun a b => BitVec.ofNat 32 (a.toNat * b.toNat / 2 ^ 32)))) s
def execSlt (c : Core) (rd ra rb : Reg5) (s : State) : Out :=
  act (bronze c 0 (aluR c rd ra rb (fun a b => if a.toInt < b.toInt then 1 else 0))) s
def execSltu (c : Core) (rd ra rb : Reg5) (s : State) : Out :=
  act (bronze c 0 (aluR c rd ra rb (fun a b => if a.toNat < b.toNat then 1 else 0))) s
def execMin (c : Core) (rd ra rb : Reg5) (s : State) : Out :=
  act (bronze c 0 (aluR c rd ra rb (fun a b => if a.toInt < b.toInt then a else b))) s
def execMax (c : Core) (rd ra rb : Reg5) (s : State) : Out :=
  act (bronze c 0 (aluR c rd ra rb (fun a b => if a.toInt < b.toInt then b else a))) s
def execAbs (c : Core) (rd ra rsv : Reg5) (s : State) : Out :=
  act (bronze c 0 (fun _ d => legally (decide (rsv = 0)) d
    (fun d => aluSat c rd ((d.rd c.val ra).toInt.natAbs : Int) d))) s
def execClz (c : Core) (rd ra rsv : Reg5) (s : State) : Out :=
  act (bronze c 0 (aluU c rd ra rsv (fun a => BitVec.ofNat 32 (clz32 a)))) s
def execCls (c : Core) (rd ra rsv : Reg5) (s : State) : Out :=
  act (bronze c 0 (aluU c rd ra rsv (fun a => BitVec.ofNat 32 (cls32 a)))) s
def execSexth (c : Core) (rd ra rsv : Reg5) (s : State) : Out :=
  act (bronze c 0 (aluU c rd ra rsv (fun a => (a.setWidth 16).signExtend 32))) s
def execZexth (c : Core) (rd ra rsv : Reg5) (s : State) : Out :=
  act (bronze c 0 (aluU c rd ra rsv (fun a => (a.setWidth 16).setWidth 32))) s

def execAddi (c : Core) (rd ra : Reg5) (imm : Half) (s : State) : Out :=
  act (bronze c 0 (aluI c rd ra imm (fun a i => a + i.signExtend 32))) s
def execSlti (c : Core) (rd ra : Reg5) (imm : Half) (s : State) : Out :=
  act (bronze c 0 (aluI c rd ra imm (fun a i => if a.toInt < i.toInt then 1 else 0))) s
def execAndi (c : Core) (rd ra : Reg5) (imm : Half) (s : State) : Out :=
  act (bronze c 0 (aluI c rd ra imm (fun a i => a &&& i.setWidth 32))) s
def execOri (c : Core) (rd ra : Reg5) (imm : Half) (s : State) : Out :=
  act (bronze c 0 (aluI c rd ra imm (fun a i => a ||| i.setWidth 32))) s
def execXori (c : Core) (rd ra : Reg5) (imm : Half) (s : State) : Out :=
  act (bronze c 0 (aluI c rd ra imm (fun a i => a ^^^ i.setWidth 32))) s
def execMovi (c : Core) (rd rsv : Reg5) (imm : Half) (s : State) : Out :=
  act (bronze c 0 (fun _ d => legally (decide (rsv = 0)) d
    (fun d => setD d c rd (imm.signExtend 32)))) s
def execMovhi (c : Core) (rd ra : Reg5) (imm : Half) (s : State) : Out :=
  act (bronze c 0 (aluI c rd ra imm (fun a i => i ++ a.setWidth 16))) s

/-- SHI (Table 7.17): IMM16[15:14] names the shift, [13:5] are reserved, [4:0] the amount. -/
def shiftImm (kind : Nat) (a : Word) (n : Nat) : Word :=
  if kind = 0 then a <<< n else if kind = 1 then a >>> n else a.sshiftRight n

def execShi (c : Core) (rd ra : Reg5) (imm : Half) (s : State) : Out :=
  act (bronze c 0 (fun _ d =>
    legally (decide (bits imm.toNat 15 14 ≠ 3) && decide (bits imm.toNat 13 5 = 0)) d
      (fun d => setD d c rd (shiftImm (bits imm.toNat 15 14) (d.rd c.val ra) (bits imm.toNat 4 0))))) s

/-! ### Pointer file (MAJOR 0x14) -/

/-- An instruction of the pointer file that names P, B, L or M registers in the fields `fs`. -/
def ptrOp (fs : List Reg5) (f : Dyn → Dyn) (_ : Img) (d : Dyn) : Res :=
  legally (fs.all isFile16) d (fun d => .done (f d) none)

def execMovp (c : Core) (rd ra rb : Reg5) (s : State) : Out :=
  act (bronze c 0 (ptrOp [rd] (fun d =>
    d.wp c.val rd.toNat ((d.rd c.val rb).setWidth 16 ++ d.rd c.val ra)))) s
def execAddp (c : Core) (rd ra rb : Reg5) (s : State) : Out :=
  act (bronze c 0 (ptrOp [rd, ra] (fun d =>
    d.wp c.val rd.toNat (d.rp c.val ra.toNat + (d.rd c.val rb).signExtend 48)))) s
def execSubp (c : Core) (rd ra rb : Reg5) (s : State) : Out :=
  act (bronze c 0 (ptrOp [ra, rb] (fun d =>
    d.wd c.val rd ((d.rp c.val ra.toNat - d.rp c.val rb.toNat).setWidth 32)))) s
def execRdpl (c : Core) (rd ra rsv : Reg5) (s : State) : Out :=
  act (bronze c 0 (fun img d => legally (decide (rsv = 0)) d
    (ptrOp [ra] (fun d => d.wd c.val rd ((d.rp c.val ra.toNat).setWidth 32)) img))) s
def execRdph (c : Core) (rd ra rsv : Reg5) (s : State) : Out :=
  act (bronze c 0 (fun img d => legally (decide (rsv = 0)) d
    (ptrOp [ra] (fun d => d.wd c.val rd ((d.rp c.val ra.toNat >>> 32).setWidth 32)) img))) s
def execMovb (c : Core) (rd ra rsv : Reg5) (s : State) : Out :=
  act (bronze c 0 (fun img d => legally (decide (rsv = 0)) d
    (ptrOp [rd, ra] (fun d => d.wb c.val rd.toNat (d.rp c.val ra.toNat)) img))) s
def execRdb (c : Core) (rd ra rsv : Reg5) (s : State) : Out :=
  act (bronze c 0 (fun img d => legally (decide (rsv = 0)) d
    (ptrOp [rd, ra] (fun d => d.wp c.val rd.toNat (d.rb c.val ra.toNat)) img))) s
def execMovl (c : Core) (rd ra rsv : Reg5) (s : State) : Out :=
  act (bronze c 0 (fun img d => legally (decide (rsv = 0)) d
    (ptrOp [rd] (fun d => d.wl c.val rd.toNat (d.rd c.val ra)) img))) s
def execRdl (c : Core) (rd ra rsv : Reg5) (s : State) : Out :=
  act (bronze c 0 (fun img d => legally (decide (rsv = 0)) d
    (ptrOp [ra] (fun d => d.wd c.val rd (d.rl c.val ra.toNat)) img))) s
def execMovm (c : Core) (rd ra rsv : Reg5) (s : State) : Out :=
  act (bronze c 0 (fun img d => legally (decide (rsv = 0)) d
    (ptrOp [rd] (fun d => d.wm c.val rd.toNat (d.rd c.val ra)) img))) s
def execRdm (c : Core) (rd ra rsv : Reg5) (s : State) : Out :=
  act (bronze c 0 (fun img d => legally (decide (rsv = 0)) d
    (ptrOp [ra] (fun d => d.wd c.val rd (d.rm c.val ra.toNat)) img))) s
def execMovpp (c : Core) (rd ra rsv : Reg5) (s : State) : Out :=
  act (bronze c 0 (fun img d => legally (decide (rsv = 0)) d
    (ptrOp [rd, ra] (fun d => d.wp c.val rd.toNat (d.rp c.val ra.toNat)) img))) s

/-! ### Branches and jumps -/

/-- PC + 4 x an offset (R209). -/
def pcRel (d : Dyn) (c : Nat) (off : Int) : Addr := d.pc c + BitVec.ofInt 48 (4 * off)

/-- The PC is always a multiple of 4 (Table 7.1): the low bits of a jump's pointer are dropped (log 18). -/
def alignPc (a : Addr) : Addr := BitVec.ofNat 48 (a.toNat / 4 * 4)

def execJr (c : Core) (rsvD ra rsvB : Reg5) (s : State) : Out :=
  act (bronze c 4 (fun _ d => legally (decide (rsvD = 0) && decide (rsvB = 0) && isFile16 ra) d
    (fun d => .done d (some (alignPc (d.rp c.val ra.toNat)))))) s
def execJalr (c : Core) (rsvD ra rsvB : Reg5) (s : State) : Out :=
  act (bronze c 4 (fun _ d => legally (decide (rsvD = 0) && decide (rsvB = 0) && isFile16 ra) d
    (fun d =>
      let d1 := d.wp c.val 15 (d.pc c.val + 4)
      .done d1 (some (alignPc (d1.rp c.val ra.toNat)))))) s
def execAdr (c : Core) (rd : Reg5) (rsv : BitVec 3) (off : BitVec 18) (s : State) : Out :=
  act (bronze c 0 (fun _ d => legally (decide (rsv = 0) && isFile16 rd) d
    (fun d => .done (d.wp c.val rd.toNat (pcRel d c.val (sx 18 off.toNat))) none))) s

/-- Whether a value satisfies COND (Table 7.17). -/
def brTaken (cond : Nat) (a : Word) : Bool :=
  match cond with
  | 0 => decide (a.toInt = 0)
  | 1 => decide (a.toInt ≠ 0)
  | 2 => decide (a.toInt < 0)
  | 3 => decide (0 ≤ a.toInt)
  | 4 => decide (0 < a.toInt)
  | 5 => decide (a.toInt ≤ 0)
  | _ => true

def execBr (c : Core) (ra : Reg5) (cond : BitVec 3) (off : BitVec 18) (s : State) : Out :=
  act (bronze c 4 (fun _ d =>
    legally (decide (cond.toNat ≠ 7) && (decide (cond.toNat ≠ 6) || decide (ra = 0))) d
      (fun d => .done d (if brTaken cond.toNat (d.rd c.val ra)
        then some (pcRel d c.val (sx 18 off.toNat)) else none)))) s
def execJ (c : Core) (off : BitVec 26) (s : State) : Out :=
  act (bronze c 4 (fun _ d => .done d (some (pcRel d c.val (sx 26 off.toNat))))) s
def execJal (c : Core) (off : BitVec 26) (s : State) : Out :=
  act (bronze c 4 (fun _ d =>
    .done (d.wp c.val 15 (d.pc c.val + 4)) (some (pcRel d c.val (sx 26 off.toNat))))) s

/-! ### REP (R192) -/

/-- A word that may not be the body of a REP: a branch or jump, REP, an atomic, a fence, a system
or task instruction (R192, Tables 7.10, 7.17). -/
def repBodyIllegal (w : Word) : Bool :=
  let major := bits w.toNat 31 26
  let func := bits w.toNat 10 0
  [0x1C, 0x1D, 0x1E, 0x1F, 0x13, 0x3E, 0x3F].contains major
  || (major == 0x14 && (func == 12 || func == 13))

def execRep (c : Core) (ra : Reg5) (imm : Bool) (rsv : BitVec 4) (count : Half) (body : Word)
    (s : State) : Out :=
  act (bronze c 4 (fun _ d =>
    let n := if imm then count.toNat + 1 else (d.rd c.val ra).toNat
    legally (decide (rsv = 0) && (if imm then decide (ra = 0) else decide (count = 0))
        && decide (n ≤ 65536) && !repBodyIllegal body) d
      (fun d =>
        if n = 0 then .done d (some (d.pc c.val + 8))
        else .done (d.onCtl c.val (fun x =>
          { x with rc := BitVec.ofNat 17 n, repDone := 0, status := { x.status with inrep := true } })) none))) s

end Sys2Proof.Machine
end

