-- ==== Sys2Proof/Machine/MemoryOps.lean ====
section
/-! DEFINITION. The commands on memory itself (13): accesses, the scrubber and the leaky bucket. -/

namespace Sys2Proof.Machine

/-- Keep the response of an access for its master to see. -/
def answered (r : Dyn × Resp) : Dyn := { r.1 with mem := { r.1.mem with lastResp := r.2 } }

def execMemoryRead (m : Master) (addr : Addr) (length : Nat) (s : State) : Out :=
  act (fun img d => answered (memLoad img d (senderOf m) addr.toNat length)) s

def execMemoryWrite (m : Master) (addr : Addr) (data : List Byte) (s : State) : Out :=
  act (fun img d => answered (memStore img d (senderOf m) addr.toNat data)) s

/-- An atomic of a master (R345). An address that is not word aligned has no word to act on and
answers ERROR, reason TARGET (log 27). -/
def execMemoryAtomic (m : Master) (addr : Addr) (func : BitVec 3) (operand compare : Word)
    (s : State) : Out :=
  act (fun img d =>
    if addr.toNat % 4 ≠ 0 then answered (d, { status := 5, reason := 3, data := [] })
    else answered (memPacket img d (senderOf m) addr.toNat (.atomic func.toNat operand.toNat compare.toNat))) s

/-- A write that touches the handle table (R127). -/
def execHandleTableWrite (m : Master) (addr : Addr) (data : List Byte) (s : State) : Out :=
  act (fun img d => when_ (hitsHandleTable img addr.toNat data.length)
    (fun d => answered (memStore img d (senderOf m) addr.toNat data)) d) s

/-! ### The scrubber (R348, R349) -/

/-- The regions that the scrubbers visit, by rising base: none outside SERVICE, where they make no laps
(R454). -/
def regionsNow (img : Img) (d : Dyn) : List RegionInfo :=
  if d.dst.state = .service then sortBy RegionInfo.base ((img.records secRegions).map regionOfRecord) else []

/-- The first block of region `r` at or after `pos` that lies in `unit`. Every aligned 8 KiB holds
lines of every unit (R335). -/
def blockFrom (unit pos : Nat) (r : RegionInfo) : Option Nat :=
  let b := blockSize r.geom
  let lo := divUp (max pos r.base - r.base) b * b + r.base
  ((List.range (2 * 8192 / b)).map (fun i => lo + i * b)).find?
    (fun a => decide (a < r.base + r.len) && memUnitOf a == some unit)

/-- The block that the unit's scrubber visits next, with its region. -/
def nextBlock (img : Img) (d : Dyn) (unit pos : Nat) : Option (Nat × RegionInfo) :=
  (regionsNow img d).findSome? (fun r => (blockFrom unit pos r).map (fun a => (a, r)))

/-- The end of a lap, by the unit's local tick time (R349). -/
def endLap (d : Dyn) (unit : Nat) : Dyn :=
  let ms := divRound (d.nowAt unit - (d.memUnit unit).lapStart) 1966080
  let d1 := d.setMemUnit unit (fun u =>
    { u with lapMs := min ms 0xFFFFFFFF, laps := satAdd 0xFFFF u.laps 1, pos := 0, lapStart := d.nowAt unit,
             limitSaid := false })
  event d1 unit 0 0x0783 (leBytes 2 unit ++ leBytes 4 (min ms 0xFFFFFFFF))

/-- One visit: the block is read and decoded, corrected, poisoned or passed over, and a disagreement of its flag's
copies is a corrected error of a poisoned block too (R339, R348). -/
def scrubVisit (img : Img) (d : Dyn) (unit : Nat) : Dyn :=
  match nextBlock img d unit (d.memUnit unit).pos with
  | none => d
  | some (a, r) =>
    let i : EvInfo := { EvInfo.plain with addr := some a }
    let d1 := countEv d unit 0x0703 1 i
    let d2 := (settleBlock img d1 unit a 2 r).1
    let wait := divUp (bits (img.reg 0x07000000) 15 0 * 196608) 100000
    let d3 := d2.setMemUnit unit (fun u => { u with pos := a + blockSize r.geom, nextVisit := d.now + wait })
    if (nextBlock img d3 unit (a + blockSize r.geom)).isNone then endLap d3 unit else d3

def execScrubVisit (u : Fin 48) (s : State) : Out :=
  act (fun img d => when_ (decide ((d.memUnit (0x0700 + u.val)).nextVisit ≤ d.now))
    (fun d => scrubVisit img d (0x0700 + u.val)) d) s

/-- A lap past LAP_LIMIT seconds, reported once per lap (R349); a unit without a block of a region makes
no laps (R348). -/
def execLapLimit (u : Fin 48) (s : State) : Out :=
  act (fun img d =>
    let unit := 0x0700 + u.val
    let x := d.memUnit unit
    let limit := bits (img.reg 0x07000000) 31 16
    when_ (decide (limit ≠ 0) && !x.limitSaid && (nextBlock img d unit 0).isSome && decide (limit * 1000 * 1966080 < d.nowAt unit - x.lapStart))
      (fun d => event (d.setMemUnit unit (fun y => { y with limitSaid := true })) unit 7 0x0784 []) d) s

/-- The unit's tick time has reached multiples of LEAK_MS (R351). -/
def execBucketLeak (u : Fin 48) (s : State) : Out :=
  act (fun img d => bucketLeak img d (0x0700 + u.val)) s

end Sys2Proof.Machine
end

