-- ==== Sys2Proof/Machine/Start.lean ====
section
/-! DEFINITION. The start sequence from reset to SERVICE, HOLD or RECOVERY (R31, R35, R37 to R46, R283,
R353, R387, R442). One command stands for the whole of it: every phase shows only on its way (log 65). -/

namespace Sys2Proof.Machine

/-! ### Reports and load status (R41, Table 2.14) -/

/-- The supervisor's reports of a start reach the log as they are issued. -/
def acceptAll (d : Dyn) : Dyn := (List.range 4).foldl (fun d _ => acceptReport d 0x0C00) d

def startReport (d : Dyn) (r : Report) : Dyn := acceptReport (issue (acceptAll d) r) 0x0C00

/-- A load refusal's report (R41, R414); copy 0 is none. -/
def refusalReport (copy : Nat) (d : Dyn) (r : Refuse) : Dyn :=
  startReport d (mkReport d 0x0C00 4 1 r.code none 0
    (leBytes 1 copy ++ leBytes 1 r.sect ++ leBytes 1 r.earlier ++ zeros 1 ++ leBytes 4 r.rec_ ++ leBytes 4 r.earlierRec))

/-- LOAD_STATUS of a copy (Table 2.14). -/
def loadStatus (l : List Refuse) : Word :=
  match l with
  | [] => 0
  | r :: _ => BitVec.ofNat 32 (r.code * 65536 + r.sect * 256 + min 255 l.length)

/-- A copy is refused: up to 64 reports, and its LOAD_STATUS. -/
def copyRefused (copy : Nat) (l : List Refuse) (d : Dyn) : Dyn :=
  let d1 := (l.take 64).foldl (refusalReport copy) d
  { d1 with dst :=
      if copy = 1 then { d1.dst with loadA := loadStatus l } else { d1.dst with loadB := loadStatus l } }

/-! ### Clocks, boot link and the states a start ends in (R442, R283, R45, R46) -/

/-- `x` lies within `ppm` parts per million of `y`. -/
def within (x y ppm : Nat) : Bool := decide ((x - y + (y - x)) * 1000000 ≤ y * ppm)

/-- Phase 0x02 refuses the clocks (R442). -/
def clocksBad (env : StartEnv) : Bool :=
  !([30720000, 122880000].any (fun f => within env.trefHz f 100 && within env.trefAonHz f 20000)
    && within env.lrefAonHz 156250000 20000)

/-- The boot link of phase 0x03: lane 64 trains with its fixed settings, and is in DATA when the sender
says that it is (R283). What its training found and what its partner shows is open: free values, with windows
placed as R268 places them (log 150). -/
def bootLink (env : StartEnv) (d : Dyn) : Dyn :=
  if env.bootLink then
    let (v, d1) := freshNat d
    let (w, d2) := freshNat d1
    let (x, d3) := freshNat d2
    let (y, d4) := freshNat d3
    d4.onTeth 64 (fun _ => { TetherSt.reset with
      boot := true, state := stData, go := true, kept := true, lock := 2, trained := 1
      lastSeq := v % 65536, margin := w % 256, inverted := bit x 0, partnerGood := bit x 1, partnerLock := bit x 2
      partnerAsk := bit x 3, partnerMargin := bits x 15 8, echoRes := bits x 23 16, iters := [bits x 27 24 % 9]
      framesLost := bits y 31 0, framesFixed := bits y 63 32, losses := bits y 79 64, takeovers := bits y 87 80
      windows := placeWindows ((List.range 2560).map (fun k => (Config.lmsTap w k).natAbs))
      taps := LaneTaps.adapted v })
  else d.onTeth 64 (fun _ => { TetherSt.reset with boot := true, state := stSilence })

/-- The domains that stay on while no image runs: lane 64's, for the boot link (R45). -/
def idleDomains : Map Bool := [(201, true)]

/-- Every switchable unit is off but lane 64: its endpoints are fenced (R45). -/
def fenceOff (d : Dyn) : Dyn :=
  (((List.range domainCount).map domainEndpoints).flatten.eraseDups).foldl (fun d e =>
    if endpointOff d e then applyMode d e 1 else d) d

/-- A start, or an ENTER_RECOVERY, ends without a running image: cores halted, engines off and without
jobs, Bridle lanes silent, the dispatcher as at reset (R45, R46; log 66). A cipher lock is held until the next
start (R385). -/
def endIdle (st : DevState) (d : Dyn) : Dyn :=
  fenceOff { d with
    dst := { d.dst with state := st, phase := 0, startReady := false }
    cores := []
    tiles := []
    disp := DispSt.reset
    units := d.units.map (fun e => (e.1, { UnitSt.idle with withheld := e.2.withheld }))
    cipher := d.cipher.map (fun x => (x.1, { CipherSt.reset with
      owner := x.2.owner, pending := x.2.pending, urgent := x.2.urgent }))
    vcs := d.vcs.filter (fun e => e.1 == 0)
    lanes := d.lanes.filter (fun e => e.1 == 64)
    power := { d.power with on := idleDomains, current := 0, target := 0, pend := none, busy := false
                            rollback := false, todo := [], stopped := [], leaving := none, fencing := false
                            releasing := none, rising := none, good := none, copied := false } }

/-- The start ends in HOLD (R45). -/
def holdNow (d : Dyn) : Img × Dyn := (Img.reset, endIdle .hold d)

/-- A refusal of the device scope (R42). -/
def deviceRefused (copy code : Nat) (d : Dyn) : Img × Dyn := holdNow (refusalReport copy d (refuseAll code))

/-! ### Self-test (R38, R283, R353) -/

/-- The phase that tests a unit (Table 2.7). -/
def testPhase (s : Nat) : Nat := if srcSub s = 7 then 0x10 else if srcSub s = 5 then 0x12 else 0x11

/-- A unit that a degraded start may withhold (R38). -/
def mayWithhold (img : Img) (s : Nat) : Bool :=
  [1, 2, 3, 4, 9].contains (srcSub s) || (srcSub s == 5 && (laneRecord img (srcInst s)).isNone)

/-- A loopback test of a configured lane fails: a frame was lost, or MARGIN did not reach 80 (R283). -/
def loopFails (env : StartEnv) (img : Img) (s : Nat) : Bool :=
  srcSub s == 5 && (laneRecord img (srcInst s)).isSome
  && env.loops.any (fun x => x.lane.val == srcInst s && (x.lost != 0 || decide (x.margin < 80)))

/-- The failing units of a phase; lane 64 counts as passed on a live boot link (R283). -/
def failsIn (env : StartEnv) (img : Img) (phase : Nat) : List Nat :=
  allSources.filter (fun s => (env.failing.any (fun x => x.toNat == s) || loopFails env img s)
    && testPhase s == phase && !(s == 0x0540 && env.bootLink))

/-- The units that a failing unit withholds: with a Pewter engine its whole tile (R38). -/
def withheldBy (s : Nat) : List Nat :=
  if srcSub s = 2 then s :: (List.range 4).map (fun k => 0x0100 + 4 * srcInst s + k) else [s]

def selftestReport (d : Dyn) (s : Nat) : Dyn :=
  startReport d (mkReport d 0x0C00 6 2 0x0C82 none 0 (leBytes 2 s))

/-- The self-test phases in order: the state with the reports, and the units withheld; none where the
start ends in HOLD. -/
def selfTest (env : StartEnv) (img : Img) (degraded : Bool) : List Nat → List Nat → Dyn → Option (List Nat) × Dyn
  | [], held, d => (some held, d)
  | p :: rest, held, d =>
    let l := failsIn env img p
    let d1 := l.foldl selftestReport d
    if l.all (fun s => degraded && mayWithhold img s) then
      selfTest env img degraded rest (held ++ (l.map withheldBy).flatten) d1
    else (none, d1)

/-! ### Apply and SERVICE (R31, R35, R39, R40) -/

/-- The first source identifier of a capability's instances, none for instances without one (Table 2.17). -/
def capSource (id : Nat) : Option Nat :=
  match id with
  | 0x0101 => some 0x0100
  | 0x0201 => some 0x0200
  | 0x0301 => some 0x0300
  | 0x0302 => some 0x0320
  | 0x0401 => some 0x0400
  | 0x0402 => some 0x0430
  | 0x0403 => some 0x0438
  | 0x0501 => some 0x0500
  | 0x0601 => some 0x0600
  | 0x0701 => some 0x0700
  | 0x0702 => some 0x0710
  | 0x0801 => some 0x0800
  | 0x0901 => some 0x0900
  | 0x0A01 => some 0x0A01
  | 0x0C01 => some 0x0C00
  | _ => none

/-- The availability bits (R49): an instance is available unless the start withheld it. -/
def availability (held : List Nat) : Map Nat :=
  capTable.map (fun e => (e.1, (List.range e.2).foldl (fun n i =>
    n + (match capSource e.1 with
      | some s => if held.contains (s + i) then 0 else 2 ^ i
      | none => 2 ^ i)) 0))

/-- LOADED_IMAGE (Table 2.15). -/
def loadedWord (im : Image) (minSecver : Nat) (degraded : Bool) : Word :=
  BitVec.ofNat 32 (im.secver * 65536 + minSecver * 256 + b2n degraded * 8 + im.flags % 2 * 4 + im.copy)

/-- Memory as the apply step leaves it: zeros with valid check bits, the programs, and the handle table
(R31, R125, R127, R337). -/
def loadMemory (img : Img) (im : Image) : MemSt :=
  let c1 := (im.sects.filter (fun s => s.type == secProgram)).foldl
    (fun m s => Memory.writeN m (fld s.body 8 6) (s.body.drop 56)) []
  let c2 := match handleTable img with
    | none => c1
    | some base => (img.records secBuffers).foldl (fun m r =>
        (List.range (fld r 4 4)).foldl (fun m k =>
          let h := fld r 0 2 + k
          match bufferOf img h with
          | some b => Memory.writeN m (base + 16 * h) (handleBytes b (handleInit img h))
          | none => m) m) c1
  { MemSt.reset with cells := c2, coded := true, staged := true }

/-- The standing orders of the image in their entries (R145). -/
def loadOrders (img : Img) : Map Order :=
  (numbered (img.records secOrders)).map (fun e => (e.1, { record := e.2, image := true, counts := [] }))

/-- The image's keys enter their slots (R388). -/
def loadKeys (img : Img) (d : Dyn) : Dyn :=
  let kek := (d.key 63).key
  (img.records secKeys).foldl (fun d r =>
    match keyUnwrap kek ((r.drop 8).take 40) with
    | some k => writeKey d (fld r 0 1) (leNat k) (fld r 1 1) 1
    | none => d) d

/-- RUN_AT_START (Tables 14.5, 14.11). -/
def runAtStart (img : Img) : Nat :=
  (img.records secPulses).foldl (fun m r => if bit (fld r 3 1) 0 then m ||| 2 ^ fld r 0 1 else m) 0

/-- The RW fields of the REGISTERS records, in record order, as writes of the supervisor (R30; log 64). -/
def loadRw (img : Img) (d : Dyn) : Dyn :=
  (img.records secRegisters).foldl (fun d r =>
    let off := fld r 0 4
    let k := Nat.land (fld r 4 4) (rwBits off)
    if k = 0 then d
    else
      let old := (regRead img d .supervisor off).2
      regWrite img d .supervisor off
        (BitVec.ofNat 32 ((old ^^^ Nat.land old k) ||| Nat.land (fld r 8 4) k))) d

/-- Lanes at SERVICE: OFF without power, QUIET by START_QUIET, else a full training (R40, R257). -/
def startLane (img : Img) (d : Dyn) (n : Nat) : Dyn :=
  match laneRecord img n with
  | none => d
  | some r =>
    if !d.powered (laneSrc n) then d.onTeth n (fun t => { t with state := stOff })
    else if bit (fld r 3 1) 1 then d.onTeth n (fun t => { t with state := stQuiet })
    else startAttempt img d n false

/-- Step 11: the configuration, and the machine it is applied to (R39, R40). -/
def applyImage (im : Image) (held : List Nat) (d : Dyn) : Img × Dyn :=
  let cfg := im.config
  let img := { cfg with
    loaded := loadedWord im d.fuse.minSecver (!held.isEmpty)
    copyAt := (im.offset, im.length)
    avail := availability held }
  let d1 := held.foldl (fun d s => d.setUnit s (fun u => { u with withheld := true })) { d with units := [] }
  let on := ((List.range domainCount).filter (fun k => !offInFull img d1 k)).map (fun k => (k, true))
  let d2 := { d1 with
    mem := loadMemory img im
    disp := { DispSt.reset with orders := loadOrders img }
    fab := FabSt.reset
    power := { PowerSt.reset with
      on, avsTarget := d1.power.avsTarget, vout := d1.power.vout, noAck := d1.power.noAck
      avsFault := d1.power.avsFault, avsRail := d1.power.avsRail, avsAt := d1.power.avsAt }
    lanes := (d1.lanes.filter (fun e => e.1 == 64)).map (fun e =>
      (e.1, { e.2 with teth := { e.2.teth with boot := false } }))
    vcs := d1.vcs.filter (fun e => e.1 == 0)
    time := { d1.time with
      run := runAtStart img
      servo := if timePorts img = 0 then .freerun else .acquiring } }
  let d3 := loadRw img (loadKeys img (fenceOff d2))
  (img, { d3 with perf := { d3.perf with epoch := epochOf img d3 } })

/-- The scrubbers' first laps begin, every cell is inactive, and the grid's events count from now
(R348, R349, R364, R367, R372, R373). -/
def startUnits (img : Img) (d : Dyn) : Dyn :=
  gridFrom img { d with
    mem := { d.mem with units := (List.range 48).map (fun u => (u, { MemUnit.reset with lapStart := d.nowAt (0x0700 + u) })) }
    time := { d.time with cellActive := [] } }

/-- Step 12 (R31, R35, R37): SERVICE, the programs start, and MIN_SECVER is raised. The class 0 report for
RAISE_SECVER with SIGNED 0 comes here, when that copy reaches SERVICE: the model's choice (log 142). -/
def enterService (im : Image) (img : Img) (d : Dyn) : Dyn :=
  let d1 := { d with dst := { d.dst with state := .service, phase := 0x20, startReady := false } }
  let d2 := (List.range 80).foldl (startLane img) (startUnits img d1)
  let d3 := (List.range 192).foldl (fun d c =>
    if (programOf img c).isSome && d.powered (coreSrc c) then d.setCore c (startedCore img d c) else d) d2
  if !bit im.flags 1 then d3
  else if bit im.flags 0 then { d3 with fuse := { d3.fuse with minSecver := max d3.fuse.minSecver im.secver } }
  else startReport d3 (mkReport d3 0x0C00 0 2 0x0C81 none 0 [])

/-- The memory self-test passed: every block outside the staging area holds zeros with valid check bits
(R337). -/
def zeroMemory (d : Dyn) : Dyn := { d with mem := { d.mem with coded := true } }

/-- Steps 8 to 12 with a copy that the checks accept. -/
def runImage (env : StartEnv) (im : Image) (d : Dyn) : Img × Dyn :=
  let refuse (code : Nat) (d : Dyn) : Img × Dyn :=
    holdNow (copyRefused im.copy [refuseAll code] d)
  match selfTest env im.config (bit im.flags 2) [0x10, 0x11, 0x12] [] d with
  | (none, d1) => refuse 0x0A01 (if (failsIn env im.config 0x10).isEmpty then zeroMemory d1 else d1)
  | (some held, d1) =>
    if env.applyError then refuse 0x0B01 (zeroMemory d1)
    else
      let (img, d2) := applyImage im held d1
      (img, enterService im img d2)

/-- The bytes of a copy that phase 0x06 reads whole: its range and its header are accepted (R456 steps 1
to 8). -/
def stagedBytes (f : FlashSt) (fuse : FuseSt) (dir : BootDir) (copy : Nat) : List Byte :=
  let (o, n) := dir.copyRange copy
  if rangeBad f dir copy || (headerCode (f.readN o 128) n fuse.minSecver).isSome then [] else f.readN o n

/-- The copy is read into the staging area (R37 step 6), from its first byte on (log 121). Its encrypted sections
stay there as they came, and their plaintext lies in no memory: the model's choice (R36; log 142). -/
def stageCopy (f : FlashSt) (dir : BootDir) (copy : Nat) (d : Dyn) : Dyn :=
  { d with mem := { d.mem with
      cells := Memory.putRun d.mem.cells stagingBase (stagedBytes f d.fuse dir copy) } }

/-- Steps 6 and 7: the copies in the order R23 gives, each with its refusals, on the flash `f` as the start reads
it. -/
def tryCopies (env : StartEnv) (f : FlashSt) (dir : BootDir) : List Nat → Dyn → Img × Dyn
  | [], d => holdNow d
  | copy :: rest, d0 =>
    let d := stageCopy f dir copy d0
    match checkCopy f d.fuse (d.key 63) dir copy with
    | ([], some im) => runImage env im d
    | (l, _) => tryCopies env f dir rest (copyRefused copy l d)

/-- The copies that a directory lets the loader try (R22, R23). -/
def copyOrder (dir : BootDir) : List Nat :=
  let first := if bit dir.flags 1 then 2 else 1
  if bit dir.flags 0 then [first, 3 - first] else [first]

/-- Step 2: the first AVS target, the fused table's, clamped to AVS_VMIN and AVS_VMAX, and none where both are 0.
No image is loaded yet, so that the limits are free values of their ranges (R411; log 85). -/
def firstTarget (env : StartEnv) (d0 : Dyn) : Dyn :=
  let (v, d) := freshNat d0
  let lo := 650 + v / 2 % 251
  let hi := lo + v / 1024 % (901 - lo)
  if v % 2 = 0 then d
  else avsWrite Img.reset d (max lo (min hi (avsGoal Img.reset env.tj))) env.avsAcked env.avsFault env.avsReadMv.toNat

/-- Step 1: the image key enters slot 63 (R387). -/
def loadImageKey (d : Dyn) : Dyn :=
  if d.fuse.imageKey = 0 then d else writeKey d 63 d.fuse.imageKey 0 3

/-- DRAM training and the pattern test of the staging area in phase 0x04 (R37, R353), and what follows
them. -/
def trainDram (env : StartEnv) (next : Dyn → Img × Dyn) (d : Dyn) : Img × Dyn :=
  if env.dramFail.isEmpty then next { d with
    dst := { d.dst with dramUp := true, slotUp := true }, mem := { d.mem with staged := true } }
  else deviceRefused 0 0x0A01 (env.dramFail.foldl (fun d c => selftestReport d (0x0710 + c.val)) d)

/-- The phases of Table 2.7: with BOOTSEL no image is loaded (R46). Bad clocks end the start before the boot
link trains, and a refusal of phase 0x05 ends it before phase 0x04 has trained memory (log 121). While JTAG holds the
pins the flash is not reached (R452; log 78). -/
def startSequence (env : StartEnv) (d : Dyn) : Img × Dyn :=
  let d1 := firstTarget env (loadImageKey d)
  if clocksBad env then deviceRefused 0 0x0105 d1
  else
    let d2 := bootLink env d1
    if d2.dst.bootsel then trainDram env (fun d => (Img.reset, endIdle .recovery d)) d2
    else
      let (f, d3) := seenFlash (!pinsTaken d2) d2
      match flashRefused f with
      | some c => deviceRefused 0 c d3
      | none => match bootDir f with
        | none => deviceRefused 0 0x0103 d3
        | some (b, _) => trainDram env (tryCopies env f b (copyOrder b)) d3

/-- START_SEQUENCE: the reset is released, the always-on domain is up and VCORE holds (R37, R439, R441). -/
def mayStart (env : StartEnv) (d : Dyn) : Bool := d.dst.aonUp && d.dst.startReady && env.vcoreHeld

def execStartSequence (env : StartEnv) (s : State) : Out :=
  actImg (fun img d => if mayStart env d then startSequence env d else (img, d)) s

end Sys2Proof.Machine
end

