-- ==== Sys2Proof/Machine/Mgmt.lean ====
section
/-! DEFINITION. The management commands of VC 0 (R309 to R313, Table 11.6; R46, R47, R51 to R54, R146, R153,
R392, R395). -/

namespace Sys2Proof.Machine

/-! ### Taking and answering (R309, R310) -/

/-- States of Table 11.6: every one, those with memory, HOLD alone, and so on. -/
def inStates (d : Dyn) (l : List DevState) : Bool := l.contains d.dst.state

def memStates : List DevState := [.hold, .service, .recovery]

/-- A command that is answered at once: refused by its state, or by a code, or run. -/
def command (op : Nat) (tag : Half) (states : Dyn → Bool) (code : Dyn → Nat) (run : Dyn → Dyn × List Byte)
    (d : Dyn) : Dyn :=
  let d1 := takeCmd d
  if !states d1 then answer d1 op tag wrongState []
  else if code d1 ≠ 0 then answer d1 op tag (code d1) []
  else
    let (d2, body) := run d1
    answer d2 op tag 0 body

def always (_ : Dyn) : Bool := true

/-! ### Registers and memory (R153, R311, R312) -/

/-- The words of a register command lie in the register blocks and on word boundaries. -/
def regRange (addr count : Nat) : Bool :=
  decide (1 ≤ count) && decide (count ≤ 256) && decide (addr % 4 = 0) && decide (addr + 4 * count ≤ 0x0D000000)

/-- One word of REG_READ; where its access fails the word is free (log 67). -/
def readWord (img : Img) (acc : Dyn × List Byte) (off : Nat) : Dyn × List Byte :=
  let (d1, r) := regAccess img acc.1 .management off 4 none
  if r.status ≤ 1 then (d1, acc.2 ++ r.data)
  else
    let (v, d2) := freshNat d1
    (d2, acc.2 ++ leBytes 4 v)

def execRegRead (tag : Half) (addr count : Word) (s : State) : Out :=
  act (fun img d => command 0x0001 tag always
    (fun _ => if regRange addr.toNat count.toNat then 0 else badOperand)
    (fun d => (List.range count.toNat).foldl (fun acc k => readWord img acc (addr.toNat + 4 * k)) (d, [])) d) s

def execRegWrite (tag : Half) (addr : Word) (words : List Word) (s : State) : Out :=
  act (fun img d => command 0x0002 tag always
    (fun _ => if regRange addr.toNat words.length then 0 else badOperand)
    (fun d => (((List.range words.length).zip words).foldl (fun d e =>
      (regAccess img d .management (addr.toNat + 4 * e.1) 4 (some e.2)).1) d, [])) d) s

/-- The parts of a memory request: one per aligned 256-byte range (R153). -/
def partsOf (a n : Nat) : List (Nat × Nat) := pieces 256 (n / 256 + 2) a n

/-- One part: a read, or a write of its bytes. A register access is one part. -/
def partAccess (img : Img) (d : Dyn) (a n : Nat) (data : Option (List Byte)) : Dyn × Resp :=
  if regBase ≤ a ∧ a < regBase + 2 ^ 32 then
    regAccess img d .management (a - regBase) n (data.map (fun b => BitVec.ofNat 32 (leNat b)))
  else match data with
    | none => memLoad img d (senderOf .management) a n
    | some b => memStore img d (senderOf .management) a b

/-- Every part in turn: what succeeded stays done (R153). -/
def runParts (img : Img) (data : Option (List Byte)) (a : Nat) :
    List (Nat × Nat) → Dyn → Dyn × List Nat × List Byte
  | [], d => (d, [], [])
  | (p, n) :: rest, d =>
    let (d1, r) := partAccess img d p n (data.map (fun b => (b.drop (p - a)).take n))
    let got := if r.status ≤ 1 then r.data else zeros n
    let (d2, st, out) := runParts img data a rest d1
    (d2, r.status :: st, got ++ out)

/-- MEM_READ and MEM_WRITE; a request that is not run answers PSTATUS 5 and no parts (R312; log 127). -/
def memCommand (img : Img) (op : Nat) (tag : Half) (a n : Nat) (data : Option (List Byte)) (d : Dyn) : Dyn :=
  let d1 := takeCmd d
  if !inStates d1 memStates then answer d1 op tag wrongState (completion 5 [])
  else if n = 0 ∨ 65536 < n then answer d1 op tag badOperand (completion 5 [])
  else
    let (d2, st, out) := runParts img data a (partsOf a n) d1
    answer d2 op tag 0 (completion (st.foldl max 0) st ++ (if data.isNone then out else []))

def execMemRead (tag : Half) (addr : DWord) (bytes : Word) (s : State) : Out :=
  act (fun img d => memCommand img 0x0003 tag (addr.toNat % 2 ^ 48) bytes.toNat none d) s

def execMemWrite (tag : Half) (addr : DWord) (data : List Byte) (s : State) : Out :=
  act (fun img d => memCommand img 0x0004 tag (addr.toNat % 2 ^ 48) data.length (some data) d) s

/-! ### The report stream (R313) -/

/-- The stream as REPORT_STREAM sets it: records accepted from now on are sent (log 68). -/
def setStream (d : Dyn) (on : Bool) (cls : Nat) : Dyn :=
  { d with rep := { d.rep with
      streamOn := on, streamMin := cls
      streamNext := if d.rep.streamOn then d.rep.streamNext else d.rep.logWr
      streamLost := if d.rep.streamOn then d.rep.streamLost else 0 } }

def execReportStream (tag : Half) (enable minClass : Byte) (s : State) : Out :=
  act (fun _ d => command 0x0010 tag always (fun _ => if minClass.toNat ≤ 7 then 0 else badOperand)
    (fun d => (setStream d (decide (enable ≠ 0)) minClass.toNat, [])) d) s

/-- The records not sent yet, from SEQ `seq`, of class `cls` or above: up to `room`, and where it stopped. -/
def unsent (log : Map Report) (cls : Nat) (wr : Word) : Nat → Nat → Word → List (List Byte) × Word
  | 0, _, seq => ([], seq)
  | fuel + 1, room, seq =>
    if seq = wr ∨ room = 0 then ([], seq)
    else match log.find? (fun e => e.1 == seq.toNat % 1024) with
    | some (_, r) =>
      if cls ≤ r.cls then
        let (l, next) := unsent log cls wr fuel (room - 1) (seq + 1)
        (reportBytes r seq.toNat :: l, next)
      else unsent log cls wr fuel room (seq + 1)
    | none => unsent log cls wr fuel room (seq + 1)

/-- Of the host's credits on VC 0, one is left beyond the answers that wait (R306, R313). -/
def creditLeft (d : Dyn) : Bool :=
  let x := d.vc 0
  let credit := (x.total + 65536 - x.txStarted) % 65536
  let waiting := d.answers.length - (x.txStarted + 65536 - x.txDone) % 65536
  decide (credit < 32768) && decide (waiting < credit)

/-- REPORT_STREAM_SEND: one message of 1 to 64 records. -/
def streamSend (d : Dyn) : Dyn :=
  let (l, next) := unsent d.rep.log d.rep.streamMin d.rep.logWr 1024 64 d.rep.streamNext
  let lost := if l.isEmpty then d.rep.streamLost else 0
  let body := leBytes 4 d.rep.streamLost ++ zeros 4 ++ l.flatten
  let d1 := { d with rep := { d.rep with streamNext := next, streamLost := lost } }
  if l.isEmpty then d1
  else { d1 with answers := d1.answers ++ [{ op := 0xC001, tag := 0, code := 0, body }] }

def execReportStreamSend (s : State) : Out :=
  act (fun _ d => when_ (d.rep.streamOn && creditLeft d) streamSend d) s

/-! ### Standing orders (R44, R146) -/

/-- The GPIO is claimed by the image or by an order of the table (Table 2.9). -/
def gpioClaimed (img : Img) (d : Dyn) (pin : Nat) : Bool :=
  ([secPins, secPulses, secPower].any (fun t => (img.records t).any (fun r => (claimsOf t r).contains (0, pin))))
  || d.disp.orders.any (fun e => e.2.action == 8 && e.2.param % 32 == pin)

/-- The lowest free entry of the table of 256. -/
def freeEntry (d : Dyn) : Option Nat :=
  (List.range 256).find? (fun i => !d.disp.orders.any (fun e => e.1 == i))

/-- Why SO_ADD refuses a record; 0 where it does not. -/
def orderCode (img : Img) (d : Dyn) (r : List Byte) : Nat :=
  if orderBad r then 0x0704
  else if fld r 6 1 = 8 ∧ gpioClaimed img d (fld r 0x10 1 % 32) then 0x0501
  else if (freeEntry d).isNone then 0x0704
  else 0

/-- A command refused with its code and a class 4 report. -/
def refuseCmd (d : Dyn) (op : Nat) (tag : Half) (code : Nat) : Dyn :=
  answer (refusal d 0x0C00 code []) op tag code []

def soAdd (img : Img) (tag : Half) (r : List Byte) (d : Dyn) : Dyn :=
  let d1 := takeCmd d
  if !inStates d1 [.service] then answer d1 0x0020 tag wrongState []
  else if r.length ≠ 32 then answer d1 0x0020 tag badOperand []
  else if orderCode img d1 r ≠ 0 then refuseCmd d1 0x0020 tag (orderCode img d1 r)
  else
    let i := (freeEntry d1).getD 0
    answer { d1 with disp := { d1.disp with
        orders := Map.set d1.disp.orders i { record := r, image := false, counts := [] } } }
      0x0020 tag 0 (leBytes 2 i)

def execSoAdd (tag : Half) (record : List Byte) (s : State) : Out :=
  act (fun img d => soAdd img tag record d) s

def soRemove (tag : Half) (i : Nat) (d : Dyn) : Dyn :=
  let d1 := takeCmd d
  if !inStates d1 [.service] then answer d1 0x0021 tag wrongState []
  else match d1.disp.orders.find? (fun e => e.1 == i) with
    | some (_, o) =>
      if o.image then refuseCmd d1 0x0021 tag 0x0704
      else answer { d1 with disp := { d1.disp with orders := Map.del d1.disp.orders i } } 0x0021 tag 0 []
    | none => refuseCmd d1 0x0021 tag 0x0704

def execSoRemove (tag entry : Half) (s : State) : Out :=
  act (fun _ d => soRemove tag entry.toNat d) s

/-- A halted core goes on at its RESTART vector (R201). -/
def reviveCore (d : Dyn) (c : Nat) : Dyn :=
  if (d.core c).tsk.run = .halted then
    let x := d.core c
    d.setCore c { x with
      regs := { x.regs with pc := x.ctl.vbase }
      ctl := { x.ctl with status := { x.ctl.status with pl := .exec, hact := true } }
      tsk := { x.tsk with run := .active } }
  else d

/-- SO_RELEASE of a source: its withdrawal, hold, silence, isolation, GPIO drives and lock end (R146, R201,
R327, R330, R385). -/
def releaseSource (img : Img) (d : Dyn) (src : Nat) : Dyn :=
  let d1 := (spanOf src).foldl (fun (d : Dyn) u =>
    d.setUnit u (fun x => { x with withdrawn := false, held := false })) d
  let d2 := match endpointOf src with
    | some e =>
      let d2 := (unitsAt e).foldl (fun (d : Dyn) u => d.setUnit u (fun x => { x with silent := false })) d1
      if d2.portMode e = 2 then requestChange d2 e 4 0x0C00 else rearm d2 e
    | none => d1
  let d3 := { d2 with gpio := d2.gpio.map (fun e =>
    (e.1, if e.2.order.isSome && e.2.source == src then PinSt.reset else e.2)) }
  let d4 := if srcSub src = 9 ∧ srcInst src < 8 then forceUnlock img d3 (srcInst src) else d3
  if srcSub src = 1 then reviveCore d4 (srcInst src) else d4

def execSoRelease (tag : Half) (kind : Byte) (id : Half) (s : State) : Out :=
  act (fun img d => command 0x0022 tag (fun d => inStates d [.service])
    (fun _ => if kind.toNat = 0 then (if (allSources ++ [keyStoreSrc]).contains id.toNat then 0 else badOperand)
      else if kind.toNat = 1 ∧ id.toNat < 256 then 0 else badOperand)
    (fun d => (if kind.toNat = 0 then releaseSource img d id.toNat
      else { d with blanked := d.blanked.filter (fun x => x != id.toNat) }, [])) d) s

/-! ### Keys (R392) -/

/-- KEY_UPLOAD (Table 15.4). -/
def keyUpload (tag : Half) (r : List Byte) (d : Dyn) : Dyn :=
  let d1 := takeCmd d
  let slot := fld r 0 1
  let fail (why : Nat) : Dyn :=
    answer d1 0x0030 tag badOperand (leBytes 2 (d1.key slot).gen ++ leBytes 1 why ++ zeros 3)
  if !inStates d1 [.service] then answer d1 0x0030 tag wrongState []
  else if r.length ≠ 48 then answer d1 0x0030 tag badOperand (zeros 2 ++ leBytes 1 3 ++ zeros 3)
  else if slot = 63 ∨ (d1.key slot).origin = 1 then refuseCmd d1 0x0030 tag 0x0506
  else if 63 < slot ∨ fld r 1 1 = 0 ∨ 3 < fld r 1 1 then fail 3
  else if (d1.key 63).origin = 0 then fail 2
  else match keyUnwrap (d1.key 63).key ((r.drop 8).take 40) with
    | none => fail 1
    | some k =>
      let d2 := event (writeKey d1 slot (leNat k) (fld r 1 1) 2) keyStoreSrc 0 0x0981 []
      answer d2 0x0030 tag 0 (leBytes 2 (d2.key slot).gen ++ zeros 1 ++ keyCheck (leNat k))

def execKeyUpload (tag : Half) (record : List Byte) (s : State) : Out :=
  act (fun _ d => keyUpload tag record d) s

/-- KEY_ERASE: a slot of ORIGIN 2 or an empty one. -/
def keyErase (tag : Half) (slot : Nat) (d : Dyn) : Dyn :=
  let d1 := takeCmd d
  if !inStates d1 [.service] then answer d1 0x0031 tag wrongState []
  else if slot = 63 ∨ (d1.key slot).origin = 1 then refuseCmd d1 0x0031 tag 0x0506
  else if 63 < slot then answer d1 0x0031 tag badOperand []
  else
    let d2 := writeKey d1 slot 0 0 0
    answer d2 0x0031 tag 0 (leBytes 2 (d2.key slot).gen ++ zeros 2)

def execKeyErase (tag : Half) (slot : Byte) (s : State) : Out :=
  act (fun _ d => keyErase tag slot.toNat d) s

/-! ### Flash (R51 to R54, R310, R311) -/

/-- The bytes lie within the flash. -/
def inFlash (d : Dyn) (off n : Nat) : Bool := decide (off + n ≤ d.flash.density)

/-- One flash command runs at a time, on a flash that responds (R20, R54). -/
def flashBusy (d : Dyn) : Nat :=
  if d.flash.job.isSome then 0x0C02 else if d.flash.responds then 0 else 0x0101

/-- The range may not be written (R51). -/
def flashProtected (img : Img) (d : Dyn) (off n : Nat) : Bool :=
  decide (0 < n) && (decide (off < 0x10000)
    || (decide (d.dst.state = .service) && overlaps (off, n) img.copyAt))

/-- A flash command starts, or is refused by a code; it is answered when it ends. Bad operands are refused
before a flash that is busy (log 121), and a busy flash before a protected range, with 0x0C02 and not 0x0C01: the
model's choice (R54; log 144). -/
def startFlash (op : Nat) (tag : Half) (bad prot : Dyn → Bool) (job : FlashJob) (d : Dyn) : Dyn :=
  let d1 := takeCmd d
  if bad d1 then answer d1 op tag badOperand []
  else if flashBusy d1 ≠ 0 then answer d1 op tag (flashBusy d1) []
  else if prot d1 then answer d1 op tag 0x0C01 []
  else { d1 with
    flash := { d1.flash with job := some job }
    tap := { d1.tap with spi := if pinsTaken d1 then .lost else .clear } }

def noBar (_ : Dyn) : Bool := false

def execFlashRead (tag : Half) (offset bytes : Word) (s : State) : Out :=
  act (fun _ d => command 0x0040 tag always
    (fun d => if bytes.toNat = 0 ∨ 65536 < bytes.toNat ∨ !inFlash d offset.toNat bytes.toNat then badOperand
      else flashBusy d)
    (fun d =>
      let (f, d1) := seenFlash (!pinsTaken d) d
      (d1, f.readN offset.toNat bytes.toNat)) d) s

def execFlashErase (tag : Half) (offset bytes : Word) (s : State) : Out :=
  act (fun img d => startFlash 0x0041 tag
    (fun d => decide (offset.toNat % 4096 ≠ 0) || decide (bytes.toNat % 4096 ≠ 0)
      || !inFlash d offset.toNat bytes.toNat)
    (fun d => flashProtected img d offset.toNat bytes.toNat) (.erase tag offset.toNat bytes.toNat) d) s

/-- The data span more 256-byte pages than their length needs (R311). -/
def pagesBad (off n : Nat) : Bool := decide (divUp n 256 < (off + n - 1) / 256 - off / 256 + 1)

def execFlashProgram (tag : Half) (offset : Word) (data : List Byte) (s : State) : Out :=
  act (fun img d => startFlash 0x0042 tag
    (fun d => decide (data.length = 0) || decide (65536 < data.length) || pagesBad offset.toNat data.length
      || !inFlash d offset.toNat data.length)
    (fun d => flashProtected img d offset.toNat data.length) (.program tag offset.toNat data) d) s

def execFlashVerify (tag : Half) (copy : Byte) (s : State) : Out :=
  act (fun _ d => startFlash 0x0043 tag (fun _ => !([1, 2]).contains copy.toNat) noBar (.verify tag copy.toNat) d) s

def execFlashCommit (tag flags : Half) (aOffset aLength bOffset bLength : Word) (s : State) : Out :=
  act (fun _ d => startFlash 0x0044 tag noBar noBar
    (.commit tag flags.toNat aOffset.toNat aLength.toNat bOffset.toNat bLength.toNat) d) s

/-- The flash command under way ends and is answered (R52, R53, R310). FLASH_VERIFY in HOLD or RECOVERY leaves the
free DRAM that it works in as it was: the model's choice (R52; log 144). -/
def finishFlash (d0 : Dyn) (j : FlashJob) : Dyn :=
  let (seen, d) := seenFlash (d0.tap.spi == .clear) d0
  let ends (all : FlashSt) (op : Nat) (tag : Half) (body : List Byte) : Dyn :=
    let (f, d1) := leftFlash j all d
    answer { d1 with flash := { f with job := none } } op tag 0 body
  match j with
  | .erase tag off n => ends (d.flash.erase off n) 0x0041 tag []
  | .program tag off data => ends (d.flash.program off data) 0x0042 tag []
  | .verify tag copy =>
    ends d.flash 0x0043 tag (leBytes 2 (verifyCode seen d.fuse (d.key 63) copy (inStates d [.hold, .recovery])))
  | .commit tag flags ao al bo bl =>
    ends (d.flash.commit flags ao al bo bl).1 0x0044 tag (leBytes 4 (seen.commit flags ao al bo bl).2)

/-- FLASH_COMMAND_DONE: then a RESTART that waited takes effect (R54). -/
def flashDone (img : Img) (d : Dyn) : Img × Dyn :=
  match d.flash.job with
  | none => (img, d)
  | some j =>
    let d1 := finishFlash d j
    if d1.flash.restart.isSome then (Img.reset, restartNow d1) else (img, d1)

def execFlashCommandDone (s : State) : Out :=
  actImg (fun img d => if islandUp d then flashDone img d else (img, d)) s

/-! ### Fuses (R395) -/

/-- The operand's length is the one of Table 15.4. -/
def fuseLength (fuse n : Nat) : Bool :=
  match fuse with
  | 1 => n == 48
  | 2 => n == 0
  | 3 => n == 1
  | 4 => n == 32
  | _ => false

/-- RESULT before programming: 0 where the fuse may be programmed. -/
def fuseResult (f : FuseSt) (fuse v : Nat) : Nat :=
  match fuse with
  | 1 => if f.pkHash ≠ 0 then 1 else if v = 0 then 3 else 0
  | 2 => if f.pkHash = 0 then 2 else 0
  | 3 => if 64 < v ∨ v < f.minSecver then 3 else 0
  | _ => if f.imageKey ≠ 0 then 1 else if v = 0 then 3 else 0

/-- The fuse with the bits that programming `v` sets: none is cleared (R394). -/
def setFuse (f : FuseSt) (fuse v : Nat) : FuseSt :=
  match fuse with
  | 1 => { f with pkHash := f.pkHash ||| v % 2 ^ 384 }
  | 2 => { f with sigRequired := f.sigRequired || v % 2 == 1 }
  | 3 => { f with minSecver := max f.minSecver (min v 64) }
  | _ => { f with imageKey := f.imageKey ||| v % 2 ^ 256 }

/-- FUSE_PROGRAM: the sender says what the supervisor reads back. -/
def fuseProgram (tag : Half) (fuse : Nat) (value : List Byte) (readBack : Nat) (d : Dyn) : Dyn :=
  let d1 := takeCmd d
  let v := if fuse = 2 then 1 else leNat value
  let fail (d : Dyn) (result : Nat) (kcv : List Byte) : Dyn :=
    answer d 0x0050 tag badOperand (leBytes 1 result ++ kcv)
  if !inStates d1 [.hold] then answer d1 0x0050 tag wrongState []
  else if !fuseLength fuse value.length then fail d1 3 (zeros 3)
  else if fuseResult d1.fuse fuse v ≠ 0 then fail d1 (fuseResult d1.fuse fuse v) (zeros 3)
  else
    let d2 := { d1 with fuse := setFuse d1.fuse fuse readBack }
    if d2.fuse = setFuse d1.fuse fuse v then
      answer d2 0x0050 tag 0 (zeros 1 ++ (if fuse = 4 then keyCheck v else zeros 3))
    else
      let (fv, d3) := freshNat (event d2 0x0C00 7 0x0982 [])
      fail d3 4 (if fuse = 4 then leBytes 3 fv else zeros 3)

def execFuseProgram (tag : Half) (fuse : Byte) (value : List Byte) (readBack : Nat) (s : State) : Out :=
  act (fun _ d => fuseProgram tag fuse.toNat value readBack d) s

/-! ### Time, RESTART and ENTER_RECOVERY (R46, R47, R54, R355) -/

/-- Device time of tick time `t` in 2^-48 Tc: seconds, nanoseconds and 2^-16 ns (R355). -/
def deviceTime (t : Nat) : Nat × Nat × Nat :=
  let s := t / 2 ^ 48 / secondTc
  let f := (t - s * secondTc * 2 ^ 48) * 100000 / (3 * 2 ^ 48)
  (s, f / 65536, f % 65536)

def execTimeQuery (tag : Half) (s : State) : Out :=
  act (fun _ d => command 0x0060 tag always (fun _ => 0)
    (fun d =>
      let (sec, ns, frac) := deviceTime d.time.t
      (d, leBytes 6 sec ++ leBytes 4 ns ++ leBytes 2 frac ++ leBytes 8 d.now)) d) s

/-- RESTART, and the state it leads to (R54, R310). -/
def restartCmd (img : Img) (tag : Half) (d : Dyn) : Img × Dyn :=
  let d1 := takeCmd d
  if !inStates d1 memStates then (img, answer d1 0x0070 tag wrongState [])
  else if inStates d1 [.service] && !allQuiet img d1 then (img, answer d1 0x0070 tag 0x0C03 [])
  else
    let d2 := answer d1 0x0070 tag 0 []
    if d2.flash.job.isSome then (img, { d2 with flash := { d2.flash with restart := some tag } })
    else (Img.reset, restartNow d2)

def execRestart (tag : Half) (s : State) : Out :=
  actImg (fun img d => if islandUp d then restartCmd img tag d else (img, d)) s

/-- ENTER_RECOVERY: slots 0 to 62 are erased first (R393). -/
def recoveryCmd (img : Img) (tag : Half) (d : Dyn) : Dyn :=
  let d1 := takeCmd d
  if !inStates d1 [.hold, .service] then answer d1 0x0071 tag wrongState []
  else if inStates d1 [.service] && !allQuiet img d1 then answer d1 0x0071 tag 0x0C03 []
  else answer (endIdle .recovery (eraseKeys d1)) 0x0071 tag 0 []

def execEnterRecovery (tag : Half) (s : State) : Out :=
  act (fun img d => recoveryCmd img tag d) s

end Sys2Proof.Machine
end

