-- ==== Sys2Proof/WellFormed.lean ====
section
/-! DEFINITION. Which commands a sender can make. The fields of `Instr` have their own ranges in
their types; what is left are the lengths of lists and the forms of a packet. -/

namespace Sys2Proof

/-- A packet carries data exactly when its kind does (Table 12.3, R319, R320): a WRITE request, and the
good response of a READ or an ATOMIC. -/
def Packet.carries (p : Packet) : Bool :=
  (p.kind == 1 && !p.resp) || ((p.kind == 0 || p.kind == 2) && p.resp && decide (p.status.toNat ≤ 1))

/-- CLASS is the one of Table 12.4: 0 for an EVENT, 3 for register space; for memory 0 of the dispatcher,
2 and 3 of the supervisor, 1 of every other master (R322). -/
def Packet.classOk (p : Packet) : Bool :=
  let c := p.cls.toNat
  let m := p.master.toNat
  if p.kind = 3 then c == 0
  else if 0xF000000000 ≤ p.address.toNat then c == 3
  else if m = 0x0800 then c == 0
  else if m = 0x0C00 then c == 2 || c == 3
  else c == 1

/-- A head flit of Tables 12.3 and 12.4: a kind that exists, 1 to 128 bytes in one aligned block, four bytes
for an ATOMIC, STATUS and REASON in responses alone, FUNC in an ATOMIC, PRIV of a core master, the class of
its sender and purpose, and the data that belong to it (R319, R320, R322, R326). -/
def Packet.wf (p : Packet) : Bool :=
  let n := p.length.toNat
  decide (p.kind.toNat ≤ 3) && decide (0 < n) && decide (n ≤ 128) && decide (p.address.toNat % 128 + n ≤ 128)
  && (p.kind != 2 || decide (n = 4)) && p.classOk
  && decide (p.status.toNat ≤ (if p.resp then 5 else 0))
  && (if p.status = 5 then decide (1 ≤ p.reason.toNat) && decide (p.reason.toNat ≤ 5) else decide (p.reason = 0))
  && decide (p.func.toNat ≤ (if p.kind = 2 then 4 else 0))
  && decide (p.priv.toNat ≤ (if p.master.toNat / 256 = 1 then 2 else 0))
  && p.data.length == (if p.carries then n else 0)

/-- An access of `n` bytes inside the 48-bit address space (R173, R319). -/
def spanOk (a : Addr) (n : Nat) : Bool := decide (0 < n) && decide (a.toNat + n ≤ 2 ^ 48)

/-- The well-formed commands. -/
def Instr.wf : Instr → Bool
  | .packetInjection p => p.wf
  | .memoryRead _ a n => spanOk a n
  | .memoryWrite _ a b => spanOk a b.length
  | .handleTableWrite _ a b => spanOk a b.length
  | .arpRequest _ target => target.length == 4 || target.length == 16
  | _ => true

end Sys2Proof
end

