-- ==== Sys2Proof/Machine/Packets.lean ====
section
/-! DEFINITION. Single packets on the fabric (R318 to R331): injection through a regulator, arrival at
the target, the response trackers and the tail of a packet from an isolated endpoint. -/

namespace Sys2Proof.Machine

/-- A packet that a sender can make: well formed (Table 12.3), from a slot that holds an endpoint. -/
def packetOk (p : Packet) : Bool := p.wf && hasEndpoint p.src.toNat

/-- The endpoint that an address maps to; none where it maps to none (R318). -/
def addrEndpoint (a : Nat) : Option Nat :=
  if regBase ≤ a then regEndpoint (a - regBase)
  else match memUnitOf a with
    | some u => endpointOf u
    | none => none

/-- PACKET_INJECTION (R318, R324): a request to an address that maps to no endpoint is answered by the
interface itself. -/
def inject (img : Img) (d : Dyn) (p : Packet) : Dyn :=
  match if p.kind = 3 ∨ p.resp then some p.dest.toNat else addrEndpoint p.address.toNat with
  | none => deliver (replyTo p { status := 5, reason := 2, data := [] }) d
  | some e =>
    if e = p.dest.toNat && (p.resp || d.fab.waiting.contains p || tagFree d p) then regulate img d p else d

def execPacketInjection (p : Packet) (s : State) : Out :=
  actIf (packetOk p) (fun img d => inject img d p) s

/-! ### Arrival -/

/-- PACKET_ARRIVAL: the packet at place `index` reaches its target, when every output on its route sends it
before those that wait there (R323). At `router`, on its route, its parity or its routing parity may fail
(R325). -/
def arrive (img : Img) (d : Dyn) (index : Nat) (parityFails routeFails : Bool) (router : Nat) : Dyn :=
  match d.fab.inflight[index]? with
  | none => d
  | some p =>
    let onRoute := (routeOf p.src.toNat p.dest.toNat).contains router
    if (d.fab.inflight.take index).any (sameFlow p) || ((parityFails || routeFails) && !onRoute)
        || holdsBack d p then d
    else match arbitrateFor d index p with
    | (none, d0) => d0
    | (some arbs, d0) =>
      let d1 := d0.onFab (fun f => { f with inflight := f.inflight.eraseIdx index, arbiters := arbs })
      if routeFails then
        event (d1.onFab (fun f => { f with headDrop := Map.upd 0 f.headDrop router (satAdd 0xFFFF · 1) }))
          (routerSrc router) 6 0x0681 []
      else
        let d2 := if parityFails then
            d1.onFab (fun f => { f with parity := Map.upd 0 f.parity router (satAdd 0xFFFF · 1) })
          else d1
        let q := if parityFails then { p with bad := true } else p
        arriveAt performPacket img d2 q

def execPacketArrival (index : Nat) (parityFails routeFails : Bool) (router : BitVec 6) (s : State) : Out :=
  act (fun img d => arrive img d index parityFails routeFails router.toNat) s

/-! ### Timeouts -/

/-- The last whole microsecond of a tick time (R12). -/
def wholeUs (t : Nat) : Nat := divUp (t * 100 / 196608 * 196608) 100

/-- RESPONSE_TIMEOUT (R327): a request outstanding for RESP_TIMEOUT at a whole microsecond of its endpoint's local
tick time completes with ERROR, reason TIMEOUT. -/
def responseTimeout (img : Img) (d : Dyn) (e tag : Nat) : Dyn :=
  let due (t : Track) : Bool := t.endpoint == e && t.tag == tag && !t.timedOut
    && usPassed (wholeUs (endpointNow d e)) t.since (respTimeout img)
  match d.fab.trackers.find? due with
  | none => d
  | some t =>
    let d1 := d.onFab (fun f => { f with
      trackers := f.trackers.map (fun x => if due x then { x with timedOut := true } else x) })
    let reply : Packet :=
      { dest := BitVec.ofNat 8 e, src := BitVec.ofNat 8 t.target, cls := 0, resp := true, kind := 0,
        tag := BitVec.ofNat 10 tag, status := 5, reason := 5, func := 0, address := 0, length := 0,
        master := 0, priv := 0, operand := 0, data := [], bad := false, crc := 0 }
    deliver reply (noteTimeout d1 e t.target t.unit)

def execResponseTimeout (e : Byte) (tag : BitVec 10) (s : State) : Out :=
  act (fun img d => responseTimeout img d e.toNat tag.toNat) s

/-- ISOLATION_TAIL_TIMEOUT (R330): the router completes a packet of an isolated endpoint with zero flits
marked BAD. -/
def tailTimeout (d : Dyn) (index : Nat) : Dyn :=
  match d.fab.inflight[index]? with
  | none => d
  | some p =>
    if d.portMode p.src.toNat = 2 && !p.data.isEmpty then
      d.onFab (fun f => { f with
        inflight := f.inflight.set index { p with bad := true, data := zeros p.data.length } })
    else d

def execIsolationTailTimeout (index : Nat) (s : State) : Out := act (fun _ d => tailTimeout d index) s

end Sys2Proof.Machine
end

