-- ==== Sys2Proof/Machine/Pins.lean ====
section
/-! DEFINITION. What every pin shows (R410, R446 to R448) and JTAG (R452, R453, R198). -/

namespace Sys2Proof.Machine

/-! ### GPIO levels (Table 18.8, R447) -/

/-- The function of a PINS record is active (Table 18.8). -/
def pinActive (img : Img) (d : Dyn) (r : List Byte) : Bool :=
  match fld r 1 1 with
  | 2 => d.rep.alertPending
  | 3 => (List.range 64).any (fun n => match laneRecord img n with
      | some l => (bit (fld r 4 4) 6 || fld l 0x0B 1 == bits (fld r 4 4) 5 0)
          && !(d.lane n).bridle.alarms.isEmpty
      | none => false)
  | 4 => d.time.servo == .locked
  | 5 => d.dst.state == .service
  | _ => false

/-- The level of a PINS record's output; an open-drain pin is driven at its low level only (R446). -/
def pinLevel (img : Img) (d : Dyn) (r : List Byte) : Option Bool :=
  let o := fld r 2 2
  let v := if fld r 1 1 = 1 then bit (fld r 4 4) 0 else xor (pinActive img d r) (bit o 0)
  if bit o 1 && v then none else some v

/-- The level of a pulse output or lane strobe: ACTIVE_LOW inverts it (R372). -/
def pulseLevel (d : Dyn) (r : List Byte) : Bool := xor (d.pulse (fld r 0 1)).level (bit (fld r 3 1) 1)

/-- The level of a SET_GPIO pin: the order's while it stands, else the opposite (R447). -/
def orderLevel (d : Dyn) (pin : Nat) : Option Bool :=
  match (d.disp.orders.find? (fun e => e.2.action == 8 && bits e.2.param 4 0 == pin)).map (·.2) with
  | some o => match (Map.get PinSt.reset d.gpio pin).order with
    | some (_, v) => some v
    | none => some (!bit o.param 8)
  | none => (Map.get PinSt.reset d.gpio pin).order.map (·.2)

/-- What the device drives on a GPIO; none is high impedance (R447, Table 18.9). -/
def gpioDrive (img : Img) (d : Dyn) (pin : Nat) : Option Bool :=
  if d.dst.state ≠ .service then none
  else match (img.records secPins).find? (fun r => fld r 0 1 == pin) with
    | some r => pinLevel img d r
    | none => match (img.records secPulses).find?
          (fun r => (fld r 2 1 == 1 || fld r 2 1 == 2) && fld r 4 1 == pin) with
      | some r => some (pulseLevel d r)
      | none => orderLevel d pin

/-! ### Every output (Tables 16.5, 18.9) -/

/-- The device's outputs: a lane's pair, an Ethernet port's transmit pair, and single pins. -/
inductive Pin where
  | gpio (n : Fin 32)
  | ppsOut
  | mainEn
  | spiCsN
  | spiClk
  | spiIo (n : Fin 4)
  | avsClk
  | avsMdata
  | tdo
  | ethTx (port : Bool)
  | lane (n : Lane)
deriving DecidableEq, Repr

/-- What a pin or a pair shows: high impedance, for a pair unterminated; a level; a terminated pair at zero
differential, which is idle or silent (R259, R443); or a signal that carries traffic. -/
inductive PinShows where
  | highZ
  | level (v : Bool)
  | zero
  | traffic
deriving DecidableEq, Repr

def PinShows.ofDrive (v : Option Bool) : PinShows := v.elim .highZ .level

/-- The columns of Table 18.9. In BOOT between commands the island is in reset: the Reset column (R439). -/
inductive PinColumn where
  | reset
  | start
  | idle
  | service
  | deepsleep
deriving DecidableEq, Repr

def pinColumn (d : Dyn) : PinColumn :=
  match d.dst.state with
  | .boot => .reset
  | .selftest => .start
  | .hold => .idle
  | .recovery => .idle
  | .service => .service
  | .deepsleep => .deepsleep

/-- A lane's pair (Tables 16.5, 18.9; R443): high impedance while its domain is off, as R45 leaves every lane's but
lane 64's in HOLD and RECOVERY (log 66). -/
def lanePair (d : Dyn) (n : Nat) : PinShows :=
  let t := (d.lane n).teth
  let drive : PinShows := if t.sending then .traffic else .zero
  match pinColumn d with
  | .reset => .highZ
  | .deepsleep => .highZ
  | .start => if n = 64 ∧ 3 ≤ d.dst.phase then drive else .zero
  | .idle => if !d.powered (laneSrc n) then .highZ else if n = 64 ∧ t.state = stData then .traffic else .zero
  | .service => if !d.powered (laneSrc n) || decide (t.state = stOff) then .highZ else drive

/-- An output by the device's own work (Table 18.9). A flash command under way holds SPI_CS_N low. -/
def deviceOutput (img : Img) (d : Dyn) (p : Pin) : PinShows :=
  let col := pinColumn d
  let off := decide (col = .reset) || decide (col = .deepsleep)
  let flash := d.flash.job.isSome
  match p with
  | .gpio n => .ofDrive (gpioDrive img d n.val)
  | .ppsOut => if off then .highZ else .level (decide (col = .service) && d.time.ppsOut)
  | .mainEn => .level d.dst.mainEn
  | .spiCsN => if off then .highZ else .level (!flash)
  | .spiClk => if off then .highZ else if flash then .traffic else .level false
  | .spiIo _ => if !off && flash then .traffic else .highZ
  | .avsClk => if off || (decide (col = .start) && decide (d.dst.phase < 2)) then .highZ else .traffic
  | .avsMdata => if off || (decide (col = .start) && decide (d.dst.phase < 2)) then .highZ else .traffic
  | .tdo => .traffic
  | .ethTx port =>
    if off then .highZ
    else if decide (col = .service) && portUsed img (portNum port) then .traffic else .zero
  | .lane n => lanePair d n.val

/-- A pin's number among the boundary register's outputs (log 12). -/
def Pin.cell : Pin → Nat
  | .gpio n => n.val
  | .ppsOut => 32
  | .mainEn => 33
  | .spiCsN => 34
  | .spiClk => 35
  | .spiIo n => 36 + n.val
  | .avsClk => 40
  | .avsMdata => 41
  | .tdo => 42
  | .ethTx port => 43 + b2n port
  | .lane n => 45 + n.val

/-- What a pin shows: nothing without VAON, JTAG's level while an instruction holds the pins (R448, R452),
else the device's own. TDO is driven while `shift` says that the port is in Shift-IR or Shift-DR, and then alone. -/
def pinShows (img : Img) (d : Dyn) (shift : Bool) (p : Pin) : PinShows :=
  if p = .tdo then (if d.dst.aonUp && d.dst.vioUp && shift then .traffic else .highZ)
  else if !d.dst.aonUp || d.tap.ir = 0x03 then .highZ
  else if pinsTaken d then .ofDrive (Config.boundaryDrive d.tap.boundary p.cell)
  else deviceOutput img d p

/-- The pins that only receive, and that the boundary register covers: PPS_IN, RESET_N, BOOTSEL, AVS_SDATA and the
two Ethernet receive pairs (R452, Table 18.2), numbered on from the outputs (log 12). -/
def inputCells : List Nat := (List.range 6).map (125 + ·)

/-- The outputs and the two-way pins that the boundary register covers (R452): every one but TDO. -/
def boundaryPins : List Pin :=
  (List.finRange 32).map Pin.gpio ++ [.ppsOut, .mainEn, .spiCsN, .spiClk] ++ (List.finRange 4).map Pin.spiIo
  ++ [.avsClk, .avsMdata, .ethTx false, .ethTx true] ++ (List.finRange 80).map Pin.lane

/-- The levels that the boundary register captures, ball by ball: the device's where it drives one, else the level
that the board or the partner gives the ball, `board` by its number. -/
def pinLevels (img : Img) (d : Dyn) (board : Nat → Bool) : List Bool :=
  boundaryPins.map (fun p => match pinShows img d false p with
    | .level v => v
    | _ => board p.cell)
  ++ inputCells.map board

/-- A SET_GPIO drive's duration ends (R447). -/
def gpioExpiry (d : Dyn) (pin : Nat) : Dyn :=
  match (Map.get PinSt.reset d.gpio pin).order with
  | some (end_, _) =>
    if end_ ≠ 0 ∧ end_ ≤ d.now then { d with gpio := Map.set d.gpio pin PinSt.reset } else d
  | none => d

def execSetGpioExpiry (pin : Fin 32) (s : State) : Out := act (fun _ d => gpioExpiry d pin.val) s

/-! ### JTAG instructions (Table 18.12) -/

/-- IDCODE of the T96 B0 (Table 18.13). -/
def idcode : Nat := 0x27960001

/-- What Capture-IR loads (R452). -/
def irCapture : Nat := 0x01

/-- The instruction that an opcode selects (Table 18.12): every opcode that the table does not give is BYPASS. -/
def jtagOpcode (op : Nat) : Nat :=
  if [0x00, 0x01, 0x02, 0x03, 0x04, 0x05, 0x06, 0x10].contains op then op else 0xFF

/-- What Capture-DR loads for the instruction that stands (Tables 18.12 to 18.14): the boundary's levels, the
identification, the outcome of the last REGACC access, or BYPASS's zero. -/
def drCapture (img : Img) (d : Dyn) (board : Nat → Bool) : Nat :=
  match jtagOpcode d.tap.ir with
  | 0x00 => Config.boundaryCapture (pinLevels img d board)
  | 0x01 => Config.boundaryCapture (pinLevels img d board)
  | 0x02 => idcode
  | 0x05 => Config.boundaryCapture (pinLevels img d board)
  | 0x06 => Config.boundaryCapture (pinLevels img d board)
  | 0x10 => d.tap.regacc
  | _ => 0

/-- The port is available: VAON and VIO are present (R452). -/
def jtagUp (d : Dyn) : Bool := d.dst.aonUp && d.dst.vioUp

/-- An opcode is updated into the instruction register. It may take the SPI pins from a flash command under way, or
give them back (R452). -/
def jtagSelect (op : Nat) (f : TapSt → TapSt) (d : Dyn) : Dyn :=
  when_ (jtagUp d) (fun d =>
    let d1 : Dyn := { d with tap := { f d.tap with ir := jtagOpcode op } }
    if pinsTaken d1 ∧ d1.tap.spi = .clear ∨ !pinsTaken d1 ∧ d1.tap.spi = .lost then
      { d1 with tap := { d1.tap with spi := .cut } }
    else d1) d

/-- An instruction that updates the boundary register (R452). -/
def jtagBoundary (op update : Nat) (s : State) : Out :=
  actAon (fun _ d => jtagSelect op (fun t => { t with boundary := update }) d) s

def execExtest (update : Nat) (s : State) : Out := jtagBoundary 0x00 update s
def execSamplePreload (update : Nat) (s : State) : Out := jtagBoundary 0x01 update s
def execIdcode (s : State) : Out := actAon (fun _ d => jtagSelect 0x02 id d) s
def execHighz (s : State) : Out := actAon (fun _ d => jtagSelect 0x03 id d) s
def execClamp (s : State) : Out := actAon (fun _ d => jtagSelect 0x04 id d) s
def execExtestPulse (update : Nat) (s : State) : Out := jtagBoundary 0x05 update s
def execExtestTrain (update : Nat) (s : State) : Out := jtagBoundary 0x06 update s
def execBypass (s : State) : Out := actAon (fun _ d => jtagSelect 0xFF id d) s

/-- The capture while an access runs: BUSY; DATA is then a free value. -/
def regaccBusy (v : Nat) : Nat := 2 ^ 66 + v % 2 ^ 32

/-- An access and what its end shows; DATA after a write is a free value. -/
def regaccRun (img : Img) (d : Dyn) (u : Nat) : Dyn × Nat :=
  let off := bits u 62 32 / 4 * 4
  let write := bit u 63
  if islandUp d then
    let (d1, r) := regAccess img d .management off 4 (if write then some (BitVec.ofNat 32 u) else none)
    if 2 ≤ r.status then (d1, regaccWord true 0)
    else if write then ((freshNat d1).2, regaccWord false (freshNat d1).1)
    else (d1, regaccWord false (leNat r.data))
  else if off < 2 ^ 24 then
    if write then ((freshNat d).2, regaccWord false (freshNat d).1)
    else (d, regaccWord false (readIdentity img d off))
  else (d, regaccWord true 0)

/-- A REGACC access at Update-DR (R453). One that arrives while an access runs is ignored, and the next capture
shows BUSY. An access of the main island's may run on until the next clock of the time base, by a free value; the
always-on domain answers at once. -/
def regacc (img : Img) (d : Dyn) (u : Nat) : Dyn :=
  let keep (d : Dyn) (w : Nat) (r : Option Nat) : Dyn := { d with tap := { d.tap with regacc := w, running := r } }
  if d.tap.running.isSome then
    let (v, d1) := freshNat d
    keep d1 (regaccBusy v) d.tap.running
  else
    let (d1, w) := regaccRun img d u
    let (v, d2) := if islandUp d then freshNat d1 else (0, d1)
    if v % 2 = 1 then keep d2 (regaccBusy (v / 2)) (some w) else keep d2 w none

/-- The access that runs ends (R453). -/
def regaccEnd (d : Dyn) : Dyn :=
  match d.tap.running with
  | some w => { d with tap := { d.tap with regacc := w, running := none } }
  | none => d

def execRegacc (update : BitVec 67) (s : State) : Out :=
  actAon (fun img d => when_ (jtagUp d) (fun d => regacc img (jtagSelect 0x10 id d) update.toNat) d) s

/-- JTAG_DEBUG_REQUEST: the core raises BREAK at its boundary (Table 7.13); a pending ABORT wins (R200). -/
def debugRequest (d : Dyn) (c : Nat) : Dyn :=
  if !atBoundary d c then d
  else if (d.core c).tsk.abort.isSome && !(d.status c).hact then abortNow d c
  else syncException (d.onTsk c (fun t => { t with waiting := false })) c excBreak

def execJtagDebugRequest (c : Core) (s : State) : Out := act (fun _ d => debugRequest d c.val) s

end Sys2Proof.Machine
end

