-- ==== Sys2Proof/Machine/Transform.lean ====
section
/-! DEFINITION. The UL_SYMBOL and DL_SYMBOL jobs of the transform engines (R55 to R77). -/

namespace Sys2Proof.Machine

/-- The cell whose settings a carrier's chain takes: of a DSS pair, the LTE cell (R58). -/
def chainCell (img : Img) (cell : Nat) : Option (List Byte) :=
  match cellRec img cell with
  | none => none
  | some r => if fld r 0xB 1 ≠ 0xFF ∧ fld r 1 1 = 1 then cellRec img (fld r 0xB 1) else some r

/-- The ANTENNA_MAP record of a stream, direction and cell; one record serves both cells of a DSS pair
(R59). -/
def chainRec (img : Img) (s dir cell : Nat) : Option (List Byte) :=
  let share := ((cellRec img cell).map (fun r => fld r 0xB 1)).getD 0xFF
  (streamRecs img s dir).find? (fun r =>
    fld r 2 1 == cell || (decide (share ≠ 0xFF) && fld r 2 1 == share))

/-- Samples per millisecond of a cell (R56). -/
def cellPerMs (c : List Byte) : Nat := cellN c * 15 * 2 ^ cellMu c

/-- Subcarriers of a cell. -/
def cellSubs (c : List Byte) : Nat := 12 * fld c 6 2

/-- Tc within a subframe as samples of a rate. -/
def tcSamples (perMs tc : Nat) : Nat := tc * perMs / 1966080

/-- Prefix length in a cell's samples (Table 3.5). -/
def cellCp (c : List Byte) (l : Nat) : Nat := tcSamples (cellPerMs c) (cpTc (cellMu c) (cellExt c) l)

/-- FFT bin of subcarrier `k` (R66). -/
def binOf (c : List Byte) (downlink : Bool) (k : Nat) : Nat :=
  let n := cellN c
  let half := cellSubs c / 2
  let up := downlink && decide (fld c 1 1 = 0) && decide (half ≤ k)
  (k + n - half + b2n up) % n

/-- A bin's signed index (R66). -/
def signedBin (n b : Nat) : Int := if b < n / 2 then (b : Int) else (b : Int) - (n : Int)

/-- phi_l in 1/2^24 turns when PHASE bit `dir` enables it, else none (R70). -/
def phase24 (c : List Byte) (dir l : Nat) : Option Nat :=
  if bit (fld c 0x1C 1) dir && decide (fld c 1 1 = 1) then
    let f0 := fld c (if dir = 0 then 0xC else 0x14) 6
    let t := symStart (cellMu c) (cellExt c) l + cpTc (cellMu c) (cellExt c) l
    some (angle24 ((f0 * t : Nat) : Int) 1966080000)
  else none

/-- The NCO phase of stream sample `n` of the subframe, in 1/2^24 turns (R72). -/
def ncoPhase (nco n : Nat) : Nat := nco * n % 2 ^ 32 / 256

/-! ### Uplink (R68, R71, R72) -/

/-- The samples of a container for a base symbol: its blocks in order, an erased one as zeros, and which
blocks are erased (R63, R89, R292). -/
def containerSamples (i : StreamInfo) (l : Nat) (g : Got) : List Cx × List Bool :=
  let blocks := (List.range (i.blocks l)).map (fun k =>
    if g.state = 3 then none else unpackBlock i.width ((g.data.drop (0x40 + k * i.recLen)).take i.recLen))
  ((blocks.flatMap (fun b => b.getD (List.replicate 16 Cx.zero))).take (i.samples l),
    blocks.map Option.isNone)

/-- Bytes of the container of base symbol `l` (Table 11.2). -/
def containerBytes (i : StreamInfo) (l : Nat) : Nat := 0x40 + i.blocks l * i.recLen

/-- A window of stream samples around a base symbol: the previous, the present and the next container,
the first sample of the present one being sample `start` of its subframe. -/
structure Window where
  prev : List Cx
  cur : List Cx
  next : List Cx
  start : Nat
  perMs : Nat

/-- Stream sample `n`, counted in the subframe of the present container; zero outside the window. -/
def Window.sample (w : Window) (n : Int) : Cx :=
  let i := n - (w.start : Int)
  if i < 0 then
    if -(w.prev.length : Int) ≤ i then w.prev.getD ((w.prev.length : Int) + i).toNat Cx.zero else Cx.zero
  else if i < (w.cur.length : Int) then w.cur.getD i.toNat Cx.zero
  else w.next.getD (i - (w.cur.length : Int)).toNat Cx.zero

/-- Sample `n` after the frequency shift; the phase restarts at each subframe (R72). -/
def Window.shifted (w : Window) (nco : Nat) (n : Int) : Cx :=
  rotate24 (w.sample n) ((2 ^ 24 - ncoPhase nco (n % (w.perMs : Int)).toNat) % 2 ^ 24)

/-- y(m) of R72 before narrowing. -/
def Window.filtered (w : Window) (nco : Nat) (h : List Cx) (ratio delay : Nat) (m : Int) : Cx :=
  (List.range h.length).foldl (fun acc t =>
    acc.add ((h.getD t Cx.zero).mul (w.shifted nco (m * ratio + delay - Int.ofNat t)))) Cx.zero

/-- The cell-rate samples of R72 and the clipped components; TAPS 0 is a pass-through. -/
def Window.carrier (w : Window) (nco : Nat) (h : List Cx) (ratio delay : Nat) (ms : List Int) :
    List Cx × Nat :=
  if h.isEmpty then (ms.map (w.shifted nco), 0)
  else clampAll topTW24 (ms.map (fun m => (w.filtered nco h ratio delay m).narrow 17))

/-- One uplink symbol of a cell: FD16 words in order of k, and saturated components (R66 to R72). -/
def ulSymbol (c r : List Byte) (h : List Cx) (w : Window) (l window shift : Nat) : List Cx × Nat :=
  let n := cellN c
  let m0 : Int := (tcSamples (cellPerMs c) (symStart (cellMu c) (cellExt c) l) + cellCp c l : Nat)
  let ns : List Int := (List.range n).map (fun i => Int.ofNat i - Int.ofNat window)
  let (y, sat1) := w.carrier (fld r 8 4) h (fld r 3 1) (fld r 0xE 1) (ns.map (fun k => m0 + k))
  let x := if fld c 1 1 = 0 then
      (y.zip ns).map (fun p => rotate24 p.1 (angle24 (-p.2) (2 * n)))
    else y
  let f := fft false x
  let ph := (phase24 c 0 l).getD 0
  let bin (b : Nat) : Cx :=
    rotate24 (f.getD b Cx.zero) (angle24 ((ph : Int) * n + signedBin n b * window * 2 ^ 24) (n * 2 ^ 24))
  let (z, sat2) := clampAll topFD16
    ((List.range (cellSubs c)).map (fun k => (bin (binOf c false k)).narrow shift))
  (z, sat1 + sat2)

/-- A TAPS-word filter as its buffer holds it (R59, R72). -/
def filterBytes (r : List Byte) : Nat := fld r 7 1 * (if bit (fld r 1 1) 1 then 8 else 4)

/-- The read of a record's coefficients, none with TAPS 0. -/
def filterWant (r : List Byte) : List Want :=
  if fld r 7 1 = 0 then []
  else [{ handle := fld r 0xC 2, from_ := 0, bytes := filterBytes r, control := true }]

/-- A record's coefficients as its job finds them. -/
def filterBad (img : Img) (d : Dyn) (r : List Byte) : Bool :=
  decide (fld r 7 1 ≠ 0) && badOther img d (fld r 0xC 2) (filterBytes r)

/-- A UL_SYMBOL job (R68 to R72, R87, R89, Table 3.9). Two choices of the model (log 143): the erased blocks
counted are those of IN_CUR within the carrier symbol (R63), and a coefficient buffer that ANTENNA_MAP names is
reported at CELL, 0x02 (R87). -/
def ulJob (img : Img) (j : Job) (d : Dyn) : Dyn × JobEnd :=
  let cell := j.f 2 1
  let stream := j.f 3 1
  let l := j.f 4 1
  match chainCell img cell, chainRec img stream 0 cell, streamInfo img stream 0 with
  | some c, some r, some info =>
    let lb := l / 2 ^ (cellMu c - info.mu)
    let prev := (lb + info.syms - 1) % info.syms
    let next := (lb + 1) % info.syms
    let taps := fld r 7 1
    let h0 := j.f 8 2
    let h1 := j.f 0xA 2
    let h2 := j.f 0xC 2
    let bad := firstBad
      [ (filterBad img d r, 2),
        (decide (symsPerSub (cellMu c) (cellExt c) ≤ l), 4),
        (decide (31 < j.f 5 1), 5),
        (decide (cellCp c l < j.f 6 2), 6),
        (decide (h0 ≠ 0xFFFF) && badIn img d j h0 (containerBytes info prev), 8),
        (badIn img d j h1 (containerBytes info lb), 0xA),
        (decide (h2 ≠ 0xFFFF) && badIn img d j h2 (containerBytes info next), 0xC),
        (badOut img d j (j.f 0xE 2) (4 * cellSubs c), 0xE) ]
    let want (h k : Nat) : List Want :=
      if h = 0xFFFF ∨ taps = 0 then [] else [{ handle := h, from_ := 0, bytes := containerBytes info k, control := false }]
    let wants := { handle := h1, from_ := 0, bytes := containerBytes info lb, control := false }
      :: (filterWant r ++ want h0 prev ++ want h2 next)
    withBufs img j bad wants d (fun gs d1 =>
      let k1 := if taps = 0 then 1 else 2
      let k2 := if h0 = 0xFFFF ∨ taps = 0 then k1 else k1 + 1
      let (cur, marks) := containerSamples info lb (gotAt gs 0)
      let coef := if taps = 0 then [] else coefs (bit (fld r 1 1) 1) (gotAt gs 1).data
      let before := if k2 = k1 then [] else (containerSamples info prev (gotAt gs k1)).1
      let after := if h2 = 0xFFFF ∨ taps = 0 then [] else (containerSamples info next (gotAt gs k2)).1
      let start := tcSamples info.perMs (symStart info.mu info.ext lb)
      let s0 := tcSamples info.perMs (symStart (cellMu c) (cellExt c) l) - start
      let s1 := tcSamples info.perMs (symStart (cellMu c) (cellExt c) (l + 1)) - start
      let span := (marks.take ((s1 + 15) / 16)).drop (s0 / 16)
      let erased := span.countP id
      let all := decide (erased = span.length)
      let flags := if all then 8 else 0
      if fld c 0x1D 1 * span.length < 256 * erased then
        (d1, .done { final := 3, result := engineResult j 1 flags 0 erased 0 0 } [])
      else
        let (z, sat) := ulSymbol c r coef { prev := before, cur, next := after, start, perMs := info.perMs }
          l (j.f 6 2) (j.f 5 1)
        (d1, .done { final := 2, result := engineResult j 0 flags sat erased 0 0 }
          [(addrOf img (j.f 0xE 2), z.flatMap wordOfCx)]))
  | none, _, _ => (d, j.bad 2)
  | _, _, _ => (d, j.bad 2)

/-! ### Downlink (R69, R70, R73) -/

/-- One carrier symbol in time, its prefix in front, and saturated components (R66, R69, R70). -/
def dlSymbol (c : List Byte) (l shift : Nat) (x : List Cx) : List Cx × Nat :=
  let n := cellN c
  let y := match phase24 c 1 l with
    | some ph => x.map (fun v => rotate24 v ((2 ^ 24 - ph) % 2 ^ 24))
    | none => x
  let place := (List.range n).map (fun b =>
    match (List.range (cellSubs c)).find? (fun k => binOf c true k == b) with
    | some k => y.getD k Cx.zero
    | none => Cx.zero)
  let (t, sat) := clampAll topTW24 ((fft true place).map (fun v => v.narrow shift))
  (t.drop (n - cellCp c l) ++ t, sat)

/-- A carrier's stream samples of one base symbol (R73 steps 1 to 3): `tail` holds the last 190
cell-rate samples before it. -/
def dlCarrier (tail x h : List Cx) (ratio nco start count : Nat) : List Cx × Nat :=
  let up (n : Int) : Cx :=
    if n % (ratio : Int) ≠ 0 then Cx.zero
    else
      let k := n / (ratio : Int)
      if k < 0 then
        if -(tail.length : Int) ≤ k then tail.getD ((tail.length : Int) + k).toNat Cx.zero else Cx.zero
      else x.getD k.toNat Cx.zero
  let (y, sat) := if h.isEmpty then ((List.range count).map (fun n => up (Int.ofNat n)), 0)
    else clampAll topTW24 ((List.range count).map (fun (n : Nat) =>
      ((List.range h.length).foldl (fun acc t =>
        acc.add ((h.getD t Cx.zero).mul (up (Int.ofNat n - Int.ofNat t)))) Cx.zero).narrow 17))
  ((y.zip (List.range count)).map (fun p => rotate24 p.1 (ncoPhase nco (start + p.2))), sat)

/-- A tail buffer: 190 cell-rate samples, each as two 32-bit words, I then Q (log 39). -/
def tailBytes : Nat := 1520
def tailOf (l : List Byte) : List Cx :=
  (chunks 2 (wordsOf l)).map (fun p => { re := sx 32 (p.getD 0 0), im := sx 32 (p.getD 1 0) })
def bytesOfTail (l : List Cx) : List Byte :=
  l.flatMap (fun x => leBytes 4 (wrapN 32 x.re) ++ leBytes 4 (wrapN 32 x.im))

/-! ### Shaping (R74, R75) -/

/-- A_T of R74: the largest integer not above RMS_REF x 10^(PAPR / 200) + 1/2. -/
def peakLimit (rms papr : Nat) : Nat :=
  (rootBits 200 ((2 * rms) ^ 200 * 10 ^ papr) 28 0 + 1) / 2

/-- 1 - A_T / |x| in Q1.17, from |x|^2 (R62, R74). -/
def peakGain (limit s : Nat) : Int :=
  let m := divUp ((2 ^ 18 * limit) ^ 2) s
  let r := isqrt m
  let r' := if r * r < m then r + 1 else r
  clampTo topQ17 ((2 ^ 17 : Int) - ((r' / 2 : Nat) : Int))

/-- The peaks of one iteration, largest first and at most 128 (R74). -/
def peaksOf (limit : Nat) (x : List Cx) : List Nat :=
  let p := x.map Cx.norm2
  let at_ (i : Nat) : Nat := p.getD i 0
  let l := (List.range p.length).filter (fun n0 =>
    decide (limit * limit < at_ n0)
    && (List.range 9).all (fun k =>
      if n0 + k < 4 then true
      else
        let n := n0 + k - 4
        if n < n0 then decide (at_ n < at_ n0) else decide (at_ n ≤ at_ n0)))
  (sortBy (fun n => 2 ^ 64 - at_ n) l).take 128

/-- One iteration of crest-factor reduction, and the peaks it cancelled (R74). -/
def reduceOnce (limit : Nat) (pulse x : List Cx) : List Cx × Nat :=
  let peaks := peaksOf limit x
  (peaks.foldl (fun y n0 =>
    let v := x.getD n0 Cx.zero
    let g := peakGain limit v.norm2
    let c : Cx := Cx.narrow { re := v.re * g, im := v.im * g } 17
    (y.zip (List.range y.length)).map (fun e =>
      if n0 ≤ e.2 + 63 ∧ e.2 ≤ n0 + 63 then e.1.sub ((c.mul (pulse.getD (e.2 + 63 - n0) Cx.zero)).narrow 15)
      else e.1)) x, peaks.length)

/-- `iter` iterations: the signal and the peaks cancelled (R74). -/
def reducePeaks (limit : Nat) (pulse : List Cx) : Nat → List Cx × Nat → List Cx × Nat
  | 0, x => x
  | iter + 1, (x, n) =>
    let (y, k) := reduceOnce limit pulse x
    reducePeaks limit pulse iter (y, n + k)

/-- The Hann window in Q1.17 (R75). -/
def hann (n : Nat) : Int := q17 ((2 ^ 120 - cos120 n 512) / 2)

/-- Power per bin, summed over the 512-sample segments (R75). The product with the Q1.17 window is
narrowed by 17 bits before the FFT (log 136: R75 gives no narrowing). -/
def maskPower (x : List Cx) : List Nat :=
  let segs := (chunks 512 x).filter (fun s => s.length == 512)
  segs.foldl (fun acc s =>
    let w := (s.zip (List.range 512)).map (fun p =>
      Cx.narrow { re := p.1.re * hann p.2, im := p.1.im * hann p.2 } 17)
    List.zipWith (fun a v => a + v.norm2) acc (fft false w)) (List.replicate 512 0)

/-- Power of the bins FIRST to LAST, and their number (R75). -/
def bandPower (p : List Nat) (first last : Int) : Nat × Nat :=
  let n := (last - first + 1).toNat
  ((List.range n).foldl (fun a i => a + p.getD ((first + Int.ofNat i) % 512).toNat 0) 0, n)

/-- Field `i` of a mask profile, as a signed 16-bit word. -/
def profileWord (b : List Byte) (i : Nat) : Int := sx 16 (fld b (2 * i) 2)

/-- The offset in the profile buffer of its first field outside its range (R75, R87). A LAST below its
FIRST counts as out of range (log 136: R75 gives no such range). -/
def profileBad (b : List Byte) : Option Nat :=
  let off (x : Int) : Bool := decide (x < -256) || decide (255 < x)
  let first := profileWord b 0
  let last := profileWord b 1
  let bands := fld b 4 2
  firstBad ([(off first, 0), (off last || decide (last < first), 2),
      (decide (bands = 0) || decide (16 < bands), 4)]
    ++ (List.range (min bands 16)).flatMap (fun k =>
      let f := profileWord b (3 + 3 * k)
      let e := profileWord b (4 + 3 * k)
      [(off f, 6 + 6 * k), (off e || decide (e < f), 8 + 6 * k)]))

/-- The first band in excursion, with its excess over LIMIT in 0.1 dB (R75, R76). -/
def maskExcursion (b : List Byte) (p : List Nat) : Option (Nat × Int) :=
  let (pr, nr) := bandPower p (profileWord b 0) (profileWord b 1)
  ((List.range (fld b 4 2)).find? (fun k =>
    let (pb, nb) := bandPower p (profileWord b (3 + 3 * k)) (profileWord b (4 + 3 * k))
    exceeds10 (pb * nr) (pr * nb) (profileWord b (5 + 3 * k)))).map (fun k =>
      let (pb, nb) := bandPower p (profileWord b (3 + 3 * k)) (profileWord b (4 + 3 * k))
      (k, if pr = 0 then 32767 else centiBel (pb * nr) (pr * nb) - profileWord b (5 + 3 * k)))

/-- One carrier of a DL_SYMBOL job (Table 3.10). -/
structure Carrier where
  cell : List Byte
  ant : List Byte
  shift : Nat
  input : Nat
  tailIn : Nat
  tailOut : Nat
  /-- Job-block offset of its fields. -/
  off : Nat

/-- The carriers of the block; none for one whose record does not exist, with its offset. -/
def dlCarriers (img : Img) (j : Job) (stream : Nat) : List (Nat ⊕ Carrier) :=
  (List.range (min (j.f 1 1) 4)).map (fun c =>
    let o := 0x10 + 8 * c
    match chainCell img (j.f o 1), chainRec img stream 1 (j.f o 1) with
    | some cell, some ant =>
      let c : Carrier :=
        { cell, ant, shift := j.f (o + 1) 1, input := j.f (o + 2) 2, tailIn := j.f (o + 4) 2,
          tailOut := j.f (o + 6) 2, off := o }
      .inr c
    | _, _ => .inl o)

/-- Carrier symbols in one base symbol (R60). -/
def Carrier.syms (c : Carrier) (info : StreamInfo) : Nat := 2 ^ (cellMu c.cell - info.mu)

/-- Checks of a carrier's fields (Table 3.10). A coefficient buffer that ANTENNA_MAP names is reported at CELL_c:
the model's choice (log 143). -/
def carrierChecks (img : Img) (d : Dyn) (j : Job) (info : StreamInfo) : Nat ⊕ Carrier → List (Bool × Nat)
  | .inl o => [(true, o)]
  | .inr c =>
    [ (filterBad img d c.ant, c.off),
      (decide (31 < c.shift), c.off + 1),
      (badRunOf (fun h => badIn img d j h (4 * cellSubs c.cell)) c.input (c.syms info), c.off + 2),
      (decide (c.tailIn ≠ 0xFFFF) && badIn img d j c.tailIn tailBytes, c.off + 4),
      (badOut img d j c.tailOut tailBytes, c.off + 6) ]

/-- The reads of a carrier: its symbols, its tail, its coefficients. -/
def Carrier.wants (c : Carrier) (info : StreamInfo) : List Want :=
  (List.range (c.syms info)).map (fun k =>
    { handle := c.input + k, from_ := 0, bytes := 4 * cellSubs c.cell, control := false })
  ++ (if c.tailIn = 0xFFFF then [] else
      [{ handle := c.tailIn, from_ := 0, bytes := tailBytes, control := false }])
  ++ filterWant c.ant

/-- One carrier's part of the stream, its new tail, saturated components and symbols read as zero. -/
def Carrier.run (c : Carrier) (info : StreamInfo) (base start count : Nat) (gs : List Got) :
    List Cx × List Cx × Nat × Nat :=
  let k := c.syms info
  let syms := (List.range k).map (fun i =>
    dlSymbol c.cell (base * k + i) c.shift (cxsOf (gotAt gs i).data))
  let x := syms.flatMap (·.1)
  let sat := syms.foldl (fun n s => n + s.2) 0
  let silent := (gs.take k).countP (fun g => decide (g.state ≠ 2))
  let tail := if c.tailIn = 0xFFFF then [] else tailOf (gotAt gs k).data
  let kf := if c.tailIn = 0xFFFF then k else k + 1
  let h := if fld c.ant 7 1 = 0 then [] else coefs (bit (fld c.ant 1 1) 1) (gotAt gs kf).data
  let (y, sat2) := dlCarrier tail x h (fld c.ant 3 1) (fld c.ant 8 4) start count
  let all := List.replicate 190 Cx.zero ++ tail ++ x
  (y, all.drop (all.length - 190), sat + sat2, silent)

/-- Run the carriers one after the other: their sum, tails, counts. -/
def runCarriers (info : StreamInfo) (base start count : Nat) :
    List Carrier → List Got → List Cx → List (List Cx) → Nat → Nat → List Cx × List (List Cx) × Nat × Nat
  | [], _, sum, tails, sat, silent => (sum, tails, sat, silent)
  | c :: rest, gs, sum, tails, sat, silent =>
    let n := (c.wants info).length
    let (y, t, s, z) := c.run info base start count (gs.take n)
    runCarriers info base start count rest (gs.drop n) (List.zipWith Cx.add sum y) (tails ++ [t])
      (sat + s) (silent + z)

/-- A DL_SYMBOL job (R69 to R77, R87, R89, Table 3.10). It starts, for R77's blank, when its command runs: the
model's choice (log 143). -/
def dlJob (img : Img) (j : Job) (d : Dyn) : Dyn × JobEnd :=
  let stream := j.f 2 1
  match streamInfo img stream 1 with
  | none => (d, j.bad 1)
  | some info =>
    let base := j.f 3 1
    let papr := j.f 6 1
    let pulse := j.f 0xC 2
    let maskH := j.f 0xE 2
    let cs := dlCarriers img j stream
    let good := cs.filterMap (fun x => match x with | .inr c => some c | .inl _ => none)
    let maskSize := ((bufferOf img maskH).map Buf.size).getD 0
    let early := firstBad
      [ (decide (j.f 1 1 = 0) || decide (4 < j.f 1 1)
            || decide ((streamRecs img stream 1).length < j.f 1 1), 1),
        (decide (info.syms ≤ base), 3),
        (badOut img d j (j.f 4 2) (containerBytes info base), 4),
        (decide (papr ≠ 0) && (decide (papr < 60) || decide (120 < papr)), 6),
        (decide (j.f 7 1 = 0) || decide (4 < j.f 7 1), 7),
        (decide (papr ≠ 0) && badIn img d j pulse 508, 0xC),
        (decide (maskH ≠ 0xFFFF) && badIn img d j maskH 6, 0xE) ]
    let profile : List Want := if maskH = 0xFFFF then [] else
      [{ handle := maskH, from_ := 0, bytes := min maskSize 102, control := true }]
    withBufs img j early profile d (fun ps d0 =>
    let prof := (gotAt ps 0).data
    let bands := fld prof 4 2
    let short := decide (maskH ≠ 0xFFFF) && decide (bands ≤ 16) && decide (prof.length < 6 + 6 * bands)
    match (if maskH = 0xFFFF ∨ short then none else profileBad prof) with
    | some off => (d0, .invalid (addrOf img maskH + off) 0xE)
    | none =>
      let bad := firstBad ((short, 0xE) :: cs.flatMap (carrierChecks img d0 j info))
      let wants : List Want :=
        (if papr = 0 then [] else [{ handle := pulse, from_ := 0, bytes := 508, control := true }])
        ++ good.flatMap (fun c => c.wants info)
      withBufs img j bad wants d0 (fun gs d1 =>
        let k2 := if papr = 0 then 0 else 1
        if d1.blanked.contains stream then
          (d1, .done { final := 4, result := engineResult j 1 1 0 0 0 0 } [])
        else
          let start := tcSamples info.perMs (symStart info.mu info.ext base)
          let count := info.samples base
          let (sum, tails, sat1, silent) := runCarriers info base start count good (gs.drop k2)
            (List.replicate count Cx.zero) [] 0 0
          let (x0, sat2) := clampAll topTW24 sum
          let limit := peakLimit (j.f 8 3) papr
          let (x, peaks) := if papr = 0 then (x0, 0)
            else reducePeaks limit (cxsOf (gotAt gs 0).data) (j.f 7 1) (x0, 0)
          let above := if papr = 0 then 0 else x.countP (fun v => decide (limit * limit < v.norm2))
          let blocks := (chunks 16 x).map (fun b =>
            packBlock info.width ((b ++ List.replicate 16 Cx.zero).take 16))
          let sat3 := blocks.foldl (fun n b => n + b.2.2) 0
          let packed := (blocks.flatMap (fun b => b.2.1)).take count
          let exc := if maskH = 0xFFFF then none else maskExcursion prof (maskPower packed)
          let flags := (if exc.isSome then 2 else 0) + (if 0 < above then 4 else 0)
          (d1, .done
            { final := 2, result := engineResult j 0 flags (sat1 + sat2 + sat3) silent peaks above,
              mask := exc.map (fun e => (stream, e.1, e.2)) }
            ((addrOf img (j.f 4 2) + 0x40, blocks.flatMap (·.1))
              :: List.zipWith (fun (c : Carrier) t => (addrOf img c.tailOut, bytesOfTail t)) good tails))))

/-- UL_SYMBOL on transform engine `e` (R68). -/
def execUlSymbol (e : Fin 32) (s : State) : Out := act (runEngine (0x0300 + e.val) 0x01 ulJob) s

/-- DL_SYMBOL on transform engine `e` (R73). -/
def execDlSymbol (e : Fin 32) (s : State) : Out := act (runEngine (0x0300 + e.val) 0x02 dlJob) s

end Sys2Proof.Machine
end

