-- ==== Sys2Proof/Machine/Prach.lean ====
section
/-! DEFINITION. The PRACH_FE and PRACH_DET jobs of the transform engines (R78 to R83). -/

namespace Sys2Proof.Machine

/-- L of a code (Table 3.11), and M for it (Table 3.7). -/
def prachL (code : Nat) : Nat :=
  match code with
  | 0 => 139
  | 1 => 571
  | 2 => 839
  | _ => 1151
def prachM (code : Nat) : Nat :=
  match code with
  | 0 => 256
  | 3 => 2048
  | _ => 1024

/-- Twice the random-access subcarrier spacing in kHz (Table 3.12), times 2. -/
def prachScs4 (code : Nat) : Nat :=
  match code with
  | 0 => 5
  | 1 => 20
  | 2 => 60
  | 3 => 120
  | 4 => 240
  | 5 => 480
  | _ => 30

/-- The spacings of Table 3.7 at which sequences of a length occur (SCS_RA codes). -/
def prachSpacings (code : Nat) : List Nat :=
  match code with
  | 0 => [2, 3, 4, 5, 6]
  | 1 => [3]
  | 2 => [0, 1]
  | _ => [2]

/-- Table 3.7 has restricted sets for the length (R78). -/
def prachRestricted (code : Nat) : Bool := code == 2

/-! ### The front end (R79) -/

/-- The base symbol of each of `n` containers from their headers: the first committed one tells its own,
and the rest follow in order (R292; log 40). -/
def contSymbols (i : StreamInfo) (heads : List Got) : List Nat :=
  let n := heads.length
  match (List.range n).find? (fun k => (gotAt heads k).state == 2) with
  | none => (List.range n).map (fun k => k % i.syms)
  | some k0 =>
    let s0 := fld (gotAt heads k0).data 3 1 % i.syms
    (List.range n).map (fun k => (s0 + n * i.syms + k - k0) % i.syms)

/-- A stretch of containers as shifted stream samples, and its block marks (R63, R72, R79). -/
def feSamples (i : StreamInfo) (nco : Nat) (ls : List Nat) (gs : List Got) : List Cx × List Bool :=
  (ls.zip gs).foldl (fun (acc : List Cx × List Bool) e =>
    let (x, marks) := containerSamples i e.1 e.2
    let start := tcSamples i.perMs (symStart i.mu i.ext e.1)
    let y := (x.zip (List.range x.length)).map (fun p =>
      rotate24 p.1 ((2 ^ 24 - ncoPhase nco (start + p.2)) % 2 ^ 24))
    (acc.1 ++ y, acc.2 ++ marks)) ([], [])

/-- One repetition of the spectrum (R79), and its saturated components. The decimating filter's sum is
narrowed by 17 bits with saturation to TW24 (log 136: R79 gives no narrowing). -/
def feRepetition (x h : List Cx) (first ratio m bin l shift : Nat) : List Cx × Nat :=
  let half := (h.length - 1) / 2
  let (y, s1) := clampAll topTW24 ((List.range m).map (fun k =>
    ((List.range h.length).foldl (fun acc t =>
      acc.add ((h.getD t Cx.zero).mul (x.getD (first + k * ratio + half - t) Cx.zero))) Cx.zero).narrow 17))
  let f := fft false y
  let (z, s2) := clampAll topFD16 ((List.range l).map (fun i => (f.getD ((bin + i) % m) Cx.zero).narrow shift))
  (z, s1 + s2)

/-- A PRACH_FE job (R78, R79, R87, Table 3.11). Samples outside the containers are reported at START, and an M that
Table 3.7 does not give for L at L_CODE (log 135); a wrong SEQ_LEN bounds the samples of START all the same (log
156). -/
def feJob (img : Img) (j : Job) (d : Dyn) : Dyn × JobEnd :=
  let reps := j.f 1 1
  let stream := j.f 2 1
  let taps := j.f 3 1
  let first := j.f 4 2
  let count := j.f 6 1
  let ratio := j.f 7 1
  let m := match j.f 0x16 1 with
    | 0 => 256
    | 1 => 1024
    | _ => 2048
  let l := prachL (j.f 0x1A 1)
  let start := j.f 8 4
  let seq := j.f 0xC 4
  let half := (taps - 1) / 2
  match streamInfo img stream 0 with
  | none => (d, j.bad (if reps = 0 ∨ 12 < reps then 1 else 2))
  | some info =>
    let knownM := decide (j.f 0x16 1 ≤ 2)
    let bad := firstBad
      [ (decide (reps = 0) || decide (12 < reps), 1),
        (decide (taps = 0) || decide (191 < taps), 3),
        (badRunOf (fun h => badIn img d j h 0x40) first count, 4),
        (decide (count = 0) || decide (64 < count), 6) ]
    let heads := (List.range count).map (fun k =>
      { handle := first + k, from_ := 0, bytes := 0x40, control := false : Want })
    withBufs img j bad heads d (fun hs d1 =>
      let ls := contSymbols info hs
      let total := ls.foldl (fun a k => a + info.samples k) 0
      let last := start + (reps - 1) * seq + (m - 1) * ratio + half
      let bad2 := firstBad
        [ ((ls.zip (List.range count)).any (fun e => badIn img d1 j (first + e.2) (containerBytes info e.1)), 4),
          (decide (ratio = 0) || decide (128 < ratio), 7),
          (decide (start + half < taps - 1) || (knownM && decide (total ≤ last)), 8),
          (knownM && decide (seq ≠ ratio * m), 0xC),
          (badIn img d1 j (j.f 0x14 2) (4 * taps), 0x14),
          (!knownM, 0x16),
          (decide (31 < j.f 0x17 1), 0x17),
          (decide (m ≤ j.f 0x18 2), 0x18),
          (decide (3 < j.f 0x1A 1) || decide (m ≠ prachM (j.f 0x1A 1)), 0x1A),
          (badOut img d1 j (j.f 0x1C 2) (4 * reps * l), 0x1C) ]
      let wants := ({ handle := j.f 0x14 2, from_ := 0, bytes := 4 * taps, control := true } : Want)
        :: (ls.zip (List.range count)).map (fun e =>
          { handle := first + e.2, from_ := 0, bytes := containerBytes info e.1, control := false : Want })
      withBufs img j bad2 wants d1 (fun gs d2 =>
        let h := coefs false (gotAt gs 0).data
        let (x, marks) := feSamples info (j.f 0x10 4) ls (gs.drop 1)
        let outs := (List.range reps).map (fun r =>
          feRepetition x h (start + r * seq) ratio m (j.f 0x18 2) l (j.f 0x17 1))
        let sat := outs.foldl (fun n o => n + o.2) 0
        let erased := marks.countP id
        let flags := if erased = marks.length then 8 else 0
        (d2, .done { final := 2, result := engineResult j 0 flags sat erased 0 0 }
          [(addrOf img (j.f 0x1C 2), (outs.flatMap (·.1)).flatMap wordOfCx)])))

/-! ### Cyclic shifts (TS 38.211 clause 6.3.3.1, R81; log 41) -/

/-- d_u of root u: the smallest q with q u = 1 (mod L), folded to at most L / 2. -/
def rootShift (l u : Nat) : Nat :=
  let q := ((List.range l).find? (fun q => decide (q * u % l = 1))).getD 0
  if 2 * q < l then q else l - q

/-- Shifts in groups: C_v = d_start x (v / n_shift) + (v mod n_shift) x N_CS. -/
def groupShifts (nShift dStart w ncs : Nat) : List Nat :=
  (List.range w).map (fun v => dStart * (v / nShift) + v % nShift * ncs)

/-- Shifts of restricted set type A. -/
def shiftsA (l ncs u : Nat) : List Nat :=
  let du := rootShift l u
  if ncs ≤ du ∧ 3 * du < l then
    let ns := du / ncs
    let ds := 2 * du + ns * ncs
    let ng := l / ds
    groupShifts ns ds (ns * ng + (l - 2 * du - ng * ds) / ncs) ncs
  else if l ≤ 3 * du ∧ 2 * du + ncs ≤ l then
    let ns := (l - 2 * du) / ncs
    let ds := l - 2 * du + ns * ncs
    let ng := du / ds
    groupShifts ns ds (ns * ng + min ((du - ng * ds) / ncs) ns) ncs
  else []

/-- Shifts of restricted set type B. -/
def shiftsB (l ncs u : Nat) : List Nat :=
  let du := rootShift l u
  if ncs ≤ du ∧ 5 * du < l then
    let ns := du / ncs
    let ds := 4 * du + ns * ncs
    let ng := l / ds
    groupShifts ns ds (ns * ng + (l - 4 * du - ng * ds) / ncs) ncs
  else if l ≤ 5 * du ∧ 4 * du + ncs ≤ l then
    let ns := (l - 4 * du) / ncs
    let ds := l - 4 * du + ns * ncs
    let ng := du / ds
    groupShifts ns ds (ns * ng + min ((du - ng * ds) / ncs) ns) ncs
  else if l + ncs ≤ 4 * du ∧ 7 * du < 2 * l then
    let ns := (4 * du - l) / ncs
    let ds := 4 * du - l + ns * ncs
    let ng := du / ds
    let n1 := (l - 3 * du - ng * ds) / ncs
    let n2 := min (du - ng * ds) (4 * du - l - n1 * ncs) / ncs
    let k := min 1 n1
    let n3 := ((1 - k) * (du - ng * ds) + k * (4 * du - l - n1 * ncs)) / ncs - n2
    let d2 := l - 3 * du + ng * ds + n1 * ncs
    let d3 := l - 2 * du + ng * ds + n2 * ncs
    groupShifts ns ds (ns * ng + n1) ncs ++ (List.range n2).map (fun i => d2 + i * ncs)
      ++ (List.range n3).map (fun i => d3 + i * ncs)
  else if 2 * l ≤ 7 * du ∧ 3 * du + ncs ≤ l then
    let ns := (l - 3 * du) / ncs
    let ds := l - 3 * du + ns * ncs
    let ng := du / ds
    let n1 := (4 * du - l - ng * ds) / ncs
    let n2 := min (du - ng * ds) (l - 3 * du - n1 * ncs) / ncs
    let d2 := du + ng * ds + n1 * ncs
    groupShifts ns ds (ns * ng + n1) ncs ++ (List.range n2).map (fun i => d2 + i * ncs)
  else if l + ncs ≤ 3 * du ∧ 5 * du < 2 * l then
    let ns := (3 * du - l) / ncs
    let ds := 3 * du - l + ns * ncs
    let ng := du / ds
    groupShifts ns ds (ns * ng + (l - 2 * du - ng * ds) / ncs) ncs
  else if 2 * l ≤ 5 * du ∧ 2 * du + ncs ≤ l then
    let ns := (l - 2 * du) / ncs
    let ds := 2 * (l - 2 * du) + ns * ncs
    let ng := (l - du) / ds
    groupShifts ns ds (ns * ng + (3 * du - l - ng * ds) / ncs) ncs
  else []

/-- The cyclic shifts of a root (R81). -/
def cyclicShifts (l ncs set u : Nat) : List Nat :=
  if ncs = 0 then [0]
  else match set with
    | 0 => (List.range (l / ncs)).map (· * ncs)
    | 1 => shiftsA l ncs u
    | _ => shiftsB l ncs u

/-! ### Detection (R80 to R83) -/

/-- The root sequence's unit-magnitude DFT, as constants (R62, R80): the Zadoff-Chu sequence of a
prime length L completes to a square, whose sum is the Gauss sum of L. -/
def rootSpectrum (l u : Nat) : List Cx :=
  let inv (a : Nat) : Nat := powMod l (a % l) (l - 2) 12
  let iu := inv u
  let i8 := inv 8
  let a := (l - u * inv 2 % l) % l
  let residue := decide (powMod l a ((l - 1) / 2) 12 = 1)
  let turn := (if l % 4 = 3 then l else 0) + (if residue then 0 else 2 * l)
  (List.range l).map (fun k =>
    let b := (1 + 2 * k * iu) % l
    unit17 ((4 * (u * i8 % l * b % l * b % l) + turn) % (4 * l)) (4 * l))

/-- Products with the conjugate root, narrowed and summed in groups (R80 steps 1 and 2). -/
def correlate (y : List Cx) (reps group : Nat) (spec : List Cx) : List (List Cx) :=
  let l := spec.length
  let prods := (List.range reps).map (fun r =>
    List.zipWith (fun a b => (a.mul b.conj).narrow 17) ((y.drop (r * l)).take l) spec)
  (chunks group prods).map (fun g => g.foldl (fun acc p => List.zipWith Cx.add acc p) (List.replicate l Cx.zero))

/-- The power-delay profile of a root over all inputs that are not erased (R80). -/
def profile (inputs : List (List Cx)) (reps group m : Nat) (spec : List Cx) : List Nat :=
  (inputs.flatMap (fun y => correlate y reps group spec)).foldl (fun acc z =>
    let t := fft true ((z ++ List.replicate m Cx.zero).take m)
    List.zipWith (fun a v => a + v.norm2) acc t) (List.replicate m 0)

/-- The noise of all roots as a fraction: each root's 16 largest positions excepted (R80). -/
def noiseOf (m : Nat) (ps : List (List Nat)) : Nat × Nat :=
  let sumRoot (p : List Nat) : Nat := ((sortBy id p).take (m - 16)).foldl (· + ·) 0
  (ps.foldl (fun a p => a + sumRoot p) 0, ps.length * (m - 16))

/-- Each position's value with those of its aliases, d_u away on either side, under a restricted set
(R81). The offset in positions is d_u M / L rounded half up (log 41). -/
def aliased (l m set u : Nat) (p : List Nat) : List Nat :=
  if set = 0 then p
  else
    let o := divRound (rootShift l u * m) l
    (List.range m).map (fun i =>
      p.getD i 0 + p.getD ((i + o) % m) 0 + p.getD ((i + m - o % m) % m) 0)

/-- One candidate or detection. -/
structure Detection where
  root : Nat
  window : Nat
  windows : Nat
  preamble : Nat
  power : Nat
  timing : Nat
deriving DecidableEq, Repr

/-- (d - (L - C_v)) mod L of position `p`, in units of 1 / M sequence sample (R81). -/
def delayOf (l m c p : Nat) : Nat := (p * l + l * m - (l - c) * m % (l * m)) % (l * m)

/-- The candidate of a window: its largest value, at the lowest position where values tie (R81). -/
def candidate (l m ncs c : Nat) (p : List Nat) : Option (Nat × Nat) :=
  ((List.range m).filter (fun i => decide (ncs = 0) || decide (delayOf l m c i < ncs * m))).foldl
    (fun best i =>
      let v := p.getD i 0
      match best with
      | some (w, k) => if w < v then some (v, i) else some (w, k)
      | none => some (v, i)) none

/-- The detections of one root (R81). -/
def detectRoot (l m ncs set scs thresh : Nat) (noise : Nat × Nat) (idx u first windows : Nat)
    (p : List Nat) : List Detection :=
  let q := aliased l m set u p
  let shifts := (cyclicShifts l ncs set u).take windows
  (shifts.zip (List.range windows)).filterMap (fun e =>
    match candidate l m ncs e.1 q with
    | none => none
    | some (power, pos) =>
      if noise.1 ^ 100 * 10 ^ thresh ≤ (power * noise.2) ^ 100 then
        let r := delayOf l m e.1 pos
        some { root := idx, window := e.2, windows, preamble := first + e.2, power,
               timing := divRound (r * 1966080000 * 4) (m * l * scs * 1000) }
      else none)

/-- Detection `x` is masked by a much stronger one nearby on its root (R82). -/
def maskedBy (x s : Detection) : Bool :=
  let gap := if x.window ≤ s.window then s.window - x.window else x.window - s.window
  x.root == s.root && decide (x.power ^ 5 * 10 ^ 6 < s.power ^ 5)
  && decide (min gap (s.windows - gap) ≤ 2)

/-- Detections in the order of R82. -/
def ordered (l : List Detection) : List Detection :=
  (sortBy (fun x => 2 ^ 100 - x.power) (sortBy Detection.preamble l))

/-- A root of the list: U, FIRST_PREAMBLE, WINDOWS (Table 3.12). -/
def rootEntry (b : List Byte) (i : Nat) : Nat × Nat × Nat :=
  (fld b (8 * i) 2, fld b (8 * i + 2) 1, fld b (8 * i + 3) 1)

/-- The offset in the root list of its first field outside its range (R81, R82, R87): U from 1 to L - 1,
WINDOWS from 1 to the root's cyclic shifts (log 136). `known` is false where L, N_CS or SET is itself
out of range. -/
def rootsBad (b : List Byte) (known : Bool) (count l ncs set : Nat) : Option Nat :=
  firstBad ((List.range count).flatMap (fun i =>
    let (u, p, w) := rootEntry b i
    let clash := (List.range i).any (fun k =>
      let (_, p', w') := rootEntry b k
      decide (p < p' + w') && decide (p' < p + w))
    [ (decide (u = 0) || (known && decide (l ≤ u)), 8 * i),
      (decide (63 < p) || clash, 8 * i + 2),
      (decide (w = 0) || decide (64 < p + w)
        || (known && decide ((cyclicShifts l ncs set u).length < w)), 8 * i + 3) ]))

/-- PEAK_DB (R83); a noise of zero leaves it open, and it takes a free value (log 42). -/
def peakDb (noise : Nat × Nat) (power fv : Nat) : Nat :=
  if noise.1 = 0 ∨ power = 0 then fv % 65536 else wrapN 16 (centiBel (power * noise.2) noise.1)

/-- The detection buffer (R83). -/
def detectionBytes (noise : Nat × Nat) (allErased : Bool) (suppressed : Nat) (fv : Nat → Nat)
    (l : List Detection) : List Byte :=
  leBytes 1 l.length ++ leBytes 1 (b2n allErased) ++ leBytes 2 suppressed ++ zeros 4
  ++ leBytes 8 (divRound noise.1 noise.2)
  ++ (l.zip (List.range l.length)).flatMap (fun e =>
    leBytes 1 e.1.preamble ++ leBytes 1 e.1.root ++ leBytes 2 (peakDb noise e.1.power (fv e.2))
    ++ leBytes 4 e.1.timing ++ zeros 8)

/-- A PRACH_DET job (R78, R80 to R83, R87, R89, Table 3.12). A restricted set that Table 3.7 does not give
for L is reported at SET, and such a spacing at SCS_RA (log 135). -/
def detJob (img : Img) (j : Job) (d : Dyn) : Dyn × JobEnd :=
  let inputs := j.f 1 1
  let reps := j.f 2 1
  let group := j.f 3 1
  let count := j.f 8 1
  let l := prachL (j.f 9 1)
  let m := prachM (j.f 9 1)
  let ncs := j.f 0xA 2
  let set := j.f 0xC 1
  let outH := j.f 0x10 2
  let code := j.f 9 1
  let knownL := decide (code ≤ 3)
  let rootBytes := 8 * min count 64
  let early := firstBad
    [ (decide (inputs = 0) || decide (64 < inputs), 1),
      (decide (reps = 0) || decide (12 < reps), 2),
      (decide (group = 0) || decide (reps % group ≠ 0), 3),
      (badRunOf (fun h => badIn img d j h (if knownL then 4 * reps * l else 0)) (j.f 4 2) inputs, 4),
      (badIn img d j (j.f 6 2) rootBytes, 6) ]
  withBufs img j early [{ handle := j.f 6 2, from_ := 0, bytes := rootBytes, control := true }] d (fun rs d0 =>
    let list := (gotAt rs 0).data
    match rootsBad list (knownL && decide (ncs < l) && decide (set ≤ 2)) (min count 64) l ncs set with
    | some off => (d0, .invalid (addrOf img (j.f 6 2) + off) 6)
    | none =>
    let bad := firstBad
      [ (decide (count = 0) || decide (64 < count), 8),
        (!knownL, 9),
        (decide (l ≤ ncs), 0xA),
        (decide (2 < set) || (decide (set ≠ 0) && !prachRestricted code), 0xC),
        (decide (250 < j.f 0xD 1), 0xD),
        (!(prachSpacings code).contains (j.f 0xE 1), 0xE),
        (badOut img d0 j outH 1040, 0x10) ]
    let wants := (List.range inputs).map (fun k =>
      { handle := j.f 4 2 + k, from_ := 0, bytes := 4 * reps * l, control := false : Want })
    withBufs img j bad wants d0 (fun ins d1 =>
      let erased := ins.countP (fun g => g.state == 3)
      let all := decide (erased = inputs)
      let live := (ins.filter (fun g => g.state != 3)).map (fun g => cxsOf g.data)
      let roots := (List.range count).map (rootEntry list)
      let ps := roots.map (fun r => profile live reps group m (rootSpectrum l r.1))
      let noise := noiseOf m ps
      let found := if all then [] else ordered (((List.range count).zip (roots.zip ps)).flatMap (fun e =>
        detectRoot l m ncs set (prachScs4 (j.f 0xE 1)) (j.f 0xD 1) noise e.1 e.2.1.1 e.2.1.2.1 e.2.1.2.2 e.2.2))
      let kept := found.filter (fun x => !found.any (maskedBy x))
      let sup := found.length - kept.length
      let d2 := { d1 with free := d1.free + 64 }
      let fv (i : Nat) : Nat := Config.freeValue (d1.free + i)
      (d2, .done { final := 2, result := engineResult j 0 (if all then 8 else 0) 0 erased kept.length sup }
        [(addrOf img outH, detectionBytes noise all sup fv kept)])))

/-- PRACH_FE on transform engine `e` (R79). -/
def execPrachFe (e : Fin 32) (s : State) : Out := act (runEngine (0x0300 + e.val) 0x03 feJob) s

/-- PRACH_DET on transform engine `e` (R80). -/
def execPrachDet (e : Fin 32) (s : State) : Out := act (runEngine (0x0300 + e.val) 0x04 detJob) s

end Sys2Proof.Machine
end

