-- ==== Sys2Proof/Machine/Vector.lean ====
section
/-! DEFINITION. The short-vector and long-vector instructions (08). -/

namespace Sys2Proof.Machine

/-! ### Elements (R212, R213) -/

/-- Element width of an element type (Table 8.2). -/
def etWidth (et : Nat) : Nat := if et = 0 then 8 else if et = 1 then 16 else 32

/-- Elements of a register of `bits_` bits. -/
def etCount (et bits_ : Nat) : Nat := bits_ / etWidth et

/-- Bits of a vector register: long or short. -/
def vecBits (long : Bool) : Nat := if long then 2048 else 256

def Dyn.rq (d : Dyn) (c k : Nat) : BitVec 256 := Map.get 0 (d.core c).vec.q k
def Dyn.rv (d : Dyn) (c k : Nat) : BitVec 2048 := Map.get 0 (d.core c).vec.v k
def Dyn.wq (d : Dyn) (c k : Nat) (x : BitVec 256) : Dyn :=
  d.onVec c (fun v => { v with q := Map.set v.q k x })
def Dyn.wv (d : Dyn) (c k : Nat) (x : BitVec 2048) : Dyn :=
  d.onVec c (fun v => { v with v := Map.set v.v k x })

/-- A vector register's content as a number, and the write of one. -/
def Dyn.readVec (d : Dyn) (c : Nat) (long : Bool) (k : Nat) : Nat :=
  if long then (d.rv c k).toNat else (d.rq c k).toNat
def Dyn.writeVec (d : Dyn) (c : Nat) (long : Bool) (k x : Nat) : Dyn :=
  if long then d.wv c k (BitVec.ofNat 2048 x) else d.wq c k (BitVec.ofNat 256 x)

/-- Element `i` of width `w`. -/
def elemAt (w x i : Nat) : Nat := (x >>> (w * i)) % 2 ^ w

/-- Replace element `i` of width `w`. -/
def setElem (w x i v : Nat) : Nat := x - (elemAt w x i) * 2 ^ (w * i) + (v % 2 ^ w) * 2 ^ (w * i)

/-- Replace elements 0, 1, ... by the list's. -/
def setElems (w x : Nat) (l : List Nat) : Nat :=
  (l.foldl (fun (acc : Nat × Nat) v => (setElem w acc.1 acc.2 v, acc.2 + 1)) (x, 0)).1

/-- The element count of an instruction (R213). -/
def Dyn.vecN (d : Dyn) (c : Nat) (long : Bool) (et : Nat) : Nat :=
  if long then min (d.core c).vec.vl (etCount et 2048) else etCount et 256

/-! ### Enables and checks (R215, R216, R223) -/

/-- The vector file is enabled at the core's level (R215). -/
def vecEnabled (d : Dyn) (c : Nat) (long : Bool) : Bool :=
  let e := (d.core c).vec.enable.toNat
  match (d.status c).pl with
  | .exec => true
  | .task => bit e (if long then 1 else 0)
  | .plugin => bit e (if long then 3 else 2)

/-- A field that names a vector register: a V register's bits [4:3] are reserved (R216). -/
def vecField (long : Bool) (r : Reg5) : Bool := !long || decide (r.toNat < 8)

/-- VSTART_FAULT (R223). -/
def excVstart : Exc := { code := 0x10, detail := 0, cond := 0, addr := none }

/-- An arithmetic, move or reduction: encoding, enable and VSTART are checked in that order (log 20). -/
def vecOp (c : Core) (legal enabled : Dyn → Bool) (f : Dyn → Dyn) (_ : Img) (d : Dyn) : Res :=
  if !legal d then .exc d excIllegal
  else if !enabled d then .exc d (excCoproc 0)
  else if (d.core c.val).vec.vstart ≠ 0 then .exc d excVstart
  else .done (f d) none

/-! ### Loads and stores (R217 to R222) -/

/-- The parts of an access: one per 64-byte block (R220). -/
def vecParts (a n : Nat) : List (Nat × Nat) := pieces 64 (n / 64 + 2) a n

/-- Read parts in order; stop at the first that fails, saying where and with what status. -/
def loadParts (img : Img) (c : Nat) : List (Nat × Nat) → Dyn → List Byte → Dyn × List Byte × Option (Nat × Nat)
  | [], d, acc => (d, acc, none)
  | (a, n) :: rest, d, acc =>
    let (d1, r) := plainLoad img (countAccess d c 0x0105 a) c a n
    if r.status ≤ 1 then loadParts img c rest d1 (acc ++ r.data) else (d1, acc, some (a, r.status))

/-- Issue the parts of a store, each counted and signed (R220). -/
def storeParts (img : Img) (c a : Nat) (bytes : List Byte) (d : Dyn) : Dyn :=
  blockStore img c a bytes (fun d q data => feedSig (countAccess d c 0x0106 q) c q data) d

/-- The first element from `i` whose access R176, R177 or R219 forbids, else `n`. -/
def firstDenied (d : Dyn) (c a w n i : Nat) : Nat :=
  ((List.range (n - i)).map (· + i)).find? (fun k =>
    let e := (a + k * (w / 8)) % 2 ^ 48
    accessDenied d c e (w / 8) || decide (0x00F000000000 < e + w / 8)) |>.getD n

/-- The common part of VLD and VST. `move` performs elements `i` to `k - 1` at `a` and says at which
element and with what a load failed; `spoil` puts a free value into the elements from `i` on, where such a load
must complete in a handler (R221; log 21). -/
def vecAccess (c : Core) (long : Bool) (pn : BitVec 4) (am et : BitVec 2) (u : Bool) (mn : BitVec 4)
    (legal : Bool) (spoil : Dyn → Nat → Nat → Dyn)
    (move : Dyn → Nat → Nat → Nat → Dyn × Option (Nat × Nat)) (img : Img) (d : Dyn) : Res :=
  let w := etWidth et.toNat
  let n := d.vecN c.val long et.toNat
  let i := (d.core c.val).vec.vstart
  let pA := d.rp c.val pn.toNat
  let a := pA.toNat
  let setStart (d : Dyn) (k : Nat) : Dyn := d.onVec c.val (fun v => { v with vstart := k })
  let step : Int := if am.toNat = 1 then ((n * w / 8 : Nat) : Int) else (d.rm c.val mn.toNat).toInt
  let finish (d1 : Dyn) : Dyn :=
    let d2 := setStart (countOutside d1 c.val
      (decide (am.toNat ≠ 0) && d.circOutside c.val pn.toNat a (n * w / 8))) 0
    if am.toNat = 0 then d2 else d2.postMod c.val pn.toNat step
  if !legal || decide (am.toNat = 3) then .exc d excIllegal
  else if !vecEnabled d c.val long then .exc d (excCoproc 0)
  else if n ≤ i ∧ ¬ (n = 0 ∧ i = 0) then .exc d excVstart
  else if n = 0 then
    .done (if am.toNat = 0 then d else d.postMod c.val pn.toNat 0) none
  else
    let k := firstDenied d c.val a w n i
    if !u && decide (a % 32 ≠ 0) then
      .exc (setStart d 0) (if firstDenied d c.val a w 1 0 = 0 then excAccess 0 pA else excAlign pA)
    else
      let (d1, failed) := move d a i k
      match failed with
      | some (j, status) =>
        let at_ := (a + j * (w / 8)) % 2 ^ 48
        if (d1.core c.val).tsk.task.isSome ∨ status = parityStatus then
          loadFailed img d1 c.val at_ status (fun d v => finish (spoil d i v))
        else .exc (setStart d1 j) (excData (4 * status) (BitVec.ofNat 48 at_))
      | none =>
        if k < n then .exc (setStart d1 k) (excAccess 0 (BitVec.ofNat 48 (a + k * (w / 8))))
        else .done (finish d1) none

/-- Load elements `i` to `k - 1` into register `vr`; a failing part stops at its first element (R221). -/
def loadElems (img : Img) (c : Nat) (long : Bool) (vr w : Nat) (d : Dyn) (a i k : Nat) :
    Dyn × Option (Nat × Nat) :=
  let b := w / 8
  let (d1, bytes, fail) := loadParts img c (vecParts (a + i * b) ((k - i) * b)) d []
  let got := bytes.length / b
  let x := d1.readVec c long vr
  let x' := ((chunks b (bytes.take (got * b))).foldl (fun (acc : Nat × Nat) e =>
    (setElem w acc.1 acc.2 (leNat e), acc.2 + 1)) (x, i)).1
  (d1.writeVec c long vr x', fail.map (fun f => (i + got, f.2)))

/-- Store elements `i` to `k - 1` of register `vr`. -/
def storeElems (img : Img) (c : Nat) (long : Bool) (vr w : Nat) (d : Dyn) (a i k : Nat) :
    Dyn × Option (Nat × Nat) :=
  let b := w / 8
  let x := d.readVec c long vr
  let bytes := ((List.range (k - i)).map (fun j => leBytes b (elemAt w x (i + j)))).flatten
  (storeParts img c (a + i * b) bytes d, none)

def vld (c : Core) (long : Bool) (vr : Reg5) (pn : BitVec 4) (am et : BitVec 2) (u : Bool)
    (mn : BitVec 4) (rsv : Byte) (img : Img) (d : Dyn) : Res :=
  vecAccess c long pn am et u mn (decide (rsv = 0) && vecField long vr)
    (fun d i v =>
      let w := etWidth et.toNat
      let low := w * i
      let high := w * d.vecN c.val long et.toNat
      let x := d.readVec c.val long vr.toNat
      d.writeVec c.val long vr.toNat (x / 2 ^ high * 2 ^ high + v % 2 ^ (high - low) * 2 ^ low + x % 2 ^ low))
    (loadElems img c.val long vr.toNat (etWidth et.toNat)) img d

def vst (c : Core) (long : Bool) (vr : Reg5) (pn : BitVec 4) (am et : BitVec 2) (u : Bool)
    (mn : BitVec 4) (rsv : Byte) (img : Img) (d : Dyn) : Res :=
  vecAccess c long pn am et u mn (decide (rsv = 0) && vecField long vr)
    (fun d _ _ => d) (storeElems img c.val long vr.toNat (etWidth et.toNat)) img d

def execVldQ (c : Core) (vr : Reg5) (pn : BitVec 4) (am et : BitVec 2) (u : Bool) (mn : BitVec 4)
    (rsv : Byte) (s : State) : Out := act (bronze c 5 (vld c false vr pn am et u mn rsv)) s
def execVstQ (c : Core) (vr : Reg5) (pn : BitVec 4) (am et : BitVec 2) (u : Bool) (mn : BitVec 4)
    (rsv : Byte) (s : State) : Out := act (bronze c 5 (vst c false vr pn am et u mn rsv)) s
def execVldV (c : Core) (vr : Reg5) (pn : BitVec 4) (am et : BitVec 2) (u : Bool) (mn : BitVec 4)
    (rsv : Byte) (s : State) : Out := act (bronze c 5 (vld c true vr pn am et u mn rsv)) s
def execVstV (c : Core) (vr : Reg5) (pn : BitVec 4) (am et : BitVec 2) (u : Bool) (mn : BitVec 4)
    (rsv : Byte) (s : State) : Out := act (bronze c 5 (vst c true vr pn am et u mn rsv)) s

/-! ### Element operations (Table 8.6) -/

/-- How a VOP uses its fields beyond VD and VA. -/
inductive VbUse where
  | reg | imm | none
deriving DecidableEq, Repr

/-- The encoding of a VOP is legal (R216, R226). -/
def vopLegal (long : Bool) (vd va vb : Reg5) (et rsv : BitVec 2) (sat : Bool) (ets : List Nat)
    (use : VbUse) (satField : Bool) : Bool :=
  decide (rsv = 0) && (satField || !sat) && ets.contains et.toNat && vecField long vd && vecField long va
  && (match use with
      | .reg => vecField long vb
      | .imm => decide (vb.toNat < (if et.toNat = 3 then 16 else etWidth et.toNat))
      | .none => decide (vb = 0))

/-- Component width and count: cint16 acts on I and Q separately (R213). -/
def compW (et : Nat) : Nat := if et = 3 then 16 else etWidth et
def compN (et n : Nat) : Nat := if et = 3 then 2 * n else n

/-- Write the results of a component-wise operation: each is an exact integer, wrapped or saturated. -/
def putComps (d : Dyn) (c : Nat) (long : Bool) (vd w : Nat) (sat : Bool) (l : List Int) : Dyn :=
  let clip := sat && l.any (clips w)
  let d1 := (countSat d c 5 clip).dsat c clip
  let vals := l.map (fun x => wrapN w (if sat then satN w x else x))
  d1.writeVec c long vd (setElems w (d1.readVec c long vd) vals)

/-- A component-wise operation of two vectors, or of one and the VB field. -/
def vopComp (c : Core) (long : Bool) (vd va vb : Reg5) (et rsv : BitVec 2) (satBit : Bool) (ets : List Nat)
    (use : VbUse) (sat : Bool) (f : Nat → Int → Int → Int) : Img → Dyn → Res :=
  vecOp c (fun _ => vopLegal long vd va vb et rsv satBit ets use false) (fun d => vecEnabled d c.val long)
    (fun d =>
      let w := compW et.toNat
      let n := compN et.toNat (d.vecN c.val long et.toNat)
      let a := d.readVec c.val long va.toNat
      let b := d.readVec c.val long vb.toNat
      let arg (i : Nat) : Int := match use with
        | .imm => (vb.toNat : Int)
        | _ => sx w (elemAt w b i)
      putComps d c.val long vd.toNat w sat
        ((List.range n).map (fun i => f w (sx w (elemAt w a i)) (arg i))))

/-- A bitwise operation. -/
def bitOp (f : Nat → Nat → Nat) (w : Nat) (a b : Int) : Int := ((f (wrapN w a) (wrapN w b) : Nat) : Int)

def execVadd (c : Core) (long : Bool) (vd va vb : Reg5) (et rsv : BitVec 2) (sat : Bool) (s : State) : Out :=
  act (bronze c 5 (vopComp c long vd va vb et rsv sat [0, 1, 2, 3] .reg false (fun _ a b => a + b))) s
def execVsub (c : Core) (long : Bool) (vd va vb : Reg5) (et rsv : BitVec 2) (sat : Bool) (s : State) : Out :=
  act (bronze c 5 (vopComp c long vd va vb et rsv sat [0, 1, 2, 3] .reg false (fun _ a b => a - b))) s
def execVadds (c : Core) (long : Bool) (vd va vb : Reg5) (et rsv : BitVec 2) (sat : Bool) (s : State) : Out :=
  act (bronze c 5 (vopComp c long vd va vb et rsv sat [0, 1, 2, 3] .reg true (fun _ a b => a + b))) s
def execVsubs (c : Core) (long : Bool) (vd va vb : Reg5) (et rsv : BitVec 2) (sat : Bool) (s : State) : Out :=
  act (bronze c 5 (vopComp c long vd va vb et rsv sat [0, 1, 2, 3] .reg true (fun _ a b => a - b))) s
def execVand (c : Core) (long : Bool) (vd va vb : Reg5) (et rsv : BitVec 2) (sat : Bool) (s : State) : Out :=
  act (bronze c 5 (vopComp c long vd va vb et rsv sat [0, 1, 2, 3] .reg false (bitOp Nat.land))) s
def execVor (c : Core) (long : Bool) (vd va vb : Reg5) (et rsv : BitVec 2) (sat : Bool) (s : State) : Out :=
  act (bronze c 5 (vopComp c long vd va vb et rsv sat [0, 1, 2, 3] .reg false (bitOp Nat.lor))) s
def execVxor (c : Core) (long : Bool) (vd va vb : Reg5) (et rsv : BitVec 2) (sat : Bool) (s : State) : Out :=
  act (bronze c 5 (vopComp c long vd va vb et rsv sat [0, 1, 2, 3] .reg false (bitOp Nat.xor))) s
def execVmin (c : Core) (long : Bool) (vd va vb : Reg5) (et rsv : BitVec 2) (sat : Bool) (s : State) : Out :=
  act (bronze c 5 (vopComp c long vd va vb et rsv sat [0, 1, 2, 3] .reg false (fun _ a b => min a b))) s
def execVmax (c : Core) (long : Bool) (vd va vb : Reg5) (et rsv : BitVec 2) (sat : Bool) (s : State) : Out :=
  act (bronze c 5 (vopComp c long vd va vb et rsv sat [0, 1, 2, 3] .reg false (fun _ a b => max a b))) s
def execVabs (c : Core) (long : Bool) (vd va vb : Reg5) (et rsv : BitVec 2) (sat : Bool) (s : State) : Out :=
  act (bronze c 5 (vopComp c long vd va vb et rsv sat [0, 1, 2, 3] .none true
    (fun _ a _ => (a.natAbs : Int)))) s
def execVavgr (c : Core) (long : Bool) (vd va vb : Reg5) (et rsv : BitVec 2) (sat : Bool) (s : State) : Out :=
  act (bronze c 5 (vopComp c long vd va vb et rsv sat [0, 1, 2, 3] .reg false
    (fun _ a b => roundShift (a + b) 1))) s
def execVsrar (c : Core) (long : Bool) (vd va vb : Reg5) (et rsv : BitVec 2) (sat : Bool) (s : State) : Out :=
  act (bronze c 5 (vopComp c long vd va vb et rsv sat [0, 1, 2, 3] .imm false
    (fun _ a b => roundShift a b.toNat))) s
def execVslls (c : Core) (long : Bool) (vd va vb : Reg5) (et rsv : BitVec 2) (sat : Bool) (s : State) : Out :=
  act (bronze c 5 (vopComp c long vd va vb et rsv sat [0, 1, 2, 3] .imm true
    (fun _ a b => a * ((2 ^ b.toNat : Nat) : Int)))) s
def execVmulr (c : Core) (long : Bool) (vd va vb : Reg5) (et rsv : BitVec 2) (sat : Bool) (s : State) : Out :=
  act (bronze c 5 (vopComp c long vd va vb et rsv sat [0, 1, 2] .reg true
    (fun w a b => roundShift (a * b) (w - 1)))) s

/-- A complex operation on cint16 elements: exact real and imaginary parts, each rounded by 15 where
`s` says and saturated (Table 8.6). -/
def vopCplx (c : Core) (long : Bool) (vd va vb : Reg5) (et rsv : BitVec 2) (satBit : Bool) (use : VbUse)
    (s : Nat) (f : Word → Word → Int × Int) : Img → Dyn → Res :=
  vecOp c (fun _ => vopLegal long vd va vb et rsv satBit [3] use false) (fun d => vecEnabled d c.val long)
    (fun d =>
      let n := d.vecN c.val long 3
      let a := d.readVec c.val long va.toNat
      let b := d.readVec c.val long vb.toNat
      let l := ((List.range n).map (fun i =>
        let r := f (BitVec.ofNat 32 (elemAt 32 a i)) (BitVec.ofNat 32 (elemAt 32 b i))
        [roundShift r.1 s, roundShift r.2 s])).flatten
      putComps d c.val long vd.toNat 16 true l)

def execVcmulr (c : Core) (long : Bool) (vd va vb : Reg5) (et rsv : BitVec 2) (sat : Bool) (s : State) : Out :=
  act (bronze c 5 (vopCplx c long vd va vb et rsv sat .reg 15 (fun a b => (cmulRe a b, cmulIm a b)))) s
def execVcmuljr (c : Core) (long : Bool) (vd va vb : Reg5) (et rsv : BitVec 2) (sat : Bool) (s : State) : Out :=
  act (bronze c 5 (vopCplx c long vd va vb et rsv sat .reg 15 (fun a b => (cmulJRe a b, cmulJIm a b)))) s
def execVconj (c : Core) (long : Bool) (vd va vb : Reg5) (et rsv : BitVec 2) (sat : Bool) (s : State) : Out :=
  act (bronze c 5 (vopCplx c long vd va vb et rsv sat .none 0 (fun a _ => (loHalf a, -hiHalf a)))) s

/-- VDOT and VDOTJ (R227): VD holds the accumulator in [25:23] and two reserved bits. -/
def vdot (c : Core) (long : Bool) (vd va vb : Reg5) (et rsv : BitVec 2) (sat : Bool) (ets : List Nat)
    (conj : Bool) : Img → Dyn → Res :=
  let acc := vd.toNat / 4
  vecOp c (fun _ => decide (rsv = 0) && ets.contains et.toNat && decide (vd.toNat % 4 = 0)
      && vecField long va && vecField long vb && (decide (et.toNat ≠ 3) || decide (acc % 2 = 0)))
    (fun d => vecEnabled d c.val long)
    (fun d =>
      let w := etWidth et.toNat
      let n := d.vecN c.val long et.toNat
      let a := d.readVec c.val long va.toNat
      let b := d.readVec c.val long vb.toNat
      let sum (f : Nat → Int) : Int := (List.range n).foldl (fun t i => t + f i) 0
      if et.toNat = 3 then
        let x (i : Nat) : Word := BitVec.ofNat 32 (elemAt 32 a i)
        let y (i : Nat) : Word := BitVec.ofNat 32 (elemAt 32 b i)
        let re := (d.racc c.val acc).toInt
          + sum (fun i => if conj then cmulJRe (x i) (y i) else cmulRe (x i) (y i))
        let im := (d.racc c.val (acc + 1)).toInt
          + sum (fun i => if conj then cmulJIm (x i) (y i) else cmulIm (x i) (y i))
        let d0 := countSat d c.val 5 (sat && (clips 72 re || clips 72 im))
        putAcc (putAcc d0 c.val acc sat re) c.val (acc + 1) sat im
      else
        let x := (d.racc c.val acc).toInt + sum (fun i => sx w (elemAt w a i) * sx w (elemAt w b i))
        putAcc (countSat d c.val 5 (sat && clips 72 x)) c.val acc sat x)

def execVdot (c : Core) (long : Bool) (vd va vb : Reg5) (et rsv : BitVec 2) (sat : Bool) (s : State) : Out :=
  act (bronze c 5 (vdot c long vd va vb et rsv sat [0, 1, 2, 3] false)) s
def execVdotj (c : Core) (long : Bool) (vd va vb : Reg5) (et rsv : BitVec 2) (sat : Bool) (s : State) : Out :=
  act (bronze c 5 (vdot c long vd va vb et rsv sat [3] true)) s

/-- VNR (R228): narrow to half width; a Q destination's upper half becomes zero. -/
def execVnr (c : Core) (long : Bool) (vd va vb : Reg5) (et rsv : BitVec 2) (sat : Bool) (s : State) : Out :=
  act (bronze c 5 (vecOp c (fun _ => vopLegal long vd va vb et rsv sat [1, 2] .imm false)
    (fun d => vecEnabled d c.val long)
    (fun d =>
      let w := etWidth et.toNat
      let n := d.vecN c.val long et.toNat
      let a := d.readVec c.val long va.toNat
      let l := (List.range n).map (fun i => roundShift (sx w (elemAt w a i)) vb.toNat)
      let clip := l.any (clips (w / 2))
      let d1 := (countSat d c.val 5 clip).dsat c.val clip
      let old := if long then d1.readVec c.val true vd.toNat else 0
      d1.writeVec c.val long vd.toNat
        (setElems (w / 2) old (l.map (fun x => wrapN (w / 2) (satN (w / 2) x))))))) s

/-- VWID (R228): widen the lower elements to double width. -/
def execVwid (c : Core) (long : Bool) (vd va vb : Reg5) (et rsv : BitVec 2) (sat : Bool) (s : State) : Out :=
  act (bronze c 5 (vecOp c (fun _ => vopLegal long vd va vb et rsv sat [0, 1] .none false)
    (fun d => vecEnabled d c.val long)
    (fun d =>
      let w := etWidth et.toNat
      let n := d.vecN c.val long (et.toNat + 1)
      let a := d.readVec c.val long va.toNat
      d.writeVec c.val long vd.toNat (setElems (2 * w) (d.readVec c.val long vd.toNat)
        ((List.range n).map (fun i => wrapN (2 * w) (sx w (elemAt w a i)))))))) s

/-- VPERM (R229): every source is read before any destination is written. -/
def execVperm (c : Core) (long : Bool) (vd va vb : Reg5) (et rsv : BitVec 2) (sat : Bool) (s : State) : Out :=
  act (bronze c 5 (vecOp c (fun _ => vopLegal long vd va vb et rsv sat [0, 1, 2, 3] .reg false)
    (fun d => vecEnabled d c.val long)
    (fun d =>
      let w := etWidth et.toNat
      let n := d.vecN c.val long et.toNat
      let count := etCount et.toNat (vecBits long)
      let a := d.readVec c.val long va.toNat
      let b := d.readVec c.val long vb.toNat
      let idx (i : Nat) : Nat :=
        (if et.toNat = 3 then elemAt 32 b i % 65536 else elemAt w b i) % count
      d.writeVec c.val long vd.toNat (setElems w (d.readVec c.val long vd.toNat)
        ((List.range n).map (fun i => elemAt w a (idx i))))))) s

/-! ### VMOVE (Table 8.7) -/

def execVsplat (c : Core) (x y z : Reg5) (long : Bool) (et rsv : BitVec 2) (s : State) : Out :=
  act (bronze c 5 (vecOp c (fun _ => decide (rsv = 0) && decide (z = 0) && vecField long x)
    (fun d => vecEnabled d c.val long)
    (fun d =>
      let w := etWidth et.toNat
      d.writeVec c.val long x.toNat (setElems w (d.readVec c.val long x.toNat)
        (List.replicate (d.vecN c.val long et.toNat) (d.rd c.val y).toNat))))) s

/-- An element index from a D register, modulo the register's element count (R230). -/
def elemIndex (d : Dyn) (c : Nat) (z : Reg5) (et : Nat) (long : Bool) : Nat :=
  (d.rd c z).toNat % etCount et (vecBits long)

def execVins (c : Core) (x y z : Reg5) (long : Bool) (et rsv : BitVec 2) (s : State) : Out :=
  act (bronze c 5 (vecOp c (fun _ => decide (rsv = 0) && vecField long x)
    (fun d => vecEnabled d c.val long)
    (fun d => d.writeVec c.val long x.toNat (setElem (etWidth et.toNat) (d.readVec c.val long x.toNat)
      (elemIndex d c.val z et.toNat long) (d.rd c.val y).toNat)))) s
def execVext (c : Core) (x y z : Reg5) (long : Bool) (et rsv : BitVec 2) (s : State) : Out :=
  act (bronze c 5 (vecOp c (fun _ => decide (rsv = 0) && vecField long y)
    (fun d => vecEnabled d c.val long)
    (fun d =>
      let w := etWidth et.toNat
      d.wd c.val x (BitVec.ofInt 32 (sx w (elemAt w (d.readVec c.val long y.toNat)
        (elemIndex d c.val z et.toNat long))))))) s
def execVqtov (c : Core) (x y z : Reg5) (_long : Bool) (_et rsv : BitVec 2) (s : State) : Out :=
  act (bronze c 5 (vecOp c (fun _ => decide (rsv = 0) && vecField true x)
    (fun d => vecEnabled d c.val false && vecEnabled d c.val true)
    (fun d => d.writeVec c.val true x.toNat (setElem 256 (d.readVec c.val true x.toNat)
      ((d.rd c.val z).toNat % 8) (d.rq c.val y.toNat).toNat)))) s
def execVvtoq (c : Core) (x y z : Reg5) (_long : Bool) (_et rsv : BitVec 2) (s : State) : Out :=
  act (bronze c 5 (vecOp c (fun _ => decide (rsv = 0) && vecField true y)
    (fun d => vecEnabled d c.val false && vecEnabled d c.val true)
    (fun d => d.writeVec c.val false x.toNat (elemAt 256 (d.readVec c.val true y.toNat)
      ((d.rd c.val z).toNat % 8))))) s
/-- VSETVL is enabled at EXEC, and needs VT at TASK and PLUGIN (R215). -/
def setvlEnabled (d : Dyn) (c : Nat) : Bool :=
  decide ((d.status c).pl = .exec) || bit (d.core c).vec.enable.toNat 1

def execVsetvl (c : Core) (x y z : Reg5) (long : Bool) (et rsv : BitVec 2) (s : State) : Out :=
  act (bronze c 5 (vecOp c (fun _ => decide (rsv = 0) && decide (z = 0) && !long && decide (et = 0))
    (fun d => setvlEnabled d c.val)
    (fun d =>
      let n := min (d.rd c.val y).toNat 256
      (d.onVec c.val (fun v => { v with vl := n })).wd c.val x (BitVec.ofNat 32 n)))) s

end Sys2Proof.Machine
end

