-- ==== Sys2Proof/Machine/Dispatch.lean ====
section
/-! DEFINITION. One arm per command: a call of its meaning, or its rejection by name. -/

namespace Sys2Proof.Machine

def exec (i : Instr) (s : State) : Host.Outcome State Fault Refusal :=
  match i with
  | .aonResetRelease => Sys2Proof.Machine.execAonResetRelease s
  | .resetN lowNs => Sys2Proof.Machine.execResetN lowNs s
  | .resetNRelease bootsel => Sys2Proof.Machine.execResetNRelease bootsel s
  | .startSequence env => Sys2Proof.Machine.execStartSequence env s
  | .vcoreWarning => Sys2Proof.Machine.execVcoreWarning s
  | .vcoreTrip => Sys2Proof.Machine.execVcoreTrip s
  | .vaonTrip => Sys2Proof.Machine.execVaonTrip s
  | .regRead tag addr count => Sys2Proof.Machine.execRegRead tag addr count s
  | .regWrite tag addr words => Sys2Proof.Machine.execRegWrite tag addr words s
  | .memRead tag addr bytes => Sys2Proof.Machine.execMemRead tag addr bytes s
  | .memWrite tag addr data => Sys2Proof.Machine.execMemWrite tag addr data s
  | .reportStream tag enable minClass => Sys2Proof.Machine.execReportStream tag enable minClass s
  | .reportStreamSend => Sys2Proof.Machine.execReportStreamSend s
  | .soAdd tag record => Sys2Proof.Machine.execSoAdd tag record s
  | .soRemove tag entry => Sys2Proof.Machine.execSoRemove tag entry s
  | .soRelease tag kind id => Sys2Proof.Machine.execSoRelease tag kind id s
  | .keyUpload tag record => Sys2Proof.Machine.execKeyUpload tag record s
  | .keyErase tag slot => Sys2Proof.Machine.execKeyErase tag slot s
  | .flashRead tag offset bytes => Sys2Proof.Machine.execFlashRead tag offset bytes s
  | .flashErase tag offset bytes => Sys2Proof.Machine.execFlashErase tag offset bytes s
  | .flashProgram tag offset data => Sys2Proof.Machine.execFlashProgram tag offset data s
  | .flashVerify tag copy => Sys2Proof.Machine.execFlashVerify tag copy s
  | .flashCommit tag flags aOffset aLength bOffset bLength => Sys2Proof.Machine.execFlashCommit tag flags aOffset aLength bOffset bLength s
  | .flashCommandDone => Sys2Proof.Machine.execFlashCommandDone s
  | .fuseProgram tag fuse value readBack => Sys2Proof.Machine.execFuseProgram tag fuse value readBack s
  | .timeQuery tag => Sys2Proof.Machine.execTimeQuery tag s
  | .restart tag => Sys2Proof.Machine.execRestart tag s
  | .enterRecovery tag => Sys2Proof.Machine.execEnterRecovery tag s
  | .add c rd ra rb => Sys2Proof.Machine.execAdd c rd ra rb s
  | .sub c rd ra rb => Sys2Proof.Machine.execSub c rd ra rb s
  | .adds c rd ra rb => Sys2Proof.Machine.execAdds c rd ra rb s
  | .subs c rd ra rb => Sys2Proof.Machine.execSubs c rd ra rb s
  | .and c rd ra rb => Sys2Proof.Machine.execAnd c rd ra rb s
  | .or c rd ra rb => Sys2Proof.Machine.execOr c rd ra rb s
  | .xor c rd ra rb => Sys2Proof.Machine.execXor c rd ra rb s
  | .andn c rd ra rb => Sys2Proof.Machine.execAndn c rd ra rb s
  | .sll c rd ra rb => Sys2Proof.Machine.execSll c rd ra rb s
  | .srl c rd ra rb => Sys2Proof.Machine.execSrl c rd ra rb s
  | .sra c rd ra rb => Sys2Proof.Machine.execSra c rd ra rb s
  | .mul c rd ra rb => Sys2Proof.Machine.execMul c rd ra rb s
  | .mulh c rd ra rb => Sys2Proof.Machine.execMulh c rd ra rb s
  | .mulhu c rd ra rb => Sys2Proof.Machine.execMulhu c rd ra rb s
  | .slt c rd ra rb => Sys2Proof.Machine.execSlt c rd ra rb s
  | .sltu c rd ra rb => Sys2Proof.Machine.execSltu c rd ra rb s
  | .min c rd ra rb => Sys2Proof.Machine.execMin c rd ra rb s
  | .max c rd ra rb => Sys2Proof.Machine.execMax c rd ra rb s
  | .abs c rd ra rsv => Sys2Proof.Machine.execAbs c rd ra rsv s
  | .clz c rd ra rsv => Sys2Proof.Machine.execClz c rd ra rsv s
  | .cls c rd ra rsv => Sys2Proof.Machine.execCls c rd ra rsv s
  | .sexth c rd ra rsv => Sys2Proof.Machine.execSexth c rd ra rsv s
  | .zexth c rd ra rsv => Sys2Proof.Machine.execZexth c rd ra rsv s
  | .addi c rd ra imm => Sys2Proof.Machine.execAddi c rd ra imm s
  | .slti c rd ra imm => Sys2Proof.Machine.execSlti c rd ra imm s
  | .andi c rd ra imm => Sys2Proof.Machine.execAndi c rd ra imm s
  | .ori c rd ra imm => Sys2Proof.Machine.execOri c rd ra imm s
  | .xori c rd ra imm => Sys2Proof.Machine.execXori c rd ra imm s
  | .movi c rd rsv imm => Sys2Proof.Machine.execMovi c rd rsv imm s
  | .movhi c rd ra imm => Sys2Proof.Machine.execMovhi c rd ra imm s
  | .shi c rd ra imm => Sys2Proof.Machine.execShi c rd ra imm s
  | .movp c rd ra rb => Sys2Proof.Machine.execMovp c rd ra rb s
  | .addp c rd ra rb => Sys2Proof.Machine.execAddp c rd ra rb s
  | .rdpl c rd ra rsv => Sys2Proof.Machine.execRdpl c rd ra rsv s
  | .rdph c rd ra rsv => Sys2Proof.Machine.execRdph c rd ra rsv s
  | .subp c rd ra rb => Sys2Proof.Machine.execSubp c rd ra rb s
  | .movb c rd ra rsv => Sys2Proof.Machine.execMovb c rd ra rsv s
  | .rdb c rd ra rsv => Sys2Proof.Machine.execRdb c rd ra rsv s
  | .movl c rd ra rsv => Sys2Proof.Machine.execMovl c rd ra rsv s
  | .rdl c rd ra rsv => Sys2Proof.Machine.execRdl c rd ra rsv s
  | .movm c rd ra rsv => Sys2Proof.Machine.execMovm c rd ra rsv s
  | .rdm c rd ra rsv => Sys2Proof.Machine.execRdm c rd ra rsv s
  | .movpp c rd ra rsv => Sys2Proof.Machine.execMovpp c rd ra rsv s
  | .jr c rsvD ra rsvB => Sys2Proof.Machine.execJr c rsvD ra rsvB s
  | .jalr c rsvD ra rsvB => Sys2Proof.Machine.execJalr c rsvD ra rsvB s
  | .adr c rd rsv off => Sys2Proof.Machine.execAdr c rd rsv off s
  | .br c ra cond off => Sys2Proof.Machine.execBr c ra cond off s
  | .j c off => Sys2Proof.Machine.execJ c off s
  | .jal c off => Sys2Proof.Machine.execJal c off s
  | .ld c rd pn am sz off => Sys2Proof.Machine.execLd c rd pn am sz off s
  | .ldu c rd pn am sz off => Sys2Proof.Machine.execLdu c rd pn am sz off s
  | .st c rd pn am sz off => Sys2Proof.Machine.execSt c rd pn am sz off s
  | .atomicSwap c rd ra rb => Sys2Proof.Machine.execAtomicSwap c rd ra rb s
  | .atomicAdd c rd ra rb => Sys2Proof.Machine.execAtomicAdd c rd ra rb s
  | .cas c rd ra rb => Sys2Proof.Machine.execCas c rd ra rb s
  | .atomicAnd c rd ra rb => Sys2Proof.Machine.execAtomicAnd c rd ra rb s
  | .atomicOr c rd ra rb => Sys2Proof.Machine.execAtomicOr c rd ra rb s
  | .fenceS c rsv => Sys2Proof.Machine.execFenceS c rsv s
  | .fenceA c rsv => Sys2Proof.Machine.execFenceA c rsv s
  | .fenceI c rsv => Sys2Proof.Machine.execFenceI c rsv s
  | .rep c ra imm rsv count body => Sys2Proof.Machine.execRep c ra imm rsv count body s
  | .mpyW c acc ra rb frac sat rsv => Sys2Proof.Machine.execMpyW c acc ra rb frac sat rsv s
  | .macW c acc ra rb frac sat rsv => Sys2Proof.Machine.execMacW c acc ra rb frac sat rsv s
  | .msuW c acc ra rb frac sat rsv => Sys2Proof.Machine.execMsuW c acc ra rb frac sat rsv s
  | .macH2 c acc ra rb frac sat rsv => Sys2Proof.Machine.execMacH2 c acc ra rb frac sat rsv s
  | .cmpy c acc ra rb frac sat rsv => Sys2Proof.Machine.execCmpy c acc ra rb frac sat rsv s
  | .cmac c acc ra rb frac sat rsv => Sys2Proof.Machine.execCmac c acc ra rb frac sat rsv s
  | .cmacj c acc ra rb frac sat rsv => Sys2Proof.Machine.execCmacj c acc ra rb frac sat rsv s
  | .cmsu c acc ra rb frac sat rsv => Sys2Proof.Machine.execCmsu c acc ra rb frac sat rsv s
  | .ardW c acc rd sh rsv => Sys2Proof.Machine.execArdW c acc rd sh rsv s
  | .ardH c acc rd sh rsv => Sys2Proof.Machine.execArdH c acc rd sh rsv s
  | .ardC c acc rd sh rsv => Sys2Proof.Machine.execArdC c acc rd sh rsv s
  | .awr c acc rd sh rsv => Sys2Proof.Machine.execAwr c acc rd sh rsv s
  | .aclr c acc rd sh rsv => Sys2Proof.Machine.execAclr c acc rd sh rsv s
  | .ashr c acc rd sh rsv => Sys2Proof.Machine.execAshr c acc rd sh rsv s
  | .ardl c acc rd sh rsv => Sys2Proof.Machine.execArdl c acc rd sh rsv s
  | .ardm c acc rd sh rsv => Sys2Proof.Machine.execArdm c acc rd sh rsv s
  | .ardx c acc rd sh rsv => Sys2Proof.Machine.execArdx c acc rd sh rsv s
  | .ains c acc rd sh rsv => Sys2Proof.Machine.execAins c acc rd sh rsv s
  | .csrr c rd rsv code => Sys2Proof.Machine.execCsrr c rd rsv code s
  | .csrw c rsv ra code => Sys2Proof.Machine.execCsrw c rsv ra code s
  | .csrs c rsv ra code => Sys2Proof.Machine.execCsrs c rsv ra code s
  | .csrc c rsv ra code => Sys2Proof.Machine.execCsrc c rsv ra code s
  | .eret c rsv => Sys2Proof.Machine.execEret c rsv s
  | .trap c rsv code => Sys2Proof.Machine.execTrap c rsv code s
  | .brk c rsv => Sys2Proof.Machine.execBrk c rsv s
  | .twait c rsv => Sys2Proof.Machine.execTwait c rsv s
  | .tcommit c rd ra rsv => Sys2Proof.Machine.execTcommit c rd ra rsv s
  | .tcommitE c rd ra rsv => Sys2Proof.Machine.execTcommitE c rd ra rsv s
  | .tcommitB c rd ra rsv => Sys2Proof.Machine.execTcommitB c rd ra rsv s
  | .tfault c rsvD ra rsv => Sys2Proof.Machine.execTfault c rsvD ra rsv s
  | .interrupt c => Sys2Proof.Machine.execInterrupt c s
  | .abort c => Sys2Proof.Machine.execAbort c s
  | .storeDataError c => Sys2Proof.Machine.execStoreDataError c s
  | .doorbell m n value => Sys2Proof.Machine.execDoorbell m n value s
  | .vldQ c vr pn am et u mn rsv => Sys2Proof.Machine.execVldQ c vr pn am et u mn rsv s
  | .vstQ c vr pn am et u mn rsv => Sys2Proof.Machine.execVstQ c vr pn am et u mn rsv s
  | .vldV c vr pn am et u mn rsv => Sys2Proof.Machine.execVldV c vr pn am et u mn rsv s
  | .vstV c vr pn am et u mn rsv => Sys2Proof.Machine.execVstV c vr pn am et u mn rsv s
  | .vadd c long vd va vb et rsv sat => Sys2Proof.Machine.execVadd c long vd va vb et rsv sat s
  | .vsub c long vd va vb et rsv sat => Sys2Proof.Machine.execVsub c long vd va vb et rsv sat s
  | .vadds c long vd va vb et rsv sat => Sys2Proof.Machine.execVadds c long vd va vb et rsv sat s
  | .vsubs c long vd va vb et rsv sat => Sys2Proof.Machine.execVsubs c long vd va vb et rsv sat s
  | .vand c long vd va vb et rsv sat => Sys2Proof.Machine.execVand c long vd va vb et rsv sat s
  | .vor c long vd va vb et rsv sat => Sys2Proof.Machine.execVor c long vd va vb et rsv sat s
  | .vxor c long vd va vb et rsv sat => Sys2Proof.Machine.execVxor c long vd va vb et rsv sat s
  | .vmin c long vd va vb et rsv sat => Sys2Proof.Machine.execVmin c long vd va vb et rsv sat s
  | .vmax c long vd va vb et rsv sat => Sys2Proof.Machine.execVmax c long vd va vb et rsv sat s
  | .vabs c long vd va vb et rsv sat => Sys2Proof.Machine.execVabs c long vd va vb et rsv sat s
  | .vavgr c long vd va vb et rsv sat => Sys2Proof.Machine.execVavgr c long vd va vb et rsv sat s
  | .vsrar c long vd va vb et rsv sat => Sys2Proof.Machine.execVsrar c long vd va vb et rsv sat s
  | .vslls c long vd va vb et rsv sat => Sys2Proof.Machine.execVslls c long vd va vb et rsv sat s
  | .vmulr c long vd va vb et rsv sat => Sys2Proof.Machine.execVmulr c long vd va vb et rsv sat s
  | .vcmulr c long vd va vb et rsv sat => Sys2Proof.Machine.execVcmulr c long vd va vb et rsv sat s
  | .vcmuljr c long vd va vb et rsv sat => Sys2Proof.Machine.execVcmuljr c long vd va vb et rsv sat s
  | .vconj c long vd va vb et rsv sat => Sys2Proof.Machine.execVconj c long vd va vb et rsv sat s
  | .vdot c long vd va vb et rsv sat => Sys2Proof.Machine.execVdot c long vd va vb et rsv sat s
  | .vdotj c long vd va vb et rsv sat => Sys2Proof.Machine.execVdotj c long vd va vb et rsv sat s
  | .vnr c long vd va vb et rsv sat => Sys2Proof.Machine.execVnr c long vd va vb et rsv sat s
  | .vwid c long vd va vb et rsv sat => Sys2Proof.Machine.execVwid c long vd va vb et rsv sat s
  | .vperm c long vd va vb et rsv sat => Sys2Proof.Machine.execVperm c long vd va vb et rsv sat s
  | .vsplat c x y z long et rsv => Sys2Proof.Machine.execVsplat c x y z long et rsv s
  | .vins c x y z long et rsv => Sys2Proof.Machine.execVins c x y z long et rsv s
  | .vext c x y z long et rsv => Sys2Proof.Machine.execVext c x y z long et rsv s
  | .vqtov c x y z long et rsv => Sys2Proof.Machine.execVqtov c x y z long et rsv s
  | .vvtoq c x y z long et rsv => Sys2Proof.Machine.execVvtoq c x y z long et rsv s
  | .vsetvl c x y z long et rsv => Sys2Proof.Machine.execVsetvl c x y z long et rsv s
  | .pcmd c qs tag rsv => Sys2Proof.Machine.execPcmd c qs tag rsv s
  | .pres c rd tag wait rsv => Sys2Proof.Machine.execPres c rd tag wait rsv s
  | .cpsave c pn rsv => Sys2Proof.Machine.execCpsave c pn rsv s
  | .cprest c pn rsv => Sys2Proof.Machine.execCprest c pn rsv s
  | .psync c rsv => Sys2Proof.Machine.execPsync c rsv s
  | .pewterLoad t => Sys2Proof.Machine.execPewterLoad t s
  | .pewterStore t => Sys2Proof.Machine.execPewterStore t s
  | .pewterMul t => Sys2Proof.Machine.execPewterMul t s
  | .chol t => Sys2Proof.Machine.execChol t s
  | .trsm t => Sys2Proof.Machine.execTrsm t s
  | .qr t => Sys2Proof.Machine.execQr t s
  | .demap t => Sys2Proof.Machine.execDemap t s
  | .post task => Sys2Proof.Machine.execPost task s
  | .cancel task => Sys2Proof.Machine.execCancel task s
  | .free task => Sys2Proof.Machine.execFree task s
  | .cascade => Sys2Proof.Machine.execCascade s
  | .handleWalk => Sys2Proof.Machine.execHandleWalk s
  | .dispatch cls => Sys2Proof.Machine.execDispatch cls s
  | .taskCommit unit => Sys2Proof.Machine.execTaskCommit unit s
  | .taskDetection unit cond addr extra => Sys2Proof.Machine.execTaskDetection unit cond addr extra s
  | .unitCondition source cond addr extra => Sys2Proof.Machine.execUnitCondition source cond addr extra s
  | .setGpioExpiry pin => Sys2Proof.Machine.execSetGpioExpiry pin s
  | .slotBoundary => Sys2Proof.Machine.execSlotBoundary s
  | .dispatcherHalted => Sys2Proof.Machine.execDispatcherHalted s
  | .ulSymbol e => Sys2Proof.Machine.execUlSymbol e s
  | .dlSymbol e => Sys2Proof.Machine.execDlSymbol e s
  | .prachFe e => Sys2Proof.Machine.execPrachFe e s
  | .prachDet e => Sys2Proof.Machine.execPrachDet e s
  | .weight e => Sys2Proof.Machine.execWeight e s
  | .map e => Sys2Proof.Machine.execMap e s
  | .ldpcDec e => Sys2Proof.Machine.execLdpcDec e s
  | .ldpcEnc e => Sys2Proof.Machine.execLdpcEnc e s
  | .tbCrc e => Sys2Proof.Machine.execTbCrc e s
  | .turboDec e => Sys2Proof.Machine.execTurboDec e s
  | .turboEnc e => Sys2Proof.Machine.execTurboEnc e s
  | .polarDec e => Sys2Proof.Machine.execPolarDec e s
  | .polarEnc e => Sys2Proof.Machine.execPolarEnc e s
  | .gcmEnc e => Sys2Proof.Machine.execGcmEnc e s
  | .gcmDec e => Sys2Proof.Machine.execGcmDec e s
  | .acquire m e => Sys2Proof.Machine.execAcquire m e s
  | .acquireUrgent m e blocks => Sys2Proof.Machine.execAcquireUrgent m e blocks s
  | .release m e => Sys2Proof.Machine.execRelease m e s
  | .lockGrant e => Sys2Proof.Machine.execLockGrant e s
  | .cipherGo m e value => Sys2Proof.Machine.execCipherGo m e value s
  | .retrain m l => Sys2Proof.Machine.execRetrain m l s
  | .quiet m l => Sys2Proof.Machine.execQuiet m l s
  | .wake m l => Sys2Proof.Machine.execWake m l s
  | .quietCountdownEnd l => Sys2Proof.Machine.execQuietCountdownEnd l s
  | .silenceEnd l => Sys2Proof.Machine.execSilenceEnd l s
  | .echoWindowPlacement l energy => Sys2Proof.Machine.execEchoWindowPlacement l energy s
  | .leadAloneEnd l => Sys2Proof.Machine.execLeadAloneEnd l s
  | .followAloneEnd l => Sys2Proof.Machine.execFollowAloneEnd l s
  | .goDecision l recentBoth => Sys2Proof.Machine.execGoDecision l recentBoth s
  | .bothEnd l => Sys2Proof.Machine.execBothEnd l s
  | .signalInSilence l => Sys2Proof.Machine.execSignalInSilence l s
  | .markerDetected l align raw seq => Sys2Proof.Machine.execMarkerDetected l align raw seq s
  | .frameReceived l signs mags ps noise => Sys2Proof.Machine.execFrameReceived l signs mags ps noise s
  | .relockExpiry l => Sys2Proof.Machine.execRelockExpiry l s
  | .frameBuild l => Sys2Proof.Machine.execFrameBuild l s
  | .iqUnit l => Sys2Proof.Machine.execIqUnit l s
  | .containerTimeout l slot => Sys2Proof.Machine.execContainerTimeout l slot s
  | .brCtrlSend m l value => Sys2Proof.Machine.execBrCtrlSend m l value s
  | .delayReq l => Sys2Proof.Machine.execDelayReq l s
  | .delayResp l => Sys2Proof.Machine.execDelayResp l s
  | .timeMark l => Sys2Proof.Machine.execTimeMark l s
  | .alarm l => Sys2Proof.Machine.execAlarm l s
  | .boardMessage l => Sys2Proof.Machine.execBoardMessage l s
  | .data l => Sys2Proof.Machine.execData l s
  | .ack l => Sys2Proof.Machine.execAck l s
  | .nak l => Sys2Proof.Machine.execNak l s
  | .credit l => Sys2Proof.Machine.execCredit l s
  | .reset l => Sys2Proof.Machine.execReset l s
  | .retryTimeout l => Sys2Proof.Machine.execRetryTimeout l s
  | .txPosted m vc value => Sys2Proof.Machine.execTxPosted m vc value s
  | .rxConsumed m vc value => Sys2Proof.Machine.execRxConsumed m vc value s
  | .packetArrival index parityFails routeFails router => Sys2Proof.Machine.execPacketArrival index parityFails routeFails router s
  | .packetInjection p => Sys2Proof.Machine.execPacketInjection p s
  | .responseTimeout e tag => Sys2Proof.Machine.execResponseTimeout e tag s
  | .portIsolate m r slot => Sys2Proof.Machine.execPortIsolate m r slot s
  | .portRelease m r slot => Sys2Proof.Machine.execPortRelease m r slot s
  | .quiesce r => Sys2Proof.Machine.execQuiesce r s
  | .quiesceLimit r => Sys2Proof.Machine.execQuiesceLimit r s
  | .quiesceRetry r => Sys2Proof.Machine.execQuiesceRetry r s
  | .isolationTailTimeout index => Sys2Proof.Machine.execIsolationTailTimeout index s
  | .memoryRead m addr length => Sys2Proof.Machine.execMemoryRead m addr length s
  | .memoryWrite m addr data => Sys2Proof.Machine.execMemoryWrite m addr data s
  | .memoryAtomic m addr func operand compare => Sys2Proof.Machine.execMemoryAtomic m addr func operand compare s
  | .handleTableWrite m addr data => Sys2Proof.Machine.execHandleTableWrite m addr data s
  | .scrubVisit u => Sys2Proof.Machine.execScrubVisit u s
  | .lapLimit u => Sys2Proof.Machine.execLapLimit u s
  | .bucketLeak u => Sys2Proof.Machine.execBucketLeak u s
  | .ptpMeasurement port m => Sys2Proof.Machine.execPtpMeasurement port m s
  | .masterLost => Sys2Proof.Machine.execMasterLost s
  | .synceLost => Sys2Proof.Machine.execSynceLost s
  | .reacquire m => Sys2Proof.Machine.execReacquire m s
  | .cellActive m k value => Sys2Proof.Machine.execCellActive m k value s
  | .pulseCtrl m value => Sys2Proof.Machine.execPulseCtrl m value s
  | .pulseArm m g value => Sys2Proof.Machine.execPulseArm m g value s
  | .pulseEdge g => Sys2Proof.Machine.execPulseEdge g s
  | .ppsOut => Sys2Proof.Machine.execPpsOut s
  | .ppsIn => Sys2Proof.Machine.execPpsIn s
  | .powerReqFull m => Sys2Proof.Machine.execPowerReqFull m s
  | .trim m => Sys2Proof.Machine.execTrim m s
  | .nap m => Sys2Proof.Machine.execNap m s
  | .deepsleep m => Sys2Proof.Machine.execDeepsleep m s
  | .domainAgree => Sys2Proof.Machine.execDomainAgree s
  | .domainRefused reason => Sys2Proof.Machine.execDomainRefused reason s
  | .powerGood => Sys2Proof.Machine.execPowerGood s
  | .powerGoodFail => Sys2Proof.Machine.execPowerGoodFail s
  | .wakeEdge pin rising => Sys2Proof.Machine.execWakeEdge pin rising s
  | .deepsleepWakeCheck vcoreMv => Sys2Proof.Machine.execDeepsleepWakeCheck vcoreMv s
  | .avsUpdate tj acked statusFault readMv => Sys2Proof.Machine.execAvsUpdate tj acked statusFault readMv s
  | .reportAccept source => Sys2Proof.Machine.execReportAccept source s
  | .counterOverflow unit k count => Sys2Proof.Machine.execCounterOverflow unit k count s
  | .epochBoundary => Sys2Proof.Machine.execEpochBoundary s
  | .dump => Sys2Proof.Machine.execDump s
  | .dumpRd m value => Sys2Proof.Machine.execDumpRd m value s
  | .registerWrite m offset value => Sys2Proof.Machine.execRegisterWrite m offset value s
  | .extest update => Sys2Proof.Machine.execExtest update s
  | .samplePreload update => Sys2Proof.Machine.execSamplePreload update s
  | .idcode => Sys2Proof.Machine.execIdcode s
  | .highz => Sys2Proof.Machine.execHighz s
  | .clamp => Sys2Proof.Machine.execClamp s
  | .extestPulse update => Sys2Proof.Machine.execExtestPulse update s
  | .extestTrain update => Sys2Proof.Machine.execExtestTrain update s
  | .regacc update => Sys2Proof.Machine.execRegacc update s
  | .bypass => Sys2Proof.Machine.execBypass s
  | .jtagDebugRequest c => Sys2Proof.Machine.execJtagDebugRequest c s
  | .synceLinkUp => Sys2Proof.Machine.execSynceLinkUp s
  | .announce port m => Sys2Proof.Machine.execAnnounce port m s
  | .ptpDelayReq port => Sys2Proof.Machine.execPtpDelayReq port s
  | .arpRequest port target => Sys2Proof.Machine.execArpRequest port target s
  | .armedTimePassed g => Sys2Proof.Machine.execArmedTimePassed g s

end Sys2Proof.Machine
end

