-- ==== Sys2Proof/Machine/Step.lean ====
section
/-! DEFINITION. One step: the command at the front of the queue, or a clock of the time base. -/

namespace Sys2Proof.Machine

/-- With no command waiting the main island's time base makes one clock (R356; log 69): it adds
4 x (1 + RATE x 2^-48) Tc to tick time, and what waited for that tick happens: in the power controller (R357,
R406), and the end of a JTAG access (R453). While the main island does not run, the block idles. -/
def idle (s : State) : Out := act (fun img d => regaccEnd (powerTick img (tickClock d))) s

/-- Take the command at the front of the queue and run it with the rest of the queue. -/
def step (s : State) : Out :=
  match s.pending with
  | [] => idle s
  | c :: rest => exec c { s with pending := rest }

/-- The state with the command that a word spells put at the front of its queue. -/
def State.withFetchWord (s : State) (nbits w : Nat) : State :=
  match decodeTableWord nbits w with
  | some c => { s with pending := c :: s.pending }
  | none => s

end Sys2Proof.Machine
end

