-- ==== Sys2Proof/Safety.lean ====
section
/-! DEFINITION. What counts as a safe run, and the words that claims about the machine use: a command
that is carried out, a core ready for an instruction, what an instruction leaves when it retires, and
the part of the machine a command may change. -/

namespace Sys2Proof.Machine

/-- The command is carried out: there is a next state, and it has the property. -/
def Answers (o : Out) (P : State → Prop) : Prop := ∃ t, o = .next t ∧ P t

/-- The command goes on to the state that differs by `f` in what is not loaded configuration. -/
def Becomes (o : Out) (s : State) (d : Dyn) : Prop := o = .next { s with dyn := d }

/-! ### Registers of one core -/

def CoreSt.withD (x : CoreSt) (r : Reg5) (v : Word) : CoreSt :=
  { x with regs := { x.regs with d := Map.set x.regs.d r.toNat v } }
def CoreSt.withP (x : CoreSt) (k : Nat) (v : Addr) : CoreSt :=
  { x with regs := { x.regs with p := Map.set x.regs.p k v } }
def CoreSt.withB (x : CoreSt) (k : Nat) (v : Addr) : CoreSt :=
  { x with regs := { x.regs with b := Map.set x.regs.b k v } }
def CoreSt.withL (x : CoreSt) (k : Nat) (v : Word) : CoreSt :=
  { x with regs := { x.regs with l := Map.set x.regs.l k v } }
def CoreSt.withM (x : CoreSt) (k : Nat) (v : Word) : CoreSt :=
  { x with regs := { x.regs with m := Map.set x.regs.m k v } }
def CoreSt.withAcc (x : CoreSt) (k : Nat) (v : BitVec 72) : CoreSt :=
  { x with regs := { x.regs with acc := Map.set x.regs.acc k v } }
def CoreSt.withStatus (x : CoreSt) (f : StatusReg → StatusReg) : CoreSt :=
  { x with ctl := { x.ctl with status := f x.ctl.status } }
/-- DSAT is set where an operation clips, and is otherwise as it was (sticky). -/
def CoreSt.withDsat (x : CoreSt) (clip : Bool) : CoreSt :=
  x.withStatus (fun st => { st with dsat := st.dsat || clip })
/-- ASAT is set where an operation clips, and is otherwise as it was (sticky). -/
def CoreSt.withAsat (x : CoreSt) (clip : Bool) : CoreSt :=
  x.withStatus (fun st => { st with asat := st.asat || clip })

/-! ### An instruction of a core -/

/-- The core that an instruction is of; none for a command that is no Bronze instruction (Table 7.10). -/
def onCore : Instr → Option Core
  | .add c .. | .sub c .. | .adds c .. | .subs c .. | .and c .. | .or c .. | .xor c .. | .andn c .. | .sll c ..
  | .srl c .. | .sra c .. | .mul c .. | .mulh c .. | .mulhu c .. | .slt c .. | .sltu c .. | .min c ..
  | .max c .. | .abs c .. | .clz c .. | .cls c .. | .sexth c .. | .zexth c .. | .addi c .. | .slti c ..
  | .andi c .. | .ori c .. | .xori c .. | .movi c .. | .movhi c .. | .shi c .. | .movp c .. | .addp c ..
  | .rdpl c .. | .rdph c .. | .subp c .. | .movb c .. | .rdb c .. | .movl c .. | .rdl c .. | .movm c ..
  | .rdm c .. | .movpp c .. | .jr c .. | .jalr c .. | .adr c .. | .br c .. | .j c .. | .jal c .. | .ld c ..
  | .ldu c .. | .st c .. | .atomicSwap c .. | .atomicAdd c .. | .cas c .. | .atomicAnd c .. | .atomicOr c ..
  | .fenceS c .. | .fenceA c .. | .fenceI c .. | .rep c .. | .mpyW c .. | .macW c .. | .msuW c .. | .macH2 c ..
  | .cmpy c .. | .cmac c .. | .cmacj c .. | .cmsu c .. | .ardW c .. | .ardH c .. | .ardC c .. | .awr c ..
  | .aclr c .. | .ashr c .. | .ardl c .. | .ardm c .. | .ardx c .. | .ains c .. | .csrr c .. | .csrw c ..
  | .csrs c .. | .csrc c .. | .eret c .. | .trap c .. | .brk c .. | .twait c .. | .tcommit c ..
  | .tcommitE c .. | .tcommitB c .. | .tfault c .. | .vldQ c .. | .vstQ c .. | .vldV c .. | .vstV c ..
  | .vadd c .. | .vsub c .. | .vadds c .. | .vsubs c .. | .vand c .. | .vor c .. | .vxor c .. | .vmin c ..
  | .vmax c .. | .vabs c .. | .vavgr c .. | .vsrar c .. | .vslls c .. | .vmulr c .. | .vcmulr c ..
  | .vcmuljr c .. | .vconj c .. | .vdot c .. | .vdotj c .. | .vnr c .. | .vwid c .. | .vperm c ..
  | .vsplat c .. | .vins c .. | .vext c .. | .vqtov c .. | .vvtoq c .. | .vsetvl c .. | .pcmd c .. | .pres c ..
  | .cpsave c .. | .cprest c .. | .psync c .. => some c
  | .aonResetRelease .. | .resetN .. | .resetNRelease .. | .startSequence .. | .vcoreWarning .. | .vcoreTrip ..
  | .vaonTrip .. | .regRead .. | .regWrite .. | .memRead .. | .memWrite .. | .reportStream ..
  | .reportStreamSend .. | .soAdd .. | .soRemove .. | .soRelease .. | .keyUpload .. | .keyErase ..
  | .flashRead .. | .flashErase .. | .flashProgram .. | .flashVerify .. | .flashCommit ..
  | .flashCommandDone .. | .fuseProgram .. | .timeQuery .. | .restart .. | .enterRecovery .. | .interrupt ..
  | .abort .. | .storeDataError .. | .doorbell .. | .pewterLoad .. | .pewterStore .. | .pewterMul .. | .chol ..
  | .trsm .. | .qr .. | .demap .. | .post .. | .cancel .. | .free .. | .cascade .. | .handleWalk ..
  | .dispatch .. | .taskCommit .. | .taskDetection .. | .unitCondition .. | .setGpioExpiry ..
  | .slotBoundary .. | .dispatcherHalted .. | .ulSymbol .. | .dlSymbol .. | .prachFe .. | .prachDet ..
  | .weight .. | .map .. | .ldpcDec .. | .ldpcEnc .. | .tbCrc .. | .turboDec .. | .turboEnc .. | .polarDec ..
  | .polarEnc .. | .gcmEnc .. | .gcmDec .. | .acquire .. | .acquireUrgent .. | .release .. | .lockGrant ..
  | .cipherGo .. | .retrain .. | .quiet .. | .wake .. | .quietCountdownEnd .. | .silenceEnd ..
  | .echoWindowPlacement .. | .leadAloneEnd .. | .followAloneEnd .. | .goDecision .. | .bothEnd ..
  | .signalInSilence .. | .markerDetected .. | .frameReceived .. | .relockExpiry .. | .frameBuild ..
  | .iqUnit .. | .containerTimeout .. | .brCtrlSend .. | .delayReq .. | .delayResp .. | .timeMark ..
  | .alarm .. | .boardMessage .. | .data .. | .ack .. | .nak .. | .credit .. | .reset .. | .retryTimeout ..
  | .txPosted .. | .rxConsumed .. | .packetArrival .. | .packetInjection .. | .responseTimeout ..
  | .portIsolate .. | .portRelease .. | .quiesce .. | .quiesceLimit .. | .quiesceRetry ..
  | .isolationTailTimeout .. | .memoryRead .. | .memoryWrite .. | .memoryAtomic .. | .handleTableWrite ..
  | .scrubVisit .. | .lapLimit .. | .bucketLeak .. | .ptpMeasurement .. | .masterLost .. | .synceLost ..
  | .reacquire .. | .cellActive .. | .pulseCtrl .. | .pulseArm .. | .pulseEdge .. | .ppsOut .. | .ppsIn ..
  | .powerReqFull .. | .trim .. | .nap .. | .deepsleep .. | .domainAgree .. | .domainRefused .. | .powerGood ..
  | .powerGoodFail .. | .wakeEdge .. | .deepsleepWakeCheck .. | .avsUpdate .. | .reportAccept ..
  | .counterOverflow .. | .epochBoundary .. | .dump .. | .dumpRd .. | .registerWrite .. | .extest ..
  | .samplePreload .. | .idcode .. | .highz .. | .clamp .. | .extestPulse .. | .extestTrain .. | .regacc ..
  | .bypass .. | .jtagDebugRequest .. | .synceLinkUp .. | .announce .. | .ptpDelayReq .. | .arpRequest ..
  | .armedTimePassed .. => none

/-- A register of a file of 16 (P, B, L, M) that the instruction names lies outside it. -/
def highReg (r : Reg5) : Bool := decide (16 ≤ r.toNat)

/-- A vector register's field breaks R216: bits [4:3] of a V register are reserved. -/
def badVec (long : Bool) (r : Reg5) : Bool := long && decide (8 ≤ r.toNat)

/-- The address form of an M-format instruction is none of Table 7.11 (R183, R184). -/
def badForm (am : BitVec 3) (sz : BitVec 2) (off : BitVec 12) : Bool :=
  sz == 3 || decide (3 < am.toNat) || (am == 2 && decide (16 ≤ off.toNat)) || (am == 3 && decide (32 ≤ off.toNat))

/-- The fields of a VOP break R216 or Table 8.6: RSV, the SAT bit outside VDOT and VDOTJ, an element type the
operation does not take, a register, an amount of the element's width or more, or a VB that is not used. -/
def badVop (long : Bool) (vd va vb : Reg5) (et rsv : BitVec 2) (sat : Bool) (ets : List Nat) : Bool :=
  rsv != 0 || sat || !ets.contains et.toNat || badVec long vd || badVec long va || badVec long vb
def badVopImm (long : Bool) (vd va vb : Reg5) (et rsv : BitVec 2) (sat : Bool) (ets : List Nat) : Bool :=
  badVop long vd va 0 et rsv sat ets || decide ((if et = 0 then 8 else if et = 2 then 32 else 16) ≤ vb.toNat)
def badVop1 (long : Bool) (vd va vb : Reg5) (et rsv : BitVec 2) (sat : Bool) (ets : List Nat) : Bool :=
  badVop long vd va 0 et rsv sat ets || vb != 0

/-- VDOT and VDOTJ: VD holds an accumulator in bits [4:2], an even one for cint16 (R227). -/
def badDot (long : Bool) (vd va vb : Reg5) (et rsv : BitVec 2) (ets : List Nat) : Bool :=
  badVop long 0 va vb et rsv false ets || decide (vd.toNat % 4 ≠ 0) || (et == 3 && decide (vd.toNat / 4 % 2 = 1))

/-- A Bronze instruction with a reserved field that is not zero, or a field outside its range, whatever the
machine's state (R181, R183, R191, R192, R193, R216, R226 to R230). -/
def badFields : Instr → Bool
  | .abs _ _ _ r | .clz _ _ _ r | .cls _ _ _ r | .sexth _ _ _ r | .zexth _ _ _ r | .movi _ _ r _ => r != 0
  | .shi _ _ _ imm => imm.extractLsb' 14 2 == 3 || imm.extractLsb' 5 9 != 0
  | .movp _ p _ _ => highReg p
  | .addp _ p q _ => highReg p || highReg q
  | .subp _ _ p q => highReg p || highReg q
  | .rdpl _ _ p r | .rdph _ _ p r | .rdl _ _ p r | .rdm _ _ p r => r != 0 || highReg p
  | .movl _ p _ r | .movm _ p _ r => r != 0 || highReg p
  | .movb _ p q r | .rdb _ p q r | .movpp _ p q r => r != 0 || highReg p || highReg q
  | .jr _ r p q | .jalr _ r p q => r != 0 || q != 0 || highReg p
  | .adr _ p r _ => r != 0 || highReg p
  | .br _ r cond _ => cond == 7 || (cond == 6 && r != 0)
  | .ld _ _ _ am sz off | .ldu _ _ _ am sz off | .st _ _ _ am sz off => badForm am sz off
  | .atomicSwap _ _ p _ | .atomicAdd _ _ p _ | .cas _ _ p _ | .atomicAnd _ _ p _ | .atomicOr _ _ p _ => highReg p
  | .fenceS _ r | .fenceA _ r | .fenceI _ r | .eret _ r | .brk _ r | .twait _ r => r != 0
  | .rep _ ra imm rsv count body =>
      rsv != 0 || repBodyIllegal body || (if imm then ra != 0 else count != 0)
  | .mpyW _ _ _ _ _ _ r | .macW _ _ _ _ _ _ r | .msuW _ _ _ _ _ _ r | .macH2 _ _ _ _ _ _ r => r != 0
  | .cmpy _ a _ _ _ _ r | .cmac _ a _ _ _ _ r | .cmacj _ a _ _ _ _ r | .cmsu _ a _ _ _ _ r =>
      r != 0 || decide (a.toNat % 2 = 1)
  | .ardW _ _ _ _ r | .ardH _ _ _ _ r | .awr _ _ _ _ r | .aclr _ _ _ _ r | .ashr _ _ _ _ r | .ardl _ _ _ _ r
  | .ardm _ _ _ _ r | .ardx _ _ _ _ r => r != 0
  | .ardC _ a _ _ r => r != 0 || decide (a.toNat % 2 = 1)
  | .ains _ _ _ sh r => r != 0 || decide (2 < sh.toNat)
  | .csrr _ _ r code | .csrw _ r _ code | .csrs _ r _ code | .csrc _ r _ code =>
      r != 0 || (csrPerm code.toNat).isNone
  | .trap _ r _ => r != 0
  | .tcommit _ _ ra r | .tcommitE _ _ ra r | .tcommitB _ _ ra r => r != 0 || decide (28 < ra.toNat)
  | .tfault _ q _ r => r != 0 || q != 0
  | .vldQ _ _ _ am _ _ _ r | .vstQ _ _ _ am _ _ _ r => r != 0 || am == 3
  | .vldV _ v _ am _ _ _ r | .vstV _ v _ am _ _ _ r => r != 0 || am == 3 || badVec true v
  | .vadd _ l d a b et r sat | .vsub _ l d a b et r sat | .vadds _ l d a b et r sat | .vsubs _ l d a b et r sat
  | .vand _ l d a b et r sat | .vor _ l d a b et r sat | .vxor _ l d a b et r sat | .vmin _ l d a b et r sat
  | .vmax _ l d a b et r sat | .vavgr _ l d a b et r sat | .vperm _ l d a b et r sat => badVop l d a b et r sat [0, 1, 2, 3]
  | .vmulr _ l d a b et r sat => badVop l d a b et r sat [0, 1, 2]
  | .vcmulr _ l d a b et r sat | .vcmuljr _ l d a b et r sat => badVop l d a b et r sat [3]
  | .vabs _ l d a b et r sat => badVop1 l d a b et r sat [0, 1, 2, 3]
  | .vconj _ l d a b et r sat => badVop1 l d a b et r sat [3]
  | .vwid _ l d a b et r sat => badVop1 l d a b et r sat [0, 1]
  | .vsrar _ l d a b et r sat | .vslls _ l d a b et r sat => badVopImm l d a b et r sat [0, 1, 2, 3]
  | .vnr _ l d a b et r sat => badVopImm l d a b et r sat [1, 2]
  | .vdot _ l d a b et r _ => badDot l d a b et r [0, 1, 2, 3]
  | .vdotj _ l d a b et r _ => badDot l d a b et r [3]
  | .vsplat _ x _ z l _ r => r != 0 || z != 0 || badVec l x
  | .vins _ x _ _ l _ r => r != 0 || badVec l x
  | .vext _ _ y _ l _ r => r != 0 || badVec l y
  | .vqtov _ x _ _ _ _ r => r != 0 || badVec true x
  | .vvtoq _ _ y _ _ _ r => r != 0 || badVec true y
  | .vsetvl _ _ _ z l et r => r != 0 || z != 0 || l || et != 0
  | .pcmd _ _ _ r => r != 0
  | .pres _ _ _ _ r => r != 0
  | .cpsave _ p r | .cprest _ p r => r != 0 || highReg p
  | .psync _ r => r != 0
  | _ => false

/-- The vector files that an instruction works on, which its level must have enabled: the short file is false, the
long one true (R215). VSETVL, which needs VT, is not among them. -/
def vecFiles : Instr → List Bool
  | .vadd _ l .. | .vsub _ l .. | .vadds _ l .. | .vsubs _ l .. | .vand _ l .. | .vor _ l .. | .vxor _ l ..
  | .vmin _ l .. | .vmax _ l .. | .vabs _ l .. | .vavgr _ l .. | .vsrar _ l .. | .vslls _ l .. | .vmulr _ l ..
  | .vcmulr _ l .. | .vcmuljr _ l .. | .vconj _ l .. | .vdot _ l .. | .vdotj _ l .. | .vnr _ l ..
  | .vwid _ l .. | .vperm _ l .. => [l]
  | .vsplat _ _ _ _ l _ _ | .vins _ _ _ _ l _ _ | .vext _ _ _ _ l _ _ => [l]
  | .vqtov .. | .vvtoq .. => [false, true]
  | .vldQ .. | .vstQ .. => [false]
  | .vldV .. | .vstV .. => [true]
  | _ => []

/-- A vector load or store: it may begin at an element that is not the first (R223). -/
def vecMoves : Instr → Bool
  | .vldQ .. | .vstQ .. | .vldV .. | .vstV .. => true
  | _ => false

/-- Nothing differs but what an access over the fabric may change: memory and its counts, the fabric, reports, the
units that a port's change isolates, the unit conditions raised, the performance counters, and the model's own
counter of free values. -/
def OnlyAccess (d e : Dyn) : Prop :=
  { e with mem := d.mem, fab := d.fab, rep := d.rep, units := d.units, perf := d.perf, free := d.free,
           disp := { e.disp with unitConds := d.disp.unitConds } } = d

/-- Core `c` can issue an instruction: the main island runs, the core's program is active and not
waiting, no ABORT or store error is taken first, the PC may be fetched from, and the fetch finds an
instruction. -/
def Ready (c : Core) (s : State) : Prop :=
  islandUp s.dyn = true ∧ s.dyn.issues c.val = true ∧ boundaryEvent s.dyn c.val = none
  ∧ fetchDenied s.img s.dyn c.val = false ∧ (fetch s.img s.dyn c.val).2 = .word

/-- The machine after the fetch of core `c`, which changes no more than `OnlyAccess` says (R206, R343). -/
def State.fetched (s : State) (c : Core) : State := { s with dyn := (fetch s.img s.dyn c.val).1 }

/-- The rest of the machine as core `c` issues the instruction that it has fetched: its clock has counted one
on, and its instruction cache may hold the 128-byte block of its PC (R178, R206). -/
def State.issue (s : State) (c : Core) : Dyn := issueAt (s.fetched c).dyn c.val

/-- The core with an instruction issued: a clock more, and the block of the PC in the cache. -/
def CoreSt.issued (x : CoreSt) : CoreSt :=
  let k := x.regs.pc.toNat / 128
  { x with clock := x.clock + 1, lines := if x.lines.contains k then x.lines else k :: x.lines }

/-- The core but for its clock and the blocks its instruction cache may hold, which are `y`'s. -/
def CoreSt.clockOf (x y : CoreSt) : CoreSt := { x with lines := y.lines, clock := y.clock }

/-- Everything but core `c` and the performance counters is as it was: the queue, the configuration,
memory, the other cores, the dispatcher, the lanes, time, reports, power, keys. (`free` is the model's
own counter of free values.) -/
def OnlyCore (c : Core) (s t : State) : Prop :=
  t.pending = s.pending ∧ t.img = s.img
  ∧ { t.dyn with cores := s.dyn.cores, perf := s.dyn.perf, free := s.dyn.free } = s.dyn
  ∧ ∀ k, k ≠ c.val → t.dyn.core k = s.dyn.core k

/-- An instruction of core `c` retires and leaves the core as `x`, but for the PC, the clock, the blocks in
its instruction cache and the count of a running REP. The clock counts on; the cache may hold what it held
and the block of the PC. With no REP running the PC goes to `goto`, or to the next instruction. The rest of the
machine is `b`'s. -/
def RetiresFrom (b : State) (c : Core) (x : CoreSt) (goto : Option Addr) (s t : State) : Prop :=
  OnlyCore c b t
  ∧ (s.dyn.core c.val).clock < (t.dyn.core c.val).clock
  ∧ (∀ k ∈ (t.dyn.core c.val).lines, k ∈ (s.dyn.core c.val).issued.lines)
  ∧ (t.dyn.core c.val) = { x.clockOf (t.dyn.core c.val) with
      regs := { x.regs with pc := t.dyn.pc c.val }
      ctl := { x.ctl with
        rc := (t.dyn.core c.val).ctl.rc
        repDone := (t.dyn.core c.val).ctl.repDone
        status := { x.ctl.status with inrep := (t.dyn.status c.val).inrep } } }
  ∧ ((s.dyn.status c.val).inrep = false →
      t.dyn.pc c.val = goto.getD (s.dyn.pc c.val + 4) ∧ (t.dyn.core c.val).ctl.rc = x.ctl.rc
      ∧ (t.dyn.core c.val).ctl.repDone = x.ctl.repDone ∧ (t.dyn.status c.val).inrep = x.ctl.status.inrep)

/-- The same, with the rest of the machine as the fetch left it. -/
def Retires (c : Core) (x : CoreSt) (goto : Option Addr) (s t : State) : Prop :=
  RetiresFrom (s.fetched c) c x goto s t

/-- An instruction of core `c` raises the synchronous exception `e` (R197 to R201). -/
def Raises (o : Out) (c : Core) (e : Exc) (s : State) : Prop := Becomes o s (syncException (s.issue c) c.val e)

/-- The core after it has taken an exception with the given CAUSE fields (R197): the return PC, CAUSE and
EADDR are written, PL and INREP are saved, and with them the iterations a running REP has made (log 134);
the core fetches from its vector at EXEC with HACT set. -/
def CoreSt.entered (x : CoreSt) (code detail cond : Nat) (epc : Addr) (eaddr : Option Addr) : CoreSt :=
  { x with
    regs := { x.regs with pc := x.ctl.vbase + BitVec.ofNat 48 (64 * code) }
    ctl := { x.ctl with
      epc
      cause := BitVec.ofNat 32 (cond * 65536 + detail * 256 + code)
      eaddr := eaddr.getD x.ctl.eaddr
      repSaved := x.ctl.repDone
      status := { x.ctl.status with
        ppl := x.ctl.status.pl, pl := .exec, pinrep := x.ctl.status.inrep, inrep := false, hact := true } } }

/-- The core that ABORT leaves before its entry (R200, R241): no task, no partial vector operation, no
iterations left, and every coprocessor tag free. -/
def CoreSt.aborted (x : CoreSt) : CoreSt :=
  { x with
    port := { x.port with queue := [], busy := [], results := [] }
    vec := { x.vec with vstart := 0 }
    tsk := { x.tsk with task := none, waiting := false, commit := none, abort := none }
    ctl := { x.ctl with
      rc := if x.ctl.status.inrep then 0 else x.ctl.rc
      status := { x.ctl.status with task := false, shadow := false, inrep := false } } }

/-- Core `c` becomes `x`, and nothing else but the counters changes. -/
def CoreBecomes (c : Core) (x : CoreSt) (s t : State) : Prop := OnlyCore c s t ∧ t.dyn.core c.val = x

/-- Core `c` issues an instruction and becomes `x` but for its clock and its instruction cache, which are as
the issue leaves them; but for the counters the rest of the machine is `b`'s. -/
def IssuesFrom (b : State) (c : Core) (x : CoreSt) (s t : State) : Prop :=
  OnlyCore c b t ∧ t.dyn.core c.val = x.clockOf (s.dyn.core c.val).issued

/-- The same, with the rest of the machine as the fetch left it. -/
def CoreIssues (c : Core) (x : CoreSt) (s t : State) : Prop := IssuesFrom (s.fetched c) c x s t

/-- The 32-bit value an exact result saturates to, and whether it clips (R209). -/
def clamp32 (x : Int) : Word := BitVec.ofInt 32 (max (-2147483648) (min 2147483647 x))
def clip32 (x : Int) : Bool := decide (x < -2147483648) || decide (2147483647 < x)

/-- What accumulator `k` holds after an exact sum, saturated or wrapped (R190). -/
def CoreSt.sumInto (x : CoreSt) (k : Nat) (sat : Bool) (v : Int) : CoreSt :=
  if sat then
    (x.withAcc k (BitVec.ofInt 72 (max (-2361183241434822606848) (min 2361183241434822606847 v)))).withAsat
      (decide (v < -2361183241434822606848) || decide (2361183241434822606847 < v))
  else x.withAcc k (BitVec.ofInt 72 v)

/-! ### Vector registers -/

/-- Bits of vector register `k` as a number. -/
def CoreSt.vecReg (x : CoreSt) (long : Bool) (k : Nat) : Nat :=
  if long then (Map.get 0 x.vec.v k).toNat else (Map.get 0 x.vec.q k).toNat
def CoreSt.withVec (x : CoreSt) (long : Bool) (k v : Nat) : CoreSt :=
  { x with vec := if long then { x.vec with v := Map.set x.vec.v k (BitVec.ofNat 2048 v) }
                  else { x.vec with q := Map.set x.vec.q k (BitVec.ofNat 256 v) } }

/-- Core `c` can issue an arithmetic vector instruction of the short or long file (R215, R223). -/
def VecReady (c : Core) (long : Bool) (s : State) : Prop :=
  Ready c s ∧ vecEnabled s.dyn c.val long = true ∧ (s.dyn.core c.val).vec.vstart = 0

/-- A register number of the short file, or of the long file (R216). -/
def VecName (long : Bool) (r : Reg5) : Prop := long = true → r.toNat < 8

/-- A vector instruction retires with element `i` of width `w` of register `vd` equal to `f i` modulo
2^w for `i < n`, and to element `i` of `rest` from `n` on; DSAT is set when `clip`. -/
def VecGives (o : Out) (c : Core) (long : Bool) (vd : Reg5) (w n rest : Nat) (clip : Bool) (f : Nat → Int)
    (s : State) : Prop :=
  ∃ v, v < 2 ^ vecBits long
    ∧ (∀ i, i < vecBits long / w → (elemAt w v i : Int) = if i < n then f i % 2 ^ w else elemAt w rest i)
    ∧ Answers o (Retires c (((s.dyn.core c.val).withDsat clip).withVec long vd.toNat v) none s)

end Sys2Proof.Machine
end

