-- ==== Sys2Proof/Certificates/Slice0/Obligations.lean ====
section
/-! DEFINITION. The statements for the provers. -/

section Claims

open Sys2Proof Sys2Proof.Machine

/-! ### Bronze scalar instructions (07) -/

/-- R209, Table 7.17: the result of every register-to-register integer instruction, DSAT where ADDS,
SUBS or ABS clips, and nothing else of the machine changed.

R209, Table 7.17: the immediate instructions. -/
def Obligations.IntegerResults : Prop :=
  (∀ (c : Core) (rd ra rb : Reg5) (s : State), Ready c s →
      let a := s.dyn.rd c.val ra
      let b := s.dyn.rd c.val rb
      let x := s.dyn.core c.val
      let gives (i : Instr) (v : Word) := Answers (exec i s) (Retires c (x.withD rd v) none s)
      let sat (i : Instr) (v : Int) :=
        Answers (exec i s) (Retires c ((x.withDsat (clip32 v)).withD rd (clamp32 v)) none s)
      gives (.add c rd ra rb) (a + b) ∧ gives (.sub c rd ra rb) (a - b)
      ∧ sat (.adds c rd ra rb) (a.toInt + b.toInt) ∧ sat (.subs c rd ra rb) (a.toInt - b.toInt)
      ∧ gives (.and c rd ra rb) (a &&& b) ∧ gives (.or c rd ra rb) (a ||| b)
      ∧ gives (.xor c rd ra rb) (a ^^^ b) ∧ gives (.andn c rd ra rb) (a &&& ~~~b)
      ∧ gives (.sll c rd ra rb) (a <<< (b.toNat % 32)) ∧ gives (.srl c rd ra rb) (a >>> (b.toNat % 32))
      ∧ gives (.sra c rd ra rb) (a.sshiftRight (b.toNat % 32))
      ∧ gives (.mul c rd ra rb) (BitVec.ofInt 32 (a.toInt * b.toInt))
      ∧ gives (.mulh c rd ra rb) (BitVec.ofInt 32 (a.toInt * b.toInt / 2 ^ 32))
      ∧ gives (.mulhu c rd ra rb) (BitVec.ofNat 32 (a.toNat * b.toNat / 2 ^ 32))
      ∧ gives (.slt c rd ra rb) (if a.toInt < b.toInt then 1 else 0)
      ∧ gives (.sltu c rd ra rb) (if a.toNat < b.toNat then 1 else 0)
      ∧ gives (.min c rd ra rb) (BitVec.ofInt 32 (min a.toInt b.toInt))
      ∧ gives (.max c rd ra rb) (BitVec.ofInt 32 (max a.toInt b.toInt))
      ∧ sat (.abs c rd ra 0) (if a.toInt < 0 then -a.toInt else a.toInt)
      ∧ gives (.sexth c rd ra 0) (BitVec.ofInt 32 (sx 16 a.toNat))
      ∧ gives (.zexth c rd ra 0) (BitVec.ofNat 32 (a.toNat % 65536))
      ∧ (∃ n, n ≤ 32 ∧ gives (.clz c rd ra 0) (BitVec.ofNat 32 n)
          ∧ a.toNat < 2 ^ (32 - n) ∧ (n < 32 → 2 ^ (31 - n) ≤ a.toNat))
      ∧ (∃ n, n ≤ 31 ∧ gives (.cls c rd ra 0) (BitVec.ofNat 32 n)
          ∧ -(2 ^ (31 - n)) ≤ a.toInt ∧ a.toInt < 2 ^ (31 - n)
          ∧ (n < 31 → a.toInt < -(2 ^ (30 - n)) ∨ 2 ^ (30 - n) ≤ a.toInt)))
  ∧ (∀ (c : Core) (rd ra : Reg5) (imm : Half) (s : State), Ready c s →
      let a := s.dyn.rd c.val ra
      let gives (i : Instr) (v : Word) := Answers (exec i s) (Retires c ((s.dyn.core c.val).withD rd v) none s)
      gives (.addi c rd ra imm) (BitVec.ofInt 32 (a.toInt + imm.toInt))
      ∧ gives (.andi c rd ra imm) (a &&& imm.setWidth 32) ∧ gives (.ori c rd ra imm) (a ||| imm.setWidth 32)
      ∧ gives (.xori c rd ra imm) (a ^^^ imm.setWidth 32)
      ∧ gives (.movi c rd 0 imm) (BitVec.ofInt 32 imm.toInt)
      ∧ gives (.movhi c rd ra imm) (BitVec.ofNat 32 (imm.toNat * 65536 + a.toNat % 65536))
      ∧ gives (.slti c rd ra imm) (if a.toInt < imm.toInt then 1 else 0)
      ∧ (∀ n, n < 32 →
          gives (.shi c rd ra (BitVec.ofNat 16 n)) (a <<< n)
          ∧ gives (.shi c rd ra (BitVec.ofNat 16 (0x4000 + n))) (a >>> n)
          ∧ gives (.shi c rd ra (BitVec.ofNat 16 (0x8000 + n))) (a.sshiftRight n)))

/-- R209, R188: moves between the D, P, B, L and M files, ADDP and SUBP. P, B, L and M registers are
numbered 0 to 15; a buffer register takes its new value for the next instruction. -/
def Obligations.PointerFileResults : Prop :=
  ∀ (c : Core) (rd ra rb : Reg5) (s : State), Ready c s →
    let x := s.dyn.core c.val
    let gives (i : Instr) (y : CoreSt) := Answers (exec i s) (Retires c y none s)
    (rd.toNat < 16 →
      gives (.movp c rd ra rb) (x.withP rd.toNat
        (BitVec.ofNat 48 ((s.dyn.rd c.val rb).toNat % 65536 * 2 ^ 32 + (s.dyn.rd c.val ra).toNat)))
      ∧ gives (.movl c rd ra 0) (x.withL rd.toNat (s.dyn.rd c.val ra))
      ∧ gives (.movm c rd ra 0) (x.withM rd.toNat (s.dyn.rd c.val ra)))
    ∧ (ra.toNat < 16 →
      gives (.rdpl c rd ra 0) (x.withD rd (BitVec.ofNat 32 ((s.dyn.rp c.val ra.toNat).toNat % 2 ^ 32)))
      ∧ gives (.rdph c rd ra 0) (x.withD rd (BitVec.ofNat 32 ((s.dyn.rp c.val ra.toNat).toNat / 2 ^ 32)))
      ∧ gives (.rdl c rd ra 0) (x.withD rd (s.dyn.rl c.val ra.toNat))
      ∧ gives (.rdm c rd ra 0) (x.withD rd (s.dyn.rm c.val ra.toNat)))
    ∧ (rd.toNat < 16 → ra.toNat < 16 →
      gives (.addp c rd ra rb) (x.withP rd.toNat
        (s.dyn.rp c.val ra.toNat + BitVec.ofInt 48 (s.dyn.rd c.val rb).toInt))
      ∧ gives (.movb c rd ra 0) (x.withB rd.toNat (s.dyn.rp c.val ra.toNat))
      ∧ gives (.rdb c rd ra 0) (x.withP rd.toNat (s.dyn.rb c.val ra.toNat))
      ∧ gives (.movpp c rd ra 0) (x.withP rd.toNat (s.dyn.rp c.val ra.toNat)))
    ∧ (ra.toNat < 16 → rb.toNat < 16 →
      gives (.subp c rd ra rb) (x.withD rd
        (BitVec.ofInt 32 (((s.dyn.rp c.val ra.toNat).toNat : Int) - (s.dyn.rp c.val rb.toNat).toNat))))

/-- R209: ADR, branches and jumps. A taken branch goes to PC + 4 x OFF; JAL and JALR leave the return
address in P15. That JALR does so before it reads its pointer, so that P15 as the pointer is the new one, is the
model's reading (log 111), and so is that a jump's target loses its two low bits (log 18). -/
def Obligations.JumpResults : Prop :=
  ∀ (c : Core) (ra : Reg5) (s : State), Ready c s →
    let x := s.dyn.core c.val
    let pc := s.dyn.pc c.val
    let at4 (off : Int) : Addr := pc + BitVec.ofInt 48 (4 * off)
    let low (p : Addr) : Addr := p &&& ~~~3
    let goes (i : Instr) (y : CoreSt) (to_ : Option Addr) := Answers (exec i s) (Retires c y to_ s)
    let v := (s.dyn.rd c.val ra).toInt
    let branch (off : BitVec 18) (cond : BitVec 3) (taken : Prop) : Prop :=
      (taken → goes (.br c ra cond off) x (some (at4 off.toInt))) ∧ (¬ taken → goes (.br c ra cond off) x none)
    (∀ off : BitVec 26, goes (.j c off) x (some (at4 off.toInt))
      ∧ goes (.jal c off) (x.withP 15 (pc + 4)) (some (at4 off.toInt)))
    ∧ (∀ off : BitVec 18,
      (ra.toNat < 16 → goes (.adr c ra 0 off) (x.withP ra.toNat (at4 off.toInt)) none)
      ∧ branch off 0 (v = 0) ∧ branch off 1 (v ≠ 0) ∧ branch off 2 (v < 0) ∧ branch off 3 (0 ≤ v)
      ∧ branch off 4 (0 < v) ∧ branch off 5 (v ≤ 0)
      ∧ goes (.br c 0 6 off) x (some (at4 off.toInt)))
    ∧ (ra.toNat < 16 →
      goes (.jr c 0 ra 0) x (some (low (s.dyn.rp c.val ra.toNat)))
      ∧ goes (.jalr c 0 ra 0) (x.withP 15 (pc + 4))
          (some (low (if ra.toNat = 15 then pc + 4 else s.dyn.rp c.val ra.toNat))))

/-- R192: REP with a legal body sets RC and starts its iterations; a count of 0 skips the body. A body that is
none, and a register count above 65,536, raise ILLEGAL.

R192: every retirement inside a REP takes one from RC, and the instruction after the body is reached when RC
becomes 0, with INREP clear; until then the body is next again. Every instruction of a core runs so: its boundary
and its fetch come first, and where it is done it retires. -/
def Obligations.RepInstructions : Prop :=
  (∀ (c : Core) (body : Word) (s : State), Ready c s → repBodyIllegal body = false →
      let x := s.dyn.core c.val
      let started (n : Nat) : CoreSt := { x with ctl := { x.ctl with
        rc := BitVec.ofNat 17 n, repDone := 0, status := { x.ctl.status with inrep := true } } }
      (∀ count : Half, Answers (exec (.rep c 0 true 0 count body) s)
        (Retires c (started (count.toNat + 1)) none s))
      ∧ (∀ ra : Reg5, let n := (s.dyn.rd c.val ra).toNat
        (n = 0 → Answers (exec (.rep c ra false 0 0 body) s) (Retires c x (some (s.dyn.pc c.val + 8)) s))
        ∧ (0 < n → n ≤ 65536 → Answers (exec (.rep c ra false 0 0 body) s) (Retires c (started n) none s))
        ∧ (65536 < n → Raises (exec (.rep c ra false 0 0 body) s) c excIllegal s)))
  ∧ (∀ (c : Core) (ra : Reg5) (imm : Bool) (rsv : BitVec 4) (count : Half) (body : Word) (s : State), Ready c s →
      repBodyIllegal body = true → Raises (exec (.rep c ra imm rsv count body) s) c excIllegal s)
  ∧ (∀ (d : Dyn) (c icls : Nat) (pl : Priv), (d.status c).inrep = true →
      let x := (d.core c).ctl
      let t := retire d c icls pl true none
      let y := (t.core c).ctl
      y.rc = BitVec.ofNat 17 (x.rc.toNat - 1) ∧ y.repDone = x.repDone + 1
      ∧ (x.rc.toNat ≤ 1 → t.pc c = d.pc c + 4 ∧ y.status.inrep = false)
      ∧ (1 < x.rc.toNat → t.pc c = d.pc c ∧ y.status.inrep = true)
      ∧ (t.core c).regs.d = (d.core c).regs.d ∧ (t.core c).regs.p = (d.core c).regs.p
      ∧ (∀ k, k ≠ c → t.core k = d.core k))
  ∧ (∀ (i : Instr) (c : Core), onCore i = some c →
      ∃ (icls : Nat) (f : Img → Dyn → Res), ∀ s, exec i s = act (bronze c icls f) s)
  ∧ (∀ (c : Core) (icls : Nat) (f : Img → Dyn → Res) (s : State) (e : Dyn) (goto : Option Addr), Ready c s →
      f s.img (s.issue c) = .done e goto → Becomes (act (bronze c icls f) s) s
        (retire e c.val icls ((s.issue c).status c.val).pl ((s.issue c).status c.val).inrep goto))

/-- R189, R190, R173: the multiply-accumulate instructions, wrapped or saturated into the accumulator,
or into an even pair for a complex one.

R191, R11: the accumulator instructions. A narrowing rounds half up and saturates, setting DSAT
where it clips. -/
def Obligations.AccumulatorResults : Prop :=
  (∀ (c : Core) (acc : BitVec 3) (ra rb : Reg5) (frac sat : Bool) (s : State), Ready c s →
      let a := s.dyn.rd c.val ra
      let b := s.dyn.rd c.val rb
      let k : Int := if frac then 2 else 1
      let x := s.dyn.core c.val
      let n := acc.toNat
      let old : Int := (s.dyn.racc c.val n).toInt
      let old' : Int := (s.dyn.racc c.val (n + 1)).toInt
      let i (w : Word) : Int := sx 16 w.toNat
      let q (w : Word) : Int := sx 16 (w.toNat / 65536)
      let gives (ins : Instr) (v : Int) := Answers (exec ins s) (Retires c (x.sumInto n sat v) none s)
      let pair (ins : Instr) (re im : Int) :=
        Answers (exec ins s) (Retires c ((x.sumInto n sat re).sumInto (n + 1) sat im) none s)
      gives (.mpyW c acc ra rb frac sat 0) (k * (a.toInt * b.toInt))
      ∧ gives (.macW c acc ra rb frac sat 0) (old + k * (a.toInt * b.toInt))
      ∧ gives (.msuW c acc ra rb frac sat 0) (old - k * (a.toInt * b.toInt))
      ∧ gives (.macH2 c acc ra rb frac sat 0) (old + k * (i a * i b) + k * (q a * q b))
      ∧ (n % 2 = 0 →
        pair (.cmpy c acc ra rb frac sat 0) (k * (i a * i b - q a * q b)) (k * (i a * q b + q a * i b))
        ∧ pair (.cmac c acc ra rb frac sat 0) (old + k * (i a * i b - q a * q b)) (old' + k * (i a * q b + q a * i b))
        ∧ pair (.cmacj c acc ra rb frac sat 0) (old + k * (i a * i b + q a * q b)) (old' + k * (q a * i b - i a * q b))
        ∧ pair (.cmsu c acc ra rb frac sat 0) (old - k * (i a * i b - q a * q b)) (old' - k * (i a * q b + q a * i b))))
  ∧ (∀ (c : Core) (acc : BitVec 3) (rd : Reg5) (sh : BitVec 6) (s : State), Ready c s →
      let x := s.dyn.core c.val
      let n := acc.toNat
      let v := s.dyn.racc c.val n
      let w := s.dyn.rd c.val rd
      let round (a : BitVec 72) : Int := if sh = 0 then a.toInt else (a.toInt + 2 ^ (sh.toNat - 1)) / 2 ^ sh.toNat
      let clips (bits : Nat) (r : Int) : Bool := decide (r < -(2 ^ (bits - 1))) || decide (2 ^ (bits - 1) - 1 < r)
      let clamp (bits : Nat) (r : Int) : Int := max (-(2 ^ (bits - 1))) (min (2 ^ (bits - 1) - 1) r)
      let gives (i : Instr) (y : CoreSt) := Answers (exec i s) (Retires c y none s)
      gives (.ardW c acc rd sh 0)
        ((x.withDsat (clips 32 (round v))).withD rd (BitVec.ofInt 32 (clamp 32 (round v))))
      ∧ gives (.ardH c acc rd sh 0)
        ((x.withDsat (clips 16 (round v))).withD rd (BitVec.ofInt 32 (clamp 16 (round v))))
      ∧ (n % 2 = 0 → let v' := s.dyn.racc c.val (n + 1)
        gives (.ardC c acc rd sh 0) ((x.withDsat (clips 16 (round v) || clips 16 (round v'))).withD rd
          (BitVec.ofInt 16 (clamp 16 (round v')) ++ BitVec.ofInt 16 (clamp 16 (round v)))))
      ∧ gives (.awr c acc rd sh 0) (x.withAcc n (BitVec.ofInt 72 (w.toInt * 2 ^ sh.toNat)))
      ∧ gives (.aclr c acc rd sh 0) (x.withAcc n 0)
      ∧ gives (.ashr c acc rd sh 0) (x.withAcc n (BitVec.ofInt 72 (round v)))
      ∧ gives (.ardl c acc rd sh 0) (x.withD rd (v.extractLsb' 0 32))
      ∧ gives (.ardm c acc rd sh 0) (x.withD rd (v.extractLsb' 32 32))
      ∧ gives (.ardx c acc rd sh 0) (x.withD rd ((v.extractLsb' 64 8).signExtend 32))
      ∧ gives (.ains c acc rd 0 0) (x.withAcc n (v.extractLsb' 32 40 ++ w))
      ∧ gives (.ains c acc rd 1 0) (x.withAcc n (v.extractLsb' 64 8 ++ w ++ v.extractLsb' 0 32))
      ∧ gives (.ains c acc rd 2 0) (x.withAcc n (w.extractLsb' 0 8 ++ v.extractLsb' 0 64)))

/-! ### Loads, stores and atomics (R183, R184, R208) -/

/-- R183, R184, R186: a load in a legal form, whose access is allowed and answered, gives the register
the bytes read, sign- or zero-extended, and moves the pointer of AM 1 and AM 2. A store writes the low
bytes of its register; its error response is asynchronous. An access to the dispatcher that must wait behind TASK_CMD
writes (R157, R171, R321) is none of these yet.

R186: the pointer after a post-modify: plain when the buffer's length is 0, else the base plus the
difference modulo the length. -/
def Obligations.LoadStoreResults : Prop :=
  (∀ (c : Core) (rd : Reg5) (pn : BitVec 4) (am : BitVec 3) (sz : BitVec 2) (off : BitVec 12) (s : State),
      Ready c s →
      let d := s.issue c
      let f := d.addrForm c.val pn am sz off
      let size := 2 ^ sz.toNat
      let a := f.addr.toNat
      let st := d.status c.val
      f.legal = true → checkAccess d c.val f.addr size = none →
        (let m := scalarLoad s.img (countCirc (countAccess d c.val 0x0105 a) c.val pn f size) c a size
         readWaits d c a = false → m.2.status < 2 →
          Becomes (exec (.ld c rd pn am sz off) s) s (retire ((stepPtr m.1 c.val pn f).wd c.val rd
              (BitVec.ofInt 32 (sx (8 * size) (leNat m.2.data)))) c.val 2 st.pl st.inrep none)
          ∧ Becomes (exec (.ldu c rd pn am sz off) s) s (retire ((stepPtr m.1 c.val pn f).wd c.val rd
              (BitVec.ofNat 32 (leNat m.2.data))) c.val 2 st.pl st.inrep none))
        ∧ ((a < regBase ∨ regWaits d (.core c st.pl) (a - regBase) true = false) →
          let bytes := leBytes size (d.rd c.val rd).toNat
          let m := scalarStore s.img
            (feedSig (countCirc (countAccess d c.val 0x0106 a) c.val pn f size) c.val a bytes) c a bytes
          Becomes (exec (.st c rd pn am sz off) s) s
            (retire (stepPtr (if m.2.status < 2 then m.1 else storeFailed s.img m.1 c.val a m.2.status) c.val pn f)
              c.val 3 st.pl st.inrep none)))
  ∧ (∀ (p b : Addr) (len : Word) (step : Int),
      (len = 0 → postModify p b len.toNat step = p + BitVec.ofInt 48 step)
      ∧ (len ≠ 0 → b.toNat + len.toNat ≤ 2 ^ 48 →
          b.toNat ≤ (postModify p b len.toNat step).toNat
          ∧ (postModify p b len.toNat step).toNat < b.toNat + len.toNat
          ∧ ((postModify p b len.toNat step).toNat - b.toNat : Int)
              = ((p.toNat : Int) - b.toNat + step) % len.toNat))

/-- R177, R183: an access to local memory reads or writes the core's own bytes and changes nothing but
the core. Every byte of local memory outside the bytes of a store reads as before. A load of a word whose
parity failed does not complete: CORE_PARITY is raised on the core and no register changes (that the failure
stays in the word until it is stored whole is the model's choice, log 138).

R201: CORE_PARITY on a core whose HACT is 1 halts the core, when the detection is arbitrated: no further
instruction issues, and its registers stay. (What the report of it carries is the model's choice, log 118.) -/
def Obligations.LocalMemoryAccess : Prop :=
  ∀ (c : Core) (rd : Reg5) (pn : BitVec 4) (am : BitVec 3) (sz : BitVec 2) (off : BitVec 12) (s : State),
    Ready c s →
    let f := s.dyn.addrForm c.val pn am sz off
    let size := 2 ^ sz.toNat
    let a := f.addr.toNat
    let x := s.dyn.core c.val
    let bad (w : Nat) : Prop := w ∈ x.parity
    f.legal = true → checkAccess s.dyn c.val f.addr size = none → inLocal a = true →
      ((∃ w ∈ localWords a size, bad w) → ∃ t, exec (.ldu c rd pn am sz off) s = .next t
        ∧ (∃ r ∈ t.dyn.disp.detects, r.unit = 0x0100 + c.val ∧ r.cond = 0x0101)
        ∧ (t.dyn.core c.val).regs = x.regs ∧ (t.dyn.core c.val).local_ = x.local_)
      ∧ ((∀ w ∈ localWords a size, ¬ bad w) → ∃ y : CoreSt, Answers (exec (.ldu c rd pn am sz off) s)
          (Retires c (y.withD rd (BitVec.ofNat 32 (leNat (Memory.readN x.local_ a size)))) none s)
        ∧ y.regs.d = x.regs.d ∧ y.regs.b = x.regs.b ∧ y.regs.l = x.regs.l ∧ y.regs.m = x.regs.m
        ∧ y.regs.acc = x.regs.acc ∧ y.regs.pc = x.regs.pc
        ∧ (∀ k, k ≠ pn.toNat → Map.get 0 y.regs.p k = Map.get 0 x.regs.p k)
        ∧ y.ctl = x.ctl ∧ y.vec = x.vec ∧ y.port = x.port ∧ y.tsk = x.tsk ∧ y.local_ = x.local_
        ∧ y.parity = x.parity)
      ∧ (∃ t, exec (.st c rd pn am sz off) s = .next t ∧ OnlyCore c (s.fetched c) t
        ∧ (t.dyn.core c.val).local_ = Memory.writeN x.local_ a (leBytes size (s.dyn.rd c.val rd).toNat)
        ∧ (∀ b, (b < a ∨ a + size ≤ b) →
            Memory.read (t.dyn.core c.val).local_ b = Memory.read x.local_ b)
        ∧ (t.dyn.core c.val).regs.d = x.regs.d ∧ (t.dyn.core c.val).regs.acc = x.regs.acc
        ∧ (t.dyn.core c.val).vec = x.vec ∧ (t.dyn.core c.val).port = x.port
        ∧ (∀ k, k ≠ pn.toNat → t.dyn.rp c.val k = s.dyn.rp c.val k))
      ∧ (∀ (addr : Addr) (extra : Word), x.ctl.status.hact = true → s.dyn.disp.halted = false →
        Answers (exec (.taskDetection (BitVec.ofNat 16 (0x0100 + c.val)) 0x0101 addr extra) s) (fun t =>
          let y := t.dyn.core c.val
          y.tsk.run = .halted ∧ t.dyn.issues c.val = false ∧ y.regs = x.regs ∧ y.local_ = x.local_
          ∧ (∀ k, k ≠ c.val → t.dyn.core k = s.dyn.core k)))

/-- R208, R345: an atomic on memory gives RD the old word, when the packet is answered with data.

R206, R209: with their reserved bits zero, fences go on to the next instruction, and FENCE.I leaves no block
in the instruction cache. (That nothing is outstanding when one is met is the model's choice, log 25.) -/
def Obligations.AtomicsAndFences : Prop :=
  (∀ (c : Core) (rd ra rb : Reg5) (s : State), Ready c s → ra.toNat < 16 → lockstepTask s.dyn c.val = false →
      let d := s.issue c
      let p := d.rp c.val ra.toNat
      let st := d.status c.val
      checkAccess d c.val p 4 = none → inLocal p.toNat = false → p.toNat < regBase →
      let gives (i : Instr) (func : Nat) : Prop :=
        let m := memPacket s.img (sampleAccess d c.val p.toNat) (coreSender d c.val) p.toNat
          (.atomic func (d.rd c.val rb).toNat (d.rd c.val rd).toNat)
        m.2.status < 2 → Becomes (exec i s) s
          (retire (m.1.wd c.val rd (BitVec.ofNat 32 (leNat m.2.data))) c.val 7 st.pl st.inrep none)
      gives (.atomicSwap c rd ra rb) 0 ∧ gives (.atomicAdd c rd ra rb) 1 ∧ gives (.cas c rd ra rb) 2
      ∧ gives (.atomicAnd c rd ra rb) 3 ∧ gives (.atomicOr c rd ra rb) 4)
  ∧ (∀ (c : Core) (s : State), Ready c s →
      Answers (exec (.fenceS c 0) s) (Retires c (s.dyn.core c.val) none s)
      ∧ Answers (exec (.fenceA c 0) s) (Retires c (s.dyn.core c.val) none s)
      ∧ Answers (exec (.fenceI c 0) s) (fun t =>
          Retires c (s.dyn.core c.val) none s t ∧ (t.dyn.core c.val).lines = []))

/-! ### Control registers, exceptions and tasks (R178, R193 to R202) -/

/-- R178: a control-register access inside its permission reads, writes, sets or clears; nothing else of
the machine changes.

R178: a read of CYCLE_LO gives the low bits of a count that has gone on since the last instruction, and
latches its high bits for CYCLE_HI (how many clocks have gone by is free, log 23).

R178: an index that none of the tables gives raises ILLEGAL.

R9, R178, Tables 7.5, 8.3 and 9.1: what each control register that can be written keeps of a write. CSRS and
CSRC write old | Da and old & ~Da with the field access codes; that they do so to DBELL too, which is W1C, is the
model's reading (log 105).

R179, Table 7.6: of a write of STATUS, DSAT and ASAT are cleared by a one at every level; IE, PPL, PINREP and HACT
are kept at EXEC alone, a PPL of 3 not at all; PL, TASK, SHADOW and INREP never. -/
def Obligations.ControlRegisters : Prop :=
  (∀ (c : Core) (r : Reg5) (code : Byte) (s : State), Ready c s → ∀ (rl : Nat) (wl : Option Nat),
      csrPerm code.toNat = some (rl, wl) →
      let i := code.toNat
      let d := s.issue c
      let x := s.dyn.core c.val
      let pl := Priv.num (s.dyn.status c.val).pl
      let old := (csrRead d c.val i).2
      let w := s.dyn.rd c.val r
      let wrote (v : Word) : CoreSt := (csrWrite d c.val i v).core c.val
      (pl ≤ rl → Answers (exec (.csrr c r 0 code) s)
        (Retires c (((csrRead d c.val i).1.core c.val).withD r old) none s))
      ∧ (code = 0x18 → ∃ n, x.clock < n ∧ Answers (exec (.csrr c r 0 code) s) (fun t =>
          (t.dyn.core c.val).clock = n ∧ Retires c
            (CoreSt.withD { x with ctl := { x.ctl with cycleHi := BitVec.ofNat 32 (n / 2 ^ 32) } } r
              (BitVec.ofNat 32 n)) none s t))
      ∧ (∀ l, wl = some l → pl ≤ l →
          Answers (exec (.csrw c 0 r code) s) (Retires c (wrote w) none s)
          ∧ Answers (exec (.csrs c 0 r code) s) (Retires c (wrote (old ||| w)) none s)
          ∧ Answers (exec (.csrc c 0 r code) s) (Retires c (wrote (old &&& ~~~w)) none s))
      ∧ (wl = none → Answers (exec (.csrw c 0 r code) s) (Retires c (s.dyn.core c.val) none s))
      ∧ (rl < pl → Raises (exec (.csrr c r 0 code) s) c excPrivilege s)
      ∧ (∀ l, wl = some l → l < pl → Raises (exec (.csrw c 0 r code) s) c excPrivilege s))
  ∧ (∀ (c : Core) (r : Reg5) (code : Byte) (s : State), Ready c s → csrPerm code.toNat = none →
      Raises (exec (.csrr c r 0 code) s) c excIllegal s ∧ Raises (exec (.csrw c 0 r code) s) c excIllegal s
      ∧ Raises (exec (.csrs c 0 r code) s) c excIllegal s ∧ Raises (exec (.csrc c 0 r code) s) c excIllegal s)
  ∧ (∀ (d : Dyn) (c : Nat) (w : Word),
      let keeps (i : Nat) (v : Word) : Prop := (csrRead (csrWrite d c i w) c i).2 = v
      keeps 0x02 (w &&& ~~~3) ∧ keeps 0x03 (w &&& 0xFFFF) ∧ keeps 0x06 (w &&& ~~~0xFFF) ∧ keeps 0x07 (w &&& 0xFFFF)
      ∧ keeps 0x08 w ∧ keeps 0x09 (w &&& 6) ∧ keeps 0x0B ((d.core c).ctl.dbell &&& ~~~w)
      ∧ (∀ i, 0x0C ≤ i → i ≤ 0x11 → keeps i w) ∧ keeps 0x12 (w &&& 0x1FFFF)
      ∧ (∀ i, 0x20 ≤ i → i ≤ 0x27 → keeps i w) ∧ keeps 0x30 (w &&& 15)
      ∧ keeps 0x31 (BitVec.ofNat 32 (min 256 (w.toNat % 512))) ∧ keeps 0x32 (w &&& 0x1FF) ∧ keeps 0x40 (w &&& 3))
  ∧ (∀ (d : Dyn) (c : Nat) (w : Word),
      let old := d.status c
      let new := (csrWrite d c 0 w).status c
      let read := (csrRead d c 0).2
      let exec := old.pl = .exec
      new.dsat = (old.dsat && !w.getLsbD 7) ∧ new.asat = (old.asat && !w.getLsbD 6)
      ∧ new.ie = (if exec then w.getLsbD 5 else old.ie) ∧ new.hact = (if exec then w.getLsbD 4 else old.hact)
      ∧ new.pinrep = (if exec then w.getLsbD 11 else old.pinrep)
      ∧ new.ppl = (if exec then (match w.extractLsb' 2 2 with
          | 0 => .exec
          | 1 => .task
          | 2 => .plugin
          | _ => old.ppl) else old.ppl)
      ∧ new.pl = old.pl ∧ new.task = old.task ∧ new.shadow = old.shadow ∧ new.inrep = old.inrep
      ∧ read.extractLsb' 12 20 = 0 ∧ read.getLsbD 11 = old.pinrep ∧ read.getLsbD 10 = old.inrep
      ∧ read.getLsbD 9 = old.shadow ∧ read.getLsbD 8 = old.task ∧ read.getLsbD 7 = old.dsat
      ∧ read.getLsbD 6 = old.asat ∧ read.getLsbD 5 = old.ie ∧ read.getLsbD 4 = old.hact
      ∧ read.extractLsb' 2 2 = BitVec.ofNat 2 (Priv.num old.ppl)
      ∧ read.extractLsb' 0 2 = BitVec.ofNat 2 (Priv.num old.pl))

/-- R197: an exception with HACT clear, at EXEC or selected by EXMASK, writes EPC, CAUSE, EADDR and
STATUS, and goes to VBASE + 64 x the cause code. TRAP and BREAK raise 0x07 and 0x09.

R199: below EXEC, an exception that EXMASK does not select raises CORE_TRAP against the task and the
core takes ABORT with detail 6.

R201: a synchronous exception while HACT is set halts the core: a class 6 report carries the cause,
and no further instruction issues.

R197, R179: ERET at EXEC with no ABORT pending restores PL and INREP, clears HACT and goes to EPC; with INREP
restored and RC 0 no iteration is left, and it goes past the body (R192, log 134). -/
def Obligations.Exceptions : Prop :=
  (∀ (c : Core) (code : Byte) (s : State), Ready c s → (s.dyn.status c.val).hact = false →
      let x := s.dyn.core c.val
      (((s.dyn.status c.val).pl = .exec ∨ x.ctl.exmask.getLsbD 7 = true) →
        Answers (exec (.trap c 0 code) s) (CoreIssues c (x.entered 7 code.toNat 0 x.regs.pc none) s))
      ∧ (((s.dyn.status c.val).pl = .exec ∨ x.ctl.exmask.getLsbD 9 = true) →
        Answers (exec (.brk c 0) s) (CoreIssues c (x.entered 9 0 0 x.regs.pc none) s)))
  ∧ (∀ (c : Core) (code : Byte) (s : State) (n : Nat), Ready c s → (s.dyn.status c.val).hact = false →
      let x := s.dyn.core c.val
      (s.dyn.status c.val).pl ≠ .exec → x.ctl.exmask.getLsbD 7 = false → x.tsk.task = some n →
        Answers (exec (.trap c 0 code) s)
          (IssuesFrom { s with dyn := raiseTask (s.fetched c).dyn (0x0100 + c.val) 0x0104 0 0 } c
            (x.aborted.entered 0x20 6 0x0104 x.regs.pc none) s))
  ∧ (∀ (c : Core) (code : Byte) (s : State), Ready c s → (s.dyn.status c.val).hact = true →
      ∃ t, exec (.trap c 0 code) s = .next t ∧ (t.dyn.core c.val).tsk.run = .halted
        ∧ t.dyn.issues c.val = false ∧ (t.dyn.core c.val).regs = (s.dyn.core c.val).regs
        ∧ ((s.dyn.core c.val).tsk.task = none → t.dyn.disp = (s.fetched c).dyn.disp
            ∧ t.dyn = { event (s.fetched c).dyn (0x0100 + c.val) 6 0x0181 (leBytes 4 (code.toNat * 256 + 7)) with
                cores := t.dyn.cores, perf := t.dyn.perf, free := t.dyn.free }))
  ∧ (∀ (c : Core) (s : State), Ready c s → (s.dyn.status c.val).pl = .exec →
      (s.dyn.core c.val).tsk.abort = none → (s.dyn.status c.val).inrep = false →
      let x := s.dyn.core c.val
      let atEnd : Bool := x.ctl.status.pinrep && decide (x.ctl.rc = 0)
      Answers (exec (.eret c 0) s) (CoreIssues c { x with
        regs := { x.regs with pc := if atEnd then x.ctl.epc + 4 else x.ctl.epc }
        ctl := { x.ctl with
          repDone := if x.ctl.status.pinrep then x.ctl.repSaved else x.ctl.repDone
          status := { x.ctl.status with
            pl := x.ctl.status.ppl, inrep := x.ctl.status.pinrep && !atEnd, hact := false } } } s))

/-- R178, R193, R194, R197: ERET and TWAIT run at EXEC only and TCOMMIT not at PLUGIN; a TCOMMIT without a
task, and TWAIT with one, raise TASK_OP.

R193, R194: TWAIT waits, and TCOMMIT records its final state with the four result words; for a task that the
dispatcher has ended already, it is answered with 1 and retires once the coprocessor queue is empty. -/
def Obligations.TaskInstructions : Prop :=
  (∀ (c : Core) (rd ra : Reg5) (s : State), Ready c s → ra.toNat ≤ 28 →
      let pl := (s.dyn.status c.val).pl
      let task := (s.dyn.core c.val).tsk.task
      (pl ≠ .exec → Raises (exec (.eret c 0) s) c excPrivilege s ∧ Raises (exec (.twait c 0) s) c excPrivilege s)
      ∧ (pl = .plugin → Raises (exec (.tcommit c rd ra 0) s) c excPrivilege s
          ∧ Raises (exec (.tcommitE c rd ra 0) s) c excPrivilege s
          ∧ Raises (exec (.tcommitB c rd ra 0) s) c excPrivilege s)
      ∧ (pl ≠ .plugin → task = none → Raises (exec (.tcommit c rd ra 0) s) c excTaskOp s
          ∧ Raises (exec (.tcommitE c rd ra 0) s) c excTaskOp s
          ∧ Raises (exec (.tcommitB c rd ra 0) s) c excTaskOp s)
      ∧ (pl = .exec → task ≠ none → Raises (exec (.twait c 0) s) c excTaskOp s))
  ∧ (∀ (c : Core) (rd ra : Reg5) (s : State), Ready c s →
      let x := s.dyn.core c.val
      let pl := (s.dyn.status c.val).pl
      let result := leBytes 4 (s.dyn.rd c.val ra).toNat ++ leBytes 4 (s.dyn.rd c.val (ra + 1)).toNat
        ++ leBytes 4 (s.dyn.rd c.val (ra + 2)).toNat ++ leBytes 4 (s.dyn.rd c.val (ra + 3)).toNat
      let commits (i : Instr) (final : Nat) := Answers (exec i s)
        (CoreIssues c { x with tsk := { x.tsk with commit := some { final, rd := rd.toNat, result } } } s)
      let gone (i : Instr) := Answers (exec i s) (fun t =>
        t.dyn.rd c.val rd = 1 ∧ (t.dyn.core c.val).tsk.task = none ∧ (t.dyn.core c.val).tsk.commit = none
        ∧ (t.dyn.core c.val).tsk.abort = none ∧ (t.dyn.status c.val).task = false)
      (pl = .exec → x.tsk.task = none →
        Answers (exec (.twait c 0) s) (CoreIssues c { x with tsk := { x.tsk with waiting := true } } s))
      ∧ (pl ≠ .plugin → x.tsk.task ≠ none → ra.toNat ≤ 28 →
        (taskLive s.dyn c.val = true ∨ x.port.queue ≠ [] →
          commits (.tcommit c rd ra 0) 2 ∧ commits (.tcommitE c rd ra 0) 3 ∧ commits (.tcommitB c rd ra 0) 4)
        ∧ (taskLive s.dyn c.val = false → x.port.queue = [] →
          gone (.tcommit c rd ra 0) ∧ gone (.tcommitE c rd ra 0) ∧ gone (.tcommitB c rd ra 0))))

/-- R195: TFAULT at EXEC or TASK with a task present raises TASK_DECLARED against the task, with Da in the
report's detail, and retires with an ABORT of DETAIL 1 pending, which the core takes at its next boundary with
HACT 0 (R200). At PLUGIN it raises PRIVILEGE, and without a task TASK_OP. -/
def Obligations.DeclaredFault : Prop :=
  ∀ (c : Core) (ra : Reg5) (s : State), Ready c s →
    let x := s.dyn.core c.val
    let st := s.dyn.status c.val
    let i : Instr := .tfault c 0 ra 0
    let raised : State :=
      { s with dyn := raiseTask (s.fetched c).dyn (0x0100 + c.val) 0x0103 0 (s.dyn.rd c.val ra).toNat }
    (st.pl = .plugin → Raises (exec i s) c excPrivilege s)
    ∧ (st.pl ≠ .plugin → x.tsk.task = none → Raises (exec i s) c excTaskOp s)
    ∧ (st.pl ≠ .plugin → x.tsk.task ≠ none → x.tsk.abort = none →
        Answers (exec i s) (RetiresFrom raised c { x with tsk := { x.tsk with abort := some (1, 0x0103) } } none s)
        ∧ (st.hact = false → ∀ t, exec i s = .next t → let y := t.dyn.core c.val
          Answers (exec (.abort c) t) (CoreBecomes c (y.aborted.entered 0x20 1 0x0103 y.regs.pc none) t)))

/-- R199, R200, R202, R210: what is taken at a boundary with HACT clear: ABORT first, then a store error,
then DOORBELL before COUNTER; and a doorbell write sets bits. -/
def Obligations.BoundaryEvents : Prop :=
  ∀ (c : Core) (s : State), islandUp s.dyn = true →
    let x := s.dyn.core c.val
    let free := atBoundary s.dyn c.val = true ∧ (s.dyn.status c.val).hact = false
    (∀ detail (cond : Half), free → x.tsk.abort = some (detail, cond) →
      Answers (exec (.abort c) s) (CoreBecomes c (x.aborted.entered 0x20 detail cond.toNat x.regs.pc none) s)
      ∧ exec (.interrupt c) s = exec (.abort c) s)
    ∧ (∀ e rest, free → x.tsk.abort = none → x.tsk.storeErrs = e :: rest →
      Answers (exec (.storeDataError c) s)
        (CoreBecomes c (CoreSt.entered { x with tsk := { x.tsk with storeErrs := rest, waiting := false } } 5
          (b2n e.store + 4 * e.kind) 0 x.regs.pc (some e.addr)) s)
      ∧ exec (.interrupt c) s = exec (.storeDataError c) s)
    ∧ (free → x.tsk.abort = none → x.tsk.storeErrs = [] → (s.dyn.status c.val).ie = true → lockstepTask s.dyn c.val = false →
        (s.dyn.status c.val).inrep = false →
      let y := { x with tsk := { x.tsk with waiting := false } }
      (x.ctl.dbell ≠ 0 → x.ctl.imask.getLsbD 1 = true →
        Answers (exec (.interrupt c) s) (CoreBecomes c (CoreSt.entered y 0x21 0 0 x.regs.pc none) s))
      ∧ (x.ctl.dbell = 0 → counterPending s.dyn c.val = true → x.ctl.imask.getLsbD 2 = true →
        Answers (exec (.interrupt c) s) (CoreBecomes c (CoreSt.entered y 0x22 0 0 x.regs.pc none) s)))
    ∧ (∀ (m : Master) (v : Word), m.isTaskOrHost = true →
      Answers (exec (.doorbell m c v) s)
        (CoreBecomes c { x with ctl := { x.ctl with dbell := x.ctl.dbell ||| v } } s))

/-- R200: at a boundary with HACT 0, a pending ABORT is taken.

R199: a store error that waits is taken there, when no ABORT is pending, before any interrupt.

R202, R210: an enabled DOORBELL is taken there, when no ABORT is pending and no store error waits, and a doorbell write of a core below
PLUGIN or of a host sets bits of DBELL. In each case there is a next state: the PC is saved, the core goes on
at its vector, or the bits are set, and no other core changes. -/
def Obligations.AsynchronousEntries : Prop :=
  ∀ (c : Core) (s : State), islandUp s.dyn = true →
    let x := s.dyn.core c.val
    let enters (i : Instr) (code : Nat) : Prop := ∃ t, exec i s = .next t
      ∧ t.dyn.pc c.val = x.ctl.vbase + BitVec.ofNat 48 (64 * code)
      ∧ (t.dyn.core c.val).ctl.epc = x.regs.pc ∧ (t.dyn.core c.val).ctl.cause.toNat % 256 = code
      ∧ (t.dyn.status c.val).pl = .exec ∧ (t.dyn.status c.val).ppl = x.ctl.status.pl
      ∧ (t.dyn.status c.val).hact = true ∧ (t.dyn.status c.val).pinrep = (x.ctl.status.inrep && code != 0x20)
      ∧ (t.dyn.core c.val).regs.d = x.regs.d ∧ (∀ k, k ≠ c.val → t.dyn.core k = s.dyn.core k)
    let boundary := x.tsk.run = .active ∧ x.tsk.commit = none ∧ s.dyn.powered (0x0100 + c.val) = true
      ∧ x.ctl.status.hact = false
    (boundary → x.tsk.abort ≠ none → enters (.abort c) 0x20)
    ∧ (boundary → x.tsk.abort = none → x.tsk.storeErrs ≠ [] →
        enters (.storeDataError c) 5 ∧ enters (.interrupt c) 5)
    ∧ (boundary → x.tsk.abort = none → x.tsk.storeErrs = [] → x.ctl.status.ie = true → lockstepTask s.dyn c.val = false →
        (x.ctl.status.inrep = true → x.ctl.repDone ≠ 0 ∧ x.ctl.repDone % 16 = 0) →
        x.ctl.dbell ≠ 0 → x.ctl.imask.getLsbD 1 = true → enters (.interrupt c) 0x21)
    ∧ (∀ (m : Master) (v : Word), m.isTaskOrHost = true → ∃ t, exec (.doorbell m c v) s = .next t
        ∧ (t.dyn.core c.val).ctl.dbell = x.ctl.dbell ||| v
        ∧ (t.dyn.core c.val).regs = x.regs ∧ (∀ k, k ≠ c.val → t.dyn.core k = s.dyn.core k))
    ∧ (∀ (m : Master) (v : Word), m.isTaskOrHost = false → exec (.doorbell m c v) s = .next s)

/-- R181: every instruction with a reserved field that is not zero, or with a field outside its range, raises
ILLEGAL.

R182, R181: a word whose MAJOR Table 7.10 does not give, the zero word among them, is no instruction (the vector
MAJORs 0x27 to 0x2B are excluded by R216). Where the fetch finds such a word, every instruction that is asked for
raises ILLEGAL in its place; it does so wherever memory answers with the word and no block of it is in the cache,
which the model holds as a set of blocks (log 10). -/
def Obligations.IllegalFields : Prop :=
  (∀ (c : Core) (w next : Word), (w.extractLsb' 26 6).toNat ∈
      [0x00, 0x0A, 0x0B, 0x0C, 0x0D, 0x0E, 0x0F, 0x16, 0x17, 0x1A, 0x1B, 0x27, 0x28, 0x29, 0x2A, 0x2B]
        ++ (List.range 14).map (0x30 + ·) → decodeBronze c w next = none)
  ∧ (∀ (i : Instr) (c : Core) (s : State), onCore i = some c → islandUp s.dyn = true → s.dyn.issues c.val = true →
      boundaryEvent s.dyn c.val = none → fetchDenied s.img s.dyn c.val = false →
      (fetch s.img s.dyn c.val).2 = .illegal → Raises (exec i s) c excIllegal s)
  ∧ (∀ (c : Core) (s : State), (s.dyn.pc c.val).toNat / 128 ∉ (s.dyn.core c.val).lines →
      let m := memLoad s.img s.dyn (coreSender s.dyn c.val) (s.dyn.pc c.val).toNat 4
      (m.2.status < 2 → (fetch s.img s.dyn c.val).2 =
          if isInstruction (BitVec.ofNat 32 (leNat m.2.data)) then .word else .illegal)
      ∧ (2 ≤ m.2.status → (fetch s.img s.dyn c.val).2 = .failed m.2.status))
  ∧ ∀ (i : Instr) (c : Core) (s : State), onCore i = some c → badFields i = true → Ready c s →
    Raises (exec i s) c excIllegal s

/-! ### Vector instructions (08) -/

/-- R226, Table 8.6: the element operations. For cint16 (ET 3) each component is a 16-bit element.

R226: the complex operations on cint16 elements. Element `i` of the register is its component `2 i`,
the real part, and its component `2 i + 1`. -/
def Obligations.VectorElementResults : Prop :=
  (∀ (c : Core) (long : Bool) (vd va vb : Reg5) (et : BitVec 2) (s : State), VecReady c long s →
      VecName long vd → VecName long va →
      let x := s.dyn.core c.val
      let w := if et = 0 then 8 else if et = 2 then 32 else 16
      let n := (if et = 3 then 2 else 1) * s.dyn.vecN c.val long et.toNat
      let a (i : Nat) : Int := sx w (elemAt w (x.vecReg long va.toNat) i)
      let b (i : Nat) : Int := sx w (elemAt w (x.vecReg long vb.toNat) i)
      let top : Int := 2 ^ (w - 1)
      let round (v : Int) (k : Nat) : Int := if k = 0 then v else (v + 2 ^ (k - 1)) / 2 ^ k
      let wraps (i : Instr) (f : Nat → Int) : Prop :=
        VecGives (exec i s) c long vd w n (x.vecReg long vd.toNat) false f s
      let sats (i : Instr) (f : Nat → Int) : Prop := ∀ clip : Bool,
        (clip = true ↔ ∃ k, k < n ∧ (f k < -top ∨ top - 1 < f k)) →
        VecGives (exec i s) c long vd w n (x.vecReg long vd.toNat) clip
          (fun k => max (-top) (min (top - 1) (f k))) s
      (VecName long vb →
        wraps (.vadd c long vd va vb et 0 false) (fun i => a i + b i)
        ∧ wraps (.vsub c long vd va vb et 0 false) (fun i => a i - b i)
        ∧ sats (.vadds c long vd va vb et 0 false) (fun i => a i + b i)
        ∧ sats (.vsubs c long vd va vb et 0 false) (fun i => a i - b i)
        ∧ wraps (.vand c long vd va vb et 0 false) (fun i =>
            ((elemAt w (x.vecReg long va.toNat) i &&& elemAt w (x.vecReg long vb.toNat) i : Nat) : Int))
        ∧ wraps (.vor c long vd va vb et 0 false) (fun i =>
            ((elemAt w (x.vecReg long va.toNat) i ||| elemAt w (x.vecReg long vb.toNat) i : Nat) : Int))
        ∧ wraps (.vxor c long vd va vb et 0 false) (fun i =>
            ((elemAt w (x.vecReg long va.toNat) i ^^^ elemAt w (x.vecReg long vb.toNat) i : Nat) : Int))
        ∧ wraps (.vmin c long vd va vb et 0 false) (fun i => min (a i) (b i))
        ∧ wraps (.vmax c long vd va vb et 0 false) (fun i => max (a i) (b i))
        ∧ wraps (.vavgr c long vd va vb et 0 false) (fun i => (a i + b i + 1) / 2)
        ∧ (et ≠ 3 → sats (.vmulr c long vd va vb et 0 false) (fun i => round (a i * b i) (w - 1))))
      ∧ sats (.vabs c long vd va 0 et 0 false) (fun i => if a i < 0 then -a i else a i)
      ∧ (vb.toNat < w →
        wraps (.vsrar c long vd va vb et 0 false) (fun i => round (a i) vb.toNat)
        ∧ sats (.vslls c long vd va vb et 0 false) (fun i => a i * 2 ^ vb.toNat)))
  ∧ (∀ (c : Core) (long : Bool) (vd va vb : Reg5) (s : State), VecReady c long s →
      VecName long vd → VecName long va →
      let x := s.dyn.core c.val
      let n := 2 * s.dyn.vecN c.val long 3
      let a (i : Nat) : Int := sx 16 (elemAt 16 (x.vecReg long va.toNat) i)
      let b (i : Nat) : Int := sx 16 (elemAt 16 (x.vecReg long vb.toNat) i)
      let round15 (v : Int) : Int := (v + 16384) / 32768
      let sats (i : Instr) (f : Nat → Int) : Prop := ∀ clip : Bool,
        (clip = true ↔ ∃ k, k < n ∧ (f k < -32768 ∨ 32767 < f k)) →
        VecGives (exec i s) c long vd 16 n (x.vecReg long vd.toNat) clip
          (fun k => max (-32768) (min 32767 (f k))) s
      (VecName long vb →
        sats (.vcmulr c long vd va vb 3 0 false) (fun i => let e := i - i % 2
          round15 (if i % 2 = 0 then a e * b e - a (e + 1) * b (e + 1) else a e * b (e + 1) + a (e + 1) * b e))
        ∧ sats (.vcmuljr c long vd va vb 3 0 false) (fun i => let e := i - i % 2
          round15 (if i % 2 = 0 then a e * b e + a (e + 1) * b (e + 1) else a (e + 1) * b e - a e * b (e + 1))))
      ∧ sats (.vconj c long vd va 0 3 0 false) (fun i => if i % 2 = 0 then a i else -a i))

/-- R227: VDOT and VDOTJ add the exact sum of the products over all elements to the accumulator that
VD[4:2] names, or for cint16 to an even pair.

R228: narrowing and widening. -/
def Obligations.VectorReductions : Prop :=
  (∀ (c : Core) (long : Bool) (acc : BitVec 3) (va vb : Reg5) (et : BitVec 2) (sat : Bool) (s : State),
      VecReady c long s → VecName long va → VecName long vb →
      let x := s.dyn.core c.val
      let vd : Reg5 := acc ++ (0 : BitVec 2)
      let k := acc.toNat
      let n := s.dyn.vecN c.val long et.toNat
      let el (w : Nat) (r : Reg5) (i : Nat) : Int := sx w (elemAt w (x.vecReg long r.toNat) i)
      let sum (f : Nat → Int) : Int := ((List.range n).map f).sum
      let gives (i : Instr) (y : CoreSt) := Answers (exec i s) (Retires c y none s)
      (et ≠ 3 → let w := if et = 0 then 8 else if et = 2 then 32 else 16
        gives (.vdot c long vd va vb et 0 sat)
          (x.sumInto k sat ((s.dyn.racc c.val k).toInt + sum (fun i => el w va i * el w vb i))))
      ∧ (et = 3 → k % 2 = 0 →
        let re (r : Reg5) (i : Nat) := el 16 r (2 * i)
        let im (r : Reg5) (i : Nat) := el 16 r (2 * i + 1)
        let old := (s.dyn.racc c.val k).toInt
        let old' := (s.dyn.racc c.val (k + 1)).toInt
        gives (.vdot c long vd va vb 3 0 sat)
          ((x.sumInto k sat (old + sum (fun i => re va i * re vb i - im va i * im vb i))).sumInto (k + 1) sat
            (old' + sum (fun i => re va i * im vb i + im va i * re vb i)))
        ∧ gives (.vdotj c long vd va vb 3 0 sat)
          ((x.sumInto k sat (old + sum (fun i => re va i * re vb i + im va i * im vb i))).sumInto (k + 1) sat
            (old' + sum (fun i => im va i * re vb i - re va i * im vb i)))))
  ∧ (∀ (c : Core) (long : Bool) (vd va vb : Reg5) (et : BitVec 2) (s : State), VecReady c long s →
      VecName long vd → VecName long va →
      let x := s.dyn.core c.val
      let w := if et = 0 then 8 else if et = 1 then 16 else 32
      let n := s.dyn.vecN c.val long et.toNat
      let old := x.vecReg long vd.toNat
      let e (v i : Nat) : Int := sx v (elemAt v (x.vecReg long va.toNat) i)
      let top : Int := 2 ^ (w / 2 - 1)
      let round (v : Int) (k : Nat) : Int := if k = 0 then v else (v + 2 ^ (k - 1)) / 2 ^ k
      ((et = 1 ∨ et = 2) → vb.toNat < w → ∀ clip : Bool,
        (clip = true ↔ ∃ i, i < n ∧ (round (e w i) vb.toNat < -top ∨ top - 1 < round (e w i) vb.toNat)) →
        VecGives (exec (.vnr c long vd va vb et 0 false) s) c long vd (w / 2) n (if long then old else 0) clip
          (fun i => max (-top) (min (top - 1) (round (e w i) vb.toNat))) s)
      ∧ ((et = 0 ∨ et = 1) →
        VecGives (exec (.vwid c long vd va 0 et 0 false) s) c long vd (2 * w)
          (s.dyn.vecN c.val long (et.toNat + 1)) old false (fun i => e w i) s))

/-- R229: VPERM writes element i with the element of VA that index b_i names, counted modulo the elements of
the whole register, whatever VL says; ET 3 reads the index from bits 15 to 0. VD may be VA or VB: every source
element is read from the registers as they were. -/
def Obligations.VectorPermute : Prop :=
  ∀ (c : Core) (long : Bool) (vd va vb : Reg5) (et : BitVec 2) (s : State), VecReady c long s →
    VecName long vd → VecName long va → VecName long vb →
    let x := s.dyn.core c.val
    let w := if et = 0 then 8 else if et = 1 then 16 else 32
    let index (i : Nat) : Nat := elemAt w (x.vecReg long vb.toNat) i % (if et = 3 then 65536 else 2 ^ w)
    VecGives (exec (.vperm c long vd va vb et 0 false) s) c long vd w (s.dyn.vecN c.val long et.toNat)
      (x.vecReg long vd.toNat) false
      (fun i => sx w (elemAt w (x.vecReg long va.toNat) (index i % (vecBits long / w)))) s

/-- R230, Table 8.7: moves between vector registers and D registers, and VSETVL, which needs VT at TASK and PLUGIN
(R215). -/
def Obligations.VectorMoves : Prop :=
  ∀ (c : Core) (long : Bool) (p q r : Reg5) (et : BitVec 2) (s : State), Ready c s →
    (s.dyn.core c.val).vec.vstart = 0 →
    let x := s.dyn.core c.val
    let w := if et = 0 then 8 else if et = 1 then 16 else 32
    let gives (i : Instr) (y : CoreSt) := Answers (exec i s) (Retires c y none s)
    let on (l : Bool) := vecEnabled s.dyn c.val l = true
    let idx := (s.dyn.rd c.val r).toNat % (vecBits long / w)
    let chunk := (s.dyn.rd c.val r).toNat % 8
    (on long → VecName long p →
      VecGives (exec (.vsplat c p q 0 long et 0) s) c long p w (s.dyn.vecN c.val long et.toNat)
        (x.vecReg long p.toNat) false (fun _ => (s.dyn.rd c.val q).toNat) s
      ∧ (∃ v, v < 2 ^ vecBits long ∧ gives (.vins c p q r long et 0) (x.withVec long p.toNat v)
        ∧ ∀ i, i < vecBits long / w → elemAt w v i =
            if i = idx then (s.dyn.rd c.val q).toNat % 2 ^ w else elemAt w (x.vecReg long p.toNat) i))
    ∧ (on long → VecName long q →
      gives (.vext c p q r long et 0)
        (x.withD p (BitVec.ofInt 32 (sx w (elemAt w (x.vecReg long q.toNat) idx)))))
    ∧ (on false → on true → p.toNat < 8 →
      ∃ v, v < 2 ^ 2048 ∧ gives (.vqtov c p q r long et 0) (x.withVec true p.toNat v)
        ∧ ∀ i, i < 8 → elemAt 256 v i =
            if i = chunk then x.vecReg false q.toNat else elemAt 256 (x.vecReg true p.toNat) i)
    ∧ (on false → on true → q.toNat < 8 →
      gives (.vvtoq c p q r long et 0) (x.withVec false p.toNat (elemAt 256 (x.vecReg true q.toNat) chunk)))
    ∧ ((s.dyn.status c.val).pl = .exec ∨ x.vec.enable.getLsbD 1 = true →
      let m := min (s.dyn.rd c.val q).toNat 256
      gives (.vsetvl c p q 0 false 0 0)
        ({ x with vec := { x.vec with vl := m } }.withD p (BitVec.ofNat 32 m)))

/-- R213, R217 to R221: a vector load or store whose every element from VSTART is allowed and answered
moves those elements, clears VSTART and moves its pointer; with n = 0 it moves only the pointer, by a step
of 0 (that it then completes with VSTART 0, where R223 raises VSTART_FAULT from VSTART n on, is the model's reading,
log 98). A load whose part fails on a core without a task leaves VSTART at the first element of that part and
raises DATA_ERROR there. -/
def Obligations.VectorLoadsAndStores : Prop :=
  ∀ (c : Core) (long : Bool) (vr : Reg5) (pn mn : BitVec 4) (am et : BitVec 2) (u : Bool) (s : State),
    Ready c s → VecName long vr → am ≠ 3 → vecEnabled s.dyn c.val long = true →
    let k := c.val
    let d0 := s.issue c
    let w := if et = 0 then 8 else if et = 1 then 16 else 32
    let n := d0.vecN k long et.toNat
    let i := (d0.core k).vec.vstart
    let a := (d0.rp k pn.toNat).toNat
    let st := d0.status k
    let ld := exec (if long then .vldV c vr pn am et u mn 0 else .vldQ c vr pn am et u mn 0) s
    let sto := exec (if long then .vstV c vr pn am et u mn 0 else .vstQ c vr pn am et u mn 0) s
    let clear (d : Dyn) : Dyn := d.onVec k (fun v => { v with vstart := 0 })
    let circ (d : Dyn) : Dyn := countOutside d k (decide (am ≠ 0) && d0.circOutside k pn.toNat a (n * w / 8))
    let step : Int := if am = 1 then n * w / 8 else (d0.rm k mn.toNat).toInt
    let ends (d : Dyn) : Dyn := retire (if am = 0 then clear (circ d)
      else (clear (circ d)).postMod k pn.toNat step) k 5 st.pl st.inrep none
    let fits := i < n ∧ (u = true ∨ a % 32 = 0) ∧ firstDenied d0 k a w n i = n
    (n = 0 → i = 0 → let d := if am = 0 then d0 else d0.postMod k pn.toNat 0
      Becomes ld s (retire d k 5 st.pl st.inrep none) ∧ Becomes sto s (retire d k 5 st.pl st.inrep none))
    ∧ (fits → let l := loadElems s.img k long vr.toNat w d0 a i n
      (l.2 = none → Becomes ld s (ends l.1))
      ∧ (∀ j status, l.2 = some (j, status) → status ≠ parityStatus → (l.1.core k).tsk.task = none →
          Becomes ld s (syncException (l.1.onVec k (fun v => { v with vstart := j })) k
            (excData (4 * status) (BitVec.ofNat 48 ((a + j * (w / 8)) % 2 ^ 48))))))
    ∧ (fits → Becomes sto s (ends (storeElems s.img k long vr.toNat w d0 a i n).1))

/-- R215, R223: a vector instruction with its fields legal raises COPROC when a file that it works on is not
enabled, VSETVL when VT is not, at TASK and PLUGIN; a VSTART that is not zero raises VSTART_FAULT in every other
instruction than a load or store, where it does so from element n on. That COPROC comes before VSTART_FAULT, and
ILLEGAL before both, is the model's reading (log 20). -/
def Obligations.VectorChecks : Prop :=
  ∀ (i : Instr) (c : Core) (s : State), onCore i = some c → badFields i = false → Ready c s →
    let start := (s.dyn.core c.val).vec.vstart
    let enabled := ∀ l ∈ vecFiles i, vecEnabled s.dyn c.val l = true
    let vt := (s.dyn.status c.val).pl = .exec ∨ (s.dyn.core c.val).vec.enable.getLsbD 1 = true
    (¬ enabled → Raises (exec i s) c (excCoproc 0) s)
    ∧ (enabled → vecFiles i ≠ [] → vecMoves i = false → start ≠ 0 → Raises (exec i s) c excVstart s)
    ∧ (∀ p q, i = .vsetvl c p q 0 false 0 0 → (¬ vt → Raises (exec i s) c (excCoproc 0) s)
        ∧ (vt → start ≠ 0 → Raises (exec i s) c excVstart s))
    ∧ (∀ v pn am et u mn, enabled → start ≠ 0 →
        (i = .vldQ c v pn am et u mn 0 ∨ i = .vstQ c v pn am et u mn 0 → s.dyn.vecN c.val false et.toNat ≤ start →
          Raises (exec i s) c excVstart s)
        ∧ (i = .vldV c v pn am et u mn 0 ∨ i = .vstV c v pn am et u mn 0 → s.dyn.vecN c.val true et.toNat ≤ start →
          Raises (exec i s) c excVstart s))

/-! ### The coprocessor port and Pewter (09) -/

/-- R234 to R241, R253: PCMD queues a valid command under a free tag, PRES takes a tag's result or says it
is not there yet, PSYNC waits for an empty queue, CPSAVE and CPREST move the 4 KiB context. A queue that is
full, or not yet empty, leaves the core at the instruction.

R234: below EXEC, a port that is not enabled raises COPROC with DETAIL 1. -/
def Obligations.PortInstructions : Prop :=
  (∀ (c : Core) (rd qs pn : Reg5) (tag : BitVec 6) (wait : Bool) (s : State), Ready c s →
      portEnabled s.dyn c.val = true →
      let x := s.dyn.core c.val
      let st := s.dyn.status c.val
      let bytes := leBytes 32 (Map.get 0 x.vec.q qs.toNat).toNat
      let p := parsePCmd bytes
      let inUse := x.port.busy.contains tag.toNat = true ∨ ∃ r, (tag.toNat, r) ∈ x.port.results
      let gives (i : Instr) (y : CoreSt) := Answers (exec i s) (Retires c y none s)
      (inUse → Raises (exec (.pcmd c qs tag 0) s) c excTagBusy s)
      ∧ (¬ inUse → ∀ off, pcmdFault p = some off → Raises (exec (.pcmd c qs tag 0) s) c (excPcmdInvalid off) s)
      ∧ (¬ inUse → pcmdFault p = none →
          (∀ area ∈ pcmdAreas p, areaDenied s.dyn c.val area = none ∧ (area.2.2 = true → area.1 % 4 = 0)) →
          (x.port.queue.length < 16 → gives (.pcmd c qs tag 0) { x with port := { x.port with
            queue := x.port.queue ++ [{ bytes, tag := tag.toNat }], busy := tag.toNat :: x.port.busy } })
          ∧ (16 ≤ x.port.queue.length → Becomes (exec (.pcmd c qs tag 0) s) s (s.issue c)))
      ∧ (∀ k w, x.port.results.find? (fun e => e.1 == tag.toNat) = some (k, w) →
          gives (.pres c rd tag wait 0)
            ({ x with port := { x.port with results := Map.del x.port.results tag.toNat } }.withD rd w))
      ∧ ((∀ r, (tag.toNat, r) ∉ x.port.results) →
          (x.port.busy.contains tag.toNat = false → Raises (exec (.pres c rd tag wait 0) s) c excTagIdle s)
          ∧ (x.port.busy.contains tag.toNat = true →
              Becomes (exec (.pres c rd tag true 0) s) s (s.issue c)
              ∧ gives (.pres c rd tag false 0) (x.withD rd 0xFFFFFFFF)))
      ∧ (x.port.queue = [] → gives (.psync c 0) x)
      ∧ (x.port.queue ≠ [] → Becomes (exec (.psync c 0) s) s (s.issue c))
      ∧ (st.pl = .plugin → pn.toNat < 16 → Raises (exec (.cpsave c pn 0) s) c excPrivilege s
          ∧ Raises (exec (.cprest c pn 0) s) c excPrivilege s)
      ∧ (let a := (s.dyn.rp c.val pn.toNat).toNat
        st.pl ≠ .plugin → pn.toNat < 16 → a + 4096 ≤ 0x00E000000000 → a % 4096 = 0 → x.port.queue = [] →
        Becomes (exec (.cpsave c pn 0) s) s (retire (blockStore s.img c.val a (contextBytes x.port)
          (fun d q data => feedSig d c.val q data) (sampleAccess (s.issue c) c.val a)) c.val 6 st.pl st.inrep none)
        ∧ (∀ d l, engineArea s.img c.val a 4096 (sampleAccess (s.issue c) c.val a) = (d, some l) →
          (fld l 0 4 = 0x58435750 → fld l 4 2 = 1 → Becomes (exec (.cprest c pn 0) s) s
            (retire (d.onPort c.val (fun q => restorePort q l)) c.val 6 st.pl st.inrep none))
          ∧ (fld l 0 4 ≠ 0x58435750 ∨ fld l 4 2 ≠ 1 → Becomes (exec (.cprest c pn 0) s) s
            (syncException d c.val excContext)))))
  ∧ (∀ (c : Core) (rd qs : Reg5) (tag : BitVec 6) (wait : Bool) (s : State), Ready c s →
      let pl := (s.dyn.status c.val).pl
      let en := (s.dyn.core c.val).port.enable
      ((pl = .task ∧ en.toNat % 2 = 0) ∨ (pl = .plugin ∧ en.toNat / 2 % 2 = 0)) →
      Raises (exec (.pcmd c qs tag 0) s) c (excCoproc 1) s
      ∧ Raises (exec (.pres c rd tag wait 0) s) c (excCoproc 1) s
      ∧ Raises (exec (.psync c 0) s) c (excCoproc 1) s)

/-- R233, R239, R244 to R250: the engine of a tile performs the head command of the core it serves next;
the command leaves the queue and its result waits under its tag, with STATUS ERROR when an access of the
command failed.

R244 to R247: a command whose operands and result are workspace registers changes, of its core, the
port alone, of the workspace, the destination register alone, and of the rest of the machine only which core
was served and the counters; where it was the last that a TCOMMIT of an ended task waited for, that TCOMMIT is
answered too (R194), which this clause leaves out. -/
def Obligations.PewterCommands : Prop :=
  (∀ (t : Fin 48) (s : State) (c : Nat) (cmd : PewterCmd) (rest : List PewterCmd), islandUp s.dyn = true →
      s.dyn.powered (0x0200 + t.val) = true → nextServed s.dyn t.val = some c →
      (s.dyn.core c).port.queue = cmd :: rest →
      let p := parsePCmd cmd.bytes
      let does (i : Instr) (op : Nat) (r : Dyn × Option Word) := p.op = op →
        Becomes (exec i s) s (pewterDone r.1 t.val c cmd (r.2.getD (resultWord 0 0 0 2)))
      does (.pewterLoad t) 1 (doLoad s.img s.dyn c p) ∧ does (.pewterStore t) 2 (doStore s.img s.dyn c p)
      ∧ does (.pewterMul t) 3 (doMul s.img s.dyn c p) ∧ does (.chol t) 4 (doChol s.img s.dyn c p)
      ∧ does (.trsm t) 5 (doTrsm s.img s.dyn c p) ∧ does (.qr t) 6 (doQr s.img s.dyn c p)
      ∧ does (.demap t) 7 (doDemap s.img s.dyn c p))
  ∧ (∀ (t : Fin 48) (s : State) (c : Nat) (cmd : PewterCmd) (rest : List PewterCmd), islandUp s.dyn = true →
      s.dyn.powered (0x0200 + t.val) = true → nextServed s.dyn t.val = some c →
      (s.dyn.core c).port.queue = cmd :: rest →
      let p := parsePCmd cmd.bytes
      let x := s.dyn.core c
      let keeps (i : Instr) : Prop := ∃ u, exec i s = .next u ∧ u.img = s.img ∧ u.pending = s.pending
        ∧ { u.dyn with cores := s.dyn.cores, perf := s.dyn.perf, free := s.dyn.free, tiles := s.dyn.tiles } = s.dyn
        ∧ (∀ k, k ≠ c → u.dyn.core k = s.dyn.core k)
        ∧ { u.dyn.core c with port := x.port } = x
        ∧ (u.dyn.core c).port.queue = rest ∧ (u.dyn.core c).port.enable = x.port.enable
        ∧ (∀ k, k ≠ cmd.tag → Map.get 0 (u.dyn.core c).port.results k = Map.get 0 x.port.results k)
        ∧ (∀ k, k ≠ p.dst → u.dyn.pw c k = s.dyn.pw c k)
      p.dst ≠ 3 → x.tsk.commit = none ∨ taskLive s.dyn c = true ∨ rest ≠ [] →
      (p.op = 3 → p.srcA ≠ 3 → p.srcB ≠ 3 → keeps (.pewterMul t)) ∧ (p.op = 4 → keeps (.chol t))
      ∧ (p.op = 5 → keeps (.trsm t)))

/-- R242: what is written to a workspace register has 256 mantissa pairs, none beyond 32,767, and zero has
the exponent 0; a matrix whose components fit already is kept exactly, with its unit for the exponent. -/
def Obligations.WorkspaceFormat : Prop :=
  ∀ m : CMat,
    let w := m.normalise
    w.1.re.length = 256 ∧ w.1.im.length = 256
    ∧ (∀ x, x ∈ w.1.re ∨ x ∈ w.1.im → -32767 ≤ x ∧ x ≤ 32767)
    ∧ ((∀ x ∈ m.comps, x = 0) → w.1.exp = 0 ∧ w.2 = 0)
    ∧ ((∃ x ∈ m.comps, x ≠ 0) → (∀ x ∈ m.comps, -32767 ≤ x ∧ x ≤ 32767) → -143 ≤ m.unit → m.unit ≤ 112 →
        w.1.exp = m.unit + 15 ∧ w.2 = 0
        ∧ ∀ k, k < 256 → w.1.re.getD k 0 = (Map.get Cx.zero m.els k).re
            ∧ w.1.im.getD k 0 = (Map.get Cx.zero m.els k).im)

/-! ### The dispatcher (05, 06) -/

/-- R157 to R160, R168, R170: the command at the head of TASK_CMD's queue. A POST of a FREE entry whose
descriptor names no handle and no condition makes it READY with an empty completion record; a command for
an entry in the wrong state is reported, or for CANCEL counted. A halted dispatcher does nothing. -/
def Obligations.TaskCommands : Prop :=
  ∀ (n : BitVec 15) (s : State) (q : TaskCmd) (rest : List TaskCmd), islandUp s.dyn = true →
    s.dyn.disp.cmdQ = q :: rest → q.task = n.toNat →
    let k := n.toNat
    let d : Dyn := { s.dyn with disp := { s.dyn.disp with cmdQ := rest } }
    let t := s.dyn.task k
    let ends (i : Instr) (op : Nat) (d' : Dyn) : Prop := q.op = op → s.dyn.disp.halted = false →
      Becomes (exec i s) s (nextStep d')
    (s.dyn.disp.halted = true → Becomes (exec (.post n) s) s s.dyn ∧ Becomes (exec (.cancel n) s) s s.dyn
      ∧ Becomes (exec (.free n) s) s s.dyn)
    ∧ (∀ base d', t.state = .free → taskTable s.img = some base → postTask s.img d k base = some d' →
        ends (.post n) 1 d')
    ∧ (t.state ≠ .free → ends (.post n) 1 (writeRefused d 0x0800))
    ∧ (∀ base, t.state = .free → taskTable s.img = some base →
        let m := memLoad s.img d dispSender (base + 64 * k) 64
        let w := parseTask m.2.data
        let d' := writeComp s.img m.1 k (zeros 32)
        m.2.status < 2 → fld m.2.data 4 2 = 0 → fld m.2.data 6 2 = 0 → descBad m.2.data w = false →
        (w.lockstep = true → w.cls = 0) → w.condTask = none → linksUsed m.1 ≤ 131072 →
        ends (.post n) 1 (d'.setTask k { w with state := .ready, enterStep := d'.disp.step, readySince := d'.dispNow }))
    ∧ (t.state = .waiting ∨ t.state = .ready → ends (.cancel n) 2 (finishTask s.img d k 5 []))
    ∧ (t.state = .running → ends (.cancel n) 2
        (leaveUnits s.img t (runsOn d k) (finishTask s.img (unpin s.img (endOnUnits d k 0x0800 3 0) k) k 6 [])))
    ∧ (t.state = .free ∨ t.state = .done → ends (.cancel n) 2
        { d with disp := { d.disp with stray := min 1023 (d.disp.stray + 1) } })
    ∧ (t.state = .done → ends (.free n) 3 (d.setTask k { t with state := .free }))
    ∧ (t.state ≠ .done → ends (.free n) 3 (writeRefused d 0x0800))

/-- R160 to R162, R167, R169, R171: a propagated cancel, the walk of a handle that became final, and an arbiter
step of a class each take one step of the arbiter's counter at least; the walk readies every task whose last
awaited input it satisfied; and at a slot boundary the late tasks are found. (That a boundary's walk, of four tasks
a step in R167, is one step is the model's choice, log 126, and so is a handle's whole walk in one, log 99.)

R160: the walk of a handle that one waiting task awaits, and that is now final at the awaited
generation. -/
def Obligations.ArbiterSteps : Prop :=
  (∀ (s : State), islandUp s.dyn = true → s.dyn.disp.halted = false →
      (∀ n rest, s.dyn.disp.cascades = n :: rest → Becomes (exec .cascade s) s
        (nextStep (cancelTask s.img { s.dyn with disp := { s.dyn.disp with cascades := rest } } n false)))
      ∧ (∀ h rest, s.dyn.disp.walks = h :: rest → Becomes (exec .handleWalk s) s
          (walkHandle s.img { s.dyn with disp := { s.dyn.disp with walks := rest } } h))
      ∧ (∀ cls : Fin 7, Becomes (exec (.dispatch cls) s) s
          (nextStep (arbitrate s.img (readyList s.dyn cls.val) true s.dyn)))
      ∧ (let tb := gridBefore s.img (boundaryPeriod s.img) s.dyn.now
        (s.dyn.time.boundary = some tb → Becomes (exec .slotBoundary s) s s.dyn)
        ∧ (s.dyn.time.boundary ≠ some tb → Becomes (exec .slotBoundary s) s
            (nextStep (slotBoundary s.img tb (s.dyn.onTime (fun t => { t with boundary := some tb })))))))
  ∧ (∀ (s : State) (h n : Nat) (rest : List Nat) (w : HEntry), islandUp s.dyn = true →
      s.dyn.disp.halted = false → s.dyn.disp.walks = h :: rest →
      let t := s.dyn.task n
      s.dyn.disp.tasks = [(n, t)] → t.state = .waiting → t.gated = false → t.awaited = [w] → w.handle = h →
      isFinal (handleOf s.img s.dyn h).state = true → (w.mode = 1 ∨ w.gen = (handleOf s.img s.dyn h).gen) →
      Answers (exec .handleWalk s) (fun u =>
        u.dyn.task n = { t with awaited := [], state := .ready, enterStep := s.dyn.disp.step, readySince := s.dyn.dispNow }
        ∧ u.dyn.disp.walks = rest ∧ u.dyn.disp.step = s.dyn.disp.step + 1 ∧ u.dyn.disp.handles = s.dyn.disp.handles
        ∧ u.dyn.mem = s.dyn.mem ∧ u.dyn.cores = s.dyn.cores ∧ u.dyn.units = s.dyn.units))

/-- R129, R193: the first task of the core class, with no handles to take, goes to the core that the
arbiter picks: it is RUNNING there, the core's TWAIT completes with the task's registers, and no other core
and no byte of memory changes.

R130, R131, R140, R166, R194: a completion signal commits the task's outputs and frees its unit; a core's TCOMMIT
signals none while its coprocessor queue holds commands. One that comes after the deadline raises 0x0801 instead, and a detection already raised by the unit goes
first. -/
def Obligations.DispatchSteps : Prop :=
  (∀ (s : State) (n u : Nat) (rest : List Nat), islandUp s.dyn = true → s.dyn.disp.halted = false →
      readyList s.dyn 0 = n :: rest →
      let t := s.dyn.task n
      t.state = .ready → t.cls = 0 → t.lockstep = false → t.inputs = [] → t.outputs = [] →
      pickUnit s.dyn n = some u → s.dyn.dispNow + t.est ≤ t.deadline →
      let c := u - 0x0100
      Answers (exec (.dispatch 0) s) (fun v =>
        v.dyn.rd c 28 = BitVec.ofNat 32 t.arg ∧ v.dyn.rd c 29 = BitVec.ofNat 32 (t.arg / 2 ^ 32)
        ∧ v.dyn.rd c 30 = BitVec.ofNat 32 n ∧ v.dyn.rd c 31 = BitVec.ofNat 32 (t.attempts + 1)
        ∧ v.dyn.rp c 14 = BitVec.ofNat 48 t.work
        ∧ (v.dyn.status c).task = true ∧ (v.dyn.status c).shadow = false
        ∧ (v.dyn.core c).tsk.task = some n ∧ (v.dyn.core c).tsk.waiting = false
        ∧ v.dyn.task n = { t with
            state := .running
            attempts := t.attempts + 1
            units := t.units ++ [u]
            unit := u
            shadow := none
            dispatchTick := s.dyn.dispNow }
        ∧ (∀ m, m ≠ n → v.dyn.task m = s.dyn.task m)
        ∧ (∀ k, k ≠ c → v.dyn.core k = s.dyn.core k) ∧ v.dyn.mem = s.dyn.mem ∧ v.dyn.disp.handles = s.dyn.disp.handles))
  ∧ (∀ (u : Half) (s : State) (n : Nat), islandUp s.dyn = true → s.dyn.disp.halted = false →
      taskOn s.dyn u.toNat = some n →
      let t := s.dyn.task n
      let d := s.dyn
      let acts (d' : Dyn) := Becomes (exec (.taskCommit u) s) s (nextStep d')
      (∀ r, pendingDetect d n = some r →
        acts (detection s.img (dropDetect d r) r.unit r.cond r.addr.toNat r.extra.toNat))
      ∧ (pendingDetect d n = none →
        (∀ k, 0x0100 ≤ u.toNat → u.toNat < 0x0200 → t.unit = u.toNat → t.shadow = none →
          let c := u.toNat - 0x0100
          (d.core c).tsk.commit = some k →
          ((d.core c).port.queue ≠ [] → acts d)
          ∧ ((d.core c).port.queue = [] → t.deadline < d.dispNow → acts (taskCondition s.img d n 0x0800 0x0800 0x0801 0 0 2 []))
          ∧ ((d.core c).port.queue = [] → d.dispNow ≤ t.deadline →
              acts (answerCommit (endBusy (commitTask s.img d n k.final [] k.result) c) c 0)))
        ∧ (∀ r, 0x0300 ≤ u.toNat → (d.unit u.toNat).finished = some r → r.invalid = none →
          (t.deadline < d.dispNow → acts (taskCondition s.img d n 0x0800 0x0800 0x0801 0 0 2 []))
          ∧ (d.dispNow ≤ t.deadline → r.mask = none →
            acts (writeHeaders s.img u.toNat r.headers
              (releaseUnit (commitTask s.img d n r.final r.keep r.result) u.toNat))))))

/-- R131, R132, R145: a task detector's event and a unit condition are taken out of what waits and acted
on; one that a detector cannot raise changes nothing.

R144, R154: a SET_GPIO drive ends at its time, and a dispatcher that halts says so once and accepts
nothing more. -/
def Obligations.Detections : Prop :=
  (∀ (u cond : Half) (addr : Addr) (extra : Word) (s : State), islandUp s.dyn = true →
      let r : Raised := { unit := u.toNat, cond := cond.toNat, addr, extra }
      let unitConds : List Nat := [0x0311, 0x0611, 0x0711, 0x0712, 0x0A01]
      (s.dyn.disp.halted = false → cond.toNat ∉ unitConds → allowedActions cond.toNat ≠ [] →
        Becomes (exec (.taskDetection u cond addr extra) s) s
          (nextStep (detection s.img (markParity (dropDetect s.dyn r) u.toNat cond.toNat addr.toNat) u.toNat
            cond.toNat addr.toNat extra.toNat)))
      ∧ (cond.toNat ∈ unitConds → Becomes (exec (.taskDetection u cond addr extra) s) s s.dyn
        ∧ Becomes (exec (.unitCondition u cond addr extra) s) s
            (nextStep (unitCondition s.img { s.dyn with disp := { s.dyn.disp with
              unitConds := dropFirst (· == r) s.dyn.disp.unitConds } } u.toNat cond.toNat addr.toNat extra.toNat)))
      ∧ (s.dyn.disp.orders = [] → cond = 0x0712 →
        Becomes (exec (.unitCondition u cond addr extra) s) s
          (nextStep (condReport { s.dyn with disp := { s.dyn.disp with
              unitConds := dropFirst (· == r) s.dyn.disp.unitConds } } u.toNat 7 0x0712 none 0 addr.toNat 0xFFFF
            extra.toNat false))))
  ∧ (∀ (pin : Fin 32) (s : State), islandUp s.dyn = true →
      (∀ until_ level, (Map.get PinSt.reset s.dyn.gpio pin.val).order = some (until_, level) → until_ ≠ 0 →
        until_ ≤ s.dyn.now → Becomes (exec (.setGpioExpiry pin) s) s (gpioExpiry s.dyn pin.val)
          ∧ (Map.get PinSt.reset (gpioExpiry s.dyn pin.val).gpio pin.val).order = none)
      ∧ (s.dyn.disp.halted = false → Becomes (exec .dispatcherHalted s) s
          (event { s.dyn with disp := { s.dyn.disp with halted := true } } 0x0800 7 0x0881 []))
      ∧ (s.dyn.disp.halted = true → Becomes (exec .dispatcherHalted s) s s.dyn))

/-! ### Engine jobs and cipher locks (03, 04, 15) -/

/-- R87, R118, R379: an engine with a dispatched job of the command's KIND runs it from start to end; what
it answers waits at the engine for the completion signal, or its condition is raised. A job of no KIND of the
class is INVALID at offset 0. -/
def Obligations.EngineJobs : Prop :=
  ∀ (s : State) (n : Nat) (d : Dyn) (blk : List Byte), islandUp s.dyn = true →
    let idle (u : Nat) := (s.dyn.unit u).running = some n ∧ (s.dyn.unit u).finished = none
      ∧ pendingDetect s.dyn n = none
      ∧ readPackets s.img (engineSender u) (packetsOf (s.dyn.task n).work 64) [] s.dyn = (d, .inl blk)
    let job (u : Nat) : Job := { unit := u, task := n, base := (s.dyn.task n).work, blk }
    let runs (i : Instr) (u kind : Nat) (f : Img → Job → Dyn → Dyn × JobEnd) : Prop := idle u →
      (fld blk 0 1 = kind → Becomes (exec i s) s (endJob s.img (job u) (f s.img (job u) d)))
      ∧ (fld blk 0 1 = 0 → Becomes (exec i s) s (endJob s.img (job u) (d, .invalid (job u).base 0)))
    (∀ e : Fin 32, runs (.ulSymbol e) (0x0300 + e.val) 0x01 ulJob ∧ runs (.dlSymbol e) (0x0300 + e.val) 0x02 dlJob
      ∧ runs (.prachFe e) (0x0300 + e.val) 0x03 feJob ∧ runs (.prachDet e) (0x0300 + e.val) 0x04 detJob
      ∧ runs (.weight e) (0x0320 + e.val) 0x11 weightJob ∧ runs (.map e) (0x0320 + e.val) 0x12 mapJob)
    ∧ (∀ e : Fin 48,
        runs (.ldpcDec e) (0x0400 + e.val) 0x21 (fun img j d => decodeJob img j false (ldpcPlan j) d)
        ∧ runs (.ldpcEnc e) (0x0400 + e.val) 0x22 (fun img j d => encodeJob img j false (ldpcEncPlan j) d)
        ∧ runs (.tbCrc e) (0x0400 + e.val) 0x27 tbCrcJob)
    ∧ (∀ e : Fin 8,
        runs (.turboDec e) (0x0430 + e.val) 0x23 (fun img j d => decodeJob img j true (turboPlan j) d)
        ∧ runs (.turboEnc e) (0x0430 + e.val) 0x24 (fun img j d => encodeJob img j true (turboEncPlan j) d)
        ∧ runs (.polarDec e) (0x0438 + e.val) 0x25 polarDecJob
        ∧ runs (.polarEnc e) (0x0438 + e.val) 0x26 polarEncJob
        ∧ ((s.dyn.cipherEng e.val).direct = none → (s.dyn.cipherEng e.val).owner = 0 →
            (s.dyn.cipherEng e.val).susp = none → (s.dyn.cipherEng e.val).resumed = none →
            runs (.gcmEnc e) (0x0900 + e.val) 0x31 (gcmJob e.val)
            ∧ runs (.gcmDec e) (0x0900 + e.val) 0x32 (gcmJob e.val)))

/-- R375, R379: a message that GCM_ENC produced passes GCM_DEC under the same key, slot, IV and AAD, and
gives the text back. -/
def Obligations.CipherRoundTrip : Prop :=
  ∀ (m : Msg) (key : Nat) (aad text : List Byte), text.length = m.length →
    let gs (data : List Byte) : List Got :=
      (if m.aad = 0xFFFF then [] else [{ state := 2, data := aad }]) ++ [{ state := 2, data }]
    let enc := runMsg { m with kind := 0x31 } key MsgCtx.start (gs text)
    enc.status = 0 ∧ enc.final = 2 ∧ enc.out.length = m.length + 16
    ∧ runMsg { m with kind := 0x32 } key MsgCtx.start (gs enc.out)
        = { status := 0, final := 2, bytes := m.length, at_ := 0, out := text }

/-- R382 to R385: the lock of a cipher engine. The supervisor or a core at EXEC acquires a free lock, which
is granted when the engine holds no dispatched job; only its owner releases it or starts a direct job, and
any other attempt is refused with a report. -/
def Obligations.CipherLocks : Prop :=
  ∀ (m : Master) (e : Fin 8) (blocks : Nat) (v : Word) (s : State), islandUp s.dyn = true →
    let c := s.dyn.cipherEng e.val
    let may := m = .supervisor ∨ ∃ k, m = .core k .exec
    let refused := writeRefused s.dyn (0x0900 + e.val)
    let set (f : CipherSt → CipherSt) := s.dyn.onCipher e.val f
    (¬ may → Becomes (exec (.acquire m e) s) s refused ∧ Becomes (exec (.acquireUrgent m e blocks) s) s refused
      ∧ Becomes (exec (.release m e) s) s refused)
    ∧ (may → c.owner ≠ 0 → Becomes (exec (.acquire m e) s) s s.dyn
        ∧ Becomes (exec (.acquireUrgent m e blocks) s) s s.dyn)
    ∧ (may → c.owner = 0 →
        Becomes (exec (.acquire m e) s) s (set (fun x => { x with owner := m.source, pending := true, urgent := false }))
        ∧ ((s.dyn.unit (0x0900 + e.val)).running = none → Becomes (exec (.acquireUrgent m e blocks) s) s
            (set (fun x => { x with owner := m.source, pending := true, urgent := true }))))
    ∧ (may → c.owner = m.source → c.susp = none → Becomes (exec (.release m e) s) s
        (set (fun x => { x with owner := 0, pending := false, urgent := false })))
    ∧ (c.owner ≠ m.source → Becomes (exec (.release m e) s) s refused ∧ Becomes (exec (.cipherGo m e v) s) s refused)
    ∧ (c.pending = true → (s.dyn.unit (0x0900 + e.val)).running = none →
        Becomes (exec (.lockGrant e) s) s (set (fun x => { x with pending := false })))
    ∧ (c.pending = false → Becomes (exec (.lockGrant e) s) s s.dyn)
    ∧ (m = .management → Becomes (exec (.cipherGo m e v) s) s refused)
    ∧ (∀ d blk, m ≠ .management → c.owner ≠ 0 → c.owner = m.source → c.pending = false → c.direct = none →
        let addr := v.toNat / 64 % 2 ^ 22 * 64
        readPackets s.img (engineSender (0x0900 + e.val)) (packetsOf addr 64) [] s.dyn = (d, .inl blk) →
        let x := parseMsg blk
        msgBad x (d.key x.slot) (directBad s.img d false) (directBad s.img d true) = none →
        Becomes (exec (.cipherGo m e v) s) s
          ((setHandle s.img ((directInputs blk).foldl (incReaders s.img) d) x.out
            (fun h => { h with state := 1 })).onCipher e.val
              (fun y => { y with direct := some (addr, blk) })))

/-! ### Tether lanes (10) -/

/-- R281, R282: RETRAIN, QUIET and WAKE by the lane's state, with no QUIET waiting. Other masters than a core
at EXEC, the supervisor and management, a lane without a record, and QUIET of lane 64 are refused. -/
def Obligations.LaneCommands : Prop :=
  ∀ (m : Master) (l : Lane) (s : State), islandUp s.dyn = true →
    let n := l.val
    let t := (s.dyn.lane n).teth
    let refused (i : Instr) := Becomes (exec i s) s (writeRefused s.dyn (0x0500 + n))
    let does (i : Instr) (d : Dyn) := Becomes (exec i s) s d
    ((m.isExecOrHost = false ∨ laneRecord s.img n = none) →
      refused (.retrain m l) ∧ refused (.quiet m l) ∧ refused (.wake m l))
    ∧ (n = 64 → refused (.quiet m l))
    ∧ (m.isExecOrHost = true → laneRecord s.img n ≠ none → t.pendQuiet = false →
      (t.state = 0 → does (.retrain m l) s.dyn ∧ does (.wake m l) s.dyn ∧ (n ≠ 64 → does (.quiet m l) s.dyn))
      ∧ (t.state ≠ 0 → does (.retrain m l) (startAttempt s.img
          (s.dyn.onTeth n (fun x => { x with tries := 0 })) n false))
      ∧ (t.state = 1 → does (.wake m l) (startAttempt s.img
          (s.dyn.onTeth n (fun x => { x with tries := 0 })) n t.kept))
      ∧ (t.state ≠ 1 → does (.wake m l) s.dyn)
      ∧ (n ≠ 64 →
        (2 ≤ t.state → t.state ≤ 5 → does (.quiet m l) (s.dyn.onTeth n (fun x => { x with pendQuiet := true })))
        ∧ (t.state = 6 → t.quietLeft = none → does (.quiet m l)
            (s.dyn.onTeth n (fun x => { x with quietLeft := some 16, pendQuiet := false })))
        ∧ (t.state = 6 → t.quietLeft ≠ none → does (.quiet m l) s.dyn)
        ∧ (t.state = 7 → does (.quiet m l) (s.dyn.onTeth n (fun x => { x with state := 1, tries := 0 })))
        ∧ (t.state = 1 → does (.quiet m l) s.dyn)))

/-- R269, R272, R274, R276, R295: where an attempt starts on a lane whose receiver holds no open container, the
lane is in SILENCE without lock and no container waits for it; where none waited, nothing but that lane changes.

R268: the echo windows that a lane places are eight, lie at 128 to 2,528, do not overlap, and the first
has the greatest energy of all, the lowest start on a tie.

R272: a failed attempt reports its reason and starts again, until TRIES are used up or the reason is a
remote fault, when the lane is FAILED; and a signal where the partner must be silent fails an attempt in
SILENCE and LEAD_ALONE, is a violation in QUIET and FAILED (log 124), and nothing elsewhere. -/
def Obligations.TrainingAttempts : Prop :=
  (∀ (img : Img) (d : Dyn) (n : Nat) (fast : Bool),
      let x := d.lane n
      let y := (startAttempt img d n fast).lane n
      x.teth.lock ≠ 2 ∨ x.bridle.opened = [] →
      y.teth.state = 2 ∧ y.teth.lock = 0 ∧ y.teth.fast = fast ∧ y.teth.go = false ∧ y.teth.decided = false
      ∧ y.teth.bothAt = none ∧ y.teth.phaseFrames = 0 ∧ y.teth.phaseAt = d.now256 ∧ y.teth.sending = false
      ∧ y.teth.quietLeft = none ∧ y.teth.main = none ∧ y.teth.shadow = none
      ∧ y.teth.badRun = 0 ∧ y.teth.askSince = none ∧ y.teth.partnerAsk = false ∧ y.bridle.dlq = []
      ∧ (x.bridle.dlq = [] → y.teth.huntSince = x.teth.frames ∧ y.teth.frozen = x.teth.frozen
      ∧ y.teth.partnerGood = x.teth.partnerGood ∧ y.teth.partnerLock = x.teth.partnerLock
      ∧ y.teth.tries = x.teth.tries ∧ y.teth.windows = x.teth.windows ∧ y.teth.frames = x.teth.frames
      ∧ y.teth.txSeq = x.teth.txSeq ∧ y.teth.losses = x.teth.losses
      ∧ y.bridle = x.bridle ∧ y.link = x.link ∧ y.rx = x.rx ∧ y.protoViol = x.protoViol
      ∧ (∀ k, k ≠ n → (startAttempt img d n fast).lane k = d.lane k)
      ∧ { startAttempt img d n fast with lanes := d.lanes } = d))
  ∧ (∀ energy : List Nat,
      let w := placeWindows energy
      w.length = 8 ∧ (∀ x ∈ w, 128 ≤ x ∧ x ≤ 2528)
      ∧ (∀ i j, i < j → j < 8 → w.getD i 0 + 32 ≤ w.getD j 0 ∨ w.getD j 0 + 32 ≤ w.getD i 0)
      ∧ (∀ x, 128 ≤ x → x ≤ 2528 →
          windowEnergy energy x ≤ windowEnergy energy (w.getD 0 0)
          ∧ (x < w.getD 0 0 → windowEnergy energy x < windowEnergy energy (w.getD 0 0))))
  ∧ (∀ (l : Lane) (s : State), islandUp s.dyn = true → pinsTaken s.dyn = false →
      let n := l.val
      let st := (s.dyn.lane n).teth.state
      (st = 2 ∨ st = 3 → Becomes (exec (.signalInSilence l) s) s (failAttempt s.img (violation s.dyn n 1) n 1))
      ∧ (st = 1 ∨ st = 7 → Becomes (exec (.signalInSilence l) s) s (violation s.dyn n 7))
      ∧ (st = 0 ∨ st = 4 ∨ st = 5 ∨ st = 6 → Becomes (exec (.signalInSilence l) s) s s.dyn)
      ∧ (∀ (d : Dyn) (reason : Nat) (c : LaneCfg), reason ≠ 4 → laneCfg s.img d n = some c →
          (d.lane n).teth.lock ≠ 2 →
          let tries := min 255 ((d.lane n).teth.tries + 1)
          let y := ((failAttempt s.img d n reason).lane n).teth
          y.tries = tries ∧ y.state = if c.tries ≠ 0 ∧ c.tries ≤ tries then 7 else 2)
      ∧ (∀ d : Dyn, ((failAttempt s.img d n 4).lane n).teth.state = 7))

/-- R268 to R272, R281, R282, Table 10.4: the phases of training, in the state each belongs to and once as many
frame periods of it have passed as the table gives; in any other state, or before, the command changes nothing.
(ECHO_RES is a free value, log 32, and so are the receiver's taps as they adapt, log 149; the count of periods is
log 123's.) -/
def Obligations.TrainingPhases : Prop :=
  ∀ (l : Lane) (energy : List Nat) (s : State), islandUp s.dyn = true →
    let n := l.val
    let t := (s.dyn.lane n).teth
    let does (i : Instr) (d : Dyn) := Becomes (exec i s) s d
    let moved (d : Dyn) (st : Nat) :=
      d.onTeth n (fun x => { x with state := st, phaseFrames := 0, phaseAt := s.dyn.now256 })
    let passed := phaseClock s.img s.dyn n
    let ended (st full fast : Nat) : Prop := t.state = st ∧ (if t.fast then fast else full) ≤ passed
    (ended 2 64 64 → does (.silenceEnd l) (moved s.dyn 3))
    ∧ (¬ ended 2 64 64 → does (.silenceEnd l) s.dyn)
    ∧ (t.state = 3 → t.fast = false → 1024 ≤ passed → does (.echoWindowPlacement l energy)
        (adaptTaps (s.dyn.onTeth n (fun x => { x with windows := placeWindows energy })) n))
    ∧ (t.fast = true ∨ t.state ≠ 3 ∨ passed < 1024 → does (.echoWindowPlacement l energy) s.dyn)
    ∧ (ended 3 8192 1024 → ∃ v, v < 256 ∧ does (.leadAloneEnd l)
        (moved ((adaptTaps { s.dyn with free := s.dyn.free + 1 } n).onTeth n
          (fun x => { x with echoRes := v, sending := false })) 4))
    ∧ (¬ ended 3 8192 1024 → does (.leadAloneEnd l) s.dyn)
    ∧ (ended 4 8193 1025 → (t.lock = 2 → does (.followAloneEnd l) (moved s.dyn 5))
        ∧ (t.lock ≠ 2 → does (.followAloneEnd l) (failAttempt s.img s.dyn n 2)))
    ∧ (¬ ended 4 8193 1025 → does (.followAloneEnd l) s.dyn)
    ∧ (ended 5 4031 959 → t.decided = false → ∀ b, does (.goDecision l b) (s.dyn.onTeth n (fun x => { x with
        go := rxGood s.img s.dyn n && t.partnerLock && t.partnerGood && t.bothAt.any (fun k => decide (passed ≤ k + 16))
        decided := true })))
    ∧ (¬ ended 5 4031 959 ∨ t.decided = true → ∀ b, does (.goDecision l b) s.dyn)
    ∧ (ended 5 4096 1024 → (t.go = true → Answers (exec (.bothEnd l) s) (fun u =>
        let y := (u.dyn.lane n).teth
        y.state = 6 ∧ y.phaseFrames = 0 ∧ y.tries = 0 ∧ y.trained = min 255 (t.trained + 1) ∧ y.noGo = false
        ∧ y.kept = true ∧ y.huntSince = t.frames ∧ y.askSince = none ∧ y.lock = t.lock ∧ y.pendQuiet = false
        ∧ y.quietLeft = (if t.pendQuiet then some 16 else t.quietLeft)
        ∧ { u.dyn with lanes := s.dyn.lanes } = s.dyn ∧ (∀ k, k ≠ n → u.dyn.lane k = s.dyn.lane k)))
      ∧ (t.go = false → does (.bothEnd l)
        (failAttempt s.img (s.dyn.onTeth n (fun x => { x with noGo := true })) n 3)))
    ∧ (¬ ended 5 4096 1024 → does (.bothEnd l) s.dyn)
    ∧ (t.state = 6 → t.quietLeft = some 0 → does (.quietCountdownEnd l)
        ((silenceLane s.img s.dyn n 1).onTeth n (fun x => { x with kept := true })))
    ∧ (t.state ≠ 6 ∨ t.quietLeft ≠ some 0 → does (.quietCountdownEnd l) s.dyn)

/-- R273, R274: hunting at the main candidate's alignment. A first valid marker makes it, and one of a swapped pair
sets INVERTED (log 96); the next two with rising SEQ count; the third locks; an invalid one drops it. A receiver
that is LOCKED does not hunt. -/
def Obligations.Hunting : Prop :=
  ∀ (l : Lane) (align : Fin 4352) (raw : Word) (seq : Half) (s : State), islandUp s.dyn = true →
    pinsTaken s.dyn = false →
    let n := l.val
    let t := (s.dyn.lane n).teth
    let marker := exec (.markerDetected l align raw seq) s
    let put (f : TetherSt → TetherSt) := Becomes marker s (s.dyn.onTeth n f)
    let near (x : Nat) := popcount32 (raw.toNat ^^^ x) ≤ 2
    (t.state = 4 ∨ t.state = 5 ∨ t.state = 6 →
      (t.lock = 2 → Becomes marker s s.dyn)
      ∧ (t.lock ≠ 2 → near 0xB5E3192D →
        (t.main = none → put (fun x => { x with
          main := some { align := align.val, count := 1, seq := seq.toNat }, shadow := none, lock := 1 })))
      ∧ (t.lock ≠ 2 → ¬ near 0xB5E3192D → near (0xB5E3192D ^^^ 0x55555555) → t.main = none → put (fun x => { x with
          inverted := true
          main := some { align := align.val, count := 1, seq := seq.toNat }, shadow := none, lock := 1 }))
      ∧ (t.lock ≠ 2 → near 0xB5E3192D →
        (∀ c, t.main = some c → c.align = align.val → seq.toNat = (c.seq + 1) % 65536 →
          (c.count = 1 → put (fun x => { x with
            main := some { align := c.align, count := 2, seq := seq.toNat }, shadow := t.shadow, lock := 1 }))
          ∧ (c.count = 2 → t.frozen = false → put (fun x => { x with
              lock := 2, main := none, shadow := none, lastSeq := seq.toNat, badRun := 0, frozen := false }))))
      ∧ (t.lock ≠ 2 → ¬ near 0xB5E3192D → ¬ near (0xB5E3192D ^^^ 0x55555555) →
        (t.main = none → put (fun x => { x with main := none, shadow := none, lock := 0 }))
        ∧ (∀ c, t.main = some c → c.align = align.val → put (fun x => { x with
            main := t.shadow, shadow := none, lock := if t.shadow.isSome then 1 else 0 }))))
    ∧ (t.state < 2 ∨ t.state = 7 → Becomes marker s s.dyn)
    ∧ (t.state = 2 ∨ t.state = 3 → near 0xB5E3192D →
        Becomes marker s (failAttempt s.img (violation s.dyn n 1) n 1))

/-- R260 to R265, R275: what a frame's sender builds passes every check of its receiver, and each header field
and each payload word comes back. -/
def Obligations.FrameRoundTrip : Prop :=
  ∀ (seq flags count link : Nat) (words : List Nat), seq < 65536 → flags < 256 → count < 256 → link < 2 ^ 48 →
    words.length ≤ 126 → (∀ w ∈ words, w < 2 ^ 64) →
    let f := encodeFrame seq flags count link words
    let info := descramble f
    f < 2 ^ 8704 ∧ frameGood f info = true
    ∧ bits info 47 32 = seq ∧ bits info 55 48 = flags ∧ bits info 63 56 = count ∧ bits info 111 64 = link
    ∧ (∀ k, k < words.length → payloadWord info k = words.getD k 0)
    ∧ (∀ k, words.length ≤ k → k < 126 → payloadWord info k = 0)

/-- R266: the decoder makes at most 8 iterations and stops when every check is satisfied; a frame that
satisfies every check already is taken as it is (log 122).

R266, R267, R275, R276, R284: frames at a locked receiver, whose taps adapt at each. A good one is taken by its
fields; a bad one is lost, and LOCK_LOSS of them end the lock. Other receivers take none, but for what a failed attempt shows. -/
def Obligations.ReceivedFrames : Prop :=
  (∀ (signs : Nat) (mags : List (BitVec 5)),
    let r := laneDecode signs mags
    r.2 ≤ 8 ∧ (r.2 < 8 → codeHolds r.1 = true) ∧ (codeHolds signs = true → r = (signs, 0)))
  ∧ (∀ (l : Lane) (signs : BitVec 8704) (mags : List (BitVec 5)) (ps noise : Nat) (s : State) (c : LaneCfg),
    islandUp s.dyn = true → pinsTaken s.dyn = false → laneCfg s.img s.dyn l.val = some c →
    let n := l.val
    let x := s.dyn.lane n
    let t := x.teth
    let received := exec (.frameReceived l signs mags ps noise) s
    let frame := (laneDecode signs.toNat mags).1
    let info := descramble frame
    let noted := adaptTaps (noteFrame s.img s.dyn n (laneDecode signs.toNat mags).2 ps noise) n
    (t.state = 4 ∨ t.state = 5 ∨ t.state = 6 → t.lock = 2 →
      (frameGood frame info = true →
        Becomes received s (goodFrame s.img noted n info (if frame = signs.toNat then 0 else 1)))
      ∧ (frameGood frame info = false → t.badRun + 1 < c.lockLoss →
          Becomes received s (noted.onLane n (fun y => { y with
            rx := x.rx ++ [.lostFrame ((t.lastSeq + t.badRun + 1) % 65536)]
            teth := { y.teth with
              framesLost := min 0xFFFFFFFF (t.framesLost + 1), badRun := t.badRun + 1 } })))
      ∧ (frameGood frame info = false → c.lockLoss ≤ t.badRun + 1 → x.bridle.opened = [] →
          Answers received (fun u => (u.dyn.lane n).teth.lock = 0 ∧ (u.dyn.lane n).teth.frozen = true
            ∧ (u.dyn.lane n).teth.losses = min 0xFFFF (t.losses + 1)
            ∧ (u.dyn.lane n).teth.state = t.state ∧ ∀ k, k ≠ n → u.dyn.lane k = s.dyn.lane k)))
    ∧ (t.state = 4 ∨ t.state = 5 ∨ t.state = 6 → t.lock ≠ 2 → Becomes received s s.dyn)
    ∧ (t.state = 0 ∨ t.state = 1 → Becomes received s s.dyn)
    ∧ (t.state = 2 ∨ t.state = 3 ∨ t.state = 7 →
      (t.noGo = false → Becomes received s s.dyn)
      ∧ (t.noGo = true → frameGood frame info = true → bits info 67 64 = 4 → Becomes received s (violation s.dyn n 8)))
    ∧ (t.state = 6 → c.auto = true → t.lock ≠ 2 → c.relock ≤ t.frames - t.huntSince →
        Becomes (exec (.relockExpiry l) s) s (startAttempt s.img s.dyn n false))
    ∧ (c.auto = false → Becomes (exec (.relockExpiry l) s) s s.dyn))

/-- R269, R270, R278, R282: a lane that transmits builds one frame, whose SEQ counts; a silent lane builds
none, and in training counts the period. Outside DATA the frame holds no data word.

R258, Table 10.2: inverting the first bit of a symbol inverts its level, as a swapped pair does. -/
def Obligations.BuiltFrames : Prop :=
  (∀ frame m, symLevel (frame ^^^ 2 ^ (2 * m)) m = -symLevel frame m) ∧
  ∀ (l : Lane) (s : State), islandUp s.dyn = true →
    let n := l.val
    let t := (s.dyn.lane n).teth
    let sent (d : Dyn) (ws : List Nat) (u : State) : Prop :=
      { u.dyn with lanes := d.lanes, perf := d.perf, free := d.free } = d ∧ u.img = s.img
      ∧ u.pending = s.pending ∧ (∀ k, k ≠ n → u.dyn.lane k = d.lane k)
      ∧ u.dyn.lane n = { d.lane n with teth := { (d.lane n).teth with
          txFrame := encodeFrame t.txSeq 0 ws.length (linkWord s.img s.dyn n) ws
          txTime := s.dyn.now256At (0x0500 + n) + txLatency256 (laneRate s.img s.dyn n)
          sending := true
          txBefore := if (d.lane n).teth.sending then symLevel (d.lane n).teth.txFrame 4351 else 0
          txSeq := ((d.lane n).teth.txSeq + 1) % 65536
          frames := (d.lane n).teth.frames + 1
          phaseFrames := (d.lane n).teth.phaseFrames + 1
          quietLeft := (d.lane n).teth.quietLeft.map (· - 1) } }
    (t.state = 3 ∨ t.state = 5 → Answers (exec (.frameBuild l) s) (sent s.dyn []))
    ∧ (t.state = 6 → t.quietLeft ≠ some 0 →
        let w := frameWords s.img s.dyn n (s.dyn.now256At (0x0500 + n) + txLatency256 (laneRate s.img s.dyn n))
        Answers (exec (.frameBuild l) s) (sent w.2 w.1))
    ∧ (t.state = 2 ∨ t.state = 4 → Becomes (exec (.frameBuild l) s) s
        (s.dyn.onTeth n (fun x => { x with frames := t.frames + 1, phaseFrames := t.phaseFrames + 1 })))
    ∧ (t.state < 2 ∨ 6 < t.state → Becomes (exec (.frameBuild l) s) s s.dyn)
    ∧ (t.state = 6 → t.quietLeft = some 0 → Becomes (exec (.frameBuild l) s) s s.dyn)

/-! ### Bridle and Paretlink (11) -/

/-- R286 to R300: the first unit that waits on a Bridle lane goes to the rule of its type. Delivery of what
breaches and gaps stand behind it is `settleRx`'s. A unit of another type stays where it is.

R296, R299: an ALARM without payload and reserved bits sets or clears its entry and reports it; a
DELAY_RESP to the request last sent, in time, gives one round-trip time, and any other is a breach. -/
def Obligations.ReceivedUnits : Prop :=
  (∀ (l : Lane) (s : State) (h time : Nat) (ws : List Nat) (rest : List RxItem), islandUp s.dyn = true →
      l.val < 64 → (s.dyn.lane l.val).rx = .unit (h :: ws) time :: rest →
      let n := l.val
      let d := s.dyn.onLane n (fun x => { x with rx := rest })
      let takes (i : Instr) (f : List Nat → Nat → Dyn → Dyn) :=
        Becomes (exec i s) s (settleRx noNak n rest.length (f (h :: ws) time d))
      let stays (i : Instr) := Becomes (exec i s) s s.dyn
      (h % 16 = 1 → takes (.iqUnit l) (iqUnit s.img n) ∧ stays (.alarm l) ∧ stays (.boardMessage l)
        ∧ stays (.delayResp l))
      ∧ (h % 16 = 2 → h / 2 ^ 16 % 256 = 0x82 → takes (.alarm l) (alarmUnit n) ∧ stays (.iqUnit l)
          ∧ stays (.boardMessage l) ∧ stays (.delayResp l))
      ∧ (h % 16 = 2 → h / 2 ^ 16 % 256 = 0x81 → takes (.delayResp l) (delayResp s.img n) ∧ stays (.alarm l))
      ∧ (h % 16 = 2 → 0xC0 ≤ h / 2 ^ 16 % 256 → takes (.boardMessage l) (boardMessage n) ∧ stays (.alarm l)
          ∧ stays (.delayResp l)))
  ∧ (∀ (n slot board code time : Nat) (raised : Bool) (d : Dyn), slot < 16 → board < 2 → code < 65536 →
      let h := 2 + 2 ^ 4 * slot + 2 ^ 8 * board + 2 ^ 16 * 0x82 + 2 ^ 26 * (code + 2 ^ 16 * b2n raised)
      let b := (d.lane n).bridle
      let others := b.alarms.filter (fun a => a != (slot, board, code))
      alarmUnit n [h] time d = event
        (d.onBridle n (fun x => { x with alarms := if raised then (slot, board, code) :: others else others }))
        (0x0500 + n) (if raised then 7 else 0) 0x0587
        (leBytes 1 slot ++ leBytes 1 board ++ leBytes 2 code ++ leBytes 8 0)
      ∧ (∀ (img : Img) (id frame t1 turn : Nat), id < 256 → turn < 2 ^ 32 →
          let r := 2 + 2 ^ 16 * 0x81 + 2 ^ 24 + 2 ^ 26 * id
          let rtt : Int := ((time : Int) - t1) * rttUnit (laneRate img d n) - turn * (256 * 196608)
          (b.reqSent = some (frame, t1) → id = b.reqId → (d.lane n).teth.frames ≤ frame + 64 →
            delayResp img n [r, turn] time d = d.onTime (fun t => { t with
              rtts := Map.upd [] t.rtts n (fun l => (rtt :: l).take 16) }))
          ∧ (b.reqSent = none ∨ id ≠ b.reqId → delayResp img n [r, turn] time d = discardUnit d n 7)))

/-- R294, R298 to R300: what a Bridle lane block does on time and for software. On a Paretlink lane none of
it happens. -/
def Obligations.BridleCommands : Prop :=
  ∀ (m : Master) (l : Lane) (slot : BitVec 4) (v : Word) (s : State), islandUp s.dyn = true →
    let n := l.val
    let d := s.dyn
    let does (i : Instr) (d' : Dyn) := Becomes (exec i s) s d'
    let inData := (d.lane n).teth.state = 6
    (n < 64 → inData →
      ((∀ t, (d.lane n).bridle.reqTick = some t → t + 1966080 ≤ d.now ∨ d.now < t) →
        does (.delayReq l) (d.onBridle n (fun b => { b with
          reqId := (b.reqId + 1) % 256, reqDue := true, reqSent := none, reqTick := some d.now })))
      ∧ (∀ t, (d.lane n).bridle.reqTick = some t → t ≤ d.now → d.now < t + 1966080 → does (.delayReq l) d))
    ∧ (n < 64 → inData → Map.get [] d.time.rtts n ≠ [] →
        does (.timeMark l) (d.onBridle n (fun b => { b with markDue := true })))
    ∧ (64 ≤ n ∨ ¬ inData → does (.delayReq l) d ∧ does (.timeMark l) d)
    ∧ (∀ k c i, (d.lane n).bridle.opened.find? (fun e => e.1 == slot.toNat) = some (k, c) →
        streamInfo s.img c.stream 0 = some i →
        c.time + ((List.range 4).map (fun j => symTc i.mu i.ext ((c.q + j + 1) % i.syms))).sum ≤ d.now →
        does (.containerTimeout l slot) (closeCont s.img d n slot.toNat))
    ∧ ((d.lane n).bridle.opened.find? (fun e => e.1 == slot.toNat) = none → does (.containerTimeout l slot) d)
    ∧ (n < 64 → m.isTaskOrHost = false → does (.brCtrlSend m l v) (writeRefused d (0x0500 + n)))
    ∧ (n < 64 → m.isTaskOrHost = true →
        let r := memLoad s.img d (laneSender n) (v.toNat / 16 % 2 ^ 24 * 16) 16
        let read := leNat (r.2.data.take 8)
        let h := read - read / 2 ^ 9 % 2 ^ 7 * 2 ^ 9
        let code := h / 2 ^ 16 % 256
        r.2.status < 2 → (code = 1 ∨ (0x40 ≤ code ∧ code ≤ 0x7F)) → (r.1.lane n).bridle.ctrlq.length < 16 →
        h / 2 ^ 24 % 4 < 2 →
        does (.brCtrlSend m l v) (({ r.1 with free := r.1.free + 1 } : Dyn).onBridle n (fun b => { b with
          ctrlq := b.ctrlq ++ [[h, leNat (r.2.data.drop 8)].take (1 + h / 2 ^ 24 % 4)] })))

/-- R302 to R308: the unit that waits on a Paretlink lane, its CRC good and its reserved bits zero.

R303, R305, R308: a unit with a bad CRC word is discarded and NAKed; a RESET empties the window of a lane
without open messages and numbers from 0 again; 1,024 frame periods without progress resend the window.

R308: TX_POSTED and RX_CONSUMED of a virtual channel take an index inside their ring; another is refused
with a report, and VC 0 has neither. -/
def Obligations.ParetlinkUnits : Prop :=
  (∀ (l : Lane) (s : State) (h time : Nat) (ws : List Nat), islandUp s.dyn = true → 64 ≤ l.val →
      (s.dyn.lane l.val).rx = [.unit (h :: ws) time] → unitGood (h :: ws) = true → linkReserved h = false →
      let n := l.val
      let d := s.dyn.onLane n (fun x => { x with rx := [] })
      let k := (s.dyn.lane n).link
      let psn := h / 2 ^ 16 % 4096
      let does (i : Instr) (d' : Dyn) := Becomes (exec i s) s d'
      (h % 16 = 1 → psn = k.rxPsn → does (.data l)
        (acceptData s.img (d.onLink n (fun x => { x with
          rxPsn := (k.rxPsn + 1) % 4096, nakAt := none, unacked := k.unacked + 1
          unackedAt := if k.unacked = 0 then (s.dyn.lane n).teth.frames else k.unackedAt
          ackDue := k.ackDue || decide (16 ≤ k.unacked + 1) })) n (h :: ws) time))
      ∧ (h % 16 = 1 → psn ≠ k.rxPsn → (k.rxPsn + 4096 - psn) % 4096 ≤ 2048 →
          does (.data l) ((countEv d (0x0500 + n) 0x0503 1 EvInfo.plain).onLink n (fun x => { x with ackDue := true })))
      ∧ (h % 16 = 1 → 2048 < (k.rxPsn + 4096 - psn) % 4096 → does (.data l) (nakNow n d))
      ∧ (h % 16 = 2 → k.sent = [] → ∀ q u rest, k.window = (q, u) :: rest →
          let count := (psn + 4096 - q) % 4096
          (count ≤ k.window.length → does (.ack l) (d.onLink n (fun x => { x with
            window := k.window.drop count
            advanced := if count = 0 then k.advanced else (s.dyn.lane n).teth.frames })))
          ∧ (k.window.length < count → does (.ack l) (protoViolation d n 8)))
      ∧ (h % 16 = 3 → k.sent = [] → ∀ q u rest, k.window = (q, u) :: rest →
          let count := (psn + 4096 - q) % 4096
          count ≤ k.window.length → Answers (exec (.nak l) s) (fun t =>
            (let left := k.window.drop count
            (t.dyn.lane n).link = { k with
              window := left, advanced := if count = 0 then k.advanced else (s.dyn.lane n).teth.frames
              resend := if left = [] then k.resend else left.map (·.2)
              replays := if left = [] then k.replays else min 0xFFFF (k.replays + 1) })
            ∧ { t.dyn with lanes := s.dyn.lanes } = s.dyn ∧ (∀ j, j ≠ n → t.dyn.lane j = s.dyn.lane j)))
      ∧ (h % 16 = 4 → does (.credit l) (d.onVc (h / 2 ^ 4 % 64) (fun x => { x with total := h / 2 ^ 32 % 65536 })))
      ∧ (h % 16 = 5 → does (.reset l) (resetUnit s.img n (h :: ws) time d)))
  ∧ (∀ (l : Lane) (s : State), islandUp s.dyn = true →
      let n := l.val
      let k := (s.dyn.lane n).link
      let frames := (s.dyn.lane n).teth.frames
      (∀ h time ws, 64 ≤ n → (s.dyn.lane n).rx = [.unit (h :: ws) time] → unitGood (h :: ws) = false → h % 16 = 1 →
        Becomes (exec (.data l) s) s
          (nakNow n (discardUnit (s.dyn.onLane n (fun x => { x with rx := [] })) n 3)))
      ∧ (∀ (u : List Nat) (time : Nat), laneVcs s.img n = [] → k.sent = [] →
          resetUnit s.img n u time s.dyn = event (s.dyn.onLink n (fun x => { x with
            rxPsn := 0, txPsn := 0, window := [], resend := [], sent := [], nakAt := none, nakDue := false
            ackDue := false, unacked := 0
            resetLeft := match k.resetAt with
              | some f => if frames ≤ f + 16 then k.resetLeft else 16
              | none => 16 })) (0x0500 + n) 0 0x058A [])
      ∧ (64 ≤ n → k.window ≠ [] → k.advanced + 1024 ≤ frames → Becomes (exec (.retryTimeout l) s) s
          (s.dyn.onLink n (fun x => { x with
            resend := k.window.map (·.2), replays := min 0xFFFF (k.replays + 1), advanced := frames })))
      ∧ (k.window = [] ∨ frames < k.advanced + 1024 → Becomes (exec (.retryTimeout l) s) s s.dyn))
  ∧ (∀ (m : Master) (vc : BitVec 6) (v : Half) (s : State), islandUp s.dyn = true →
      let k := vc.toNat
      let c := s.dyn.vc k
      let ahead := (v.toNat + 65536 - c.rxProduced) % 65536
      let room := 2 ^ ((s.img.reg (0x05034000 + 0x10 * k)) / 2 ^ 19 % 16)
      let posted := (v.toNat + 65536 - c.txDone) % 65536
      let refused := writeRefused s.dyn (0x0500 + (vcLane s.img k).getD 64)
      (k = 0 → Becomes (exec (.txPosted m vc v) s) s s.dyn ∧ Becomes (exec (.rxConsumed m vc v) s) s s.dyn)
      ∧ (k ≠ 0 →
        (posted ≤ room → Becomes (exec (.txPosted m vc v) s) s (s.dyn.onVc k (fun x => { x with txPosted := v.toNat })))
        ∧ (room < posted → Becomes (exec (.txPosted m vc v) s) s refused)
        ∧ (ahead = 0 ∨ 32768 ≤ ahead →
            Becomes (exec (.rxConsumed m vc v) s) s (s.dyn.onVc k (fun x => { x with rxConsumed := v.toNat })))
        ∧ (0 < ahead → ahead < 32768 → Becomes (exec (.rxConsumed m vc v) s) s refused)))

/-! ### The fabric (12) -/

/-- R318, R322, R324, R325, R327, R328: a request to an endpoint that its address names, under a free tag, by an
unregulated class with nothing waiting, enters the fabric sealed and tracked; an isolated sender's is
discarded and counted. It waits while its endpoint has 1,024 requests out, the dispatcher has no credit for the
event, or a router on its way drains for a change. One whose tag is not free does not enter. A request to an
address of no endpoint is answered at once with status 5, reason 2. (That an ill-formed packet, which no sender
can make, is a fault is the model's choice, log 112; which events share a queue's credits is log 147's.) -/
def Obligations.PacketsEnter : Prop :=
  ∀ (p : Packet) (s : State),
    let e := p.src.toNat
    let d := s.dyn
    let sent := exec (.packetInjection p) s
    (packetOk p = false → sent = .fault .illFormed)
    ∧ (packetOk p = true → islandUp d = true → p.resp = false → p.kind ≠ 3 →
        addrEndpoint p.address.toNat = none →
        Becomes sent s (deliver (replyTo p { status := 5, reason := 2, data := [] }) d))
    ∧ (packetOk p = true → islandUp d = true → p.resp = false →
        (p.kind = 3 ∨ addrEndpoint p.address.toNat = some p.dest.toNat) → d.fab.waiting = [] →
        let free := trackerRoom d p = true ∧ eventRoom d p = true ∧ routeOpen d (routeOf e p.dest.toNat) = true
        (tagFree d p = false → Becomes sent s d)
        ∧ (tagFree d p = true → ¬ free → Becomes sent s (d.onFab (fun f => { f with waiting := [p] }))))
    ∧ (packetOk p = true → islandUp d = true → p.resp = false →
        (p.kind = 3 ∨ addrEndpoint p.address.toNat = some p.dest.toNat) → tagFree d p = true →
        trackerRoom d p = true → eventRoom d p = true → routeOpen d (routeOf e p.dest.toNat) = true →
        regulatorOf s.img e p.cls.toNat = none → d.fab.waiting = [] →
        let tracked := d.onFab (fun f => { f with
          trackers := f.trackers ++ [{ endpoint := e, tag := p.tag.toNat, target := p.dest.toNat
                                       unit := packetUnit p, since := endpointNow d e, timedOut := false }] })
        (d.portMode e = 2 → Becomes sent s (countAbsorbed tracked e))
        ∧ (d.portMode e ≠ 2 → Answers sent (fun u =>
            { u.dyn with perf := d.perf, free := d.free } = tracked.onFab (fun f => { f with
              inflight := f.inflight ++ [sealPacket { p with bad := false }] })
            ∧ u.img = s.img ∧ u.pending = s.pending)))

/-- R321, R323, R325, R327, R329, R330, R157: a packet arrives when none of its flow is before it, its target
takes it (a write of TASK_CMD waits in the fabric while the command queue is full) and every output of its
route sends it before the packets that wait there (which of them wait there is a free choice, log 130). An
output sends one of the packets that wait at it: within a class a response before a request, and class 0 within
3 of 4 flit slots while another class waits. The router of a fenced,
isolated or empty target answers itself; a routing parity failure discards the packet with a report; a response
takes its tracker away and is delivered, failed if its checks fail, counted if it comes late.

R327, R330: a request that is not answered within RESP_TIMEOUT, at a whole microsecond of its endpoint's local tick
time, completes with ERROR, reason TIMEOUT; the data of a packet in the fabric whose sender is isolated become zeros marked BAD. -/
def Obligations.PacketsArrive : Prop :=
  (∀ (k : Nat) (router : BitVec 6) (p : Packet) (s : State), islandUp s.dyn = true →
      s.dyn.fab.inflight[k]? = some p → (s.dyn.fab.inflight.take k).all (fun q => !sameFlow p q) = true →
      (holdsBack s.dyn p = true → ∀ route, Becomes (exec (.packetArrival k false route router) s) s s.dyn)
      ∧ ∀ (arbs : Map Arbiter) (d0 : Dyn), arbitrateFor s.dyn k p = (some arbs, d0) →
      let d := d0.onFab (fun f => { f with inflight := f.inflight.eraseIdx k, arbiters := arbs })
      let e := p.dest.toNat
      let comes (route : Bool) := exec (.packetArrival k false route router) s
      let answer (d : Dyn) (status reason : Nat) := d.onFab (fun f => { f with
        inflight := f.inflight ++ [sealPacket (replyTo p { status, reason, data := [] })] })
      let free := holdsBack s.dyn p = false
      (free → p.resp = false → d.portMode e = 1 → Becomes (comes false) s (answer (countAsleep d e) 2 0))
      ∧ (free → p.resp = false → d.portMode e = 2 → Becomes (comes false) s (answer (countAbsorbed d e)
          (if p.kind = 0 ∨ p.kind = 2 then 5 else 3) (if p.kind = 0 ∨ p.kind = 2 then 4 else 0)))
      ∧ (free → p.resp = false → d.portMode e = 3 → Becomes (comes false) s (answer d 5 2))
      ∧ (free → p.resp = false → d.portMode e = 0 → packetGood p = true →
          let r := performPacket s.img (countEv d (0x0600 + e / 4) 0x0601 (packetLen p) (packetInfo p)) p
          Becomes (comes false) s (regulate s.img r.1 (replyTo p r.2)))
      ∧ (p.resp = true → Becomes (comes false) s (arriveResponse d p))
      ∧ (free → router.toNat ∈ routeOf p.src.toNat p.dest.toNat → Becomes (comes true) s
          (event (d.onFab (fun f => { f with
            headDrop := Map.upd 0 f.headDrop router.toNat (fun x => min 0xFFFF (x + 1)) }))
            (0x0600 + router.toNat) 6 0x0681 [])))
  ∧ (∀ (k : Nat) (parity route : Bool) (router : BitVec 6) (p : Packet) (s : State) (d0 : Dyn),
      islandUp s.dyn = true → s.dyn.fab.inflight[k]? = some p →
      (s.dyn.fab.inflight.take k).all (fun q => !sameFlow p q) = true → holdsBack s.dyn p = false →
      ((parity = false ∧ route = false) ∨ router.toNat ∈ routeOf p.src.toNat p.dest.toNat) →
      arbitrateFor s.dyn k p = (none, d0) →
      Becomes (exec (.packetArrival k parity route router) s) s d0 ∧ d0.fab = s.dyn.fab ∧ d0.mem = s.dyn.mem)
  ∧ (∀ (a a' : Arbiter) (l : Waiting) (x : Nat × Packet), outputPick a l = some (x, a') →
      1 ≤ a.turn → (∀ y ∈ l, y.1 < 9) →
      x ∈ l
      ∧ (x.2.resp = false → ∀ y ∈ l, y.2.cls = x.2.cls → y.2.resp = false)
      ∧ (x.2.cls.toNat = 0 → ∀ y ∈ l, y.2.cls.toNat ≠ 0 →
          a.run + (1 + packetFlits x.2) ≤ 3 ∧ a'.run = a.run + (1 + packetFlits x.2))
      ∧ (x.2.cls.toNat ≠ 0 → ∀ y ∈ l, y.2.cls.toNat = 0 →
          a'.run = 0 ∧ ∃ z, headOf a l 0 = some z ∧ 3 < a.run + (1 + packetFlits z.2)))
  ∧ (∀ (e : Byte) (tag : BitVec 10) (k : Nat) (s : State), islandUp s.dyn = true →
      (∀ t, s.dyn.fab.trackers = [t] → t.endpoint = e.toNat → t.tag = tag.toNat → t.timedOut = false →
        usPassed (wholeUs (endpointNow s.dyn e.toNat)) t.since (s.img.reg 0x06000000 % 1024) = true →
        Answers (exec (.responseTimeout e tag) s) (fun u =>
          u.dyn.fab.trackers = [{ t with timedOut := true }]
          ∧ (∃ p, u.dyn.fab.delivered = s.dyn.fab.delivered ++ [p] ∧ p.dest = e ∧ p.tag = tag ∧ p.resp = true
              ∧ p.status = 5 ∧ p.reason = 5)
          ∧ u.dyn.mem = s.dyn.mem ∧ u.dyn.cores = s.dyn.cores ∧ u.dyn.fab.inflight = s.dyn.fab.inflight))
      ∧ (s.dyn.fab.trackers = [] → Becomes (exec (.responseTimeout e tag) s) s s.dyn)
      ∧ (∀ p, s.dyn.fab.inflight[k]? = some p → s.dyn.portMode p.src.toNat = 2 → p.data ≠ [] →
          Becomes (exec (.isolationTailTimeout k) s) s (s.dyn.onFab (fun f => { f with
            inflight := f.inflight.set k { p with bad := true, data := zeros p.data.length } })))
      ∧ (∀ p, s.dyn.fab.inflight[k]? = some p → s.dyn.portMode p.src.toNat ≠ 2 →
          Becomes (exec (.isolationTailTimeout k) s) s s.dyn))

/-- R328 to R333: the supervisor and management order ISOLATE and RELEASE of a port that holds an endpoint, other
than the supervisor's, the timing unit's and the power controller's; a ninth waiting one is refused; the change
waits at its router, applies when its traffic has drained within QLIMIT, and past it waits 1 ms and is tried again.
(What a
change of power that waits for it then does is `PowerCommands`.) -/
def Obligations.PortChanges : Prop :=
  ∀ (m : Master) (r : BitVec 6) (slot : BitVec 2) (s : State), islandUp s.dyn = true →
    let e := 4 * r.toNat + slot.toNat
    let d := s.dyn
    let l := d.changes r.toNat
    let fixed := some e = endpointOf 0x0C00 ∨ some e = endpointOf 0x0A00 ∨ some e = endpointOf 0x0B00
    let orders (i : Instr) (mode : Nat) : Prop :=
      (m.isHost = false ∨ hasEndpoint e = false ∨ fixed → Becomes (exec i s) s (writeRefused d (0x0600 + r.toNat)))
      ∧ (m.isHost = true → hasEndpoint e = true → ¬ fixed → 9 ≤ l.length →
          Becomes (exec i s) s (masterRefused d (0x0600 + r.toNat) m.source))
      ∧ (m.isHost = true → hasEndpoint e = true → ¬ fixed → l.length < 9 →
          Becomes (exec i s) s (d.setChanges r.toNat (l ++
            [{ slot := slot.toNat, mode, master := m.source, since := d.now, retryAt := none, failed := false }])))
    orders (.portIsolate m r slot) 2 ∧ orders (.portRelease m r slot) 4
    ∧ (∀ c rest, l = c :: rest → c.retryAt = none →
        let next (x : PortChange) : PortChange := if x.retryAt.isNone then { x with since := d.now } else x
        let late := usPassed d.now c.since (s.img.reg 0x06000000 / 2 ^ 16 % 256)
        let fails := event (d.setChanges r.toNat (rest.map next ++
          [{ c with retryAt := some (d.now + 1966080), failed := true }])) (0x0600 + r.toNat) 6 0x0682 []
        (d.power.leaving = none → d.power.rising = none → d.power.releasing = none →
          (late = false → Becomes (exec (.quiesce r) s) s
            ((applyMode d (4 * r.toNat + c.slot) c.mode).setChanges r.toNat (rest.map next)))
          ∧ (late = true → Becomes (exec (.quiesce r) s) s fails))
        ∧ (late = true → Becomes (exec (.quiesceLimit r) s) s fails)
        ∧ (late = false → Becomes (exec (.quiesceLimit r) s) s d))
    ∧ (∀ c rest at_, l = c :: rest → c.retryAt = some at_ → at_ ≤ d.now →
        Becomes (exec (.quiesceRetry r) s) s
          (d.setChanges r.toNat (rest ++ [{ c with retryAt := none, since := d.now }])))
    ∧ (l = [] → d.power.leaving = none → d.power.rising = none → d.power.releasing = none →
        Becomes (exec (.quiesce r) s) s d ∧ Becomes (exec (.quiesceLimit r) s) s d
        ∧ Becomes (exec (.quiesceRetry r) s) s d)

/-! ### Memory (13) -/

/-- R127, R208, R343 to R345: the commands on memory are performed packet by packet, and their answer is kept.
A misaligned atomic has no word to act on (log 27).

R348, R349, R351: the scrubber's visit when it is due, the lap that takes too long in a unit that holds a block
of a region, and the bucket's leak, one for each multiple of LEAK_MS that has passed, by the unit's local tick time.
-/
def Obligations.MemoryCommands : Prop :=
  (∀ (m : Master) (a : Addr) (n : Nat) (data : List Byte) (f : BitVec 3) (x y : Word) (s : State),
      islandUp s.dyn = true →
      let w := senderOf m
      let ends (i : Instr) (r : Dyn × Resp) :=
        Becomes (exec i s) s { r.1 with mem := { r.1.mem with lastResp := r.2 } }
      ends (.memoryRead m a n) (memLoad s.img s.dyn w a.toNat n)
      ∧ ends (.memoryWrite m a data) (memStore s.img s.dyn w a.toNat data)
      ∧ (a.toNat % 4 = 0 → ends (.memoryAtomic m a f x y)
          (memPacket s.img s.dyn w a.toNat (.atomic f.toNat x.toNat y.toNat)))
      ∧ (a.toNat % 4 ≠ 0 → ends (.memoryAtomic m a f x y) (s.dyn, { status := 5, reason := 3, data := [] }))
      ∧ (hitsHandleTable s.img a.toNat data.length = true →
          ends (.handleTableWrite m a data) (memStore s.img s.dyn w a.toNat data))
      ∧ (hitsHandleTable s.img a.toNat data.length = false → Becomes (exec (.handleTableWrite m a data) s) s s.dyn))
  ∧ (∀ (k : Fin 48) (s : State), islandUp s.dyn = true →
      let unit := 0x0700 + k.val
      let x := s.dyn.memUnit unit
      let limit := s.img.reg 0x07000000 / 2 ^ 16 % 65536
      let leak := s.img.reg (if k.val < 16 then 0x07000004 else 0x07000008) / 2 ^ 12 % 4096
      let does (i : Instr) (d : Dyn) := Becomes (exec i s) s d
      (x.nextVisit ≤ s.dyn.now → does (.scrubVisit k) (scrubVisit s.img s.dyn unit))
      ∧ (s.dyn.now < x.nextVisit → does (.scrubVisit k) s.dyn)
      ∧ (limit ≠ 0 → x.limitSaid = false → (nextBlock s.img s.dyn unit 0).isSome = true →
          limit * 1966080000 < s.dyn.nowAt unit - x.lapStart →
          does (.lapLimit k) (event (s.dyn.setMemUnit unit (fun y => { y with limitSaid := true })) unit 7 0x0784 []))
      ∧ (limit = 0 ∨ x.limitSaid = true ∨ nextBlock s.img s.dyn unit 0 = none
          ∨ s.dyn.nowAt unit - x.lapStart ≤ limit * 1966080000 → does (.lapLimit k) s.dyn)
      ∧ does (.bucketLeak k) (s.dyn.setMemUnit unit (fun y => if leak = 0 then y else
          let due := s.dyn.nowAt unit / (leak * 1966080)
          { y with level := y.level - (due - y.leaks), leaks := due })))

/-- R10, R337, R343 to R345, R348: memory keeps its canonical form over every command and every step, whatever
loads, accesses, scrubs or empties it. (The canonical form is the model's own, log 9; it holds at reset:
`ResetValues`.) -/
def Obligations.MemoryStaysCanonical : Prop :=
  (∀ (c : Instr) (s t : State), exec c s = .next t → Memory.wf s.dyn.mem.cells = true →
      Memory.wf t.dyn.mem.cells = true)
  ∧ (∀ s t : State, step s = .next t → Memory.wf s.dyn.mem.cells = true → Memory.wf t.dyn.mem.cells = true)

/-- R337, R343, R344: no memory access leaves the canonical form, and none changes more of the machine than memory,
the fabric, what they count and report, and the units that a port's change isolates; no more does a fetch. From a
sender whose endpoint has no request waiting or under way, which would be performed first (log 131): where no block
it meets has a wrong bit, a read changes no byte and a write none but its own; a correction lies within 128 bytes of
its block's base. -/
def Obligations.MemoryAccessFrame : Prop :=
  ∀ (img : Img) (d : Dyn) (w : Sender) (a n : Nat) (data : List Byte) (b : Nat),
    let after := (memLoad img d w a n).1.mem.cells
    let after' := (memStore img d w a data).1.mem.cells
    (Memory.wf d.mem.cells = true → Memory.wf after = true ∧ Memory.wf after' = true)
    ∧ OnlyAccess d (memLoad img d w a n).1 ∧ OnlyAccess d (memStore img d w a data).1
    ∧ (∀ c, OnlyAccess d (fetch img d c).1)
    ∧ ((∀ p ∈ d.fab.waiting ++ d.fab.inflight, p.resp = false → p.src.toNat ≠ (endpointOf w.source).getD 0) →
      ((∀ k, (d.code k).rows = 0 ∧ (d.code k).cols = 0) →
          after = d.mem.cells
          ∧ (b < a ∨ a + data.length ≤ b → Memory.read after' b = Memory.read d.mem.cells b))
      ∧ (b < a / 128 * 128 ∨ a + n + 127 ≤ b → Memory.read after b = Memory.read d.mem.cells b)
      ∧ (b < a / 128 * 128 ∨ a + data.length + 127 ≤ b → Memory.read after' b = Memory.read d.mem.cells b))

/-- R343, R347, R348: reading one block. A clean block gives status 0 and its bytes; one wrong bit is
corrected, counted and gives status 1; a poisoned block gives status 4 and no data, and what decoding cannot
mend becomes poisoned.

R343, R344: a write of one whole block of slot memory or DRAM, where both ports answer, no router on the way drains
and no request of the sender's endpoint waits or is under way, is good and is what a read of it then gives; every
other byte of memory reads as before. -/
def Obligations.BlockReads : Prop :=
  (∀ (img : Img) (d : Dyn) (unit base finder : Nat) (r : RegionInfo),
      let c := d.code base
      let s := settleBlock img d unit base finder r
      c.raw = false → c.flagSplit = false →
      (c.poisoned = true → s = (d, 4))
      ∧ (c.poisoned = false → c.rows = 0 → c.cols = 0 → s = (d, 0))
      ∧ (c.poisoned = false → ∀ i j, i < 16 → j < rowWidth r.geom → c.rows = 2 ^ i → c.cols = 2 ^ j →
          let k := i * rowWidth r.geom + j
          s.2 = 1 ∧ (s.1.code base).rows = 0 ∧ (s.1.code base).cols = 0
          ∧ Memory.read s.1.mem.cells (base + k / 8)
              = Memory.read d.mem.cells (base + k / 8) ^^^ BitVec.ofNat 8 (2 ^ (k % 8))
          ∧ (∀ b, b ≠ base + k / 8 → Memory.read s.1.mem.cells b = Memory.read d.mem.cells b)
          ∧ (s.1.memUnit unit).corrected = min 0xFFFFFFFF ((d.memUnit unit).corrected + 1))
      ∧ (c.poisoned = false → ∀ i j k, i < j → j < 16 → c.rows = 2 ^ i + 2 ^ j → c.cols = k →
          s.2 = 4 ∧ (s.1.code base).poisoned = true ∧ s.1.mem.cells = d.mem.cells))
  ∧ (∀ (img : Img) (d : Dyn) (w : Sender) (a unit : Nat) (data : List Byte) (r : RegionInfo),
      memUnitOf a = some unit → regionAt img d a = some r → 1 ≤ r.geom → a % blockSize r.geom = 0 →
      data.length = blockSize r.geom → hitsHandleTable img a data.length = false →
      let e := (endpointOf unit).getD 0
      let se := (endpointOf w.source).getD 0
      d.portMode e = 0 → d.portMode se = 0 → routeOpen d (routeOf se e ++ routeOf e se) = true →
      (∀ p ∈ d.fab.waiting ++ d.fab.inflight, p.resp = false → p.src.toNat ≠ se) →
      let u := memStore img d w a data
      u.2.status = 0 ∧ (memLoad img u.1 w a data.length).2 = { status := 0, reason := 0, data }
      ∧ (∀ b, b < a ∨ a + data.length ≤ b → Memory.read u.1.mem.cells b = Memory.read d.mem.cells b)
      ∧ (∀ b, b ≠ a → u.1.code b = d.code b)
      ∧ u.1.cores = d.cores ∧ u.1.disp = d.disp ∧ u.1.lanes = d.lanes)

/-! ### Time (14) -/

/-- R359, R361, R363, R365, R366: a valid measurement, all of it from the selected master, in its domain and over
its transport, and answering a Delay_Req, gives the offset THETA; in LOCKED it steers the rate, or at the third jump
beyond JUMP puts the servo in HOLDOVER at the mean rate of HOLD_AVG seconds and raises GM_DISCONTINUITY; in
ACQUIRING it is counted before the first step. Any other changes nothing. (The steering law is a free function,
log 13; the order of two masters is log 30; which of two masters falls silent is a free choice, log 140; that a
master of G.8275.2 is the one of MASTER, log 151.)

R358 to R366, R373, R374: the rest of what the time unit takes from its ports and from software. While JTAG has the
pins nothing arrives on them (R452, log 78). -/
def Obligations.TimeUnit : Prop :=
  (∀ (port : Bool) (m : PtpExchange) (s : State), islandUp s.dyn = true → pinsTaken s.dyn = false →
      let p := if port then 2 else 1
      let t := s.dyn.time
      let now := s.dyn.now
      let theta := offsetOf s.img p ((portIngress s.dyn p : Int) - m.syncAgo) ((Map.get 0 t.reqStamp p : Nat) : Int) m
      let ns := (2 * theta + 65536) / 131072
      let jump : Int := timeField s.img 0x10 4 * 65536
      let big := jump < theta ∨ jump < -theta
      let taken : Dyn := (countEv (s.dyn.onTime (fun x => { x with reqStamp := Map.del t.reqStamp p }))
        (0x0A00 + p) 0x0A00 1 EvInfo.plain).onTime (fun x =>
          { x with theta := max (-2147483647) (min 2147483647 ns) })
      let rates := lastSpan (timeField s.img 0x18 2 * 1966080000) ((t.rate, now - t.rateSince) :: t.lockedRates)
      let does (d : Dyn) := Becomes (exec (.ptpMeasurement port m) s) s d
      let valid := masterId t.masters = some (p, m.sender) ∧ heardPtp s.img p m.domain m.transport = true
        ∧ fromMaster s.img p m.sender = true ∧ ∃ at_, (p, at_) ∈ t.reqStamp
      (¬ valid → does s.dyn)
      ∧ (valid →
        (t.servo = .freerun → does taken)
        ∧ (t.servo = .holdover → t.sticky = true → does taken)
        ∧ (t.servo = .locked → ¬ big →
            let rate := max (-56294995342) (min 56294995342 (Config.servoRate 2 theta t.rate))
            does (taken.onTime (fun x => { x with beyond := 0, rate, lockedRates := rates, rateSince := now })))
        ∧ (t.servo = .locked → big → t.beyond < 2 → does (taken.onTime (fun x => { x with beyond := t.beyond + 1 })))
        ∧ (t.servo = .locked → big → 2 ≤ t.beyond → Answers (exec (.ptpMeasurement port m) s) (fun u =>
            u.dyn.time.servo = .holdover ∧ u.dyn.time.sticky = true ∧ u.dyn.time.t = t.t
            ∧ u.dyn.time.rate = (meanRate rates).getD t.rate
            ∧ u.dyn.disp.unitConds = s.dyn.disp.unitConds ++ [{
                unit := 0x0A00 + t.port, cond := 0x0A01, addr := 0
                extra := BitVec.ofInt 32 (max (-2147483648) (min 2147483647 ns)) }]))
        ∧ (t.servo = .acquiring → t.valid + 1 < 16 → Answers (exec (.ptpMeasurement port m) s) (fun u =>
            u.dyn.time.valid = t.valid + 1 ∧ u.dyn.time.servo = .acquiring ∧ u.dyn.time.rate = t.rate
            ∧ u.dyn.time.t = t.t))))
  ∧ (∀ (m : Master) (port : Bool) (a b : PtpMaster) (target : List Byte) (k : BitVec 3) (v : Word) (s : State),
      islandUp s.dyn = true →
      let p := if port then 2 else 1
      let t := s.dyn.time
      let now := s.dyn.now
      let does (i : Instr) (d : Dyn) := Becomes (exec i s) s d
      let set (f : TimeSt → TimeSt) : Dyn := s.dyn.onTime f
      let refused := writeRefused s.dyn 0x0A00
      let none_ : Dyn := event (setMasters s.dyn []) 0x0A00 7 0x0A81 []
      let rates := lastSpan (timeField s.img 0x18 2 * 1966080000) ((t.rate, now - t.rateSince) :: t.lockedRates)
      (t.masters = [] → does .masterLost s.dyn)
      ∧ (t.masters = [(1, a), (2, b)] → t.servo = .freerun → Answers (exec .masterLost s) (fun u =>
          u.dyn.free = s.dyn.free + 1
          ∧ ((u.dyn.time = (setMasters s.dyn [(2, b)]).time ∧ u.dyn.time.port = 2 ∧ u.dyn.rep = s.dyn.rep)
            ∨ (u.dyn.time = (setMasters s.dyn [(1, a)]).time ∧ u.dyn.time.port = 1 ∧ u.dyn.rep = s.dyn.rep)
            ∨ (u.dyn.time = (setMasters s.dyn []).time ∧ u.dyn.time.port = 0 ∧ u.dyn.rep = none_.rep))))
      ∧ (t.masters = [(p, a)] → t.servo = .freerun → does .masterLost none_)
      ∧ (t.masters = [(p, a)] → t.servo = .locked → does .masterLost
          (none_.onTime (fun x => { x with
            servo := .holdover, sticky := false, valid := 0, within := 0, beyond := 0
            lockedRates := rates, rateSince := now, rate := (meanRate rates).getD t.rate })))
      ∧ (syncePort s.img ≠ 0 → t.synceLock = true → does .synceLost
          (event (set (fun x => { x with synceLock := false })) 0x0A00 7 0x0A83 []))
      ∧ (syncePort s.img ≠ 0 → pinsTaken s.dyn = false →
          does .synceLinkUp (set (fun x => { x with synceLock := true })))
      ∧ (syncePort s.img = 0 → does .synceLost s.dyn ∧ does .synceLinkUp s.dyn)
      ∧ (m.isExecOrHost = false ∨ timePorts s.img = 0 → does (.reacquire m) refused)
      ∧ (m.isExecOrHost = true → timePorts s.img ≠ 0 → does (.reacquire m) (set (fun x => { x with
          servo := .acquiring, valid := 0, within := 0, beyond := 0, stepUsed := false, sticky := false
          lockedRates := if t.servo = .locked then rates else t.lockedRates
          rateSince := if t.servo = .locked then now else t.rateSince })))
      ∧ (heardPtp s.img p a.domain a.transport = false ∨ fromMaster s.img p a.sender = false →
          does (.announce port a) s.dyn)
      ∧ (heardPtp s.img p a.domain a.transport = true → fromMaster s.img p a.sender = true →
          pinsTaken s.dyn = false →
        does (.announce port a) (setMasters s.dyn (hearMaster t.masters p a))
        ∧ (t.masters = [] → does (.announce port a)
            (set (fun x => { x with masters := [(p, a)], port := p, reqStamp := [] })))
        ∧ (t.masters = [(p, b)] → b.sender = a.sender → does (.announce port a)
            (set (fun x => { x with masters := [(p, a)], port := p })))
        ∧ (t.masters = [(p, b)] → b.sender ≠ a.sender → betterMaster p b p a = true → does (.announce port a)
            (set (fun x => { x with masters := [(p, b), (p, a)], port := p })))
        ∧ (t.masters = [(p, b)] → b.sender ≠ a.sender → betterMaster p b p a = false → does (.announce port a)
            (set (fun x => { x with masters := [(p, b), (p, a)], port := p, reqStamp := [] }))))
      ∧ (t.port = p → does (.ptpDelayReq port) (set (fun x => { x with
          delayReqs := Map.set t.delayReqs p (Map.get 0 t.delayReqs p + 1)
          reqStamp := Map.set t.reqStamp p (s.dyn.now256At (0x0A00 + p)) })))
      ∧ (t.port ≠ p → does (.ptpDelayReq port) s.dyn)
      ∧ (let n := if portBytes s.img p 8 1 = [4] then 4 else 16
        (portBytes s.img p 8 1 = [4] ∨ portBytes s.img p 8 1 = [6]) → pinsTaken s.dyn = false →
        (timePorts s.img).testBit (p - 1) = true →
        (target = portBytes s.img p 0x10 n → does (.arpRequest port target)
          (set (fun x => { x with arpReplies := Map.set t.arpReplies p (Map.get 0 t.arpReplies p + 1) })))
        ∧ (target ≠ portBytes s.img p 0x10 n → does (.arpRequest port target) s.dyn))
      ∧ (m.isTaskOrHost = false → does (.cellActive m k v) refused)
      ∧ (m.isTaskOrHost = true → does (.cellActive m k v) (set (fun x => { x with
          cellActive := Map.set t.cellActive k.toNat (BitVec.ofNat 32 (v.toNat &&& cellMask s.img k.toNat)) })))
      ∧ (let edge := now / 1966080000 * 1966080000
        (t.ppsOut = true → t.ppsAt + ppsWidth s.img ≤ now → does .ppsOut (set (fun x => { x with ppsOut := false })))
        ∧ (t.ppsOut = true → now < t.ppsAt + ppsWidth s.img → does .ppsOut s.dyn)
        ∧ (t.ppsOut = false → s.dyn.dst.state = .service → t.ppsSince ≤ edge →
            does .ppsOut (set (fun x => { x with ppsOut := true, ppsAt := edge, ppsSince := edge + 1 })))
        ∧ (t.ppsOut = false → (s.dyn.dst.state ≠ .service ∨ edge < t.ppsSince) → does .ppsOut s.dyn))
      ∧ (pinsTaken s.dyn = false → does .ppsIn (set (fun x => { x with ppsIn := BitVec.ofNat 64 now })))
      ∧ (pinsTaken s.dyn = true → does .ppsIn s.dyn ∧ does .synceLinkUp s.dyn ∧ does (.announce port a) s.dyn
          ∧ does (.arpRequest port target) s.dyn))

/-- R371, R372, R374: the pulse generators. Software starts and stops them, which ends a pulse that is high with an edge
of its own, and arms a one-shot; a one-shot
rises at its armed time, or at once with a report where that time has passed and RUN is 1, a periodic one at each
multiple of its period that it has not met, both ahead by TX_ADJ where they strobe a lane; a pulse falls its width
later, but where the next rise coincides, and an armed time that passes without RUN is dropped. (That arming sets
the value that PULSE_ARM_HI reads is the model's choice, log 80.) -/
def Obligations.PulseGenerators : Prop :=
  ∀ (m : Master) (g : BitVec 4) (v : Word) (r : List Byte) (s : State), islandUp s.dyn = true →
    let k := g.toNat
    let x := s.dyn.pulse k
    let now := s.dyn.now
    let runs := s.dyn.time.run.testBit k
    let does (i : Instr) (d : Dyn) := Becomes (exec i s) s d
    let refused := writeRefused s.dyn 0x0A00
    let at_ : Int := now + strobeLead s.img r
    let rise (d : Dyn) (t : Nat) : Dyn := tddEvent s.img
      (d.onPulse k (fun y => { y with level := true, lastRise := some t, since := t + 1 })) k t true
    (m.isTaskOrHost = false → does (.pulseCtrl m v) refused ∧ does (.pulseArm m g v) refused)
    ∧ (m.isTaskOrHost = true → (∀ j t, j < 16 → (s.dyn.pulse j).armed = some t → now ≤ t) → Answers (exec (.pulseCtrl m v) s) (fun u =>
        u.dyn.time.run = (v.toNat % 65536) &&& pulseMask s.img
        ∧ (∀ j, j < 16 → u.dyn.time.run.testBit j = s.dyn.time.run.testBit j → u.dyn.pulse j = s.dyn.pulse j)
        ∧ (∀ j, j < 16 → u.dyn.time.run.testBit j ≠ s.dyn.time.run.testBit j →
            u.dyn.pulse j = { s.dyn.pulse j with
              since := now, level := (s.dyn.pulse j).level && u.dyn.time.run.testBit j })
        ∧ (let stops (j : Nat) : Prop := (s.dyn.pulse j).level = true ∧ s.dyn.time.run.testBit j = true
            ∧ u.dyn.time.run.testBit j = false
          ((∀ j, j < 16 → ¬ stops j) → u.dyn.lanes = s.dyn.lanes)
          ∧ ((∀ j, j < 16 → (stops j ↔ j = k)) → u.dyn.lanes = (tddEvent s.img s.dyn k now false).lanes))
        ∧ { u.dyn with time := s.dyn.time, lanes := s.dyn.lanes } = s.dyn ∧ u.img = s.img ∧ u.pending = s.pending))
    ∧ (m.isTaskOrHost = true → pulseRec s.img k = some r →
      let t := x.armHi.toNat * 2 ^ 32 + v.toNat
      (pulsePeriodic r = true → does (.pulseArm m g v) refused)
      ∧ (pulsePeriodic r = false → now ≤ t →
          does (.pulseArm m g v) (s.dyn.onPulse k (fun y => { y with armed := some t, hiRead := x.armHi })))
      ∧ (pulsePeriodic r = false → t < now → runs = false → does (.pulseArm m g v)
          (event (s.dyn.onPulse k (fun y => { y with armed := none, hiRead := x.armHi })) 0x0A00 0 0x0A84 []))
      ∧ (pulsePeriodic r = false → t < now → runs = true → does (.pulseArm m g v)
          (rise (event (s.dyn.onPulse k (fun y => { y with armed := none, hiRead := x.armHi })) 0x0A00 0 0x0A84 []) now)))
    ∧ (runs = false → does (.pulseEdge g) s.dyn)
    ∧ (pulseRec s.img k = some r → pulsePeriodic r = false → runs = true → x.level = false →
      (∀ t : Nat, x.armed = some t → (t : Int) ≤ at_ → does (.pulseEdge g)
        (rise (s.dyn.onPulse k (fun y => { y with armed := none })) t))
      ∧ (∀ t : Nat, x.armed = some t → at_ < t → does (.pulseEdge g) s.dyn)
      ∧ (x.armed = none → does (.pulseEdge g) s.dyn))
    ∧ (pulseRec s.img k = some r → pulsePeriodic r = true → runs = true → x.level = false →
      let t := at_ - (at_ - timeOffset s.img - (fld r 8 4 : Nat)) % (fld r 0x10 4 : Nat)
      ((x.since : Int) ≤ t → does (.pulseEdge g) (rise s.dyn t.toNat))
      ∧ (t < x.since → does (.pulseEdge g) s.dyn))
    ∧ (∀ t0 : Nat, pulseRec s.img k = some r → pulsePeriodic r = true → runs = true → x.level = true →
        x.lastRise = some t0 →
      let t := at_ - (at_ - timeOffset s.img - (fld r 8 4 : Nat)) % (fld r 0x10 4 : Nat)
      let fall := t0 + pulseWidth r
      (t = fall → (x.since : Int) ≤ t → does (.pulseEdge g) (rise s.dyn fall))
      ∧ (t < x.since → (fall : Int) ≤ at_ → does (.pulseEdge g)
          (tddEvent s.img (s.dyn.onPulse k (fun y => { y with level := false })) k fall false))
      ∧ (t < x.since → at_ < fall → does (.pulseEdge g) s.dyn))
    ∧ (∀ t0 : Nat, pulseRec s.img k = some r → pulsePeriodic r = false → runs = true → x.level = true →
        x.lastRise = some t0 → x.armed = none →
      let fall := t0 + pulseWidth r
      ((fall : Int) ≤ at_ → does (.pulseEdge g)
        (tddEvent s.img (s.dyn.onPulse k (fun y => { y with level := false })) k fall false))
      ∧ (at_ < fall → does (.pulseEdge g) s.dyn))
    ∧ (∀ t, x.armed = some t →
      (runs = false → t < now → does (.armedTimePassed g)
        (event (s.dyn.onPulse k (fun y => { y with armed := none })) 0x0A00 0 0x0A84 []))
      ∧ (runs = true ∨ now ≤ t → does (.armedTimePassed g) s.dyn))

/-! ### Power (16) -/

/-- R401, R406: a request for a mode by a master that may make it, in SERVICE, and for DEEPSLEEP in HOLD (log 144),
with every cell quiet for NAP and DEEPSLEEP. (That a mode the device state does not allow is refused as an access is the model's choice, log 54.)

R402 to R405, R408, R409, R411: the steps of a change, the wake edges, the monitors and the AVS target. An idle
domain has its fences ordered, and is switched off when they stand; one that signals power-good within 20 µs becomes
available when its copy of tick time is valid and its fences are released. A refused change rolls back the domains
it stopped, once the fences are released, is counted, logged and reported. (When a pending change begins and from
when QLIMIT counts are logs 83 and 84; the wait for the next distribution word is free, log 129; so is VIO's
presence after a wake that fails, log 145.) -/
def Obligations.PowerCommands : Prop :=
  (∀ (m : Master) (s : State), islandUp s.dyn = true →
      let p := s.dyn.power
      let asks (i : Instr) (mode : Nat) : Prop :=
        let does (d : Dyn) := Becomes (exec i s) s d
        (powerMaster m mode = false → does (writeRefused s.dyn 0x0B00))
        ∧ (s.dyn.dst.state ≠ .service → ¬ (s.dyn.dst.state = .hold ∧ mode = 3) → does (writeRefused s.dyn 0x0B00))
        ∧ (powerMaster m mode = true → s.dyn.dst.state = .service ∨ (s.dyn.dst.state = .hold ∧ mode = 3) →
          (2 ≤ mode → allQuiet s.img s.dyn = false → does (refusal s.dyn 0x0B00 0x0C03 []))
          ∧ (mode < 2 ∨ allQuiet s.img s.dyn = true →
            (p.busy = false → p.pend = none → p.current = mode → does s.dyn)
            ∧ (p.busy = false → p.pend = none → p.current ≠ mode → does (goOn 4 (planChange s.img s.dyn mode)))
            ∧ (∀ q, p.busy = false → p.pend = some q → p.current ≠ q →
                let d := goOn 4 (planChange s.img (s.dyn.onPower (fun x => { x with pend := none })) q)
                d.power.busy = true → d.power.pend = none →
                does (d.onPower (fun x => { x with pend := some mode })))
            ∧ (p.busy = true → p.pend = none → does (s.dyn.onPower (fun x => { x with pend := some mode })))
            ∧ (∀ old, p.busy = true → p.pend = some old → does
                (event (s.dyn.onPower (fun x => { x with pend := some mode })) 0x0B00 0 0x0082 (leBytes 1 old)))))
      (m.isExecOrHost = false → powerMaster m 0 = false ∧ powerMaster m 1 = false)
      ∧ (m.isHost = false → powerMaster m 2 = false) ∧ (m ≠ .management → powerMaster m 3 = false)
      ∧ asks (.powerReqFull m) 0 ∧ asks (.trim m) 1 ∧ asks (.nap m) 2 ∧ asks (.deepsleep m) 3)
  ∧ (∀ (reason : Fin 4) (pin : Fin 32) (rising fault : Bool) (acked : BitVec 3) (tj : Int) (mv : Half) (vcore : Nat)
        (s : State),
      let d := s.dyn
      let p := d.power
      let does (i : Instr) (d' : Dyn) := Becomes (exec i s) s d'
      (islandUp d = true →
        (∀ k since, p.leaving = some (k, since) →
          (domainIdle d k = true → p.fencing = false → does .domainAgree (leaveFenced s.img (orderFences d k)))
          ∧ (domainIdle d k = true → p.fencing = true → does .domainAgree (leaveFenced s.img d))
          ∧ (domainIdle d k = true → p.fencing = true → (∀ e ∈ fencesOf d k, fenceStands d e = true) →
              leaveFenced s.img d = goOn 4 ((domainSwitchOff s.img d k).onPower (fun x => { x with
                leaving := none, fencing := false, stopped := k :: x.stopped, todo := x.todo.drop 1 })))
          ∧ (∀ e ∈ fencesOf d k, fenceStands d e = false → leaveFenced s.img d = d)
          ∧ (domainIdle d k = false → does .domainAgree d)
          ∧ (∀ e c rest, reason = 3 → p.fencing = true → e ∈ fencesOf d k → d.portMode e = 0 →
              d.changes (e / 4) = c :: rest → c.slot = e % 4 → c.mode = 1 → c.retryAt = none →
              usPassed d.now c.since (s.img.reg 0x06000000 / 2 ^ 16 % 256) = true →
              does (.domainRefused reason) (goOn 4 (refuseDomain d k 3)))
          ∧ (reason = 1 → domainIdle d k = false → usPassed d.now since (boardField s.img 0xA 2) = true →
              does (.domainRefused reason) (goOn 4 (refuseDomain d k 1))))
        ∧ (p.leaving = none → does .domainAgree d ∧ does (.domainRefused reason) d)
        ∧ (∀ r, does (.quiesce r) (refusalReleased (riseReleased s.img (leaveFenced s.img (acceptAgain s.img d r.toNat)))))
        ∧ (∀ k, p.releasing = some k →
            ((∀ e ∈ domainEndpoints k, d.portMode e ≠ 1) →
              refusalReleased d = goOn 4 (d.onPower (fun x => { x with releasing := none })))
            ∧ (∀ e ∈ domainEndpoints k, d.portMode e = 1 → refusalReleased d = d ∧ goOn 4 d = d))
        ∧ (∀ k since, p.rising = some (k, since) →
            (p.good = none → (d.now - since) * 100 ≤ 20 * 196608 → ∃ wait < 3933, does .powerGood
              (copyWord s.img ({ d with free := d.free + 1 }.onPower (fun x => { x with good := some (d.now + wait) }))))
            ∧ (p.good = none → 20 * 196608 < (d.now - since) * 100 → does .powerGood d)
            ∧ (p.good = none → 20 * 196608 ≤ (d.now - since) * 100 → does .powerGoodFail
                (goOn 4 (event (d.onPower (fun x => { x with
                  rising := none, on := Map.set x.on k false, todo := x.todo.drop 1 })) 0x0B00 6 0x0B83 [])))
            ∧ ((d.now - since) * 100 < 20 * 196608 → does .powerGoodFail d)
            ∧ (∀ at_, p.good = some at_ → does .powerGood d ∧ does .powerGoodFail d
                ∧ (d.now < at_ → copyWord s.img d = d)
                ∧ (at_ ≤ d.now → p.copied = false → copyWord s.img d
                    = riseReleased s.img ((releaseFences d k).onPower (fun x => { x with copied := true }))))
            ∧ (p.copied = true → (∀ e ∈ domainEndpoints k, d.portMode e ≠ 1) →
                riseReleased s.img d = goOn 4 ((domainSwitchOn s.img d k).onPower (fun x => { x with
                  rising := none, good := none, copied := false, todo := x.todo.drop 1 })))
            ∧ (∀ e ∈ domainEndpoints k, d.portMode e = 1 → riseReleased s.img d = d)
            ∧ (p.copied = false → riseReleased s.img d = d))
        ∧ (p.rising = none → does .powerGood d ∧ does .powerGoodFail d)
        ∧ does .vcoreWarning (event (d.onPower (fun x => { x with brown := true })) 0x0B00 7 0x0B84 [])
        ∧ (p.avsFault = false → avsLimits s.img ≠ some (0, 0) → 1966080 ≤ d.now - p.avsAt →
            Answers (exec (.avsUpdate tj acked fault mv) s) (fun u =>
              u.dyn.power.avsTarget ≤ p.avsTarget + 5 ∧ p.avsTarget ≤ u.dyn.power.avsTarget + 5
              ∧ u.dyn.power.avsAt = d.now
              ∧ (avsLimits s.img ≠ none → u.dyn.power.avsRail = boardField s.img 8 1 ∧ u.dyn.free = d.free)
              ∧ u.dyn.power.vout = (if acked.getLsbD 1 then mv.toNat else p.vout)
              ∧ (acked = 7 → u.dyn.power.noAck = 0 ∧ u.dyn.power.avsFault = fault)
              ∧ (acked = 0 → u.dyn.power.noAck = p.noAck + 3 ∧ u.dyn.power.avsFault = true)
              ∧ (acked = 4 → u.dyn.power.noAck = 0 ∧ u.dyn.power.avsFault = (fault || decide (1 ≤ p.noAck)))))
        ∧ (p.avsFault = true ∨ avsLimits s.img = some (0, 0) ∨ d.now - p.avsAt < 1966080 →
            does (.avsUpdate tj acked fault mv) d))
      ∧ (pinsTaken d = false →
        (d.dst.state = .service → p.current = 2 → wakes s.img pin.val rising 0 = true →
          does (.wakeEdge pin rising) (placeRequest s.img d p.beforeNap))
        ∧ (d.dst.state = .deepsleep → d.dst.waking = false → wakes s.img pin.val rising 1 = true →
            does (.wakeEdge pin rising) { d with dst := { d.dst with mainEn := true, waking := true, vioUp := true } }))
      ∧ (d.dst.state = .deepsleep → d.dst.waking = true →
        (vcore ≤ 600 → ∃ vio, does (.deepsleepWakeCheck vcore)
            { d with dst := { d.dst with mainEn := false, waking := false, vioUp := vio }, free := d.free + 1 })
        ∧ (600 < vcore → exec (.deepsleepWakeCheck vcore) s
            = .next { s with img := Img.reset, dyn := islandReset d 3 true }))
      ∧ (∀ k why, let q := (refuseDomain d k why).power
        q.rollback = true ∧ q.leaving = none ∧ q.stopped = [] ∧ q.todo = p.stopped.map (fun j => (j, true))
        ∧ (p.fencing = false → (∀ e ∈ domainEndpoints k, d.portMode e ≠ 1) → q.releasing = none)
        ∧ (∀ e ∈ domainEndpoints k, d.portMode e = 1 → q.releasing = some k)
        ∧ Map.get 0 q.refusals p.target = min 0xFFFFFFFF (Map.get 0 p.refusals p.target + 1)
        ∧ q.log = Map.set p.log p.logNext
            { source := refusingUnit d k, reason := why, mode := p.target, tick := d.nowAt 0x0B00 }
        ∧ q.logNext = (p.logNext + 1) % 16))

/-! ### Reports, counters, registers and JTAG (17, 18) -/

/-- R172, R416 to R418, R420, R424, R427 to R429: a source holds four reports and drops more; the arbiter logs the
oldest; a counter wraps at 2^48 with its OVF bit, and one whose PRIV names no level does not count; an epoch latches
once, with each core's busy time up to it, or is skipped where its shadows are not read yet; and its dump, whose
trailer has the boundary's tick, is written whole. (Which epoch number a dump holds is
log 26, that COUNTER_OVERFLOW counts the clock events log 28, how a value of DUMP_RD is compared log 29.) -/
def Obligations.ReportsAndCounters : Prop :=
  ∀ (m : Master) (src : Half) (k : BitVec 3) (n : Nat) (v : Word) (s : State), islandUp s.dyn = true →
    let d := s.dyn
    let does (i : Instr) (d' : Dyn) := Becomes (exec i s) s d'
    let q := Map.get [] d.rep.ifq src.toNat
    let bank := Map.get Bank.reset d.perf.banks src.toNat
    let ctr := Map.get Ctr.reset bank.ctrs k.toNat
    (∀ r : Report, r.source = src →
      (q.length < 4 → Map.get [] (issue d r).rep.ifq src.toNat
          = q ++ [{ r with lost := Map.get false d.rep.lost src.toNat }] ∧ (issue d r).rep.dropped = d.rep.dropped)
      ∧ (4 ≤ q.length → (issue d r).rep.ifq = d.rep.ifq ∧ (issue d r).rep.dropped = min 0xFFFF (d.rep.dropped + 1)
          ∧ Map.get false (issue d r).rep.lost src.toNat = true))
    ∧ (q = [] → does (.reportAccept src) d)
    ∧ (∀ r rest, q = r :: rest → d.rep.alertCfg = 0 → d.rep.streamOn = false →
        Answers (exec (.reportAccept src) s) (fun u =>
          { u.dyn with perf := d.perf, free := d.free } = { d with rep := { d.rep with
            ifq := Map.set d.rep.ifq src.toNat rest
            log := Map.set d.rep.log (d.rep.logWr.toNat % 1024) r
            logWr := d.rep.logWr + 1 } }
          ∧ u.img = s.img ∧ u.pending = s.pending))
    ∧ (0x0100 ≤ src.toNat → src.toNat < 0x01C0 → d.powered src.toNat = true → ctr.cfg.getLsbD 31 = true →
        ctr.cfg.toNat % 65536 / 256 = 1 → ctr.cfg.toNat % 256 ≤ 10 →
        privSome ctr.cfg.toNat (ctr.cfg.toNat % 65536) = true →
        2 ^ 48 ≤ ctr.value + n → n < 2 ^ 48 → ctr.value < 2 ^ 48 →
        Answers (exec (.counterOverflow src k n) s) (fun u =>
          let b := Map.get Bank.reset u.dyn.perf.banks src.toNat
          (Map.get Ctr.reset b.ctrs k.toNat).value = ctr.value + n - 2 ^ 48
          ∧ b.ovf = bank.ovf ||| 2 ^ k.toNat
          ∧ (∀ j, j ≠ k.toNat → Map.get Ctr.reset b.ctrs j = Map.get Ctr.reset bank.ctrs j)
          ∧ { u.dyn with perf := d.perf, free := d.free } = d))
    ∧ (ctr.value + n < 2 ^ 48 ∨ privSome ctr.cfg.toNat (ctr.cfg.toNat % 65536) = false →
        does (.counterOverflow src k n) d)
    ∧ (epochOf s.img d = d.perf.epoch → d.perf.stepped = false → does .epochBoundary d)
    ∧ (epochOf s.img d ≠ d.perf.epoch ∨ d.perf.stepped = true →
        let unread := d.perf.shadow.isSome = true ∧ dumpsOn s.img = true ∧ d.perf.banks.any (·.2.dump) = true
        Answers (exec .epochBoundary s) (fun u =>
          u.dyn.perf.epoch = epochOf s.img d ∧ u.dyn.perf.stepped = false ∧ u.dyn.perf.epochMarks = []
          ∧ u.dyn.perf.waitRun = [] ∧ u.dyn.perf.busyRun = [] ∧ u.dyn.perf.waitMax = d.perf.waitRun
          ∧ (∀ c, let x := d.core c
            let ran := Map.get 0 d.perf.busyRun c
            (x.tsk.busy = false → Map.get 0 u.dyn.perf.coreBusy c = ran ∧ u.dyn.core c = x)
            ∧ (x.tsk.busy = true → Map.get 0 u.dyn.perf.coreBusy c = min 0xFFFFFFFF (ran + (d.dispNow - x.tsk.since))
                ∧ u.dyn.core c = { x with tsk := { x.tsk with since := d.dispNow } }))
          ∧ (unread → u.dyn.perf.shadow = d.perf.shadow ∧ u.dyn.perf.skipped = min 0xFFFF (d.perf.skipped + 1)
              ∧ u.dyn.rep = (event d 0x0C00 0 0x0C83 []).rep)
          ∧ (¬ unread → u.dyn.perf.skipped = d.perf.skipped ∧ u.dyn.rep = d.rep ∧ ∃ l, u.dyn.perf.shadow = some l ∧ l.epoch = d.perf.epoch ∧ l.banks = u.dyn.perf.banks ∧ l.tick = d.now
              ∧ l.waitMax = d.perf.waitRun ∧ l.coreBusy = u.dyn.perf.coreBusy
              ∧ l.step = d.perf.stepped ∧ (d.perf.stepped = true → l.boundary = d.now)
              ∧ (d.perf.stepped = false →
                  l.boundary = d.now - (((d.now : Int) - timeOffset s.img) % (epochTc s.img : Int)).toNat))
          ∧ (∀ unit j,
              let x := Map.get Ctr.reset (Map.get Bank.reset d.perf.banks unit).ctrs j
              let y := Map.get Ctr.reset (Map.get Bank.reset u.dyn.perf.banks unit).ctrs j
              y.cfg = x.cfg ∧ x.value ≤ y.value
              ∧ (clockEvent (x.cfg.toNat % 65536) = false → y = x))))
    ∧ (d.perf.shadow = none → does .dump d)
    ∧ (∀ l, d.perf.shadow = some l →
        (dumpsOn s.img = true → usPassed d.now l.boundary 2 = true → does .dump (dump s.img d l))
        ∧ (dumpsOn s.img = false ∨ usPassed d.now l.boundary 2 = false → does .dump d)
        ∧ (∃ recs, dumpOf d l = recs ++ [dumpRecord l.epoch 0x0C00 0xFF (4 * b2n l.step) l.boundary
            (leBytes 4 (recs.length + 1) ++ leBytes 4 d.perf.skipped)]))
    ∧ ((v - d.perf.dumpWr).toInt ≤ 0 → does (.dumpRd m v) { d with perf := { d.perf with dumpRd := v } })
    ∧ (0 < (v - d.perf.dumpWr).toInt → does (.dumpRd m v) (writeRefused d 0x0C00))

/-- R6 to R9, R157, R219, R318: a register write by the supervisor to a block that it serves: a word that is
aligned has its register's effect, one to an IMG register is refused with a report, a misaligned one answers
ERROR; a TASK_CMD write waits while the queue is full.

R452, R453, R198: a JTAG instruction is selected while VAON and VIO are present, BYPASS by every opcode that Table
18.12 does not give; REGACC accesses a register, and while the main island is down only the identity block's; an
access that arrives while one runs is ignored and shows BUSY; a debug request raises BREAK. (Whether an access of the
main island's has ended at the next capture is a free value, log 12; what of a flash command's work JTAG keeps from
the flash is log 78's.) -/
def Obligations.RegistersAndJtag : Prop :=
  (∀ (m : Master) (off v : Word) (s : State), islandUp s.dyn = true →
      let o := off.toNat
      let block := o / 2 ^ 24
      let wrote (d : Dyn) (status reason : Nat) := Becomes (exec (.registerWrite m off v) s) s
        { d with mem := { d.mem with lastResp := { status, reason, data := [] } } }
      (block < 8 ∨ block = 0x0B ∨ block = 0x0C → m = .supervisor →
        (o % 4 = 0 → imgBits o = 0 → wrote (regWrite s.img s.dyn .supervisor o v) 0 0)
        ∧ (o % 4 = 0 → imgBits o ≠ 0 → wrote (accessRefused s.dyn (refusingSrc o) (0x00F000000000 + o) 0x0C00) 0 0)
        ∧ (o % 4 ≠ 0 → wrote s.dyn 5 3)
        ∧ (o = 0x0C000008 → wrote { s.dyn with rep := { s.dyn.rep with alertCfg := v &&& 0x001FFF0F } } 0 0)
        ∧ (∀ c : Core, o = 0x01000400 + 4 * c.val →
            wrote (s.dyn.onCtl c.val (fun y => { y with dbell := y.dbell ||| v })) 0 0))
      ∧ (0x0D ≤ block → wrote s.dyn 5 2)
      ∧ (o = 0x08000010 → 256 ≤ s.dyn.disp.cmdQ.length → m = .supervisor →
          Becomes (exec (.registerWrite m off v) s) s s.dyn))
  ∧ (∀ (update : Nat) (w : BitVec 67) (c : Core) (s : State),
      let d := s.dyn
      let does (i : Instr) (d' : Dyn) := Becomes (exec i s) s d'
      let spi (op : Nat) : SpiPath :=
        if op ∈ [0x00, 0x03, 0x04, 0x05, 0x06] then (if d.tap.spi = .clear then .cut else d.tap.spi)
        else if d.tap.spi = .lost then .cut else d.tap.spi
      let sel (op : Nat) : Dyn := { d with tap := { d.tap with ir := op, spi := spi op } }
      let cells (op : Nat) : Dyn := { d with tap := { d.tap with ir := op, boundary := update, spi := spi op } }
      let shows (w : Nat) : Dyn := { d with tap := { d.tap with ir := 0x10, regacc := w, spi := spi 0x10 } }
      let read := w.toNat < 2 ^ 63 ∧ w.toNat / 2 ^ 32 % 2 ^ 31 < 4
      let identity := 2 ^ 64 + readIdentity s.img d 0 % 2 ^ 32
      (jtagUp d = true →
        does (.extest update) (cells 0) ∧ does (.samplePreload update) (cells 1) ∧ does .idcode (sel 2)
        ∧ does .highz (sel 3) ∧ does .clamp (sel 4) ∧ does (.extestPulse update) (cells 5)
        ∧ does (.extestTrain update) (cells 6) ∧ does .bypass (sel 0xFF)
        ∧ does (.regacc w) (regacc s.img (sel 0x10) w.toNat)
        ∧ (d.tap.running = none →
          (islandUp d = false → 2 ^ 24 ≤ w.toNat / 2 ^ 32 % 2 ^ 31 →
            does (.regacc w) (shows (2 ^ 64 + 2 ^ 65)))
          ∧ (islandUp d = false → read → does (.regacc w) (shows identity))
          ∧ (islandUp d = true → read → Answers (exec (.regacc w) s) (fun u =>
              { u.dyn with tap := d.tap, free := d.free } = d
              ∧ ((u.dyn.tap.regacc = identity ∧ u.dyn.tap.running = none)
                ∨ (u.dyn.tap.regacc / 2 ^ 66 = 1 ∧ u.dyn.tap.running = some identity)))))
        ∧ (∀ r, d.tap.running = some r → ∃ data < 2 ^ 32, does (.regacc w)
            { shows (2 ^ 66 + data) with free := d.free + 1 }))
      ∧ (∀ op, op ∉ [0x00, 0x01, 0x02, 0x03, 0x04, 0x05, 0x06, 0x10] → jtagOpcode op = 0xFF)
      ∧ (jtagUp d = false → does (.extest update) d ∧ does .idcode d ∧ does .bypass d ∧ does (.regacc w) d)
      ∧ (islandUp d = true → atBoundary d c.val = true → (d.status c.val).hact = false →
          (d.core c.val).tsk.abort = none → (d.status c.val).pl = .exec →
          Answers (exec (.jtagDebugRequest c) s) (CoreBecomes c
            (CoreSt.entered { d.core c.val with tsk := { (d.core c.val).tsk with waiting := false } } 9 0 0
              (d.pc c.val) none) s))
      ∧ (islandUp d = true → atBoundary d c.val = false → does (.jtagDebugRequest c) d))

/-! ### Management (02, 05, 11, 15) -/

/-- R146, R153, R309 to R313: the management commands on registers, memory, reports and standing orders. The
command is taken from VC 0 and answered with its OP and TAG. (That a row takes a message whether or not one waits is
log 107; the report of a refusal, by 0x0C00 and with no item, and an answer without a body there are log 67; the
completion of a memory command that is not run is log 127; that REPORT_STREAM sends the records accepted from then on
is log 68.) -/
def Obligations.ManagementAccesses : Prop :=
  ∀ (tag entry id : Half) (a n : Word) (x : DWord) (ws : List Word) (data : List Byte) (on cls kind : Byte)
    (s : State), islandUp s.dyn = true →
    let d : Dyn := { s.dyn with taken := s.dyn.taken + 1, inbox := s.dyn.inbox.drop 1 }
    let does (i : Instr) (d' : Dyn) := Becomes (exec i s) s d'
    let range (k : Nat) := 1 ≤ k ∧ k ≤ 256 ∧ a.toNat % 4 = 0 ∧ a.toNat + 4 * k ≤ 0x0D000000
    let st := d.dst.state
    let addr := x.toNat % 2 ^ 48
    (range n.toNat →
      let r := (List.range n.toNat).foldl (fun acc k => readWord s.img acc (a.toNat + 4 * k)) (d, [])
      does (.regRead tag a n) (answer r.1 1 tag 0 r.2))
    ∧ (¬ range n.toNat → does (.regRead tag a n) (answer d 1 tag 0xF002 []))
    ∧ (range ws.length → does (.regWrite tag a ws) (answer
        (((List.range ws.length).zip ws).foldl (fun d e =>
          (regAccess s.img d .management (a.toNat + 4 * e.1) 4 (some e.2)).1) d) 2 tag 0 []))
    ∧ (¬ range ws.length → does (.regWrite tag a ws) (answer d 2 tag 0xF002 []))
    ∧ (st = .hold ∨ st = .service ∨ st = .recovery →
      (1 ≤ n.toNat → n.toNat ≤ 65536 →
        let r := runParts s.img none addr (partsOf addr n.toNat) d
        does (.memRead tag x n) (answer r.1 3 tag 0 (completion (r.2.1.foldl max 0) r.2.1 ++ r.2.2)))
      ∧ (1 ≤ data.length → data.length ≤ 65536 →
        let r := runParts s.img (some data) addr (partsOf addr data.length) d
        does (.memWrite tag x data) (answer r.1 4 tag 0 (completion (r.2.1.foldl max 0) r.2.1)))
      ∧ (n = 0 → does (.memRead tag x n) (answer d 3 tag 0xF002 (completion 5 []))))
    ∧ (st = .boot ∨ st = .selftest → does (.memRead tag x n) (answer d 3 tag 0xF003 (completion 5 []))
        ∧ does (.memWrite tag x data) (answer d 4 tag 0xF003 (completion 5 []))
        ∧ does (.soAdd tag data) (answer d 0x20 tag 0xF003 []))
    ∧ (7 < cls.toNat → does (.reportStream tag on cls) (answer d 0x10 tag 0xF002 []))
    ∧ (cls.toNat ≤ 7 → d.rep.streamOn = false → does (.reportStream tag on cls)
        (answer { d with rep := { d.rep with
          streamOn := decide (on ≠ 0), streamMin := cls.toNat, streamNext := d.rep.logWr, streamLost := 0 } }
          0x10 tag 0 []))
    ∧ (s.dyn.rep.streamOn = false → does .reportStreamSend s.dyn)
    ∧ (s.dyn.rep.streamOn = true → creditLeft s.dyn = true → does .reportStreamSend (streamSend s.dyn))
    ∧ (creditLeft s.dyn = false → does .reportStreamSend s.dyn)
    ∧ (st = .service →
      (data.length = 32 → orderBad data = false → fld data 6 1 ≠ 8 → ∀ i, freeEntry d = some i →
        does (.soAdd tag data) (answer { d with disp := { d.disp with
          orders := Map.set d.disp.orders i { record := data, image := false, counts := [] } } } 0x20 tag 0 (leBytes 2 i)))
      ∧ (data.length = 32 → orderBad data = true →
          does (.soAdd tag data) (answer (refusal d 0x0C00 0x0704 []) 0x20 tag 0x0704 []))
      ∧ (∀ k o, d.disp.orders.find? (fun e => e.1 == entry.toNat) = some (k, o) →
        (o.image = false → does (.soRemove tag entry)
          (answer { d with disp := { d.disp with orders := Map.del d.disp.orders entry.toNat } } 0x21 tag 0 []))
        ∧ (o.image = true → does (.soRemove tag entry)
          (answer (refusal d 0x0C00 0x0704 []) 0x21 tag 0x0704 [])))
      ∧ (kind = 0 → id.toNat ∈ allSources → does (.soRelease tag kind id)
          (answer (releaseSource s.img d id.toNat) 0x22 tag 0 []))
      ∧ (kind = 1 → id.toNat < 256 → does (.soRelease tag kind id)
          (answer { d with blanked := d.blanked.filter (fun y => y != id.toNat) } 0x22 tag 0 []))
      ∧ (2 ≤ kind.toNat → does (.soRelease tag kind id) (answer d 0x22 tag 0xF002 [])))

/-- R47, R51 to R54, R310, R311, R355, R392, R395, R452: the management commands on flash, keys, fuses and the
device's state. A flash command reaches the flash while JTAG does not hold the SPI pins. (That a row takes a message whether or not one waits is log 107; the report of a refusal, by 0x0C00
and with no item, and an answer without a body there are log 67; what a flash command does while JTAG holds the pins
is log 78.) -/
def Obligations.ManagementControl : Prop :=
  ∀ (tag flags : Half) (a n ao al bo bl : Word) (data : List Byte) (copy slot fuse : Byte) (back : Nat) (s : State),
    islandUp s.dyn = true →
    let d : Dyn := { s.dyn with taken := s.dyn.taken + 1, inbox := s.dyn.inbox.drop 1 }
    let does (i : Instr) (d' : Dyn) := Becomes (exec i s) s d'
    let st := d.dst.state
    let starts (j : FlashJob) : Dyn := { d with
      flash := { d.flash with job := some j }, tap := { d.tap with spi := if pinsTaken d then .lost else .clear } }
    let idle := d.flash.job = none ∧ d.flash.responds = true
    let fits (k : Nat) := a.toNat + k ≤ d.flash.density
    (1 ≤ n.toNat → n.toNat ≤ 65536 → fits n.toNat → idle → pinsTaken d = false →
      does (.flashRead tag a n) (answer d 0x40 tag 0 (d.flash.readN a.toNat n.toNat)))
    ∧ (a.toNat % 4096 = 0 → n.toNat % 4096 = 0 → fits n.toNat → idle →
      (flashProtected s.img d a.toNat n.toNat = false → does (.flashErase tag a n) (starts (.erase tag a.toNat n.toNat)))
      ∧ (flashProtected s.img d a.toNat n.toNat = true → does (.flashErase tag a n) (answer d 0x41 tag 0x0C01 [])))
    ∧ (1 ≤ data.length → data.length ≤ 65536 → pagesBad a.toNat data.length = false → fits data.length → idle →
      flashProtected s.img d a.toNat data.length = false →
      does (.flashProgram tag a data) (starts (.program tag a.toNat data)))
    ∧ (copy = 1 ∨ copy = 2 → idle → does (.flashVerify tag copy) (starts (.verify tag copy.toNat)))
    ∧ (idle → does (.flashCommit tag flags ao al bo bl)
        (starts (.commit tag flags.toNat ao.toNat al.toNat bo.toNat bl.toNat)))
    ∧ (∀ j, d.flash.job = some j → does (.flashCommit tag flags ao al bo bl) (answer d 0x44 tag 0x0C02 []))
    ∧ (∀ t off k, s.dyn.flash.job = some (.erase t off k) → s.dyn.flash.restart = none →
        (s.dyn.tap.spi = .clear → does .flashCommandDone
          (answer { s.dyn with flash := { s.dyn.flash.erase off k with job := none } } 0x41 t 0 []))
        ∧ (s.dyn.tap.spi = .lost → Answers (exec .flashCommandDone s) (fun u =>
            u.dyn.flash = { s.dyn.flash with job := none } ∧ u.dyn.mem = s.dyn.mem ∧ u.img = s.img)))
    ∧ (s.dyn.flash.job = none → does .flashCommandDone s.dyn)
    ∧ (st = .service → slot.toNat < 63 → (d.key slot.toNat).origin ≠ 1 →
        let u := writeKey d slot.toNat 0 0 0
        does (.keyErase tag slot) (answer u 0x31 tag 0 (leBytes 2 (u.key slot.toNat).gen ++ zeros 2))
        ∧ (u.key slot.toNat).key = 0 ∧ (u.key slot.toNat).origin = 0
        ∧ (u.key slot.toNat).gen = ((d.key slot.toNat).gen + 1) % 65536
        ∧ (∀ k, k ≠ slot.toNat → u.key k = d.key k))
    ∧ (st = .service → slot.toNat = 63 ∨ (d.key slot.toNat).origin = 1 →
        does (.keyErase tag slot) (answer (refusal d 0x0C00 0x0506 []) 0x31 tag 0x0506 []))
    ∧ (∀ k, st = .service → data.length = 48 → fld data 0 1 < 63 → (d.key (fld data 0 1)).origin ≠ 1 →
        1 ≤ fld data 1 1 → fld data 1 1 ≤ 3 → (d.key 63).origin ≠ 0 →
        keyUnwrap (d.key 63).key ((data.drop 8).take 40) = some k →
        let u := event (writeKey d (fld data 0 1) (leNat k) (fld data 1 1) 2) 0x0910 0 0x0981 []
        does (.keyUpload tag data) (answer u 0x30 tag 0
          (leBytes 2 (u.key (fld data 0 1)).gen ++ zeros 1 ++ keyCheck (leNat k))))
    ∧ (st = .hold → fuse = 3 → back = leNat data → data.length = 1 → back ≤ 64 → d.fuse.minSecver ≤ back →
        does (.fuseProgram tag fuse data back)
          (answer { d with fuse := { d.fuse with minSecver := back } } 0x50 tag 0 (zeros 4)))
    ∧ (st ≠ .hold → does (.fuseProgram tag fuse data back) (answer d 0x50 tag 0xF003 []))
    ∧ (let t := deviceTime d.time.t
      does (.timeQuery tag) (answer d 0x60 tag 0
        (leBytes 6 t.1 ++ leBytes 4 t.2.1 ++ leBytes 2 t.2.2 ++ leBytes 8 d.now)))
    ∧ (st = .hold ∨ st = .recovery ∨ (st = .service ∧ allQuiet s.img d = true) → d.flash.job = none →
        exec (.restart tag) s = .next { s with img := Img.reset, dyn := restartNow (answer d 0x70 tag 0 []) })
    ∧ (st = .hold ∨ (st = .service ∧ allQuiet s.img d = true) →
        does (.enterRecovery tag) (answer (endIdle .recovery (eraseKeys d)) 0x71 tag 0 []))
    ∧ (st = .service → allQuiet s.img d = false →
        does (.restart tag) (answer d 0x70 tag 0x0C03 []) ∧ does (.enterRecovery tag) (answer d 0x71 tag 0x0C03 []))

/-! ### Start and resets (02, 16, 18) -/

/-- R37, R45, R46, R393, R408, R409, R439 to R442: power-up, resets and trips, and where a start ends. A copy that
the checks accept, with every unit passing its test, reaches SERVICE with its configuration loaded. (The whole start
as one command is the model's choice, log 65; that no core runs in HOLD and RECOVERY is read from the spec, log 66;
the state that DeviceSt.reset and MemSt.reset give after VAON_TRIP and a reset is named in logs 3 and 9.) -/
def Obligations.StartsAndResets : Prop :=
  ∀ (low : Nat) (bootsel : Bool) (env : StartEnv) (s : State),
    let d := s.dyn
    let goes (i : Instr) (d' : Dyn) := exec i s = .next { s with img := Img.reset, dyn := d' }
    let does (i : Instr) (d' : Dyn) := Becomes (exec i s) s d'
    (d.dst.aonUp = false → does .aonResetRelease { d with dst := { d.dst with
        aonUp := true, mainEn := true, vioUp := true } }
      ∧ does (.resetN low) d ∧ does .vaonTrip d ∧ does (.startSequence env) d)
    ∧ (d.dst.aonUp = true → does .aonResetRelease d
      ∧ (1000 ≤ low → goes (.resetN low) (islandReset d 1 false)) ∧ (low < 1000 → does (.resetN low) d)
      ∧ Answers (exec .vaonTrip s) (fun u => u.img = Img.reset ∧ u.dyn.fuse = d.fuse ∧ u.dyn.dst = DeviceSt.reset
          ∧ u.dyn.cores = [] ∧ u.dyn.mem = MemSt.reset ∧ u.dyn.keys = [] ∧ u.dyn.rep = ReportSt.reset)
      ∧ (d.dst.state = .boot → d.dst.startReady = false →
          does (.resetNRelease bootsel) { d with dst := { d.dst with bootsel, startReady := true } })
      ∧ (d.dst.state ≠ .boot → does (.resetNRelease bootsel) d))
    ∧ (islandUp d = true → goes .vcoreTrip (islandReset d 2 true))
    ∧ (∀ cause ready, let r := islandReset d cause ready
      r.dst.state = .boot ∧ r.dst.resetCause = cause ∧ r.fuse = d.fuse ∧ r.cores = [] ∧ r.keys = []
      ∧ r.mem = MemSt.reset ∧ r.lanes = [] ∧ r.rep = ReportSt.reset ∧ r.time = TimeSt.reset)
    ∧ (d.dst.aonUp = true → d.dst.startReady = true → env.vcoreHeld = true → env.dramFail = [] →
      (clocksBad env = true → Answers (exec (.startSequence env) s) (fun u =>
        u.img = Img.reset ∧ u.dyn.dst.state = .hold ∧ u.dyn.cores = []))
      ∧ (clocksBad env = false → d.dst.bootsel = true → Answers (exec (.startSequence env) s) (fun u =>
          u.img = Img.reset ∧ u.dyn.dst.state = .recovery ∧ u.dyn.dst.dramUp = true ∧ u.dyn.cores = []))
      ∧ (clocksBad env = false → d.dst.bootsel = false → pinsTaken d = false → flashRefused d.flash = none →
          ∀ b im k rest, bootDir d.flash = some b → copyOrder b.1 = k :: rest →
          checkCopy d.flash d.fuse ((loadImageKey d).key 63) b.1 k = ([], some im) →
          env.failing = [] → (∀ x ∈ env.loops, x.lost = 0 ∧ 80 ≤ x.margin) → env.applyError = false →
          Answers (exec (.startSequence env) s) (fun u =>
            u.dyn.dst.state = .service ∧ u.dyn.dst.phase = 0x20
            ∧ u.img.loaded = loadedWord im d.fuse.minSecver false ∧ u.img.sections = im.config.sections
            ∧ u.img.regs = im.config.regs ∧ u.pending = s.pending)))

/-! ### The whole machine -/

/-- The block's step: the command at the front of the queue runs with the rest of the queue; with none
waiting, tick time goes on by one clock of the time base while the main island runs (R356; that a step on an
empty queue is a clock is the model's choice, log 69), and what waited for a clock happens: a pending change of mode
begins (R406, log 83), and a JTAG access ends (log 12). -/
def Obligations.StepRunsFront : Prop :=
  ∀ (c : Instr) (rest : List Instr) (s : State),
    step { s with pending := c :: rest } = exec c { s with pending := rest }
    ∧ (s.pending = [] → islandUp s.dyn = true →
      let p := s.dyn.power
      let clock : Dyn := { s.dyn with time := { s.dyn.time with
        t := s.dyn.time.t + (4 * 2 ^ 48 + 4 * s.dyn.time.rate).toNat } }
      let waits := p.pend.isSome = true ∧ p.busy = false
      (p.rising = none → ¬ waits → s.dyn.tap.running = none → Becomes (step s) s clock)
      ∧ (∀ w, p.rising = none → ¬ waits → s.dyn.tap.running = some w → Becomes (step s) s
          { clock with tap := { s.dyn.tap with regacc := w, running := none } })
      ∧ (∀ mode, p.rising = none → p.pend = some mode → p.busy = false → s.dyn.tap.running = none →
          let d := clock.onPower (fun x => { x with pend := none })
          (mode = p.current → Becomes (step s) s d)
          ∧ (mode ≠ p.current → Becomes (step s) s (goOn 4 (planChange s.img d mode)))))
    ∧ (s.pending = [] → islandUp s.dyn = false → step s = .next s)

/-- R10, R37: right after reset no command waits and the device is in BOOT with nothing loaded; the IMG
registers of Tables 12.8, 13.6, 13.7 and 17.7 and ALERT_CFG hold their reset values, the servo runs free, every
core is stopped with STATUS and the D registers zero, no cipher engine is locked or has run, every key slot is
empty, every lane is OFF and every handle EMPTY; and memory is in its canonical form (the model's own, log 9). -/
def Obligations.ResetValues : Prop :=
  let s := State.reset
  s.pending = [] ∧ s.img = Img.reset ∧ s.img.loaded = 0 ∧ s.dyn.dst.state = .boot ∧ s.dyn.dst.phase = 1
  ∧ s.img.reg 0x06000000 = 0x00140010 ∧ s.img.reg 0x07000000 = 0x003C0050 ∧ s.img.reg 0x07000004 = 0x103E8040
  ∧ s.img.reg 0x07000008 = 0x103E8040 ∧ s.img.reg 0x0C000014 = 8
  ∧ s.dyn.rep.alertCfg = 7 ∧ s.dyn.time.servo = .freerun ∧ s.dyn.time.rate = 0
  ∧ (∀ c, (s.dyn.status c).word = 0 ∧ (s.dyn.core c).tsk.run = .stopped ∧ (∀ r, s.dyn.rd c r = 0))
  ∧ (∀ e, (s.dyn.cipherEng e).status = 0xFF ∧ (s.dyn.cipherEng e).owner = 0)
  ∧ (∀ k, (s.dyn.key k).origin = 0 ∧ (s.dyn.key k).gen = 0)
  ∧ (∀ n, (s.dyn.lane n).teth.state = 0) ∧ (∀ h, (handleOf s.img s.dyn h).state = 0)
  ∧ Memory.wf s.dyn.mem.cells = true

/-- R8, R27: what an image loads changes with a start and with what ends one, and with no other command; and
where LOADED_IMAGE shows none, nothing is loaded: every step keeps that (it holds at reset: `ResetValues`).
No command's effect touches the queue. -/
def Obligations.LoadedConfiguration : Prop :=
  let none_ (s : State) : Prop := s.img.loaded = 0 → s.img = Img.reset
  (∀ s t, none_ s → step s = .next t → none_ t)
  ∧ (∀ (c : Instr) (s t : State), exec c s = .next t →
      (∀ env, c ≠ .startSequence env) → (∀ n, c ≠ .resetN n) → c ≠ .vcoreTrip → c ≠ .vaonTrip →
      (∀ tag, c ≠ .restart tag) → c ≠ .flashCommandDone → (∀ v, c ≠ .deepsleepWakeCheck v) →
      t.img = s.img)
  ∧ (∀ (c : Instr) (s t : State), exec c s = .next t → t.pending = s.pending)

/-- R407, R439, R441: while the main island does not run, a command changes the always-on domain or nothing. (That a
command to the main island then has no effect is the model's reading, log 50.) -/
def Obligations.IslandDown : Prop :=
  ∀ (c : Instr) (s t : State), islandUp s.dyn = false → exec c s = .next t →
    t = s
    ∨ c = .aonResetRelease ∨ (∃ n, c = .resetN n) ∨ (∃ b, c = .resetNRelease b) ∨ (∃ env, c = .startSequence env)
    ∨ c = .vaonTrip ∨ (∃ pin r, c = .wakeEdge pin r) ∨ (∃ v, c = .deepsleepWakeCheck v)
    ∨ (t.img = s.img ∧ { t.dyn with tap := s.dyn.tap, free := s.dyn.free } = s.dyn)

end Claims
end

