-- ==== Sys2Proof/Laws/State.lean ====
section
/-! SUPPORT. One lemma per field for each update of the state: what an update leaves alone, so that no
later proof unfolds one. -/

namespace Sys2Proof.Machine


/-! ### Dyn.setCore -/

@[simp] theorem Dyn.setCore_dst (d : Dyn) (c : Nat) (x : CoreSt) : (d.setCore c x).dst = d.dst := rfl
@[simp] theorem Dyn.setCore_fuse (d : Dyn) (c : Nat) (x : CoreSt) : (d.setCore c x).fuse = d.fuse := rfl
@[simp] theorem Dyn.setCore_flash (d : Dyn) (c : Nat) (x : CoreSt) : (d.setCore c x).flash = d.flash := rfl
@[simp] theorem Dyn.setCore_time (d : Dyn) (c : Nat) (x : CoreSt) : (d.setCore c x).time = d.time := rfl
@[simp] theorem Dyn.setCore_gpio (d : Dyn) (c : Nat) (x : CoreSt) : (d.setCore c x).gpio = d.gpio := rfl
@[simp] theorem Dyn.setCore_rep (d : Dyn) (c : Nat) (x : CoreSt) : (d.setCore c x).rep = d.rep := rfl
@[simp] theorem Dyn.setCore_perf (d : Dyn) (c : Nat) (x : CoreSt) : (d.setCore c x).perf = d.perf := rfl
@[simp] theorem Dyn.setCore_tiles (d : Dyn) (c : Nat) (x : CoreSt) : (d.setCore c x).tiles = d.tiles := rfl
@[simp] theorem Dyn.setCore_disp (d : Dyn) (c : Nat) (x : CoreSt) : (d.setCore c x).disp = d.disp := rfl
@[simp] theorem Dyn.setCore_units (d : Dyn) (c : Nat) (x : CoreSt) : (d.setCore c x).units = d.units := rfl
@[simp] theorem Dyn.setCore_blanked (d : Dyn) (c : Nat) (x : CoreSt) : (d.setCore c x).blanked = d.blanked := rfl
@[simp] theorem Dyn.setCore_mask (d : Dyn) (c : Nat) (x : CoreSt) : (d.setCore c x).mask = d.mask := rfl
@[simp] theorem Dyn.setCore_mem (d : Dyn) (c : Nat) (x : CoreSt) : (d.setCore c x).mem = d.mem := rfl
@[simp] theorem Dyn.setCore_fab (d : Dyn) (c : Nat) (x : CoreSt) : (d.setCore c x).fab = d.fab := rfl
@[simp] theorem Dyn.setCore_lanes (d : Dyn) (c : Nat) (x : CoreSt) : (d.setCore c x).lanes = d.lanes := rfl
@[simp] theorem Dyn.setCore_vcs (d : Dyn) (c : Nat) (x : CoreSt) : (d.setCore c x).vcs = d.vcs := rfl
@[simp] theorem Dyn.setCore_power (d : Dyn) (c : Nat) (x : CoreSt) : (d.setCore c x).power = d.power := rfl
@[simp] theorem Dyn.setCore_keys (d : Dyn) (c : Nat) (x : CoreSt) : (d.setCore c x).keys = d.keys := rfl
@[simp] theorem Dyn.setCore_cipher (d : Dyn) (c : Nat) (x : CoreSt) : (d.setCore c x).cipher = d.cipher := rfl
@[simp] theorem Dyn.setCore_tap (d : Dyn) (c : Nat) (x : CoreSt) : (d.setCore c x).tap = d.tap := rfl
@[simp] theorem Dyn.setCore_answers (d : Dyn) (c : Nat) (x : CoreSt) : (d.setCore c x).answers = d.answers := rfl
@[simp] theorem Dyn.setCore_inbox (d : Dyn) (c : Nat) (x : CoreSt) : (d.setCore c x).inbox = d.inbox := rfl
@[simp] theorem Dyn.setCore_taken (d : Dyn) (c : Nat) (x : CoreSt) : (d.setCore c x).taken = d.taken := rfl
@[simp] theorem Dyn.setCore_free (d : Dyn) (c : Nat) (x : CoreSt) : (d.setCore c x).free = d.free := rfl

/-! ### Dyn.onRegs -/

@[simp] theorem Dyn.onRegs_dst (d : Dyn) (c : Nat) (f : CoreRegs → CoreRegs) : (d.onRegs c f).dst = d.dst := rfl
@[simp] theorem Dyn.onRegs_fuse (d : Dyn) (c : Nat) (f : CoreRegs → CoreRegs) : (d.onRegs c f).fuse = d.fuse := rfl
@[simp] theorem Dyn.onRegs_flash (d : Dyn) (c : Nat) (f : CoreRegs → CoreRegs) : (d.onRegs c f).flash = d.flash := rfl
@[simp] theorem Dyn.onRegs_time (d : Dyn) (c : Nat) (f : CoreRegs → CoreRegs) : (d.onRegs c f).time = d.time := rfl
@[simp] theorem Dyn.onRegs_gpio (d : Dyn) (c : Nat) (f : CoreRegs → CoreRegs) : (d.onRegs c f).gpio = d.gpio := rfl
@[simp] theorem Dyn.onRegs_rep (d : Dyn) (c : Nat) (f : CoreRegs → CoreRegs) : (d.onRegs c f).rep = d.rep := rfl
@[simp] theorem Dyn.onRegs_perf (d : Dyn) (c : Nat) (f : CoreRegs → CoreRegs) : (d.onRegs c f).perf = d.perf := rfl
@[simp] theorem Dyn.onRegs_tiles (d : Dyn) (c : Nat) (f : CoreRegs → CoreRegs) : (d.onRegs c f).tiles = d.tiles := rfl
@[simp] theorem Dyn.onRegs_disp (d : Dyn) (c : Nat) (f : CoreRegs → CoreRegs) : (d.onRegs c f).disp = d.disp := rfl
@[simp] theorem Dyn.onRegs_units (d : Dyn) (c : Nat) (f : CoreRegs → CoreRegs) : (d.onRegs c f).units = d.units := rfl
@[simp] theorem Dyn.onRegs_blanked (d : Dyn) (c : Nat) (f : CoreRegs → CoreRegs) : (d.onRegs c f).blanked = d.blanked := rfl
@[simp] theorem Dyn.onRegs_mask (d : Dyn) (c : Nat) (f : CoreRegs → CoreRegs) : (d.onRegs c f).mask = d.mask := rfl
@[simp] theorem Dyn.onRegs_mem (d : Dyn) (c : Nat) (f : CoreRegs → CoreRegs) : (d.onRegs c f).mem = d.mem := rfl
@[simp] theorem Dyn.onRegs_fab (d : Dyn) (c : Nat) (f : CoreRegs → CoreRegs) : (d.onRegs c f).fab = d.fab := rfl
@[simp] theorem Dyn.onRegs_lanes (d : Dyn) (c : Nat) (f : CoreRegs → CoreRegs) : (d.onRegs c f).lanes = d.lanes := rfl
@[simp] theorem Dyn.onRegs_vcs (d : Dyn) (c : Nat) (f : CoreRegs → CoreRegs) : (d.onRegs c f).vcs = d.vcs := rfl
@[simp] theorem Dyn.onRegs_power (d : Dyn) (c : Nat) (f : CoreRegs → CoreRegs) : (d.onRegs c f).power = d.power := rfl
@[simp] theorem Dyn.onRegs_keys (d : Dyn) (c : Nat) (f : CoreRegs → CoreRegs) : (d.onRegs c f).keys = d.keys := rfl
@[simp] theorem Dyn.onRegs_cipher (d : Dyn) (c : Nat) (f : CoreRegs → CoreRegs) : (d.onRegs c f).cipher = d.cipher := rfl
@[simp] theorem Dyn.onRegs_tap (d : Dyn) (c : Nat) (f : CoreRegs → CoreRegs) : (d.onRegs c f).tap = d.tap := rfl
@[simp] theorem Dyn.onRegs_answers (d : Dyn) (c : Nat) (f : CoreRegs → CoreRegs) : (d.onRegs c f).answers = d.answers := rfl
@[simp] theorem Dyn.onRegs_inbox (d : Dyn) (c : Nat) (f : CoreRegs → CoreRegs) : (d.onRegs c f).inbox = d.inbox := rfl
@[simp] theorem Dyn.onRegs_taken (d : Dyn) (c : Nat) (f : CoreRegs → CoreRegs) : (d.onRegs c f).taken = d.taken := rfl
@[simp] theorem Dyn.onRegs_free (d : Dyn) (c : Nat) (f : CoreRegs → CoreRegs) : (d.onRegs c f).free = d.free := rfl

/-! ### Dyn.onCtl -/

@[simp] theorem Dyn.onCtl_dst (d : Dyn) (c : Nat) (f : CoreCtl → CoreCtl) : (d.onCtl c f).dst = d.dst := rfl
@[simp] theorem Dyn.onCtl_fuse (d : Dyn) (c : Nat) (f : CoreCtl → CoreCtl) : (d.onCtl c f).fuse = d.fuse := rfl
@[simp] theorem Dyn.onCtl_flash (d : Dyn) (c : Nat) (f : CoreCtl → CoreCtl) : (d.onCtl c f).flash = d.flash := rfl
@[simp] theorem Dyn.onCtl_time (d : Dyn) (c : Nat) (f : CoreCtl → CoreCtl) : (d.onCtl c f).time = d.time := rfl
@[simp] theorem Dyn.onCtl_gpio (d : Dyn) (c : Nat) (f : CoreCtl → CoreCtl) : (d.onCtl c f).gpio = d.gpio := rfl
@[simp] theorem Dyn.onCtl_rep (d : Dyn) (c : Nat) (f : CoreCtl → CoreCtl) : (d.onCtl c f).rep = d.rep := rfl
@[simp] theorem Dyn.onCtl_perf (d : Dyn) (c : Nat) (f : CoreCtl → CoreCtl) : (d.onCtl c f).perf = d.perf := rfl
@[simp] theorem Dyn.onCtl_tiles (d : Dyn) (c : Nat) (f : CoreCtl → CoreCtl) : (d.onCtl c f).tiles = d.tiles := rfl
@[simp] theorem Dyn.onCtl_disp (d : Dyn) (c : Nat) (f : CoreCtl → CoreCtl) : (d.onCtl c f).disp = d.disp := rfl
@[simp] theorem Dyn.onCtl_units (d : Dyn) (c : Nat) (f : CoreCtl → CoreCtl) : (d.onCtl c f).units = d.units := rfl
@[simp] theorem Dyn.onCtl_blanked (d : Dyn) (c : Nat) (f : CoreCtl → CoreCtl) : (d.onCtl c f).blanked = d.blanked := rfl
@[simp] theorem Dyn.onCtl_mask (d : Dyn) (c : Nat) (f : CoreCtl → CoreCtl) : (d.onCtl c f).mask = d.mask := rfl
@[simp] theorem Dyn.onCtl_mem (d : Dyn) (c : Nat) (f : CoreCtl → CoreCtl) : (d.onCtl c f).mem = d.mem := rfl
@[simp] theorem Dyn.onCtl_fab (d : Dyn) (c : Nat) (f : CoreCtl → CoreCtl) : (d.onCtl c f).fab = d.fab := rfl
@[simp] theorem Dyn.onCtl_lanes (d : Dyn) (c : Nat) (f : CoreCtl → CoreCtl) : (d.onCtl c f).lanes = d.lanes := rfl
@[simp] theorem Dyn.onCtl_vcs (d : Dyn) (c : Nat) (f : CoreCtl → CoreCtl) : (d.onCtl c f).vcs = d.vcs := rfl
@[simp] theorem Dyn.onCtl_power (d : Dyn) (c : Nat) (f : CoreCtl → CoreCtl) : (d.onCtl c f).power = d.power := rfl
@[simp] theorem Dyn.onCtl_keys (d : Dyn) (c : Nat) (f : CoreCtl → CoreCtl) : (d.onCtl c f).keys = d.keys := rfl
@[simp] theorem Dyn.onCtl_cipher (d : Dyn) (c : Nat) (f : CoreCtl → CoreCtl) : (d.onCtl c f).cipher = d.cipher := rfl
@[simp] theorem Dyn.onCtl_tap (d : Dyn) (c : Nat) (f : CoreCtl → CoreCtl) : (d.onCtl c f).tap = d.tap := rfl
@[simp] theorem Dyn.onCtl_answers (d : Dyn) (c : Nat) (f : CoreCtl → CoreCtl) : (d.onCtl c f).answers = d.answers := rfl
@[simp] theorem Dyn.onCtl_inbox (d : Dyn) (c : Nat) (f : CoreCtl → CoreCtl) : (d.onCtl c f).inbox = d.inbox := rfl
@[simp] theorem Dyn.onCtl_taken (d : Dyn) (c : Nat) (f : CoreCtl → CoreCtl) : (d.onCtl c f).taken = d.taken := rfl
@[simp] theorem Dyn.onCtl_free (d : Dyn) (c : Nat) (f : CoreCtl → CoreCtl) : (d.onCtl c f).free = d.free := rfl

/-! ### Dyn.onTsk -/

@[simp] theorem Dyn.onTsk_dst (d : Dyn) (c : Nat) (f : CoreTask → CoreTask) : (d.onTsk c f).dst = d.dst := rfl
@[simp] theorem Dyn.onTsk_fuse (d : Dyn) (c : Nat) (f : CoreTask → CoreTask) : (d.onTsk c f).fuse = d.fuse := rfl
@[simp] theorem Dyn.onTsk_flash (d : Dyn) (c : Nat) (f : CoreTask → CoreTask) : (d.onTsk c f).flash = d.flash := rfl
@[simp] theorem Dyn.onTsk_time (d : Dyn) (c : Nat) (f : CoreTask → CoreTask) : (d.onTsk c f).time = d.time := rfl
@[simp] theorem Dyn.onTsk_gpio (d : Dyn) (c : Nat) (f : CoreTask → CoreTask) : (d.onTsk c f).gpio = d.gpio := rfl
@[simp] theorem Dyn.onTsk_rep (d : Dyn) (c : Nat) (f : CoreTask → CoreTask) : (d.onTsk c f).rep = d.rep := rfl
@[simp] theorem Dyn.onTsk_perf (d : Dyn) (c : Nat) (f : CoreTask → CoreTask) : (d.onTsk c f).perf = d.perf := rfl
@[simp] theorem Dyn.onTsk_tiles (d : Dyn) (c : Nat) (f : CoreTask → CoreTask) : (d.onTsk c f).tiles = d.tiles := rfl
@[simp] theorem Dyn.onTsk_disp (d : Dyn) (c : Nat) (f : CoreTask → CoreTask) : (d.onTsk c f).disp = d.disp := rfl
@[simp] theorem Dyn.onTsk_units (d : Dyn) (c : Nat) (f : CoreTask → CoreTask) : (d.onTsk c f).units = d.units := rfl
@[simp] theorem Dyn.onTsk_blanked (d : Dyn) (c : Nat) (f : CoreTask → CoreTask) : (d.onTsk c f).blanked = d.blanked := rfl
@[simp] theorem Dyn.onTsk_mask (d : Dyn) (c : Nat) (f : CoreTask → CoreTask) : (d.onTsk c f).mask = d.mask := rfl
@[simp] theorem Dyn.onTsk_mem (d : Dyn) (c : Nat) (f : CoreTask → CoreTask) : (d.onTsk c f).mem = d.mem := rfl
@[simp] theorem Dyn.onTsk_fab (d : Dyn) (c : Nat) (f : CoreTask → CoreTask) : (d.onTsk c f).fab = d.fab := rfl
@[simp] theorem Dyn.onTsk_lanes (d : Dyn) (c : Nat) (f : CoreTask → CoreTask) : (d.onTsk c f).lanes = d.lanes := rfl
@[simp] theorem Dyn.onTsk_vcs (d : Dyn) (c : Nat) (f : CoreTask → CoreTask) : (d.onTsk c f).vcs = d.vcs := rfl
@[simp] theorem Dyn.onTsk_power (d : Dyn) (c : Nat) (f : CoreTask → CoreTask) : (d.onTsk c f).power = d.power := rfl
@[simp] theorem Dyn.onTsk_keys (d : Dyn) (c : Nat) (f : CoreTask → CoreTask) : (d.onTsk c f).keys = d.keys := rfl
@[simp] theorem Dyn.onTsk_cipher (d : Dyn) (c : Nat) (f : CoreTask → CoreTask) : (d.onTsk c f).cipher = d.cipher := rfl
@[simp] theorem Dyn.onTsk_tap (d : Dyn) (c : Nat) (f : CoreTask → CoreTask) : (d.onTsk c f).tap = d.tap := rfl
@[simp] theorem Dyn.onTsk_answers (d : Dyn) (c : Nat) (f : CoreTask → CoreTask) : (d.onTsk c f).answers = d.answers := rfl
@[simp] theorem Dyn.onTsk_inbox (d : Dyn) (c : Nat) (f : CoreTask → CoreTask) : (d.onTsk c f).inbox = d.inbox := rfl
@[simp] theorem Dyn.onTsk_taken (d : Dyn) (c : Nat) (f : CoreTask → CoreTask) : (d.onTsk c f).taken = d.taken := rfl
@[simp] theorem Dyn.onTsk_free (d : Dyn) (c : Nat) (f : CoreTask → CoreTask) : (d.onTsk c f).free = d.free := rfl

/-! ### Dyn.onVec -/

@[simp] theorem Dyn.onVec_dst (d : Dyn) (c : Nat) (f : CoreVec → CoreVec) : (d.onVec c f).dst = d.dst := rfl
@[simp] theorem Dyn.onVec_fuse (d : Dyn) (c : Nat) (f : CoreVec → CoreVec) : (d.onVec c f).fuse = d.fuse := rfl
@[simp] theorem Dyn.onVec_flash (d : Dyn) (c : Nat) (f : CoreVec → CoreVec) : (d.onVec c f).flash = d.flash := rfl
@[simp] theorem Dyn.onVec_time (d : Dyn) (c : Nat) (f : CoreVec → CoreVec) : (d.onVec c f).time = d.time := rfl
@[simp] theorem Dyn.onVec_gpio (d : Dyn) (c : Nat) (f : CoreVec → CoreVec) : (d.onVec c f).gpio = d.gpio := rfl
@[simp] theorem Dyn.onVec_rep (d : Dyn) (c : Nat) (f : CoreVec → CoreVec) : (d.onVec c f).rep = d.rep := rfl
@[simp] theorem Dyn.onVec_perf (d : Dyn) (c : Nat) (f : CoreVec → CoreVec) : (d.onVec c f).perf = d.perf := rfl
@[simp] theorem Dyn.onVec_tiles (d : Dyn) (c : Nat) (f : CoreVec → CoreVec) : (d.onVec c f).tiles = d.tiles := rfl
@[simp] theorem Dyn.onVec_disp (d : Dyn) (c : Nat) (f : CoreVec → CoreVec) : (d.onVec c f).disp = d.disp := rfl
@[simp] theorem Dyn.onVec_units (d : Dyn) (c : Nat) (f : CoreVec → CoreVec) : (d.onVec c f).units = d.units := rfl
@[simp] theorem Dyn.onVec_blanked (d : Dyn) (c : Nat) (f : CoreVec → CoreVec) : (d.onVec c f).blanked = d.blanked := rfl
@[simp] theorem Dyn.onVec_mask (d : Dyn) (c : Nat) (f : CoreVec → CoreVec) : (d.onVec c f).mask = d.mask := rfl
@[simp] theorem Dyn.onVec_mem (d : Dyn) (c : Nat) (f : CoreVec → CoreVec) : (d.onVec c f).mem = d.mem := rfl
@[simp] theorem Dyn.onVec_fab (d : Dyn) (c : Nat) (f : CoreVec → CoreVec) : (d.onVec c f).fab = d.fab := rfl
@[simp] theorem Dyn.onVec_lanes (d : Dyn) (c : Nat) (f : CoreVec → CoreVec) : (d.onVec c f).lanes = d.lanes := rfl
@[simp] theorem Dyn.onVec_vcs (d : Dyn) (c : Nat) (f : CoreVec → CoreVec) : (d.onVec c f).vcs = d.vcs := rfl
@[simp] theorem Dyn.onVec_power (d : Dyn) (c : Nat) (f : CoreVec → CoreVec) : (d.onVec c f).power = d.power := rfl
@[simp] theorem Dyn.onVec_keys (d : Dyn) (c : Nat) (f : CoreVec → CoreVec) : (d.onVec c f).keys = d.keys := rfl
@[simp] theorem Dyn.onVec_cipher (d : Dyn) (c : Nat) (f : CoreVec → CoreVec) : (d.onVec c f).cipher = d.cipher := rfl
@[simp] theorem Dyn.onVec_tap (d : Dyn) (c : Nat) (f : CoreVec → CoreVec) : (d.onVec c f).tap = d.tap := rfl
@[simp] theorem Dyn.onVec_answers (d : Dyn) (c : Nat) (f : CoreVec → CoreVec) : (d.onVec c f).answers = d.answers := rfl
@[simp] theorem Dyn.onVec_inbox (d : Dyn) (c : Nat) (f : CoreVec → CoreVec) : (d.onVec c f).inbox = d.inbox := rfl
@[simp] theorem Dyn.onVec_taken (d : Dyn) (c : Nat) (f : CoreVec → CoreVec) : (d.onVec c f).taken = d.taken := rfl
@[simp] theorem Dyn.onVec_free (d : Dyn) (c : Nat) (f : CoreVec → CoreVec) : (d.onVec c f).free = d.free := rfl

/-! ### Dyn.onPort -/

@[simp] theorem Dyn.onPort_dst (d : Dyn) (c : Nat) (f : CorePort → CorePort) : (d.onPort c f).dst = d.dst := rfl
@[simp] theorem Dyn.onPort_fuse (d : Dyn) (c : Nat) (f : CorePort → CorePort) : (d.onPort c f).fuse = d.fuse := rfl
@[simp] theorem Dyn.onPort_flash (d : Dyn) (c : Nat) (f : CorePort → CorePort) : (d.onPort c f).flash = d.flash := rfl
@[simp] theorem Dyn.onPort_time (d : Dyn) (c : Nat) (f : CorePort → CorePort) : (d.onPort c f).time = d.time := rfl
@[simp] theorem Dyn.onPort_gpio (d : Dyn) (c : Nat) (f : CorePort → CorePort) : (d.onPort c f).gpio = d.gpio := rfl
@[simp] theorem Dyn.onPort_rep (d : Dyn) (c : Nat) (f : CorePort → CorePort) : (d.onPort c f).rep = d.rep := rfl
@[simp] theorem Dyn.onPort_perf (d : Dyn) (c : Nat) (f : CorePort → CorePort) : (d.onPort c f).perf = d.perf := rfl
@[simp] theorem Dyn.onPort_tiles (d : Dyn) (c : Nat) (f : CorePort → CorePort) : (d.onPort c f).tiles = d.tiles := rfl
@[simp] theorem Dyn.onPort_disp (d : Dyn) (c : Nat) (f : CorePort → CorePort) : (d.onPort c f).disp = d.disp := rfl
@[simp] theorem Dyn.onPort_units (d : Dyn) (c : Nat) (f : CorePort → CorePort) : (d.onPort c f).units = d.units := rfl
@[simp] theorem Dyn.onPort_blanked (d : Dyn) (c : Nat) (f : CorePort → CorePort) : (d.onPort c f).blanked = d.blanked := rfl
@[simp] theorem Dyn.onPort_mask (d : Dyn) (c : Nat) (f : CorePort → CorePort) : (d.onPort c f).mask = d.mask := rfl
@[simp] theorem Dyn.onPort_mem (d : Dyn) (c : Nat) (f : CorePort → CorePort) : (d.onPort c f).mem = d.mem := rfl
@[simp] theorem Dyn.onPort_fab (d : Dyn) (c : Nat) (f : CorePort → CorePort) : (d.onPort c f).fab = d.fab := rfl
@[simp] theorem Dyn.onPort_lanes (d : Dyn) (c : Nat) (f : CorePort → CorePort) : (d.onPort c f).lanes = d.lanes := rfl
@[simp] theorem Dyn.onPort_vcs (d : Dyn) (c : Nat) (f : CorePort → CorePort) : (d.onPort c f).vcs = d.vcs := rfl
@[simp] theorem Dyn.onPort_power (d : Dyn) (c : Nat) (f : CorePort → CorePort) : (d.onPort c f).power = d.power := rfl
@[simp] theorem Dyn.onPort_keys (d : Dyn) (c : Nat) (f : CorePort → CorePort) : (d.onPort c f).keys = d.keys := rfl
@[simp] theorem Dyn.onPort_cipher (d : Dyn) (c : Nat) (f : CorePort → CorePort) : (d.onPort c f).cipher = d.cipher := rfl
@[simp] theorem Dyn.onPort_tap (d : Dyn) (c : Nat) (f : CorePort → CorePort) : (d.onPort c f).tap = d.tap := rfl
@[simp] theorem Dyn.onPort_answers (d : Dyn) (c : Nat) (f : CorePort → CorePort) : (d.onPort c f).answers = d.answers := rfl
@[simp] theorem Dyn.onPort_inbox (d : Dyn) (c : Nat) (f : CorePort → CorePort) : (d.onPort c f).inbox = d.inbox := rfl
@[simp] theorem Dyn.onPort_taken (d : Dyn) (c : Nat) (f : CorePort → CorePort) : (d.onPort c f).taken = d.taken := rfl
@[simp] theorem Dyn.onPort_free (d : Dyn) (c : Nat) (f : CorePort → CorePort) : (d.onPort c f).free = d.free := rfl

/-! ### Dyn.setUnit -/

@[simp] theorem Dyn.setUnit_dst (d : Dyn) (u : Nat) (f : UnitSt → UnitSt) : (d.setUnit u f).dst = d.dst := rfl
@[simp] theorem Dyn.setUnit_fuse (d : Dyn) (u : Nat) (f : UnitSt → UnitSt) : (d.setUnit u f).fuse = d.fuse := rfl
@[simp] theorem Dyn.setUnit_flash (d : Dyn) (u : Nat) (f : UnitSt → UnitSt) : (d.setUnit u f).flash = d.flash := rfl
@[simp] theorem Dyn.setUnit_time (d : Dyn) (u : Nat) (f : UnitSt → UnitSt) : (d.setUnit u f).time = d.time := rfl
@[simp] theorem Dyn.setUnit_gpio (d : Dyn) (u : Nat) (f : UnitSt → UnitSt) : (d.setUnit u f).gpio = d.gpio := rfl
@[simp] theorem Dyn.setUnit_rep (d : Dyn) (u : Nat) (f : UnitSt → UnitSt) : (d.setUnit u f).rep = d.rep := rfl
@[simp] theorem Dyn.setUnit_perf (d : Dyn) (u : Nat) (f : UnitSt → UnitSt) : (d.setUnit u f).perf = d.perf := rfl
@[simp] theorem Dyn.setUnit_cores (d : Dyn) (u : Nat) (f : UnitSt → UnitSt) : (d.setUnit u f).cores = d.cores := rfl
@[simp] theorem Dyn.setUnit_tiles (d : Dyn) (u : Nat) (f : UnitSt → UnitSt) : (d.setUnit u f).tiles = d.tiles := rfl
@[simp] theorem Dyn.setUnit_disp (d : Dyn) (u : Nat) (f : UnitSt → UnitSt) : (d.setUnit u f).disp = d.disp := rfl
@[simp] theorem Dyn.setUnit_blanked (d : Dyn) (u : Nat) (f : UnitSt → UnitSt) : (d.setUnit u f).blanked = d.blanked := rfl
@[simp] theorem Dyn.setUnit_mask (d : Dyn) (u : Nat) (f : UnitSt → UnitSt) : (d.setUnit u f).mask = d.mask := rfl
@[simp] theorem Dyn.setUnit_mem (d : Dyn) (u : Nat) (f : UnitSt → UnitSt) : (d.setUnit u f).mem = d.mem := rfl
@[simp] theorem Dyn.setUnit_fab (d : Dyn) (u : Nat) (f : UnitSt → UnitSt) : (d.setUnit u f).fab = d.fab := rfl
@[simp] theorem Dyn.setUnit_lanes (d : Dyn) (u : Nat) (f : UnitSt → UnitSt) : (d.setUnit u f).lanes = d.lanes := rfl
@[simp] theorem Dyn.setUnit_vcs (d : Dyn) (u : Nat) (f : UnitSt → UnitSt) : (d.setUnit u f).vcs = d.vcs := rfl
@[simp] theorem Dyn.setUnit_power (d : Dyn) (u : Nat) (f : UnitSt → UnitSt) : (d.setUnit u f).power = d.power := rfl
@[simp] theorem Dyn.setUnit_keys (d : Dyn) (u : Nat) (f : UnitSt → UnitSt) : (d.setUnit u f).keys = d.keys := rfl
@[simp] theorem Dyn.setUnit_cipher (d : Dyn) (u : Nat) (f : UnitSt → UnitSt) : (d.setUnit u f).cipher = d.cipher := rfl
@[simp] theorem Dyn.setUnit_tap (d : Dyn) (u : Nat) (f : UnitSt → UnitSt) : (d.setUnit u f).tap = d.tap := rfl
@[simp] theorem Dyn.setUnit_answers (d : Dyn) (u : Nat) (f : UnitSt → UnitSt) : (d.setUnit u f).answers = d.answers := rfl
@[simp] theorem Dyn.setUnit_inbox (d : Dyn) (u : Nat) (f : UnitSt → UnitSt) : (d.setUnit u f).inbox = d.inbox := rfl
@[simp] theorem Dyn.setUnit_taken (d : Dyn) (u : Nat) (f : UnitSt → UnitSt) : (d.setUnit u f).taken = d.taken := rfl
@[simp] theorem Dyn.setUnit_free (d : Dyn) (u : Nat) (f : UnitSt → UnitSt) : (d.setUnit u f).free = d.free := rfl

/-! ### Dyn.setTask -/

@[simp] theorem Dyn.setTask_dst (d : Dyn) (n : Nat) (x : TaskEntry) : (d.setTask n x).dst = d.dst := rfl
@[simp] theorem Dyn.setTask_fuse (d : Dyn) (n : Nat) (x : TaskEntry) : (d.setTask n x).fuse = d.fuse := rfl
@[simp] theorem Dyn.setTask_flash (d : Dyn) (n : Nat) (x : TaskEntry) : (d.setTask n x).flash = d.flash := rfl
@[simp] theorem Dyn.setTask_time (d : Dyn) (n : Nat) (x : TaskEntry) : (d.setTask n x).time = d.time := rfl
@[simp] theorem Dyn.setTask_gpio (d : Dyn) (n : Nat) (x : TaskEntry) : (d.setTask n x).gpio = d.gpio := rfl
@[simp] theorem Dyn.setTask_rep (d : Dyn) (n : Nat) (x : TaskEntry) : (d.setTask n x).rep = d.rep := rfl
@[simp] theorem Dyn.setTask_perf (d : Dyn) (n : Nat) (x : TaskEntry) : (d.setTask n x).perf = d.perf := rfl
@[simp] theorem Dyn.setTask_cores (d : Dyn) (n : Nat) (x : TaskEntry) : (d.setTask n x).cores = d.cores := rfl
@[simp] theorem Dyn.setTask_tiles (d : Dyn) (n : Nat) (x : TaskEntry) : (d.setTask n x).tiles = d.tiles := rfl
@[simp] theorem Dyn.setTask_units (d : Dyn) (n : Nat) (x : TaskEntry) : (d.setTask n x).units = d.units := rfl
@[simp] theorem Dyn.setTask_blanked (d : Dyn) (n : Nat) (x : TaskEntry) : (d.setTask n x).blanked = d.blanked := rfl
@[simp] theorem Dyn.setTask_mask (d : Dyn) (n : Nat) (x : TaskEntry) : (d.setTask n x).mask = d.mask := rfl
@[simp] theorem Dyn.setTask_mem (d : Dyn) (n : Nat) (x : TaskEntry) : (d.setTask n x).mem = d.mem := rfl
@[simp] theorem Dyn.setTask_fab (d : Dyn) (n : Nat) (x : TaskEntry) : (d.setTask n x).fab = d.fab := rfl
@[simp] theorem Dyn.setTask_lanes (d : Dyn) (n : Nat) (x : TaskEntry) : (d.setTask n x).lanes = d.lanes := rfl
@[simp] theorem Dyn.setTask_vcs (d : Dyn) (n : Nat) (x : TaskEntry) : (d.setTask n x).vcs = d.vcs := rfl
@[simp] theorem Dyn.setTask_power (d : Dyn) (n : Nat) (x : TaskEntry) : (d.setTask n x).power = d.power := rfl
@[simp] theorem Dyn.setTask_keys (d : Dyn) (n : Nat) (x : TaskEntry) : (d.setTask n x).keys = d.keys := rfl
@[simp] theorem Dyn.setTask_cipher (d : Dyn) (n : Nat) (x : TaskEntry) : (d.setTask n x).cipher = d.cipher := rfl
@[simp] theorem Dyn.setTask_tap (d : Dyn) (n : Nat) (x : TaskEntry) : (d.setTask n x).tap = d.tap := rfl
@[simp] theorem Dyn.setTask_answers (d : Dyn) (n : Nat) (x : TaskEntry) : (d.setTask n x).answers = d.answers := rfl
@[simp] theorem Dyn.setTask_inbox (d : Dyn) (n : Nat) (x : TaskEntry) : (d.setTask n x).inbox = d.inbox := rfl
@[simp] theorem Dyn.setTask_taken (d : Dyn) (n : Nat) (x : TaskEntry) : (d.setTask n x).taken = d.taken := rfl
@[simp] theorem Dyn.setTask_free (d : Dyn) (n : Nat) (x : TaskEntry) : (d.setTask n x).free = d.free := rfl

/-! ### Dyn.onLane -/

@[simp] theorem Dyn.onLane_dst (d : Dyn) (n : Nat) (f : LaneSt → LaneSt) : (d.onLane n f).dst = d.dst := rfl
@[simp] theorem Dyn.onLane_fuse (d : Dyn) (n : Nat) (f : LaneSt → LaneSt) : (d.onLane n f).fuse = d.fuse := rfl
@[simp] theorem Dyn.onLane_flash (d : Dyn) (n : Nat) (f : LaneSt → LaneSt) : (d.onLane n f).flash = d.flash := rfl
@[simp] theorem Dyn.onLane_time (d : Dyn) (n : Nat) (f : LaneSt → LaneSt) : (d.onLane n f).time = d.time := rfl
@[simp] theorem Dyn.onLane_gpio (d : Dyn) (n : Nat) (f : LaneSt → LaneSt) : (d.onLane n f).gpio = d.gpio := rfl
@[simp] theorem Dyn.onLane_rep (d : Dyn) (n : Nat) (f : LaneSt → LaneSt) : (d.onLane n f).rep = d.rep := rfl
@[simp] theorem Dyn.onLane_perf (d : Dyn) (n : Nat) (f : LaneSt → LaneSt) : (d.onLane n f).perf = d.perf := rfl
@[simp] theorem Dyn.onLane_cores (d : Dyn) (n : Nat) (f : LaneSt → LaneSt) : (d.onLane n f).cores = d.cores := rfl
@[simp] theorem Dyn.onLane_tiles (d : Dyn) (n : Nat) (f : LaneSt → LaneSt) : (d.onLane n f).tiles = d.tiles := rfl
@[simp] theorem Dyn.onLane_disp (d : Dyn) (n : Nat) (f : LaneSt → LaneSt) : (d.onLane n f).disp = d.disp := rfl
@[simp] theorem Dyn.onLane_units (d : Dyn) (n : Nat) (f : LaneSt → LaneSt) : (d.onLane n f).units = d.units := rfl
@[simp] theorem Dyn.onLane_blanked (d : Dyn) (n : Nat) (f : LaneSt → LaneSt) : (d.onLane n f).blanked = d.blanked := rfl
@[simp] theorem Dyn.onLane_mask (d : Dyn) (n : Nat) (f : LaneSt → LaneSt) : (d.onLane n f).mask = d.mask := rfl
@[simp] theorem Dyn.onLane_mem (d : Dyn) (n : Nat) (f : LaneSt → LaneSt) : (d.onLane n f).mem = d.mem := rfl
@[simp] theorem Dyn.onLane_fab (d : Dyn) (n : Nat) (f : LaneSt → LaneSt) : (d.onLane n f).fab = d.fab := rfl
@[simp] theorem Dyn.onLane_vcs (d : Dyn) (n : Nat) (f : LaneSt → LaneSt) : (d.onLane n f).vcs = d.vcs := rfl
@[simp] theorem Dyn.onLane_power (d : Dyn) (n : Nat) (f : LaneSt → LaneSt) : (d.onLane n f).power = d.power := rfl
@[simp] theorem Dyn.onLane_keys (d : Dyn) (n : Nat) (f : LaneSt → LaneSt) : (d.onLane n f).keys = d.keys := rfl
@[simp] theorem Dyn.onLane_cipher (d : Dyn) (n : Nat) (f : LaneSt → LaneSt) : (d.onLane n f).cipher = d.cipher := rfl
@[simp] theorem Dyn.onLane_tap (d : Dyn) (n : Nat) (f : LaneSt → LaneSt) : (d.onLane n f).tap = d.tap := rfl
@[simp] theorem Dyn.onLane_answers (d : Dyn) (n : Nat) (f : LaneSt → LaneSt) : (d.onLane n f).answers = d.answers := rfl
@[simp] theorem Dyn.onLane_inbox (d : Dyn) (n : Nat) (f : LaneSt → LaneSt) : (d.onLane n f).inbox = d.inbox := rfl
@[simp] theorem Dyn.onLane_taken (d : Dyn) (n : Nat) (f : LaneSt → LaneSt) : (d.onLane n f).taken = d.taken := rfl
@[simp] theorem Dyn.onLane_free (d : Dyn) (n : Nat) (f : LaneSt → LaneSt) : (d.onLane n f).free = d.free := rfl

/-! ### Dyn.onVc -/

@[simp] theorem Dyn.onVc_dst (d : Dyn) (n : Nat) (f : VcSt → VcSt) : (d.onVc n f).dst = d.dst := rfl
@[simp] theorem Dyn.onVc_fuse (d : Dyn) (n : Nat) (f : VcSt → VcSt) : (d.onVc n f).fuse = d.fuse := rfl
@[simp] theorem Dyn.onVc_flash (d : Dyn) (n : Nat) (f : VcSt → VcSt) : (d.onVc n f).flash = d.flash := rfl
@[simp] theorem Dyn.onVc_time (d : Dyn) (n : Nat) (f : VcSt → VcSt) : (d.onVc n f).time = d.time := rfl
@[simp] theorem Dyn.onVc_gpio (d : Dyn) (n : Nat) (f : VcSt → VcSt) : (d.onVc n f).gpio = d.gpio := rfl
@[simp] theorem Dyn.onVc_rep (d : Dyn) (n : Nat) (f : VcSt → VcSt) : (d.onVc n f).rep = d.rep := rfl
@[simp] theorem Dyn.onVc_perf (d : Dyn) (n : Nat) (f : VcSt → VcSt) : (d.onVc n f).perf = d.perf := rfl
@[simp] theorem Dyn.onVc_cores (d : Dyn) (n : Nat) (f : VcSt → VcSt) : (d.onVc n f).cores = d.cores := rfl
@[simp] theorem Dyn.onVc_tiles (d : Dyn) (n : Nat) (f : VcSt → VcSt) : (d.onVc n f).tiles = d.tiles := rfl
@[simp] theorem Dyn.onVc_disp (d : Dyn) (n : Nat) (f : VcSt → VcSt) : (d.onVc n f).disp = d.disp := rfl
@[simp] theorem Dyn.onVc_units (d : Dyn) (n : Nat) (f : VcSt → VcSt) : (d.onVc n f).units = d.units := rfl
@[simp] theorem Dyn.onVc_blanked (d : Dyn) (n : Nat) (f : VcSt → VcSt) : (d.onVc n f).blanked = d.blanked := rfl
@[simp] theorem Dyn.onVc_mask (d : Dyn) (n : Nat) (f : VcSt → VcSt) : (d.onVc n f).mask = d.mask := rfl
@[simp] theorem Dyn.onVc_mem (d : Dyn) (n : Nat) (f : VcSt → VcSt) : (d.onVc n f).mem = d.mem := rfl
@[simp] theorem Dyn.onVc_fab (d : Dyn) (n : Nat) (f : VcSt → VcSt) : (d.onVc n f).fab = d.fab := rfl
@[simp] theorem Dyn.onVc_lanes (d : Dyn) (n : Nat) (f : VcSt → VcSt) : (d.onVc n f).lanes = d.lanes := rfl
@[simp] theorem Dyn.onVc_power (d : Dyn) (n : Nat) (f : VcSt → VcSt) : (d.onVc n f).power = d.power := rfl
@[simp] theorem Dyn.onVc_keys (d : Dyn) (n : Nat) (f : VcSt → VcSt) : (d.onVc n f).keys = d.keys := rfl
@[simp] theorem Dyn.onVc_cipher (d : Dyn) (n : Nat) (f : VcSt → VcSt) : (d.onVc n f).cipher = d.cipher := rfl
@[simp] theorem Dyn.onVc_tap (d : Dyn) (n : Nat) (f : VcSt → VcSt) : (d.onVc n f).tap = d.tap := rfl
@[simp] theorem Dyn.onVc_answers (d : Dyn) (n : Nat) (f : VcSt → VcSt) : (d.onVc n f).answers = d.answers := rfl
@[simp] theorem Dyn.onVc_inbox (d : Dyn) (n : Nat) (f : VcSt → VcSt) : (d.onVc n f).inbox = d.inbox := rfl
@[simp] theorem Dyn.onVc_taken (d : Dyn) (n : Nat) (f : VcSt → VcSt) : (d.onVc n f).taken = d.taken := rfl
@[simp] theorem Dyn.onVc_free (d : Dyn) (n : Nat) (f : VcSt → VcSt) : (d.onVc n f).free = d.free := rfl

/-! ### Dyn.onTime -/

@[simp] theorem Dyn.onTime_dst (d : Dyn) (f : TimeSt → TimeSt) : (d.onTime f).dst = d.dst := rfl
@[simp] theorem Dyn.onTime_fuse (d : Dyn) (f : TimeSt → TimeSt) : (d.onTime f).fuse = d.fuse := rfl
@[simp] theorem Dyn.onTime_flash (d : Dyn) (f : TimeSt → TimeSt) : (d.onTime f).flash = d.flash := rfl
@[simp] theorem Dyn.onTime_gpio (d : Dyn) (f : TimeSt → TimeSt) : (d.onTime f).gpio = d.gpio := rfl
@[simp] theorem Dyn.onTime_rep (d : Dyn) (f : TimeSt → TimeSt) : (d.onTime f).rep = d.rep := rfl
@[simp] theorem Dyn.onTime_perf (d : Dyn) (f : TimeSt → TimeSt) : (d.onTime f).perf = d.perf := rfl
@[simp] theorem Dyn.onTime_cores (d : Dyn) (f : TimeSt → TimeSt) : (d.onTime f).cores = d.cores := rfl
@[simp] theorem Dyn.onTime_tiles (d : Dyn) (f : TimeSt → TimeSt) : (d.onTime f).tiles = d.tiles := rfl
@[simp] theorem Dyn.onTime_disp (d : Dyn) (f : TimeSt → TimeSt) : (d.onTime f).disp = d.disp := rfl
@[simp] theorem Dyn.onTime_units (d : Dyn) (f : TimeSt → TimeSt) : (d.onTime f).units = d.units := rfl
@[simp] theorem Dyn.onTime_blanked (d : Dyn) (f : TimeSt → TimeSt) : (d.onTime f).blanked = d.blanked := rfl
@[simp] theorem Dyn.onTime_mask (d : Dyn) (f : TimeSt → TimeSt) : (d.onTime f).mask = d.mask := rfl
@[simp] theorem Dyn.onTime_mem (d : Dyn) (f : TimeSt → TimeSt) : (d.onTime f).mem = d.mem := rfl
@[simp] theorem Dyn.onTime_fab (d : Dyn) (f : TimeSt → TimeSt) : (d.onTime f).fab = d.fab := rfl
@[simp] theorem Dyn.onTime_lanes (d : Dyn) (f : TimeSt → TimeSt) : (d.onTime f).lanes = d.lanes := rfl
@[simp] theorem Dyn.onTime_vcs (d : Dyn) (f : TimeSt → TimeSt) : (d.onTime f).vcs = d.vcs := rfl
@[simp] theorem Dyn.onTime_power (d : Dyn) (f : TimeSt → TimeSt) : (d.onTime f).power = d.power := rfl
@[simp] theorem Dyn.onTime_keys (d : Dyn) (f : TimeSt → TimeSt) : (d.onTime f).keys = d.keys := rfl
@[simp] theorem Dyn.onTime_cipher (d : Dyn) (f : TimeSt → TimeSt) : (d.onTime f).cipher = d.cipher := rfl
@[simp] theorem Dyn.onTime_tap (d : Dyn) (f : TimeSt → TimeSt) : (d.onTime f).tap = d.tap := rfl
@[simp] theorem Dyn.onTime_answers (d : Dyn) (f : TimeSt → TimeSt) : (d.onTime f).answers = d.answers := rfl
@[simp] theorem Dyn.onTime_inbox (d : Dyn) (f : TimeSt → TimeSt) : (d.onTime f).inbox = d.inbox := rfl
@[simp] theorem Dyn.onTime_taken (d : Dyn) (f : TimeSt → TimeSt) : (d.onTime f).taken = d.taken := rfl
@[simp] theorem Dyn.onTime_free (d : Dyn) (f : TimeSt → TimeSt) : (d.onTime f).free = d.free := rfl

/-! ### Dyn.onPower -/

@[simp] theorem Dyn.onPower_dst (d : Dyn) (f : PowerSt → PowerSt) : (d.onPower f).dst = d.dst := rfl
@[simp] theorem Dyn.onPower_fuse (d : Dyn) (f : PowerSt → PowerSt) : (d.onPower f).fuse = d.fuse := rfl
@[simp] theorem Dyn.onPower_flash (d : Dyn) (f : PowerSt → PowerSt) : (d.onPower f).flash = d.flash := rfl
@[simp] theorem Dyn.onPower_time (d : Dyn) (f : PowerSt → PowerSt) : (d.onPower f).time = d.time := rfl
@[simp] theorem Dyn.onPower_gpio (d : Dyn) (f : PowerSt → PowerSt) : (d.onPower f).gpio = d.gpio := rfl
@[simp] theorem Dyn.onPower_rep (d : Dyn) (f : PowerSt → PowerSt) : (d.onPower f).rep = d.rep := rfl
@[simp] theorem Dyn.onPower_perf (d : Dyn) (f : PowerSt → PowerSt) : (d.onPower f).perf = d.perf := rfl
@[simp] theorem Dyn.onPower_cores (d : Dyn) (f : PowerSt → PowerSt) : (d.onPower f).cores = d.cores := rfl
@[simp] theorem Dyn.onPower_tiles (d : Dyn) (f : PowerSt → PowerSt) : (d.onPower f).tiles = d.tiles := rfl
@[simp] theorem Dyn.onPower_disp (d : Dyn) (f : PowerSt → PowerSt) : (d.onPower f).disp = d.disp := rfl
@[simp] theorem Dyn.onPower_units (d : Dyn) (f : PowerSt → PowerSt) : (d.onPower f).units = d.units := rfl
@[simp] theorem Dyn.onPower_blanked (d : Dyn) (f : PowerSt → PowerSt) : (d.onPower f).blanked = d.blanked := rfl
@[simp] theorem Dyn.onPower_mask (d : Dyn) (f : PowerSt → PowerSt) : (d.onPower f).mask = d.mask := rfl
@[simp] theorem Dyn.onPower_mem (d : Dyn) (f : PowerSt → PowerSt) : (d.onPower f).mem = d.mem := rfl
@[simp] theorem Dyn.onPower_fab (d : Dyn) (f : PowerSt → PowerSt) : (d.onPower f).fab = d.fab := rfl
@[simp] theorem Dyn.onPower_lanes (d : Dyn) (f : PowerSt → PowerSt) : (d.onPower f).lanes = d.lanes := rfl
@[simp] theorem Dyn.onPower_vcs (d : Dyn) (f : PowerSt → PowerSt) : (d.onPower f).vcs = d.vcs := rfl
@[simp] theorem Dyn.onPower_keys (d : Dyn) (f : PowerSt → PowerSt) : (d.onPower f).keys = d.keys := rfl
@[simp] theorem Dyn.onPower_cipher (d : Dyn) (f : PowerSt → PowerSt) : (d.onPower f).cipher = d.cipher := rfl
@[simp] theorem Dyn.onPower_tap (d : Dyn) (f : PowerSt → PowerSt) : (d.onPower f).tap = d.tap := rfl
@[simp] theorem Dyn.onPower_answers (d : Dyn) (f : PowerSt → PowerSt) : (d.onPower f).answers = d.answers := rfl
@[simp] theorem Dyn.onPower_inbox (d : Dyn) (f : PowerSt → PowerSt) : (d.onPower f).inbox = d.inbox := rfl
@[simp] theorem Dyn.onPower_taken (d : Dyn) (f : PowerSt → PowerSt) : (d.onPower f).taken = d.taken := rfl
@[simp] theorem Dyn.onPower_free (d : Dyn) (f : PowerSt → PowerSt) : (d.onPower f).free = d.free := rfl

/-! ### Dyn.onFab -/

@[simp] theorem Dyn.onFab_dst (d : Dyn) (f : FabSt → FabSt) : (d.onFab f).dst = d.dst := rfl
@[simp] theorem Dyn.onFab_fuse (d : Dyn) (f : FabSt → FabSt) : (d.onFab f).fuse = d.fuse := rfl
@[simp] theorem Dyn.onFab_flash (d : Dyn) (f : FabSt → FabSt) : (d.onFab f).flash = d.flash := rfl
@[simp] theorem Dyn.onFab_time (d : Dyn) (f : FabSt → FabSt) : (d.onFab f).time = d.time := rfl
@[simp] theorem Dyn.onFab_gpio (d : Dyn) (f : FabSt → FabSt) : (d.onFab f).gpio = d.gpio := rfl
@[simp] theorem Dyn.onFab_rep (d : Dyn) (f : FabSt → FabSt) : (d.onFab f).rep = d.rep := rfl
@[simp] theorem Dyn.onFab_perf (d : Dyn) (f : FabSt → FabSt) : (d.onFab f).perf = d.perf := rfl
@[simp] theorem Dyn.onFab_cores (d : Dyn) (f : FabSt → FabSt) : (d.onFab f).cores = d.cores := rfl
@[simp] theorem Dyn.onFab_tiles (d : Dyn) (f : FabSt → FabSt) : (d.onFab f).tiles = d.tiles := rfl
@[simp] theorem Dyn.onFab_disp (d : Dyn) (f : FabSt → FabSt) : (d.onFab f).disp = d.disp := rfl
@[simp] theorem Dyn.onFab_units (d : Dyn) (f : FabSt → FabSt) : (d.onFab f).units = d.units := rfl
@[simp] theorem Dyn.onFab_blanked (d : Dyn) (f : FabSt → FabSt) : (d.onFab f).blanked = d.blanked := rfl
@[simp] theorem Dyn.onFab_mask (d : Dyn) (f : FabSt → FabSt) : (d.onFab f).mask = d.mask := rfl
@[simp] theorem Dyn.onFab_mem (d : Dyn) (f : FabSt → FabSt) : (d.onFab f).mem = d.mem := rfl
@[simp] theorem Dyn.onFab_lanes (d : Dyn) (f : FabSt → FabSt) : (d.onFab f).lanes = d.lanes := rfl
@[simp] theorem Dyn.onFab_vcs (d : Dyn) (f : FabSt → FabSt) : (d.onFab f).vcs = d.vcs := rfl
@[simp] theorem Dyn.onFab_power (d : Dyn) (f : FabSt → FabSt) : (d.onFab f).power = d.power := rfl
@[simp] theorem Dyn.onFab_keys (d : Dyn) (f : FabSt → FabSt) : (d.onFab f).keys = d.keys := rfl
@[simp] theorem Dyn.onFab_cipher (d : Dyn) (f : FabSt → FabSt) : (d.onFab f).cipher = d.cipher := rfl
@[simp] theorem Dyn.onFab_tap (d : Dyn) (f : FabSt → FabSt) : (d.onFab f).tap = d.tap := rfl
@[simp] theorem Dyn.onFab_answers (d : Dyn) (f : FabSt → FabSt) : (d.onFab f).answers = d.answers := rfl
@[simp] theorem Dyn.onFab_inbox (d : Dyn) (f : FabSt → FabSt) : (d.onFab f).inbox = d.inbox := rfl
@[simp] theorem Dyn.onFab_taken (d : Dyn) (f : FabSt → FabSt) : (d.onFab f).taken = d.taken := rfl
@[simp] theorem Dyn.onFab_free (d : Dyn) (f : FabSt → FabSt) : (d.onFab f).free = d.free := rfl

/-! ### Dyn.setCode -/

@[simp] theorem Dyn.setCode_dst (d : Dyn) (b : Nat) (x : BlockCode) : (d.setCode b x).dst = d.dst := rfl
@[simp] theorem Dyn.setCode_fuse (d : Dyn) (b : Nat) (x : BlockCode) : (d.setCode b x).fuse = d.fuse := rfl
@[simp] theorem Dyn.setCode_flash (d : Dyn) (b : Nat) (x : BlockCode) : (d.setCode b x).flash = d.flash := rfl
@[simp] theorem Dyn.setCode_time (d : Dyn) (b : Nat) (x : BlockCode) : (d.setCode b x).time = d.time := rfl
@[simp] theorem Dyn.setCode_gpio (d : Dyn) (b : Nat) (x : BlockCode) : (d.setCode b x).gpio = d.gpio := rfl
@[simp] theorem Dyn.setCode_rep (d : Dyn) (b : Nat) (x : BlockCode) : (d.setCode b x).rep = d.rep := rfl
@[simp] theorem Dyn.setCode_perf (d : Dyn) (b : Nat) (x : BlockCode) : (d.setCode b x).perf = d.perf := rfl
@[simp] theorem Dyn.setCode_cores (d : Dyn) (b : Nat) (x : BlockCode) : (d.setCode b x).cores = d.cores := rfl
@[simp] theorem Dyn.setCode_tiles (d : Dyn) (b : Nat) (x : BlockCode) : (d.setCode b x).tiles = d.tiles := rfl
@[simp] theorem Dyn.setCode_disp (d : Dyn) (b : Nat) (x : BlockCode) : (d.setCode b x).disp = d.disp := rfl
@[simp] theorem Dyn.setCode_units (d : Dyn) (b : Nat) (x : BlockCode) : (d.setCode b x).units = d.units := rfl
@[simp] theorem Dyn.setCode_blanked (d : Dyn) (b : Nat) (x : BlockCode) : (d.setCode b x).blanked = d.blanked := rfl
@[simp] theorem Dyn.setCode_mask (d : Dyn) (b : Nat) (x : BlockCode) : (d.setCode b x).mask = d.mask := rfl
@[simp] theorem Dyn.setCode_fab (d : Dyn) (b : Nat) (x : BlockCode) : (d.setCode b x).fab = d.fab := rfl
@[simp] theorem Dyn.setCode_lanes (d : Dyn) (b : Nat) (x : BlockCode) : (d.setCode b x).lanes = d.lanes := rfl
@[simp] theorem Dyn.setCode_vcs (d : Dyn) (b : Nat) (x : BlockCode) : (d.setCode b x).vcs = d.vcs := rfl
@[simp] theorem Dyn.setCode_power (d : Dyn) (b : Nat) (x : BlockCode) : (d.setCode b x).power = d.power := rfl
@[simp] theorem Dyn.setCode_keys (d : Dyn) (b : Nat) (x : BlockCode) : (d.setCode b x).keys = d.keys := rfl
@[simp] theorem Dyn.setCode_cipher (d : Dyn) (b : Nat) (x : BlockCode) : (d.setCode b x).cipher = d.cipher := rfl
@[simp] theorem Dyn.setCode_tap (d : Dyn) (b : Nat) (x : BlockCode) : (d.setCode b x).tap = d.tap := rfl
@[simp] theorem Dyn.setCode_answers (d : Dyn) (b : Nat) (x : BlockCode) : (d.setCode b x).answers = d.answers := rfl
@[simp] theorem Dyn.setCode_inbox (d : Dyn) (b : Nat) (x : BlockCode) : (d.setCode b x).inbox = d.inbox := rfl
@[simp] theorem Dyn.setCode_taken (d : Dyn) (b : Nat) (x : BlockCode) : (d.setCode b x).taken = d.taken := rfl
@[simp] theorem Dyn.setCode_free (d : Dyn) (b : Nat) (x : BlockCode) : (d.setCode b x).free = d.free := rfl

/-! ### Dyn.setMemUnit -/

@[simp] theorem Dyn.setMemUnit_dst (d : Dyn) (u : Nat) (f : MemUnit → MemUnit) : (d.setMemUnit u f).dst = d.dst := rfl
@[simp] theorem Dyn.setMemUnit_fuse (d : Dyn) (u : Nat) (f : MemUnit → MemUnit) : (d.setMemUnit u f).fuse = d.fuse := rfl
@[simp] theorem Dyn.setMemUnit_flash (d : Dyn) (u : Nat) (f : MemUnit → MemUnit) : (d.setMemUnit u f).flash = d.flash := rfl
@[simp] theorem Dyn.setMemUnit_time (d : Dyn) (u : Nat) (f : MemUnit → MemUnit) : (d.setMemUnit u f).time = d.time := rfl
@[simp] theorem Dyn.setMemUnit_gpio (d : Dyn) (u : Nat) (f : MemUnit → MemUnit) : (d.setMemUnit u f).gpio = d.gpio := rfl
@[simp] theorem Dyn.setMemUnit_rep (d : Dyn) (u : Nat) (f : MemUnit → MemUnit) : (d.setMemUnit u f).rep = d.rep := rfl
@[simp] theorem Dyn.setMemUnit_perf (d : Dyn) (u : Nat) (f : MemUnit → MemUnit) : (d.setMemUnit u f).perf = d.perf := rfl
@[simp] theorem Dyn.setMemUnit_cores (d : Dyn) (u : Nat) (f : MemUnit → MemUnit) : (d.setMemUnit u f).cores = d.cores := rfl
@[simp] theorem Dyn.setMemUnit_tiles (d : Dyn) (u : Nat) (f : MemUnit → MemUnit) : (d.setMemUnit u f).tiles = d.tiles := rfl
@[simp] theorem Dyn.setMemUnit_disp (d : Dyn) (u : Nat) (f : MemUnit → MemUnit) : (d.setMemUnit u f).disp = d.disp := rfl
@[simp] theorem Dyn.setMemUnit_units (d : Dyn) (u : Nat) (f : MemUnit → MemUnit) : (d.setMemUnit u f).units = d.units := rfl
@[simp] theorem Dyn.setMemUnit_blanked (d : Dyn) (u : Nat) (f : MemUnit → MemUnit) : (d.setMemUnit u f).blanked = d.blanked := rfl
@[simp] theorem Dyn.setMemUnit_mask (d : Dyn) (u : Nat) (f : MemUnit → MemUnit) : (d.setMemUnit u f).mask = d.mask := rfl
@[simp] theorem Dyn.setMemUnit_fab (d : Dyn) (u : Nat) (f : MemUnit → MemUnit) : (d.setMemUnit u f).fab = d.fab := rfl
@[simp] theorem Dyn.setMemUnit_lanes (d : Dyn) (u : Nat) (f : MemUnit → MemUnit) : (d.setMemUnit u f).lanes = d.lanes := rfl
@[simp] theorem Dyn.setMemUnit_vcs (d : Dyn) (u : Nat) (f : MemUnit → MemUnit) : (d.setMemUnit u f).vcs = d.vcs := rfl
@[simp] theorem Dyn.setMemUnit_power (d : Dyn) (u : Nat) (f : MemUnit → MemUnit) : (d.setMemUnit u f).power = d.power := rfl
@[simp] theorem Dyn.setMemUnit_keys (d : Dyn) (u : Nat) (f : MemUnit → MemUnit) : (d.setMemUnit u f).keys = d.keys := rfl
@[simp] theorem Dyn.setMemUnit_cipher (d : Dyn) (u : Nat) (f : MemUnit → MemUnit) : (d.setMemUnit u f).cipher = d.cipher := rfl
@[simp] theorem Dyn.setMemUnit_tap (d : Dyn) (u : Nat) (f : MemUnit → MemUnit) : (d.setMemUnit u f).tap = d.tap := rfl
@[simp] theorem Dyn.setMemUnit_answers (d : Dyn) (u : Nat) (f : MemUnit → MemUnit) : (d.setMemUnit u f).answers = d.answers := rfl
@[simp] theorem Dyn.setMemUnit_inbox (d : Dyn) (u : Nat) (f : MemUnit → MemUnit) : (d.setMemUnit u f).inbox = d.inbox := rfl
@[simp] theorem Dyn.setMemUnit_taken (d : Dyn) (u : Nat) (f : MemUnit → MemUnit) : (d.setMemUnit u f).taken = d.taken := rfl
@[simp] theorem Dyn.setMemUnit_free (d : Dyn) (u : Nat) (f : MemUnit → MemUnit) : (d.setMemUnit u f).free = d.free := rfl

/-! ### Dyn.onCipher -/

@[simp] theorem Dyn.onCipher_dst (d : Dyn) (e : Nat) (f : CipherSt → CipherSt) : (d.onCipher e f).dst = d.dst := rfl
@[simp] theorem Dyn.onCipher_fuse (d : Dyn) (e : Nat) (f : CipherSt → CipherSt) : (d.onCipher e f).fuse = d.fuse := rfl
@[simp] theorem Dyn.onCipher_flash (d : Dyn) (e : Nat) (f : CipherSt → CipherSt) : (d.onCipher e f).flash = d.flash := rfl
@[simp] theorem Dyn.onCipher_time (d : Dyn) (e : Nat) (f : CipherSt → CipherSt) : (d.onCipher e f).time = d.time := rfl
@[simp] theorem Dyn.onCipher_gpio (d : Dyn) (e : Nat) (f : CipherSt → CipherSt) : (d.onCipher e f).gpio = d.gpio := rfl
@[simp] theorem Dyn.onCipher_rep (d : Dyn) (e : Nat) (f : CipherSt → CipherSt) : (d.onCipher e f).rep = d.rep := rfl
@[simp] theorem Dyn.onCipher_perf (d : Dyn) (e : Nat) (f : CipherSt → CipherSt) : (d.onCipher e f).perf = d.perf := rfl
@[simp] theorem Dyn.onCipher_cores (d : Dyn) (e : Nat) (f : CipherSt → CipherSt) : (d.onCipher e f).cores = d.cores := rfl
@[simp] theorem Dyn.onCipher_tiles (d : Dyn) (e : Nat) (f : CipherSt → CipherSt) : (d.onCipher e f).tiles = d.tiles := rfl
@[simp] theorem Dyn.onCipher_disp (d : Dyn) (e : Nat) (f : CipherSt → CipherSt) : (d.onCipher e f).disp = d.disp := rfl
@[simp] theorem Dyn.onCipher_units (d : Dyn) (e : Nat) (f : CipherSt → CipherSt) : (d.onCipher e f).units = d.units := rfl
@[simp] theorem Dyn.onCipher_blanked (d : Dyn) (e : Nat) (f : CipherSt → CipherSt) : (d.onCipher e f).blanked = d.blanked := rfl
@[simp] theorem Dyn.onCipher_mask (d : Dyn) (e : Nat) (f : CipherSt → CipherSt) : (d.onCipher e f).mask = d.mask := rfl
@[simp] theorem Dyn.onCipher_mem (d : Dyn) (e : Nat) (f : CipherSt → CipherSt) : (d.onCipher e f).mem = d.mem := rfl
@[simp] theorem Dyn.onCipher_fab (d : Dyn) (e : Nat) (f : CipherSt → CipherSt) : (d.onCipher e f).fab = d.fab := rfl
@[simp] theorem Dyn.onCipher_lanes (d : Dyn) (e : Nat) (f : CipherSt → CipherSt) : (d.onCipher e f).lanes = d.lanes := rfl
@[simp] theorem Dyn.onCipher_vcs (d : Dyn) (e : Nat) (f : CipherSt → CipherSt) : (d.onCipher e f).vcs = d.vcs := rfl
@[simp] theorem Dyn.onCipher_power (d : Dyn) (e : Nat) (f : CipherSt → CipherSt) : (d.onCipher e f).power = d.power := rfl
@[simp] theorem Dyn.onCipher_keys (d : Dyn) (e : Nat) (f : CipherSt → CipherSt) : (d.onCipher e f).keys = d.keys := rfl
@[simp] theorem Dyn.onCipher_tap (d : Dyn) (e : Nat) (f : CipherSt → CipherSt) : (d.onCipher e f).tap = d.tap := rfl
@[simp] theorem Dyn.onCipher_answers (d : Dyn) (e : Nat) (f : CipherSt → CipherSt) : (d.onCipher e f).answers = d.answers := rfl
@[simp] theorem Dyn.onCipher_inbox (d : Dyn) (e : Nat) (f : CipherSt → CipherSt) : (d.onCipher e f).inbox = d.inbox := rfl
@[simp] theorem Dyn.onCipher_taken (d : Dyn) (e : Nat) (f : CipherSt → CipherSt) : (d.onCipher e f).taken = d.taken := rfl
@[simp] theorem Dyn.onCipher_free (d : Dyn) (e : Nat) (f : CipherSt → CipherSt) : (d.onCipher e f).free = d.free := rfl

/-! ### issue -/

/-- Issuing a report changes the report interfaces only. -/
theorem issue_only (d : Dyn) (r : Report) : issue d r = { d with rep := (issue d r).rep } := by
  unfold issue
  dsimp only
  split <;> rfl

@[simp] theorem issue_dst (d : Dyn) (r : Report) : (issue d r).dst = d.dst := by rw [issue_only]
@[simp] theorem issue_fuse (d : Dyn) (r : Report) : (issue d r).fuse = d.fuse := by rw [issue_only]
@[simp] theorem issue_flash (d : Dyn) (r : Report) : (issue d r).flash = d.flash := by rw [issue_only]
@[simp] theorem issue_time (d : Dyn) (r : Report) : (issue d r).time = d.time := by rw [issue_only]
@[simp] theorem issue_gpio (d : Dyn) (r : Report) : (issue d r).gpio = d.gpio := by rw [issue_only]
@[simp] theorem issue_perf (d : Dyn) (r : Report) : (issue d r).perf = d.perf := by rw [issue_only]
@[simp] theorem issue_cores (d : Dyn) (r : Report) : (issue d r).cores = d.cores := by rw [issue_only]
@[simp] theorem issue_tiles (d : Dyn) (r : Report) : (issue d r).tiles = d.tiles := by rw [issue_only]
@[simp] theorem issue_disp (d : Dyn) (r : Report) : (issue d r).disp = d.disp := by rw [issue_only]
@[simp] theorem issue_units (d : Dyn) (r : Report) : (issue d r).units = d.units := by rw [issue_only]
@[simp] theorem issue_blanked (d : Dyn) (r : Report) : (issue d r).blanked = d.blanked := by rw [issue_only]
@[simp] theorem issue_mask (d : Dyn) (r : Report) : (issue d r).mask = d.mask := by rw [issue_only]
@[simp] theorem issue_mem (d : Dyn) (r : Report) : (issue d r).mem = d.mem := by rw [issue_only]
@[simp] theorem issue_fab (d : Dyn) (r : Report) : (issue d r).fab = d.fab := by rw [issue_only]
@[simp] theorem issue_lanes (d : Dyn) (r : Report) : (issue d r).lanes = d.lanes := by rw [issue_only]
@[simp] theorem issue_vcs (d : Dyn) (r : Report) : (issue d r).vcs = d.vcs := by rw [issue_only]
@[simp] theorem issue_power (d : Dyn) (r : Report) : (issue d r).power = d.power := by rw [issue_only]
@[simp] theorem issue_keys (d : Dyn) (r : Report) : (issue d r).keys = d.keys := by rw [issue_only]
@[simp] theorem issue_cipher (d : Dyn) (r : Report) : (issue d r).cipher = d.cipher := by rw [issue_only]
@[simp] theorem issue_tap (d : Dyn) (r : Report) : (issue d r).tap = d.tap := by rw [issue_only]
@[simp] theorem issue_answers (d : Dyn) (r : Report) : (issue d r).answers = d.answers := by rw [issue_only]
@[simp] theorem issue_inbox (d : Dyn) (r : Report) : (issue d r).inbox = d.inbox := by rw [issue_only]
@[simp] theorem issue_taken (d : Dyn) (r : Report) : (issue d r).taken = d.taken := by rw [issue_only]
@[simp] theorem issue_free (d : Dyn) (r : Report) : (issue d r).free = d.free := by rw [issue_only]

/-! ### raiseTask -/

@[simp] theorem raiseTask_dst (d : Dyn) (u c a x : Nat) : (raiseTask d u c a x).dst = d.dst := rfl
@[simp] theorem raiseTask_fuse (d : Dyn) (u c a x : Nat) : (raiseTask d u c a x).fuse = d.fuse := rfl
@[simp] theorem raiseTask_flash (d : Dyn) (u c a x : Nat) : (raiseTask d u c a x).flash = d.flash := rfl
@[simp] theorem raiseTask_time (d : Dyn) (u c a x : Nat) : (raiseTask d u c a x).time = d.time := rfl
@[simp] theorem raiseTask_gpio (d : Dyn) (u c a x : Nat) : (raiseTask d u c a x).gpio = d.gpio := rfl
@[simp] theorem raiseTask_rep (d : Dyn) (u c a x : Nat) : (raiseTask d u c a x).rep = d.rep := rfl
@[simp] theorem raiseTask_perf (d : Dyn) (u c a x : Nat) : (raiseTask d u c a x).perf = d.perf := rfl
@[simp] theorem raiseTask_cores (d : Dyn) (u c a x : Nat) : (raiseTask d u c a x).cores = d.cores := rfl
@[simp] theorem raiseTask_tiles (d : Dyn) (u c a x : Nat) : (raiseTask d u c a x).tiles = d.tiles := rfl
@[simp] theorem raiseTask_units (d : Dyn) (u c a x : Nat) : (raiseTask d u c a x).units = d.units := rfl
@[simp] theorem raiseTask_blanked (d : Dyn) (u c a x : Nat) : (raiseTask d u c a x).blanked = d.blanked := rfl
@[simp] theorem raiseTask_mask (d : Dyn) (u c a x : Nat) : (raiseTask d u c a x).mask = d.mask := rfl
@[simp] theorem raiseTask_mem (d : Dyn) (u c a x : Nat) : (raiseTask d u c a x).mem = d.mem := rfl
@[simp] theorem raiseTask_fab (d : Dyn) (u c a x : Nat) : (raiseTask d u c a x).fab = d.fab := rfl
@[simp] theorem raiseTask_lanes (d : Dyn) (u c a x : Nat) : (raiseTask d u c a x).lanes = d.lanes := rfl
@[simp] theorem raiseTask_vcs (d : Dyn) (u c a x : Nat) : (raiseTask d u c a x).vcs = d.vcs := rfl
@[simp] theorem raiseTask_power (d : Dyn) (u c a x : Nat) : (raiseTask d u c a x).power = d.power := rfl
@[simp] theorem raiseTask_keys (d : Dyn) (u c a x : Nat) : (raiseTask d u c a x).keys = d.keys := rfl
@[simp] theorem raiseTask_cipher (d : Dyn) (u c a x : Nat) : (raiseTask d u c a x).cipher = d.cipher := rfl
@[simp] theorem raiseTask_tap (d : Dyn) (u c a x : Nat) : (raiseTask d u c a x).tap = d.tap := rfl
@[simp] theorem raiseTask_answers (d : Dyn) (u c a x : Nat) : (raiseTask d u c a x).answers = d.answers := rfl
@[simp] theorem raiseTask_inbox (d : Dyn) (u c a x : Nat) : (raiseTask d u c a x).inbox = d.inbox := rfl
@[simp] theorem raiseTask_taken (d : Dyn) (u c a x : Nat) : (raiseTask d u c a x).taken = d.taken := rfl
@[simp] theorem raiseTask_free (d : Dyn) (u c a x : Nat) : (raiseTask d u c a x).free = d.free := rfl

/-! ### raiseUnit -/

@[simp] theorem raiseUnit_dst (d : Dyn) (u c a x : Nat) : (raiseUnit d u c a x).dst = d.dst := rfl
@[simp] theorem raiseUnit_fuse (d : Dyn) (u c a x : Nat) : (raiseUnit d u c a x).fuse = d.fuse := rfl
@[simp] theorem raiseUnit_flash (d : Dyn) (u c a x : Nat) : (raiseUnit d u c a x).flash = d.flash := rfl
@[simp] theorem raiseUnit_time (d : Dyn) (u c a x : Nat) : (raiseUnit d u c a x).time = d.time := rfl
@[simp] theorem raiseUnit_gpio (d : Dyn) (u c a x : Nat) : (raiseUnit d u c a x).gpio = d.gpio := rfl
@[simp] theorem raiseUnit_rep (d : Dyn) (u c a x : Nat) : (raiseUnit d u c a x).rep = d.rep := rfl
@[simp] theorem raiseUnit_perf (d : Dyn) (u c a x : Nat) : (raiseUnit d u c a x).perf = d.perf := rfl
@[simp] theorem raiseUnit_cores (d : Dyn) (u c a x : Nat) : (raiseUnit d u c a x).cores = d.cores := rfl
@[simp] theorem raiseUnit_tiles (d : Dyn) (u c a x : Nat) : (raiseUnit d u c a x).tiles = d.tiles := rfl
@[simp] theorem raiseUnit_units (d : Dyn) (u c a x : Nat) : (raiseUnit d u c a x).units = d.units := rfl
@[simp] theorem raiseUnit_blanked (d : Dyn) (u c a x : Nat) : (raiseUnit d u c a x).blanked = d.blanked := rfl
@[simp] theorem raiseUnit_mask (d : Dyn) (u c a x : Nat) : (raiseUnit d u c a x).mask = d.mask := rfl
@[simp] theorem raiseUnit_mem (d : Dyn) (u c a x : Nat) : (raiseUnit d u c a x).mem = d.mem := rfl
@[simp] theorem raiseUnit_fab (d : Dyn) (u c a x : Nat) : (raiseUnit d u c a x).fab = d.fab := rfl
@[simp] theorem raiseUnit_lanes (d : Dyn) (u c a x : Nat) : (raiseUnit d u c a x).lanes = d.lanes := rfl
@[simp] theorem raiseUnit_vcs (d : Dyn) (u c a x : Nat) : (raiseUnit d u c a x).vcs = d.vcs := rfl
@[simp] theorem raiseUnit_power (d : Dyn) (u c a x : Nat) : (raiseUnit d u c a x).power = d.power := rfl
@[simp] theorem raiseUnit_keys (d : Dyn) (u c a x : Nat) : (raiseUnit d u c a x).keys = d.keys := rfl
@[simp] theorem raiseUnit_cipher (d : Dyn) (u c a x : Nat) : (raiseUnit d u c a x).cipher = d.cipher := rfl
@[simp] theorem raiseUnit_tap (d : Dyn) (u c a x : Nat) : (raiseUnit d u c a x).tap = d.tap := rfl
@[simp] theorem raiseUnit_answers (d : Dyn) (u c a x : Nat) : (raiseUnit d u c a x).answers = d.answers := rfl
@[simp] theorem raiseUnit_inbox (d : Dyn) (u c a x : Nat) : (raiseUnit d u c a x).inbox = d.inbox := rfl
@[simp] theorem raiseUnit_taken (d : Dyn) (u c a x : Nat) : (raiseUnit d u c a x).taken = d.taken := rfl
@[simp] theorem raiseUnit_free (d : Dyn) (u c a x : Nat) : (raiseUnit d u c a x).free = d.free := rfl

/-! ### countEv -/

/-- Counting an event changes the counters and the model's counter of free values only. -/
theorem countEv_only (d : Dyn) (u e n : Nat) (i : EvInfo) :
    countEv d u e n i = { d with perf := (countEv d u e n i).perf, free := (countEv d u e n i).free } := by
  unfold countEv
  split <;> rfl

@[simp] theorem countEv_dst (d : Dyn) (u e n : Nat) (i : EvInfo) : (countEv d u e n i).dst = d.dst := by
  rw [countEv_only]
@[simp] theorem countEv_fuse (d : Dyn) (u e n : Nat) (i : EvInfo) : (countEv d u e n i).fuse = d.fuse := by
  rw [countEv_only]
@[simp] theorem countEv_flash (d : Dyn) (u e n : Nat) (i : EvInfo) : (countEv d u e n i).flash = d.flash := by
  rw [countEv_only]
@[simp] theorem countEv_time (d : Dyn) (u e n : Nat) (i : EvInfo) : (countEv d u e n i).time = d.time := by
  rw [countEv_only]
@[simp] theorem countEv_gpio (d : Dyn) (u e n : Nat) (i : EvInfo) : (countEv d u e n i).gpio = d.gpio := by
  rw [countEv_only]
@[simp] theorem countEv_rep (d : Dyn) (u e n : Nat) (i : EvInfo) : (countEv d u e n i).rep = d.rep := by
  rw [countEv_only]
@[simp] theorem countEv_cores (d : Dyn) (u e n : Nat) (i : EvInfo) : (countEv d u e n i).cores = d.cores := by
  rw [countEv_only]
@[simp] theorem countEv_tiles (d : Dyn) (u e n : Nat) (i : EvInfo) : (countEv d u e n i).tiles = d.tiles := by
  rw [countEv_only]
@[simp] theorem countEv_disp (d : Dyn) (u e n : Nat) (i : EvInfo) : (countEv d u e n i).disp = d.disp := by
  rw [countEv_only]
@[simp] theorem countEv_units (d : Dyn) (u e n : Nat) (i : EvInfo) : (countEv d u e n i).units = d.units := by
  rw [countEv_only]
@[simp] theorem countEv_blanked (d : Dyn) (u e n : Nat) (i : EvInfo) : (countEv d u e n i).blanked = d.blanked := by
  rw [countEv_only]
@[simp] theorem countEv_mask (d : Dyn) (u e n : Nat) (i : EvInfo) : (countEv d u e n i).mask = d.mask := by
  rw [countEv_only]
@[simp] theorem countEv_mem (d : Dyn) (u e n : Nat) (i : EvInfo) : (countEv d u e n i).mem = d.mem := by
  rw [countEv_only]
@[simp] theorem countEv_fab (d : Dyn) (u e n : Nat) (i : EvInfo) : (countEv d u e n i).fab = d.fab := by
  rw [countEv_only]
@[simp] theorem countEv_lanes (d : Dyn) (u e n : Nat) (i : EvInfo) : (countEv d u e n i).lanes = d.lanes := by
  rw [countEv_only]
@[simp] theorem countEv_vcs (d : Dyn) (u e n : Nat) (i : EvInfo) : (countEv d u e n i).vcs = d.vcs := by
  rw [countEv_only]
@[simp] theorem countEv_power (d : Dyn) (u e n : Nat) (i : EvInfo) : (countEv d u e n i).power = d.power := by
  rw [countEv_only]
@[simp] theorem countEv_keys (d : Dyn) (u e n : Nat) (i : EvInfo) : (countEv d u e n i).keys = d.keys := by
  rw [countEv_only]
@[simp] theorem countEv_cipher (d : Dyn) (u e n : Nat) (i : EvInfo) : (countEv d u e n i).cipher = d.cipher := by
  rw [countEv_only]
@[simp] theorem countEv_tap (d : Dyn) (u e n : Nat) (i : EvInfo) : (countEv d u e n i).tap = d.tap := by
  rw [countEv_only]
@[simp] theorem countEv_answers (d : Dyn) (u e n : Nat) (i : EvInfo) : (countEv d u e n i).answers = d.answers := by
  rw [countEv_only]
@[simp] theorem countEv_inbox (d : Dyn) (u e n : Nat) (i : EvInfo) : (countEv d u e n i).inbox = d.inbox := by
  rw [countEv_only]
@[simp] theorem countEv_taken (d : Dyn) (u e n : Nat) (i : EvInfo) : (countEv d u e n i).taken = d.taken := by
  rw [countEv_only]

end Sys2Proof.Machine
end

