-- ==== Sys2Proof/Laws/Access.lean ====
section
/-! SUPPORT. What an access over the fabric can change: `OnlyAccess`, from one packet to a fetch. -/

namespace Sys2Proof.Machine

/-! ### OnlyAccess -/

theorem OnlyAccess.refl (d : Dyn) : OnlyAccess d d := rfl

theorem OnlyAccess.trans {d e f : Dyn} (h : OnlyAccess d e) (g : OnlyAccess e f) : OnlyAccess d f := by
  unfold OnlyAccess at *
  rw [← g] at h
  exact h

theorem OnlyAccess.foldl {α : Type} {f : Dyn → α → Dyn} (h : ∀ d x, OnlyAccess d (f d x)) :
    ∀ (l : List α) (d : Dyn), OnlyAccess d (l.foldl f d)
  | [], d => OnlyAccess.refl d
  | x :: l, d => (h d x).trans (OnlyAccess.foldl h l (f d x))

/-- The same where each step also answers something. -/
theorem OnlyAccess.foldl_fst {α β : Type} {f : Dyn × β → α → Dyn × β} (h : ∀ a x, OnlyAccess a.1 (f a x).1) :
    ∀ (l : List α) (a : Dyn × β), OnlyAccess a.1 (l.foldl f a).1
  | [], a => OnlyAccess.refl a.1
  | x :: l, a => (h a x).trans (OnlyAccess.foldl_fst h l (f a x))

theorem OnlyAccess.cores {d e : Dyn} (h : OnlyAccess d e) : e.cores = d.cores := by
  have h1 := congrArg Dyn.cores h
  exact h1
theorem OnlyAccess.core {d e : Dyn} (h : OnlyAccess d e) (k : Nat) : e.core k = d.core k := by
  simp only [Dyn.core, h.cores]

/-! ### The operations that an access is made of -/

theorem onlyAccess_fresh (d : Dyn) : OnlyAccess d (freshNat d).2 := rfl

theorem onlyAccess_countEv (d : Dyn) (u e n : Nat) (i : EvInfo) : OnlyAccess d (countEv d u e n i) := by
  unfold OnlyAccess
  rw [countEv_only]

theorem onlyAccess_event (d : Dyn) (src cls code : Nat) (l : List Byte) : OnlyAccess d (event d src cls code l) := by
  unfold event issue OnlyAccess
  dsimp only
  split <;> rfl

theorem onlyAccess_raiseUnit (d : Dyn) (u cond a x : Nat) : OnlyAccess d (raiseUnit d u cond a x) := rfl
theorem onlyAccess_setUnit (d : Dyn) (u : Nat) (f : UnitSt → UnitSt) : OnlyAccess d (d.setUnit u f) := rfl
theorem onlyAccess_onFab (d : Dyn) (f : FabSt → FabSt) : OnlyAccess d (d.onFab f) := rfl
theorem onlyAccess_setMemUnit (d : Dyn) (u : Nat) (f : MemUnit → MemUnit) : OnlyAccess d (d.setMemUnit u f) := rfl
theorem onlyAccess_setCode (d : Dyn) (b : Nat) (c : BlockCode) : OnlyAccess d (d.setCode b c) := rfl
theorem onlyAccess_mem (d : Dyn) (m : MemSt) : OnlyAccess d { d with mem := m } := rfl

theorem onlyAccess_bucketAdd (img : Img) (d : Dyn) (u n : Nat) : OnlyAccess d (bucketAdd img d u n) := by
  unfold bucketAdd
  dsimp only
  split <;> rfl

theorem onlyAccess_noteCorrected (img : Img) (d : Dyn) (u b r : Nat) :
    OnlyAccess d (noteCorrected img d u b r) := by
  unfold noteCorrected
  refine OnlyAccess.trans ?_ (onlyAccess_bucketAdd ..)
  split
  · exact (show OnlyAccess d (epochMark (d.setMemUnit u _) 0x0782 u) from rfl).trans (onlyAccess_event ..)
  · rfl

theorem onlyAccess_poisonBlock (img : Img) (d : Dyn) (u b r f : Nat) :
    OnlyAccess d (poisonBlock img d u b r f) := by
  unfold poisonBlock
  refine OnlyAccess.trans ?_ (onlyAccess_bucketAdd ..)
  split
  · rfl
  · exact OnlyAccess.trans (by rfl) (onlyAccess_event ..)

theorem onlyAccess_settleBlock (img : Img) (d : Dyn) (u b f : Nat) (r : RegionInfo) :
    OnlyAccess d (settleBlock img d u b f r).1 := by
  have hs : ∀ x : Dyn × BlockCode × Bool, OnlyAccess d x.1 → OnlyAccess d
      (if x.2.1.poisoned then (x.1, 4) else match decodeBlock r.geom x.2.1 with
        | .clean => (x.1, if x.2.2 then 1 else 0)
        | .fixBit i =>
          let a := b + i / 8
          let old := Memory.read x.1.mem.cells a
          let d1 := { x.1 with mem := { x.1.mem with
            cells := Memory.write x.1.mem.cells a (old ^^^ BitVec.ofNat 8 (2 ^ (i % 8))) } }
          (noteCorrected img (d1.setCode b { x.2.1 with rows := 0, cols := 0 }) u b r.num, 1)
        | .fixCheck => (noteCorrected img (x.1.setCode b { x.2.1 with rows := 0, cols := 0 }) u b r.num, 1)
        | .bad => (poisonBlock img x.1 u b r.num f, 4)).1 := by
    intro x hx
    split
    · exact hx
    · split
      · exact hx
      · exact hx.trans (OnlyAccess.trans (by rfl) (onlyAccess_noteCorrected ..))
      · exact hx.trans (OnlyAccess.trans (by rfl) (onlyAccess_noteCorrected ..))
      · exact hx.trans (onlyAccess_poisonBlock ..)
  unfold settleBlock
  dsimp only
  split
  · split
    · exact rfl
    · exact (onlyAccess_fresh d).trans (onlyAccess_poisonBlock ..)
  · exact hs _ (by split
                   · exact OnlyAccess.trans (by rfl) (onlyAccess_noteCorrected ..)
                   · exact OnlyAccess.refl d)

theorem onlyAccess_unitRead (img : Img) (d : Dyn) (u a n : Nat) (i : EvInfo) :
    OnlyAccess d (unitRead img d u a n i).1 := by
  unfold unitRead
  split
  · exact OnlyAccess.refl d
  · change OnlyAccess ((d, 0) : Dyn × Nat).1 (List.foldl _ (d, 0) _).1
    refine OnlyAccess.foldl_fst ?_ _ _
    exact fun x b => (onlyAccess_countEv x.1 u 0x0700 1 i).trans (onlyAccess_settleBlock img _ u b 0 _)

theorem onlyAccess_blockWrite (img : Img) (d : Dyn) (u b a : Nat) (l : List Byte) (r : RegionInfo) (i : EvInfo) :
    OnlyAccess d (blockWrite img d u b a l r i).1 := by
  unfold blockWrite
  dsimp only
  split
  · exact (onlyAccess_countEv d u 0x0701 1 i).trans rfl
  · split
    · rfl
    · split
      · exact (onlyAccess_settleBlock ..).trans rfl
      · exact ((onlyAccess_settleBlock ..).trans (onlyAccess_countEv ..)).trans rfl

theorem onlyAccess_unitWrite (img : Img) (d : Dyn) (u a : Nat) (l : List Byte) (i : EvInfo) :
    OnlyAccess d (unitWrite img d u a l i).1 := by
  unfold unitWrite
  split
  · exact OnlyAccess.refl d
  · change OnlyAccess ((d, 0, 0) : Dyn × Nat × Nat).1 (List.foldl _ (d, 0, 0) _).1
    refine OnlyAccess.foldl_fst ?_ _ _
    exact fun x b => onlyAccess_blockWrite img x.1 u b a l _ i

theorem onlyAccess_unitAtomic (img : Img) (d : Dyn) (u a f o c : Nat) (i : EvInfo) :
    OnlyAccess d (unitAtomic img d u a f o c i).1 := by
  unfold unitAtomic
  split
  · exact OnlyAccess.refl d
  · rename_i r _
    dsimp only
    split
    · rfl
    · split
      · exact (onlyAccess_settleBlock ..).trans rfl
      · have h := (onlyAccess_settleBlock img d u (blockBase r.geom a) 1 r).trans
          (onlyAccess_countEv _ u 0x0702 1 i)
        split
        · exact h.trans rfl
        · exact h.trans rfl

theorem onlyAccess_perform (img : Img) (d : Dyn) (w : Sender) (u a : Nat) (op : MemOp) :
    OnlyAccess d (perform img d w u a op).1 := by
  unfold perform
  dsimp only
  cases op with
  | read n => exact onlyAccess_unitRead ..
  | write b => 
    dsimp only
    split
    · exact onlyAccess_event ..
    · exact onlyAccess_unitWrite ..
  | atomic f o c => 
    dsimp only
    split
    · exact onlyAccess_event ..
    · exact onlyAccess_unitAtomic ..

theorem onlyAccess_performMem (img : Img) (d : Dyn) (p : Packet) : OnlyAccess d (performMem img d p).1 := by
  unfold performMem
  dsimp only
  split
  · exact OnlyAccess.refl d
  · split
    · exact OnlyAccess.refl d
    · exact onlyAccess_perform ..

/-! ### Packets -/

theorem onlyAccess_spend (img : Img) (d : Dyn) (e c n : Nat) : OnlyAccess d (spend img d e c n) := by
  unfold spend
  split <;> rfl

theorem onlyAccess_launch (p : Packet) (d : Dyn) : OnlyAccess d (launch p d) := by
  unfold launch
  dsimp only
  split
  · rfl
  · exact (onlyAccess_countEv ..).trans rfl

theorem onlyAccess_track (p : Packet) (d : Dyn) : OnlyAccess d (track p d) := by
  unfold track
  split <;> rfl

theorem onlyAccess_regulate (img : Img) (d : Dyn) (p : Packet) : OnlyAccess d (regulate img d p) := by
  have h : ∀ f, OnlyAccess d (launch p (track p ((spend img d p.src.toNat p.cls.toNat (packetLen p)).onFab f))) :=
    fun f => (((onlyAccess_spend ..).trans (onlyAccess_onFab _ f)).trans (onlyAccess_track ..)).trans
      (onlyAccess_launch ..)
  unfold regulate
  dsimp only
  split
  · exact h _
  · split <;> rfl

theorem onlyAccess_noteAnswered (d : Dyn) (s e : Nat) : OnlyAccess d (noteAnswered d s e) := rfl

theorem onlyAccess_noteTimeout (d : Dyn) (s e u : Nat) : OnlyAccess d (noteTimeout d s e u) := by
  unfold noteTimeout
  dsimp only
  split <;> rfl

theorem onlyAccess_applyMode (d : Dyn) (e mode : Nat) : OnlyAccess d (applyMode d e mode) := by
  unfold applyMode
  dsimp only
  split
  · rfl
  · split
    · exact OnlyAccess.trans (by rfl) (OnlyAccess.foldl (fun d u => onlyAccess_setUnit ..) _ _)
    · split
      · refine OnlyAccess.trans (OnlyAccess.trans ?_ (OnlyAccess.foldl (fun d u => onlyAccess_setUnit ..) _ _)) rfl
        split <;> rfl
      · split <;> rfl

theorem onlyAccess_setChanges (d : Dyn) (r : Nat) (l : List PortChange) : OnlyAccess d (d.setChanges r l) := rfl

theorem onlyAccess_quiesce (d : Dyn) (r : Nat) : OnlyAccess d (quiesce d r) := by
  unfold quiesce
  split
  · exact OnlyAccess.refl d
  · exact (onlyAccess_applyMode ..).trans (onlyAccess_setChanges ..)

theorem onlyAccess_quiesceLimit (img : Img) (d : Dyn) (r : Nat) : OnlyAccess d (quiesceLimit img d r) := by
  unfold quiesceLimit
  split
  · exact OnlyAccess.refl d
  · split
    · exact (onlyAccess_setChanges ..).trans (onlyAccess_event ..)
    · exact OnlyAccess.refl d

theorem onlyAccess_acceptAgain (img : Img) (d : Dyn) (r : Nat) : OnlyAccess d (acceptAgain img d r) := by
  unfold acceptAgain
  split
  · exact OnlyAccess.refl d
  · split
    · exact onlyAccess_quiesceLimit ..
    · exact onlyAccess_quiesce ..

/-- What a target does with a request that arrives changes no more than an access may. -/
abbrev Target.Only (serve : Target) : Prop := ∀ img d p, OnlyAccess d (serve img d p).1

theorem onlyAccess_arriveRequest {serve : Target} (hs : Target.Only serve) (img : Img) (d : Dyn) (p : Packet) :
    OnlyAccess d (arriveRequest serve img d p) := by
  unfold arriveRequest
  dsimp only
  split
  · rfl
  · rfl
  · rfl
  · have h := onlyAccess_countEv d (routerSource p.dest.toNat) 0x0601 (packetLen p) (packetInfo p)
    refine OnlyAccess.trans (h.trans ?_) (onlyAccess_regulate ..)
    split
    · exact hs ..
    · rfl

theorem onlyAccess_deliver (p : Packet) (d : Dyn) : OnlyAccess d (deliver p d) := onlyAccess_onFab d _
theorem onlyAccess_countCrc (d : Dyn) (e : Nat) : OnlyAccess d (countCrc d e) := onlyAccess_onFab d _

theorem onlyAccess_arriveResponse (d : Dyn) (p : Packet) : OnlyAccess d (arriveResponse d p) := by
  unfold arriveResponse
  dsimp only
  split
  · rfl
  · refine (onlyAccess_countEv d (routerSource p.dest.toNat) 0x0601 (packetLen p) (packetInfo p)).trans ?_
    generalize countEv d (routerSource p.dest.toNat) 0x0601 (packetLen p) (packetInfo p) = d1
    split
    · exact OnlyAccess.refl _
    · generalize h2 : d1.onFab _ = d2
      have h2' : OnlyAccess d1 d2 := h2 ▸ onlyAccess_onFab d1 _
      refine h2'.trans ?_
      split
      · exact onlyAccess_onFab d2 _
      · have h3 : OnlyAccess d2 (if fromRouter p then d2 else noteAnswered d2 p.dest.toNat p.src.toNat) := by
          split
          · exact OnlyAccess.refl d2
          · exact onlyAccess_noteAnswered ..
        split
        · exact h3.trans (onlyAccess_deliver ..)
        · exact (h3.trans (onlyAccess_countCrc ..)).trans (onlyAccess_deliver ..)

theorem onlyAccess_arriveAt {serve : Target} (hs : Target.Only serve) (img : Img) (d : Dyn) (p : Packet) :
    OnlyAccess d (arriveAt serve img d p) := by
  unfold arriveAt
  split
  · exact onlyAccess_arriveResponse ..
  · exact onlyAccess_arriveRequest hs ..

theorem onlyAccess_landFirst {serve : Target} (hs : Target.Only serve) (img : Img) (p : Packet) (d : Dyn) :
    OnlyAccess d (landFirst serve img p d) := by
  unfold landFirst
  split
  · rfl
  · split
    · rfl
    · exact (onlyAccess_onFab d _).trans (onlyAccess_arriveAt hs ..)

theorem onlyAccess_enter {serve : Target} (hs : Target.Only serve) (img : Img) (d : Dyn) (p : Packet) :
    OnlyAccess d (enter serve img d p) := by
  refine OnlyAccess.trans (OnlyAccess.trans (e := sendWaiting img d p) ?_ ?_) (onlyAccess_spend ..)
  · exact OnlyAccess.foldl (fun d q => (((onlyAccess_spend ..).trans (onlyAccess_onFab ..)).trans
      (onlyAccess_track ..)).trans (onlyAccess_launch ..)) _ _
  · exact OnlyAccess.foldl (fun d _ => onlyAccess_landFirst hs img p d) _ _

theorem onlyAccess_cross (d : Dyn) (p : Packet) : OnlyAccess d (cross d p) :=
  (onlyAccess_onFab d _).trans (onlyAccess_countEv ..)

theorem onlyAccess_eject (d : Dyn) (p : Packet) : OnlyAccess d (eject d p) := onlyAccess_countEv ..

theorem onlyAccess_routerAnswers (d : Dyn) (q : Packet) (r : Resp) : OnlyAccess d (routerAnswers d q r).1 :=
  (onlyAccess_onFab d _).trans (onlyAccess_eject ..)

/-- An exchange whose request changes no more at its target than an access may. -/
theorem onlyAccess_exchange {serve : Target} (hs : Target.Only serve) (img : Img) (d : Dyn) (q : Packet)
    (act : Dyn → Dyn × Resp) (ha : ∀ d, OnlyAccess d (act d).1) : OnlyAccess d (exchange serve img d q act).1 := by
  unfold exchange
  dsimp only
  have h1 : OnlyAccess d (enter serve img ((routeOf q.src.toNat q.dest.toNat
      ++ routeOf q.dest.toNat q.src.toNat).foldl (acceptAgain img) d) q) :=
    (OnlyAccess.foldl (fun d r => onlyAccess_acceptAgain img d r) _ d).trans (onlyAccess_enter hs img _ q)
  refine h1.trans ?_
  generalize enter serve img _ q = d1
  split
  · exact OnlyAccess.trans (by rfl) (onlyAccess_noteTimeout ..)
  · refine (onlyAccess_cross d1 q).trans ?_
    generalize cross d1 q = d2
    split
    · exact ((((onlyAccess_eject d2 q).trans (ha _)).trans (onlyAccess_enter hs img _ _)).trans
        (onlyAccess_cross ..)).trans ((onlyAccess_eject ..).trans (onlyAccess_noteAnswered ..))
    · exact OnlyAccess.trans (e := countAsleep d2 q.dest.toNat) rfl (onlyAccess_routerAnswers ..)
    · exact OnlyAccess.trans (e := countAbsorbed d2 q.dest.toNat) rfl (onlyAccess_routerAnswers ..)
    · exact onlyAccess_routerAnswers ..

/-! ### Accesses to memory -/

/-- A packet to memory changes memory, the fabric and what they count and report, and nothing else. -/
theorem memPacket_only (img : Img) (d : Dyn) (w : Sender) (a : Nat) (op : MemOp) :
    OnlyAccess d (memPacket img d w a op).1 := by
  unfold memPacket
  split
  · exact OnlyAccess.refl d
  · exact onlyAccess_exchange onlyAccess_performMem img d _ _ (fun d => onlyAccess_perform ..)

theorem memLoad_only (img : Img) (d : Dyn) (w : Sender) (a n : Nat) : OnlyAccess d (memLoad img d w a n).1 := by
  change OnlyAccess ((d, Resp.ok) : Dyn × Resp).1 (List.foldl _ (d, Resp.ok) _).1
  refine OnlyAccess.foldl_fst ?_ _ _
  exact fun x p => memPacket_only img x.1 w p.1 (.read p.2)

theorem memStore_only (img : Img) (d : Dyn) (w : Sender) (a : Nat) (l : List Byte) :
    OnlyAccess d (memStore img d w a l).1 := by
  change OnlyAccess ((d, Resp.ok) : Dyn × Resp).1 (List.foldl _ (d, Resp.ok) _).1
  refine OnlyAccess.foldl_fst ?_ _ _
  exact fun x p => memPacket_only img x.1 w p.1 _

/-- What a fetch can change: a hit in the instruction cache takes a free value, a miss reads memory. -/
theorem fetch_only (img : Img) (d : Dyn) (c : Nat) : OnlyAccess d (fetch img d c).1 := by
  have h : OnlyAccess d (if maybeCached d c then freshNat d else (0, d)).2 := by
    cases maybeCached d c <;> rfl
  unfold fetch
  generalize (if maybeCached d c then freshNat d else (0, d)) = x at h
  dsimp only
  split
  · exact h
  · exact h.trans (memLoad_only img x.2 (coreSender x.2 c) (x.2.pc c).toNat 4)

@[simp] theorem fetch_core (img : Img) (d : Dyn) (c k : Nat) : (fetch img d c).1.core k = d.core k :=
  (fetch_only img d c).core k

end Sys2Proof.Machine
end

