-- ==== Sys2Proof/Laws/Map.lean ====
section
/-! SUPPORT. Reading a map after a write. -/

namespace Sys2Proof.Machine

theorem Map.get_set_same {α : Type} (d : α) (m : Map α) (k : Nat) (v : α) :
    Map.get d (Map.set m k v) k = v := by
  induction m with
  | nil => simp [Map.set, Map.get]
  | cons e rest ih =>
    obtain ⟨k', w⟩ := e
    simp only [Map.set]
    split
    · simp [Map.get]
    · split
      · simp [Map.get]
      · rename_i h _
        simp [Map.get, h, ih]

theorem Map.get_set_other {α : Type} (d : α) (m : Map α) (k j : Nat) (v : α) (h : j ≠ k) :
    Map.get d (Map.set m k v) j = Map.get d m j := by
  induction m with
  | nil => simp [Map.set, Map.get, Ne.symm h]
  | cons e rest ih =>
    obtain ⟨k', w⟩ := e
    simp only [Map.set]
    split
    · rename_i hk
      subst hk
      simp [Map.get, Ne.symm h]
    · split
      · simp [Map.get, Ne.symm h]
      · simp only [Map.get]
        split
        · rfl
        · exact ih

@[simp] theorem Map.get_set {α : Type} (d : α) (m : Map α) (k j : Nat) (v : α) :
    Map.get d (Map.set m k v) j = if j = k then v else Map.get d m j := by
  split
  · rename_i h; subst h; exact Map.get_set_same d m j v
  · rename_i h; exact Map.get_set_other d m k j v h

@[simp] theorem Map.get_upd {α : Type} (d : α) (m : Map α) (k j : Nat) (f : α → α) :
    Map.get d (Map.upd d m k f) j = if j = k then f (Map.get d m k) else Map.get d m j := by
  simp [Map.upd]

/-- Of two writes at a key the second stands. -/
@[simp] theorem Map.set_set {α : Type} (m : Map α) (k : Nat) (v w : α) :
    Map.set (Map.set m k v) k w = Map.set m k w := by
  induction m with
  | nil => simp [Map.set]
  | cons e rest ih =>
    obtain ⟨k', u⟩ := e
    simp only [Map.set]
    split
    · simp [Map.set]
    · split
      · simp [Map.set]
      · rename_i h1 h2; simp [Map.set, h1, h2, ih]

@[simp] theorem Map.get_nil {α : Type} (d : α) (k : Nat) : Map.get d [] k = d := rfl

end Sys2Proof.Machine
end

