-- ==== Sys2Proof/Laws/Core.lean ====
section
/-! SUPPORT. What an instruction of a Bronze core can do: it retires, or it raises an exception. -/

namespace Sys2Proof.Machine

/-- A command of the main island changes neither the queue nor the configuration. -/
theorem act_next {f : Img → Dyn → Dyn} {s t : State} (h : act f s = .next t) :
    t.pending = s.pending ∧ t.img = s.img ∧ t.dyn = (if islandUp s.dyn then f s.img s.dyn else s.dyn) := by
  simp only [act, Host.Outcome.next.injEq] at h
  subst h
  split <;> simp

/-- While the main island runs, a command of it has its effect. -/
theorem act_up {f : Img → Dyn → Dyn} {s : State} (h : islandUp s.dyn = true) :
    act f s = .next { s with dyn := f s.img s.dyn } := by
  simp [act, h]

/-- While it does not run, the command has none. -/
theorem act_down {f : Img → Dyn → Dyn} {s : State} (h : islandUp s.dyn = false) : act f s = .next s := by
  simp [act, h]

/-! ### Cores -/

@[simp] theorem Dyn.core_setCore (d : Dyn) (c k : Nat) (x : CoreSt) :
    (d.setCore c x).core k = if k = c then x else d.core k := by
  simp [Dyn.core, Dyn.setCore]

@[simp] theorem Dyn.core_onRegs (d : Dyn) (c k : Nat) (f : CoreRegs → CoreRegs) :
    (d.onRegs c f).core k = if k = c then { d.core c with regs := f (d.core c).regs } else d.core k := by
  simp [Dyn.onRegs, Dyn.onCore]

@[simp] theorem Dyn.core_onCtl (d : Dyn) (c k : Nat) (f : CoreCtl → CoreCtl) :
    (d.onCtl c f).core k = if k = c then { d.core c with ctl := f (d.core c).ctl } else d.core k := by
  simp [Dyn.onCtl, Dyn.onCore]

@[simp] theorem Dyn.core_onTsk (d : Dyn) (c k : Nat) (f : CoreTask → CoreTask) :
    (d.onTsk c f).core k = if k = c then { d.core c with tsk := f (d.core c).tsk } else d.core k := by
  simp [Dyn.onTsk, Dyn.onCore]

@[simp] theorem Dyn.core_onVec (d : Dyn) (c k : Nat) (f : CoreVec → CoreVec) :
    (d.onVec c f).core k = if k = c then { d.core c with vec := f (d.core c).vec } else d.core k := by
  simp [Dyn.onVec, Dyn.onCore]

@[simp] theorem Dyn.core_onPort (d : Dyn) (c k : Nat) (f : CorePort → CorePort) :
    (d.onPort c f).core k = if k = c then { d.core c with port := f (d.core c).port } else d.core k := by
  simp [Dyn.onPort, Dyn.onCore]

@[simp] theorem countEv_core (d : Dyn) (u e n k : Nat) (i : EvInfo) :
    (countEv d u e n i).core k = d.core k := by
  simp [Dyn.core]

/-- Only the performance counters, and the model's own counter of free values, differ. -/
def OnlyCounts (d e : Dyn) : Prop := e = { d with perf := e.perf, free := e.free }

theorem OnlyCounts.trans {d e f : Dyn} (h : OnlyCounts d e) (g : OnlyCounts e f) : OnlyCounts d f := by
  unfold OnlyCounts at *
  rw [g, h]

theorem OnlyCounts.core {d e : Dyn} (h : OnlyCounts d e) (k : Nat) : e.core k = d.core k := by
  rw [h]; rfl

/-- Recording a sample changes the counters alone. -/
theorem sampleAt_only (d : Dyn) (c : Nat) (pc : Addr) (k : Nat) (tag exc : Bool) :
    OnlyCounts d (sampleAt d c pc k tag exc) := by
  cases tag <;> rfl

theorem setArms_only (d : Dyn) (c : Nat) (l : List SampleArm) : OnlyCounts d (setArms d c l) := rfl

theorem recordAll_only (c : Nat) (pc : Addr) (exc : Bool) :
    ∀ (l : List SampleArm) (d : Dyn), OnlyCounts d (recordAll c pc exc l d)
  | [], _ => rfl
  | a :: l, d => (sampleAt_only d c pc a.ctr a.tag exc).trans (recordAll_only c pc exc l _)

theorem sampleTick_only (d : Dyn) (c : Nat) (pc : Addr) : OnlyCounts d (sampleTick d c pc) := by
  unfold sampleTick
  dsimp only
  split
  · rfl
  · exact (setArms_only ..).trans (recordAll_only ..)

theorem sampleExc_only (d : Dyn) (c : Nat) : OnlyCounts d (sampleExc d c) := by
  unfold sampleExc
  dsimp only
  split
  · rfl
  · exact (setArms_only ..).trans (recordAll_only ..)

theorem sampleAccess_only (d : Dyn) (c a : Nat) : OnlyCounts d (sampleAccess d c a) := by
  unfold sampleAccess
  dsimp only
  split <;> rfl

theorem countEntry_only (d : Dyn) (c : Nat) : OnlyCounts d (countEntry d c) := by
  unfold countEntry
  dsimp only
  split
  · exact OnlyCounts.trans (countEv_only ..) (setArms_only ..)
  · exact countEv_only ..

@[simp] theorem sampleTick_core (d : Dyn) (c k : Nat) (pc : Addr) : (sampleTick d c pc).core k = d.core k :=
  (sampleTick_only d c pc).core k

@[simp] theorem sampleExc_core (d : Dyn) (c k : Nat) : (sampleExc d c).core k = d.core k :=
  (sampleExc_only d c).core k

@[simp] theorem sampleAccess_core (d : Dyn) (c a k : Nat) : (sampleAccess d c a).core k = d.core k :=
  (sampleAccess_only d c a).core k

@[simp] theorem countEntry_core (d : Dyn) (c k : Nat) : (countEntry d c).core k = d.core k :=
  (countEntry_only d c).core k

/-- What a change that only touches core `c` and the counters is made of. -/
def OnlyCoreDyn (c : Nat) (d e : Dyn) : Prop :=
  { e with cores := d.cores, perf := d.perf, free := d.free } = d ∧ ∀ k, k ≠ c → e.core k = d.core k

theorem OnlyCoreDyn.refl (c : Nat) (d : Dyn) : OnlyCoreDyn c d d := ⟨rfl, fun _ _ => rfl⟩

theorem OnlyCoreDyn.trans {c : Nat} {d e f : Dyn} (h : OnlyCoreDyn c d e) (g : OnlyCoreDyn c e f) :
    OnlyCoreDyn c d f := by
  refine ⟨?_, fun k hk => (g.2 k hk).trans (h.2 k hk)⟩
  have h1 := h.1
  rw [← g.1] at h1
  exact h1

theorem OnlyCoreDyn.setCore (c : Nat) (d : Dyn) (x : CoreSt) : OnlyCoreDyn c d (d.setCore c x) :=
  ⟨rfl, fun k hk => by simp [hk]⟩

theorem OnlyCoreDyn.onRegs (c : Nat) (d : Dyn) (f : CoreRegs → CoreRegs) : OnlyCoreDyn c d (d.onRegs c f) :=
  OnlyCoreDyn.setCore c d _

theorem OnlyCoreDyn.onCtl (c : Nat) (d : Dyn) (f : CoreCtl → CoreCtl) : OnlyCoreDyn c d (d.onCtl c f) :=
  OnlyCoreDyn.setCore c d _

theorem OnlyCoreDyn.countEv (c : Nat) (d : Dyn) (u e n : Nat) (i : EvInfo) :
    OnlyCoreDyn c d (countEv d u e n i) := by
  refine ⟨?_, fun k _ => countEv_core d u e n k i⟩
  rw [countEv_only]

theorem OnlyCounts.onlyCoreDyn {d e : Dyn} (h : OnlyCounts d e) (c : Nat) : OnlyCoreDyn c d e := by
  refine ⟨?_, fun k _ => h.core k⟩
  rw [h]

theorem OnlyCoreDyn.sampleTick (c b : Nat) (d : Dyn) (pc : Addr) : OnlyCoreDyn c d (sampleTick d b pc) :=
  (sampleTick_only d b pc).onlyCoreDyn c

theorem OnlyCoreDyn.nextPc (c : Nat) (d : Dyn) (inrep : Bool) (goto : Option Addr) :
    OnlyCoreDyn c d (nextPc d c inrep goto) := by
  unfold Machine.nextPc
  dsimp only
  split
  · split
    · exact ((OnlyCoreDyn.onCtl c d _).trans (OnlyCoreDyn.onCtl c _ _)).trans (OnlyCoreDyn.onRegs c _ _)
    · exact OnlyCoreDyn.onCtl c d _
  · exact OnlyCoreDyn.onRegs c d _

/-- Retiring changes the core and the counters only. -/
theorem OnlyCoreDyn.retire (c icls : Nat) (d : Dyn) (pl : Priv) (inrep : Bool) (goto : Option Addr) :
    OnlyCoreDyn c d (retire d c icls pl inrep goto) :=
  ((OnlyCoreDyn.countEv c d _ _ _ _).trans (OnlyCoreDyn.sampleTick c c _ _)).trans
    (OnlyCoreDyn.nextPc c _ _ _)

/-- The core after an instruction retires. -/
theorem retire_core (c icls : Nat) (d : Dyn) (pl : Priv) (inrep : Bool) (goto : Option Addr) :
    ∃ pc rc n b, (retire d c icls pl inrep goto).core c = { d.core c with
        regs := { (d.core c).regs with pc := pc }
        ctl := { (d.core c).ctl with
          rc := rc, repDone := n, status := { (d.core c).ctl.status with inrep := b } } }
      ∧ (inrep = false → pc = goto.getD (d.pc c + 4) ∧ rc = (d.core c).ctl.rc
          ∧ n = (d.core c).ctl.repDone ∧ b = (d.core c).ctl.status.inrep) := by
  unfold retire nextPc
  cases inrep
  · refine ⟨goto.getD (d.pc c + 4), (d.core c).ctl.rc, (d.core c).ctl.repDone,
      (d.core c).ctl.status.inrep, ?_, fun _ => ⟨rfl, rfl, rfl, rfl⟩⟩
    simp [Dyn.wpc, Dyn.pc]
  · dsimp only
    simp only [if_true]
    split
    · exact ⟨goto.getD (d.pc c + 4), BitVec.ofNat 17 ((d.core c).ctl.rc.toNat - 1), (d.core c).ctl.repDone + 1,
        false, by simp [Dyn.wpc, Dyn.onStatus, Dyn.pc], by simp⟩
    · exact ⟨(d.core c).regs.pc, BitVec.ofNat 17 ((d.core c).ctl.rc.toNat - 1), (d.core c).ctl.repDone + 1,
        (d.core c).ctl.status.inrep, by simp, by simp⟩

/-! ### Issuing an instruction -/

@[simp] theorem Dyn.core_issueAt (d : Dyn) (c k : Nat) :
    (issueAt d c).core k = if k = c then (d.core c).issued else d.core k := by
  by_cases h : k = c <;> simp [h, issueAt, Dyn.onCore, CoreSt.issued, Dyn.pc]

@[simp] theorem State.fetched_core (s : State) (c : Core) (k : Nat) :
    (s.fetched c).dyn.core k = s.dyn.core k := fetch_core ..
@[simp] theorem State.fetched_img (s : State) (c : Core) : (s.fetched c).img = s.img := rfl
@[simp] theorem State.fetched_pending (s : State) (c : Core) : (s.fetched c).pending = s.pending := rfl

@[simp] theorem State.issue_core (s : State) (c : Core) (k : Nat) :
    (s.issue c).core k = if k = c.val then (s.dyn.core c.val).issued else s.dyn.core k := by
  simp [State.issue]

@[simp] theorem CoreSt.issued_regs (x : CoreSt) : x.issued.regs = x.regs := rfl
@[simp] theorem CoreSt.issued_ctl (x : CoreSt) : x.issued.ctl = x.ctl := rfl
@[simp] theorem CoreSt.issued_vec (x : CoreSt) : x.issued.vec = x.vec := rfl
@[simp] theorem CoreSt.issued_port (x : CoreSt) : x.issued.port = x.port := rfl
@[simp] theorem CoreSt.issued_tsk (x : CoreSt) : x.issued.tsk = x.tsk := rfl
@[simp] theorem CoreSt.issued_local (x : CoreSt) : x.issued.local_ = x.local_ := rfl
@[simp] theorem CoreSt.issued_parity (x : CoreSt) : x.issued.parity = x.parity := rfl
@[simp] theorem CoreSt.issued_clock (x : CoreSt) : x.issued.clock = x.clock + 1 := rfl
theorem CoreSt.issued_eq (x : CoreSt) : x.issued = x.clockOf x.issued := rfl

@[simp] theorem CoreSt.clockOf_regs (x y : CoreSt) : (x.clockOf y).regs = x.regs := rfl
@[simp] theorem CoreSt.clockOf_ctl (x y : CoreSt) : (x.clockOf y).ctl = x.ctl := rfl
@[simp] theorem CoreSt.clockOf_vec (x y : CoreSt) : (x.clockOf y).vec = x.vec := rfl
@[simp] theorem CoreSt.clockOf_port (x y : CoreSt) : (x.clockOf y).port = x.port := rfl
@[simp] theorem CoreSt.clockOf_tsk (x y : CoreSt) : (x.clockOf y).tsk = x.tsk := rfl
@[simp] theorem CoreSt.clockOf_local (x y : CoreSt) : (x.clockOf y).local_ = x.local_ := rfl
@[simp] theorem CoreSt.clockOf_parity (x y : CoreSt) : (x.clockOf y).parity = x.parity := rfl
@[simp] theorem CoreSt.clockOf_lines (x y : CoreSt) : (x.clockOf y).lines = y.lines := rfl
@[simp] theorem CoreSt.clockOf_clock (x y : CoreSt) : (x.clockOf y).clock = y.clock := rfl
@[simp] theorem CoreSt.clockOf_clockOf (x y z : CoreSt) : (x.clockOf y).clockOf z = x.clockOf z := rfl
@[simp] theorem CoreSt.clockOf_self (x : CoreSt) : x.clockOf x = x := rfl
theorem CoreSt.withD_clockOf (x y : CoreSt) (r : Reg5) (v : Word) :
    (x.clockOf y).withD r v = (x.withD r v).clockOf y := rfl

/-- Issuing changes no register, and nothing a meaning reads but the clock and the instruction cache. -/
@[simp] theorem issueAt_rd (d : Dyn) (c k : Nat) (r : Reg5) : (issueAt d c).rd k r = d.rd k r := by
  by_cases h : k = c <;> simp [Dyn.rd, h]
@[simp] theorem issueAt_rp (d : Dyn) (c k n : Nat) : (issueAt d c).rp k n = d.rp k n := by
  by_cases h : k = c <;> simp [Dyn.rp, h]
@[simp] theorem issueAt_rb (d : Dyn) (c k n : Nat) : (issueAt d c).rb k n = d.rb k n := by
  by_cases h : k = c <;> simp [Dyn.rb, h]
@[simp] theorem issueAt_rl (d : Dyn) (c k n : Nat) : (issueAt d c).rl k n = d.rl k n := by
  by_cases h : k = c <;> simp [Dyn.rl, h]
@[simp] theorem issueAt_rm (d : Dyn) (c k n : Nat) : (issueAt d c).rm k n = d.rm k n := by
  by_cases h : k = c <;> simp [Dyn.rm, h]
@[simp] theorem issueAt_racc (d : Dyn) (c k n : Nat) : (issueAt d c).racc k n = d.racc k n := by
  by_cases h : k = c <;> simp [Dyn.racc, h]
@[simp] theorem issueAt_status (d : Dyn) (c k : Nat) : (issueAt d c).status k = d.status k := by
  by_cases h : k = c <;> simp [Dyn.status, h]
@[simp] theorem issueAt_pc (d : Dyn) (c k : Nat) : (issueAt d c).pc k = d.pc k := by
  by_cases h : k = c <;> simp [Dyn.pc, h]

@[simp] theorem State.issue_rd (s : State) (c : Core) (k : Nat) (r : Reg5) : (s.issue c).rd k r = s.dyn.rd k r := by
  by_cases h : k = c.val <;> simp [Dyn.rd, h]
@[simp] theorem State.issue_rp (s : State) (c : Core) (k : Nat) (n : Nat) : (s.issue c).rp k n = s.dyn.rp k n := by
  by_cases h : k = c.val <;> simp [Dyn.rp, h]
@[simp] theorem State.issue_rb (s : State) (c : Core) (k : Nat) (n : Nat) : (s.issue c).rb k n = s.dyn.rb k n := by
  by_cases h : k = c.val <;> simp [Dyn.rb, h]
@[simp] theorem State.issue_rl (s : State) (c : Core) (k : Nat) (n : Nat) : (s.issue c).rl k n = s.dyn.rl k n := by
  by_cases h : k = c.val <;> simp [Dyn.rl, h]
@[simp] theorem State.issue_rm (s : State) (c : Core) (k : Nat) (n : Nat) : (s.issue c).rm k n = s.dyn.rm k n := by
  by_cases h : k = c.val <;> simp [Dyn.rm, h]
@[simp] theorem State.issue_racc (s : State) (c : Core) (k : Nat) (n : Nat) : (s.issue c).racc k n = s.dyn.racc k n := by
  by_cases h : k = c.val <;> simp [Dyn.racc, h]
@[simp] theorem State.issue_status (s : State) (c : Core) (k : Nat) : (s.issue c).status k = s.dyn.status k := by
  by_cases h : k = c.val <;> simp [Dyn.status, h]
@[simp] theorem State.issue_pc (s : State) (c : Core) (k : Nat) : (s.issue c).pc k = s.dyn.pc k := by
  by_cases h : k = c.val <;> simp [Dyn.pc, h]

theorem OnlyCoreDyn.issueAt (c : Nat) (d : Dyn) : OnlyCoreDyn c d (issueAt d c) := OnlyCoreDyn.setCore c d _

/-- A core that is ready issues the instruction that it has fetched. -/
theorem bronze_ready {c : Core} {icls : Nat} {f : Img → Dyn → Res} {s : State} (h : Ready c s) :
    bronze c icls f s.img s.dyn = runFetched c.val icls f s.img (s.issue c) := by
  obtain ⟨_, h2, h3, h4, h5⟩ := h
  simp only [State.issue, State.fetched]
  simp only [bronze, h2, h3, h4, if_true, Bool.false_eq_true, if_false]
  generalize fetch s.img s.dyn c.val = x at h5 ⊢
  obtain ⟨d, w⟩ := x
  cases h5
  rfl

/-- An instruction that is ready and done retires: the core becomes what the instruction made of it,
and nothing else changes but the counters. -/
theorem bronze_retires {c : Core} {icls : Nat} {f : Img → Dyn → Res} {s : State} {e : Dyn} {goto : Option Addr}
    (h : Ready c s) (hf : f s.img (s.issue c) = .done e goto) (ho : OnlyCoreDyn c.val (s.issue c) e)
    (hpc : (e.core c.val).regs.pc = s.dyn.pc c.val)
    (hk : (s.dyn.core c.val).clock < (e.core c.val).clock)
    (hl : ∀ k ∈ (e.core c.val).lines, k ∈ (s.dyn.core c.val).issued.lines) :
    Answers (act (bronze c icls f) s) (Retires c (e.core c.val) goto s) := by
  refine ⟨_, act_up h.1, ?_⟩
  have hb : bronze c icls f s.img s.dyn
      = retire e c.val icls (s.dyn.status c.val).pl (s.dyn.status c.val).inrep goto := by
    simp [bronze_ready h, runFetched, hf]
  rw [hb]
  replace ho := (OnlyCoreDyn.issueAt c.val (s.fetched c).dyn).trans ho
  have hall := ho.trans (OnlyCoreDyn.retire c.val icls e (s.dyn.status c.val).pl (s.dyn.status c.val).inrep goto)
  obtain ⟨pc, rc, n, b, hc, hp⟩ :=
    retire_core c.val icls e (s.dyn.status c.val).pl (s.dyn.status c.val).inrep goto
  generalize retire e c.val icls (s.dyn.status c.val).pl (s.dyn.status c.val).inrep goto = r at hc hall ⊢
  refine ⟨⟨rfl, rfl, hall.1, hall.2⟩, ?_, ?_, ?_, ?_⟩
  · simpa [hc] using hk
  · simpa [hc] using hl
  · simp [Dyn.pc, Dyn.status, hc, CoreSt.clockOf]
  · intro hi
    obtain ⟨p1, p2, p3, p4⟩ := hp hi
    simp only [Dyn.pc, Dyn.status, hc]
    refine ⟨?_, p2, p3, p4⟩
    rw [p1]
    simp only [Dyn.pc] at hpc ⊢
    rw [hpc]

/-- The same, with the core it leaves given but for its clock and instruction cache, which are as the issue
left them. -/
theorem bronze_gives {c : Core} {icls : Nat} {f : Img → Dyn → Res} {s : State} {e : Dyn} {goto : Option Addr}
    {x : CoreSt} (h : Ready c s) (hf : f s.img (s.issue c) = .done e goto)
    (ho : OnlyCoreDyn c.val (s.issue c) e) (hx : e.core c.val = x.clockOf (s.dyn.core c.val).issued)
    (hpc : x.regs.pc = s.dyn.pc c.val) :
    Answers (act (bronze c icls f) s) (Retires c x goto s) := by
  obtain ⟨t, ht, h1, h2, h3, h4, h5⟩ := bronze_retires (icls := icls) h hf ho
    (by rw [hx]; exact hpc) (by rw [hx]; exact Nat.lt_succ_self _) (by rw [hx]; exact fun k hk => hk)
  refine ⟨t, ht, h1, h2, h3, ?_, ?_⟩
  · rw [h4, hx]; rfl
  · rw [hx] at h5; exact h5

/-- An instruction that is ready and raises an exception. -/
theorem bronze_raises {c : Core} {icls : Nat} {f : Img → Dyn → Res} {s : State} {e : Exc}
    (h : Ready c s) (hf : f s.img (s.issue c) = .exc (s.issue c) e) :
    Raises (act (bronze c icls f) s) c e s := by
  simp [Raises, Becomes, act_up h.1, bronze_ready h, runFetched, hf]

/-- An instruction that is ready and does not complete yet. -/
theorem bronze_waits {c : Core} {icls : Nat} {f : Img → Dyn → Res} {s : State} {e : Dyn}
    (h : Ready c s) (hf : f s.img (s.issue c) = .wait e) : Becomes (act (bronze c icls f) s) s e := by
  simp [Becomes, act_up h.1, bronze_ready h, runFetched, hf]

/-- An instruction that is ready and completes, whatever else of the machine it changes. -/
theorem bronze_done {c : Core} {icls : Nat} {f : Img → Dyn → Res} {s : State} {e : Dyn} {goto : Option Addr}
    (h : Ready c s) (hf : f s.img (s.issue c) = .done e goto) : Becomes (act (bronze c icls f) s) s
      (retire e c.val icls (s.dyn.status c.val).pl (s.dyn.status c.val).inrep goto) := by
  simp [Becomes, act_up h.1, bronze_ready h, runFetched, hf]

/-! ### Exceptions -/

/-- The core that an exception leaves (R197). -/
theorem takeException_core (d : Dyn) (c : Nat) (e : Exc) (epc : Addr) :
    (takeException d c e epc).core c = (d.core c).entered e.code e.detail e.cond epc e.addr := by
  simp [takeException, CoreSt.entered, vectorOf, causeWord, Dyn.wpc]

theorem OnlyCoreDyn.takeException (c : Nat) (d : Dyn) (e : Exc) (epc : Addr) :
    OnlyCoreDyn c d (takeException d c e epc) :=
  (((countEntry_only d c).onlyCoreDyn c).trans (OnlyCoreDyn.onCtl c _ _)).trans (OnlyCoreDyn.onRegs c _ _)

/-- The core that ABORT leaves (R200, R241). -/
theorem takeAbort_core (d : Dyn) (c detail cond : Nat) :
    (takeAbort d c detail cond).core c = (d.core c).aborted.entered 0x20 detail cond (d.pc c) none := by
  simp [takeAbort, takeException_core, CoreSt.aborted, CoreSt.entered, Dyn.pc]

theorem OnlyCoreDyn.takeAbort (c detail cond : Nat) (d : Dyn) : OnlyCoreDyn c d (takeAbort d c detail cond) :=
  ((((OnlyCoreDyn.countEv c d _ _ _ _).trans (OnlyCoreDyn.setCore c _ _)).trans
    (OnlyCoreDyn.setCore c _ _)).trans (OnlyCoreDyn.setCore c _ _)).trans
      ((OnlyCoreDyn.onCtl c _ _).trans (OnlyCoreDyn.takeException c _ _ _))

/-- A change of the core and the counters alone, as a next state. -/
theorem OnlyCore.of_dyn {c : Core} {s : State} {d : Dyn} (h : OnlyCoreDyn c.val s.dyn d) :
    OnlyCore c s { s with dyn := d } := ⟨rfl, rfl, h.1, h.2⟩

/-! ### Register writes, as the core they leave -/

@[simp] theorem Dyn.core_wd (d : Dyn) (c : Nat) (r : Reg5) (v : Word) :
    (d.wd c r v).core c = (d.core c).withD r v := by
  simp [Dyn.wd, CoreSt.withD]
@[simp] theorem Dyn.core_wp (d : Dyn) (c k : Nat) (v : Addr) : (d.wp c k v).core c = (d.core c).withP k v := by
  simp [Dyn.wp, CoreSt.withP]
@[simp] theorem Dyn.core_wb (d : Dyn) (c k : Nat) (v : Addr) : (d.wb c k v).core c = (d.core c).withB k v := by
  simp [Dyn.wb, CoreSt.withB]
@[simp] theorem Dyn.core_wl (d : Dyn) (c k : Nat) (v : Word) : (d.wl c k v).core c = (d.core c).withL k v := by
  simp [Dyn.wl, CoreSt.withL]
@[simp] theorem Dyn.core_wm (d : Dyn) (c k : Nat) (v : Word) : (d.wm c k v).core c = (d.core c).withM k v := by
  simp [Dyn.wm, CoreSt.withM]
@[simp] theorem Dyn.core_wacc (d : Dyn) (c k : Nat) (v : BitVec 72) :
    (d.wacc c k v).core c = (d.core c).withAcc k v := by
  simp [Dyn.wacc, CoreSt.withAcc]
@[simp] theorem Dyn.core_dsat (d : Dyn) (c : Nat) (b : Bool) : (d.dsat c b).core c = (d.core c).withDsat b := by
  cases b <;> simp [Dyn.dsat, CoreSt.withDsat, CoreSt.withStatus, Dyn.onStatus]
@[simp] theorem Dyn.core_asat (d : Dyn) (c : Nat) (b : Bool) : (d.asat c b).core c = (d.core c).withAsat b := by
  cases b <;> simp [Dyn.asat, CoreSt.withAsat, CoreSt.withStatus, Dyn.onStatus]
@[simp] theorem Dyn.core_onStatus (d : Dyn) (c : Nat) (f : StatusReg → StatusReg) :
    (d.onStatus c f).core c = (d.core c).withStatus f := by
  simp [Dyn.onStatus, CoreSt.withStatus]

@[simp] theorem CoreSt.withD_pc (x : CoreSt) (r : Reg5) (v : Word) : (x.withD r v).regs.pc = x.regs.pc := rfl
@[simp] theorem CoreSt.withP_pc (x : CoreSt) (k : Nat) (v : Addr) : (x.withP k v).regs.pc = x.regs.pc := rfl
@[simp] theorem CoreSt.withB_pc (x : CoreSt) (k : Nat) (v : Addr) : (x.withB k v).regs.pc = x.regs.pc := rfl
@[simp] theorem CoreSt.withL_pc (x : CoreSt) (k : Nat) (v : Word) : (x.withL k v).regs.pc = x.regs.pc := rfl
@[simp] theorem CoreSt.withM_pc (x : CoreSt) (k : Nat) (v : Word) : (x.withM k v).regs.pc = x.regs.pc := rfl
@[simp] theorem CoreSt.withAcc_pc (x : CoreSt) (k : Nat) (v : BitVec 72) :
    (x.withAcc k v).regs.pc = x.regs.pc := rfl
@[simp] theorem CoreSt.withDsat_pc (x : CoreSt) (b : Bool) : (x.withDsat b).regs.pc = x.regs.pc := rfl
@[simp] theorem CoreSt.withAsat_pc (x : CoreSt) (b : Bool) : (x.withAsat b).regs.pc = x.regs.pc := rfl
@[simp] theorem CoreSt.withStatus_pc (x : CoreSt) (f : StatusReg → StatusReg) :
    (x.withStatus f).regs.pc = x.regs.pc := rfl

/-! ### Register writes change only their core -/

theorem OnlyCoreDyn.andRegs {c : Nat} {d e : Dyn} (h : OnlyCoreDyn c d e) (f : CoreRegs → CoreRegs) :
    OnlyCoreDyn c d (e.onRegs c f) := h.trans (OnlyCoreDyn.onRegs c e f)
theorem OnlyCoreDyn.onStatus (c : Nat) (d : Dyn) (f : StatusReg → StatusReg) : OnlyCoreDyn c d (d.onStatus c f) :=
  OnlyCoreDyn.onCtl c d _
theorem OnlyCoreDyn.dsat (c : Nat) (d : Dyn) (b : Bool) : OnlyCoreDyn c d (d.dsat c b) := by
  unfold Dyn.dsat
  split
  · exact OnlyCoreDyn.onStatus c d _
  · exact OnlyCoreDyn.refl c d
theorem OnlyCoreDyn.asat (c : Nat) (d : Dyn) (b : Bool) : OnlyCoreDyn c d (d.asat c b) := by
  unfold Dyn.asat
  split
  · exact OnlyCoreDyn.onStatus c d _
  · exact OnlyCoreDyn.refl c d

end Sys2Proof.Machine
end

