-- ==== Sys2Proof/Laws/Memory.lean ====
section
/-! SUPPORT. Memory: a read after a write, and the canonical form that every write keeps. -/

namespace Sys2Proof.Machine

theorem Memory.read_insert (m : List Host.Cell) (a b : Nat) (v : Byte) :
    Memory.read (Memory.insert m a v) b = if b = a then v else Memory.read m b := by
  induction m with
  | nil => simp only [Memory.insert, Memory.read, eq_comm]
  | cons e rest ih =>
    obtain ⟨k, w⟩ := e
    simp only [Memory.insert]
    by_cases h1 : k = a
    · subst h1
      simp only [if_pos, Memory.read]
      by_cases h2 : b = k
      · simp [h2]
      · simp [h2, Ne.symm h2]
    · simp only [if_neg h1]
      by_cases h3 : a < k
      · simp only [if_pos h3, Memory.read]
        by_cases h2 : b = a
        · simp [h2]
        · simp [h2, Ne.symm h2]
      · simp only [if_neg h3, Memory.read, ih]
        by_cases h2 : b = a
        · subst h2; simp [h1]
        · simp [h2]

theorem Memory.read_erase (m : List Host.Cell) (a b : Nat) :
    Memory.read (Memory.erase m a) b = if b = a then 0 else Memory.read m b := by
  induction m with
  | nil => simp [Memory.erase, Memory.read]
  | cons e rest ih =>
    obtain ⟨k, w⟩ := e
    simp only [Memory.erase]
    by_cases h1 : k = a
    · subst h1
      simp only [if_pos, ih, Memory.read]
      by_cases h2 : b = k
      · simp [h2]
      · simp [h2, Ne.symm h2]
    · simp only [if_neg h1, Memory.read, ih]
      by_cases h2 : b = a
      · subst h2; simp [h1]
      · simp [h2]

/-- A read after a write of one byte: the byte there, and every other byte as before. -/
@[simp] theorem Memory.read_write (m : List Host.Cell) (a b : Nat) (v : Byte) :
    Memory.read (Memory.write m a v) b = if b = a then v else Memory.read m b := by
  unfold Memory.write
  split
  · rename_i h; subst h; exact Memory.read_erase m a b
  · exact Memory.read_insert m a b v

/-- A byte outside the bytes written reads as before. -/
theorem Memory.read_writeN_out (l : List Byte) : ∀ (m : List Host.Cell) (a b : Nat),
    (b < a ∨ a + l.length ≤ b) → Memory.read (Memory.writeN m a l) b = Memory.read m b := by
  induction l with
  | nil => intro m a b _; rfl
  | cons x xs ih =>
    intro m a b h
    simp only [List.length_cons] at h
    simp only [Memory.writeN]
    rw [ih _ _ _ (by omega), Memory.read_write, if_neg (by omega)]

/-- The bytes written read back. -/
theorem Memory.readN_writeN (l : List Byte) : ∀ (m : List Host.Cell) (a : Nat),
    Memory.readN (Memory.writeN m a l) a l.length = l := by
  induction l with
  | nil => intro m a; rfl
  | cons x xs ih =>
    intro m a
    simp only [Memory.writeN, List.length_cons, Memory.readN, ih]
    rw [Memory.read_writeN_out _ _ _ _ (by omega), Memory.read_write, if_pos rfl]

/-- Every listed address lies above `a`. -/
def Memory.above (a : Nat) : List Host.Cell → Prop
  | [] => True
  | (k, _) :: _ => a < k

theorem Memory.wf_cons (a : Nat) (b : Byte) (rest : List Host.Cell) :
    Memory.wf ((a, b) :: rest) = true ↔ b ≠ 0 ∧ Memory.above a rest ∧ Memory.wf rest = true := by
  cases rest with
  | nil => simp [Memory.wf, Memory.above]
  | cons e tl => obtain ⟨k, w⟩ := e; simp [Memory.wf, Memory.above, and_assoc]

theorem Memory.above_insert (m : List Host.Cell) (a c : Nat) (v : Byte) (h : Memory.above c m) (hc : c < a) :
    Memory.above c (Memory.insert m a v) := by
  cases m with
  | nil => exact hc
  | cons e rest =>
    obtain ⟨k, w⟩ := e
    simp only [Memory.insert]
    split
    · exact hc
    · split
      · exact hc
      · exact h

theorem Memory.above_tail (a k : Nat) (w : Byte) (rest : List Host.Cell)
    (h : Memory.above a ((k, w) :: rest)) (hw : Memory.wf ((k, w) :: rest) = true) : Memory.above a rest := by
  cases rest with
  | nil => trivial
  | cons e tl =>
    obtain ⟨j, x⟩ := e
    have h2 := ((Memory.wf_cons _ _ _).1 hw).2.1
    exact Nat.lt_trans h h2

theorem Memory.above_erase (m : List Host.Cell) (a c : Nat) (h : Memory.above c m) (hw : Memory.wf m = true) :
    Memory.above c (Memory.erase m a) := by
  induction m with
  | nil => exact h
  | cons e rest ih =>
    obtain ⟨k, w⟩ := e
    simp only [Memory.erase]
    split
    · exact ih (Memory.above_tail c k w rest h hw) ((Memory.wf_cons _ _ _).1 hw).2.2
    · exact h

theorem Memory.wf_insert (m : List Host.Cell) (a : Nat) (v : Byte) (hv : v ≠ 0) (hw : Memory.wf m = true) :
    Memory.wf (Memory.insert m a v) = true := by
  induction m with
  | nil => simpa [Memory.insert, Memory.wf] using hv
  | cons e rest ih =>
    obtain ⟨k, w⟩ := e
    have h := (Memory.wf_cons _ _ _).1 hw
    simp only [Memory.insert]
    split
    · rename_i hk; subst hk; exact (Memory.wf_cons _ _ _).2 ⟨hv, h.2.1, h.2.2⟩
    · split
      · rename_i hlt; exact (Memory.wf_cons _ _ _).2 ⟨hv, hlt, hw⟩
      · exact (Memory.wf_cons _ _ _).2 ⟨h.1, Memory.above_insert rest a k v h.2.1 (by omega), ih h.2.2⟩

theorem Memory.wf_erase (m : List Host.Cell) (a : Nat) (hw : Memory.wf m = true) :
    Memory.wf (Memory.erase m a) = true := by
  induction m with
  | nil => rfl
  | cons e rest ih =>
    obtain ⟨k, w⟩ := e
    have h := (Memory.wf_cons _ _ _).1 hw
    simp only [Memory.erase]
    split
    · exact ih h.2.2
    · exact (Memory.wf_cons _ _ _).2 ⟨h.1, Memory.above_erase rest a k h.2.1 h.2.2, ih h.2.2⟩

/-- Writing a byte keeps the canonical form. -/
theorem Memory.wf_write (m : List Host.Cell) (a : Nat) (v : Byte) (hw : Memory.wf m = true) :
    Memory.wf (Memory.write m a v) = true := by
  unfold Memory.write
  split
  · exact Memory.wf_erase m a hw
  · rename_i h; exact Memory.wf_insert m a v h hw

/-- Writing bytes keeps the canonical form. -/
theorem Memory.wf_writeN (l : List Byte) : ∀ (m : List Host.Cell) (a : Nat),
    Memory.wf m = true → Memory.wf (Memory.writeN m a l) = true := by
  induction l with
  | nil => intro m a h; exact h
  | cons x xs ih => intro m a h; exact ih _ _ (Memory.wf_write m a x h)

/-- The canonical form, as a property of pairs of entries and of each entry. -/
theorem Memory.wf_iff (m : List Host.Cell) :
    Memory.wf m = true ↔ m.Pairwise (fun x y => x.1 < y.1) ∧ ∀ e ∈ m, e.2 ≠ 0 := by
  induction m with
  | nil => simp [Memory.wf]
  | cons e rest ih =>
    obtain ⟨a, b⟩ := e
    rw [Memory.wf_cons, ih, List.pairwise_cons]
    constructor
    · rintro ⟨hb, ha, hp, hz⟩
      refine ⟨⟨fun x hx => ?_, hp⟩, fun e he => (List.mem_cons.mp he).elim (fun h => h ▸ hb) (hz e)⟩
      cases rest with
      | nil => cases hx
      | cons y tl =>
        rcases List.mem_cons.mp hx with rfl | h
        · exact ha
        · exact Nat.lt_trans ha ((List.pairwise_cons.mp hp).1 x h)
    · rintro ⟨⟨hl, hp⟩, hz⟩
      refine ⟨hz (a, b) (by simp), ?_, hp, fun e he => hz e (List.mem_cons_of_mem _ he)⟩
      cases rest with
      | nil => trivial
      | cons y tl => exact hl y (by simp)

/-- The cells of a run lie in it, in order, and none is zero. -/
theorem Memory.runCells_spec (l : List Byte) : ∀ a : Nat,
    Memory.wf (Memory.runCells a l) = true ∧ ∀ e ∈ Memory.runCells a l, a ≤ e.1 ∧ e.1 < a + l.length := by
  induction l with
  | nil => intro a; simp [Memory.runCells, Memory.wf]
  | cons b rest ih =>
    intro a
    obtain ⟨hw, hr⟩ := ih (a + 1)
    have hr' : ∀ e ∈ Memory.runCells (a + 1) rest, a < e.1 ∧ e.1 < a + (rest.length + 1) := fun e he => by
      have := hr e he; omega
    simp only [Memory.runCells, List.length_cons]
    split
    · exact ⟨hw, fun e he => by have := hr' e he; omega⟩
    · rename_i hb
      refine ⟨(Memory.wf_iff _).mpr ⟨List.pairwise_cons.mpr ⟨fun x hx => (hr' x hx).1, ((Memory.wf_iff _).mp hw).1⟩, ?_⟩, ?_⟩
      · intro e he
        rcases List.mem_cons.mp he with rfl | h
        · exact hb
        · exact ((Memory.wf_iff _).mp hw).2 e h
      · intro e he
        rcases List.mem_cons.mp he with rfl | h
        · simp
        · have := hr' e h; omega

/-- Writing a long run keeps the canonical form. -/
theorem Memory.putRun_wf (m : List Host.Cell) (a : Nat) (l : List Byte) (h : Memory.wf m = true) :
    Memory.wf (Memory.putRun m a l) = true := by
  obtain ⟨hp, hz⟩ := (Memory.wf_iff m).mp h
  obtain ⟨hw, hr⟩ := Memory.runCells_spec l a
  obtain ⟨hp2, hz2⟩ := (Memory.wf_iff _).mp hw
  refine (Memory.wf_iff _).mpr ⟨?_, ?_⟩
  · refine List.pairwise_append.mpr ⟨hp.filter _, List.pairwise_append.mpr ⟨hp2, hp.filter _, ?_⟩, ?_⟩
    · intro x hx y hy
      have := hr x hx
      have := of_decide_eq_true (List.mem_filter.mp hy).2
      omega
    · intro x hx y hy
      have h1 := of_decide_eq_true (List.mem_filter.mp hx).2
      rcases List.mem_append.mp hy with h2 | h2
      · have := hr y h2; omega
      · have := of_decide_eq_true (List.mem_filter.mp h2).2; omega
  · intro e he
    rcases List.mem_append.mp he with h1 | h1
    · exact hz e (List.mem_filter.mp h1).1
    · rcases List.mem_append.mp h1 with h2 | h2
      · exact hz2 e h2
      · exact hz e (List.mem_filter.mp h2).1

/-- Reset memory has the canonical form. -/
theorem Memory.wf_reset : Memory.wf State.reset.dyn.mem.cells = true := rfl

end Sys2Proof.Machine
end

