-- ==== Sys2Proof/Laws/Time.lean ====
section
/-! SUPPORT. A domain's local copy of tick time (R18, R357): it stands within 3 Tc of the master's whole Tc and
never decreases while the master's does not. -/

namespace Sys2Proof.Machine

theorem localSkew_range (dom t : Nat) : -3 ≤ localSkew dom t ∧ localSkew dom t ≤ 3 := by
  unfold localSkew
  split <;> omega

/-- A running maximum is bounded where its start and every item are. -/
theorem foldl_max_le {α : Type} (f : α → Int) (l : List α) (m x : Int) :
    l.foldl (fun m j => max m (f j)) m ≤ x ↔ m ≤ x ∧ ∀ j ∈ l, f j ≤ x := by
  induction l generalizing m with
  | nil => simp
  | cons a l ih => simp [ih, and_assoc]

/-- All that the held copy says: it is the least value that no copy of the last 7 Tc, nor 3 Tc before now, exceeds. -/
theorem heldTick_le (dom t : Nat) (x : Int) : heldTick dom t ≤ x ↔ (t : Int) - 3 ≤ x
    ∧ ∀ j < 7, (t : Int) - 1 - j + localSkew dom (t - 1 - j) ≤ x := by
  unfold heldTick
  rw [foldl_max_le]
  simp only [List.mem_range]

theorem heldTick_range (dom t : Nat) : (t : Int) - 3 ≤ heldTick dom t ∧ heldTick dom t ≤ t + 2 := by
  refine ⟨((heldTick_le dom t _).1 le_rfl).1, (heldTick_le dom t _).2 ⟨by omega, fun j _ => ?_⟩⟩
  have := localSkew_range dom (t - 1 - j)
  omega

/-- R18: the copy stands within 3 Tc of the master's whole Tc. -/
theorem localTick_near (dom t : Nat) (h : t + 3 < 2 ^ 64) : t - 3 ≤ localTick dom t ∧ localTick dom t ≤ t + 3 := by
  have h1 := localSkew_range dom t
  have h2 := heldTick_range dom t
  unfold localTick
  omega

/-- R18, for a unit's copy in a state. -/
theorem Dyn.nowAt_near (d : Dyn) (src : Nat) (h : d.now + 3 < 2 ^ 64) :
    d.now - 3 ≤ d.nowAt src ∧ d.nowAt src ≤ d.now + 3 := localTick_near _ _ h

/-- What a copy shows, the next one holds. -/
theorem heldTick_next (dom t : Nat) : max (t + localSkew dom t) (heldTick dom t) ≤ heldTick dom (t + 1) := by
  obtain ⟨h1, h2⟩ := (heldTick_le dom (t + 1) _).1 le_rfl
  refine max_le ?_ ((heldTick_le dom t _).2 ⟨by omega, fun j hj => ?_⟩)
  · have := h2 0 (by omega)
    simp only [Nat.add_sub_cancel, Nat.sub_zero] at this
    omega
  · by_cases h : j = 6
    · have := localSkew_range dom (t - 1 - j)
      omega
    · have := h2 (j + 1) (by omega)
      have e : t + 1 - 1 - (j + 1) = t - 1 - j := by omega
      rw [e] at this
      omega

/-- R357: the copy never decreases while the master's tick time does not. -/
theorem localTick_mono (dom t : Nat) (h : t + 4 < 2 ^ 64) : localTick dom t ≤ localTick dom (t + 1) := by
  have h0 := heldTick_next dom t
  have h1 := localSkew_range dom t
  have h2 := heldTick_range dom t
  have h3 := localSkew_range dom (t + 1)
  have h4 := heldTick_range dom (t + 1)
  unfold localTick
  push_cast
  omega

end Sys2Proof.Machine
end

