-- ==== Sys2Proof/Tests/Slice0.lean ====
section
/-! SUPPORT. Tests: each check of WellFormed refuses an ill-formed command, worked values of the spec, and
for every statement with hypotheses a state and operands that meet them. -/

namespace Sys2Proof.Tests

set_option Elab.async false

open Sys2Proof.Machine

/-! ### Small states -/

/-- A REGIONS record: region 0, executable, 64-byte blocks, 256 MiB from 0 (Table 13.1). -/
def region : List Byte := ([0, 1, 1] ++ zeros 13) ++ leBytes 8 0x10000000 ++ zeros 8

/-- A LANES record of lane `n`. -/
def laneRec (n : Nat) : List Byte := leBytes 1 n ++ zeros 31

def img : Img := { Img.reset with loaded := 1, sections := [(secLanes, [laneRec 0, laneRec 65]), (secRegions, [region])] }

/-- SERVICE with tile 0 and the first codec and cipher engines powered, memory coded, changed by `f`. -/
def up (f : Dyn → Dyn) : State :=
  { pending := [], img
    dyn := f { Dyn.reset with
      dst := { DeviceSt.reset with state := .service, phase := 0x20, aonUp := true, mainEn := true, vioUp := true, slotUp := true }
      mem := { MemSt.reset with coded := true }
      power := { PowerSt.reset with on := [(0, true), (48, true), (112, true), (136, true), (137, true)] } } }

/-- Core 0 active, changed by `f`; memory holds FENCE.S (0xF8000000) at addresses 0 and 4. -/
def core (f : CoreSt → CoreSt) : State :=
  up (fun d => { d.setCore 0 (f { CoreSt.reset with tsk := { CoreTask.reset with run := .active } }) with
    mem := { d.mem with cells := [(3, 0xF8), (7, 0xF8)] } })

def lane (n : Nat) (f : LaneSt → LaneSt) : State := up (fun d => d.onLane n f)

def teth (n : Nat) (f : TetherSt → TetherSt) : State := up (fun d => d.onTeth n f)

def at_ (st : DevState) : State := up (fun d => { d with dst := { d.dst with state := st, startReady := true } })

/-- Core 0 at level `pl`, changed by `f`. -/
def below (pl : Priv) (f : CoreSt → CoreSt) : State := core (fun x => f (x.withStatus (fun st => { st with pl })))

/-- Core 0 at TASK with task 5 present. -/
def withTask (f : CoreSt → CoreSt) : State :=
  below .task (fun x => f { x with tsk := { x.tsk with task := some 5 } })

/-- One unit waiting on lane `n`. -/
def unitOn (n : Nat) (h : Nat) : State := lane n (fun x => { x with rx := [.unit [h] 0] })

/-! ### Ill-formed commands are refused -/

def badPacket : Packet :=
  { kind := 2, cls := 0, resp := false, bad := false, src := 0, dest := 0, tag := 0, address := 0, length := 8
    func := 0, operand := 0, status := 0, reason := 0, priv := 0, data := [], crc := 0, master := 0 }

theorem test_wf_packet : (Instr.packetInjection badPacket).wf = false := rfl
theorem test_wf_read : (Instr.memoryRead .supervisor 0xFFFFFFFFFFFF 2).wf = false := rfl
theorem test_wf_write : (Instr.memoryWrite .supervisor 0 []).wf = false := rfl
theorem test_wf_table : (Instr.handleTableWrite .supervisor 0xFFFFFFFFFFFF [1, 2]).wf = false := rfl
theorem test_wf_arp : (Instr.arpRequest false [1, 2, 3]).wf = false := rfl
theorem test_wf_ok : (Instr.memoryRead .supervisor 0xFFFFFFFFFFFF 1).wf = true := rfl

/-! ### Witnesses: the Bronze cores -/

theorem witness_IntegerResults : Ready 0 (core id) ∧ (31 : Nat) < 32 := ⟨⟨rfl, rfl, rfl, rfl, rfl⟩, by decide⟩
theorem witness_PointerFileResults : Ready 0 (core id) ∧ (15 : Reg5).toNat < 16 := ⟨⟨rfl, rfl, rfl, rfl, rfl⟩, by decide⟩
theorem witness_JumpResults : Ready 0 (core id) ∧ (15 : Reg5).toNat < 16 := ⟨⟨rfl, rfl, rfl, rfl, rfl⟩, by decide⟩

/-- REP of 65,536 iterations, and the last iteration but one of a running REP. -/
def rep (n : BitVec 17) : State := core (fun x => { x with
  regs := { x.regs with d := [(1, 0x10000)] }
  ctl := { x.ctl with rc := n, status := { x.ctl.status with inrep := true } } })
theorem witness_RepInstructions : Ready 0 (rep 2) ∧ repBodyIllegal 0 = false ∧ ((rep 2).dyn.rd 0 1).toNat = 65536
    ∧ ((core id).dyn.rd 0 1).toNat = 0 ∧ ((rep 2).dyn.status 0).inrep = true ∧ Ready 0 (rep 1)
    ∧ (exec (.add 0 0 0 0) (rep 2) = .next (match exec (.add 0 0 0 0) (rep 2) with
        | .next t => t
        | _ => rep 2)) := ⟨⟨rfl, rfl, rfl, rfl, rfl⟩, rfl, rfl, rfl, rfl, ⟨rfl, rfl, rfl, rfl, rfl⟩, rfl⟩
theorem witness_RepInstructions_refused : repBodyIllegal 0b01110000001001000000000000000101 = true
    ∧ (let s := core (fun x => { x with regs := { x.regs with d := [(1, 0x10001)] } })
       Ready 0 s ∧ 65536 < (s.dyn.rd 0 1).toNat)
    ∧ onCore (.add 0 0 0 0) = some 0 ∧ ((rep 1).dyn.core 0).ctl.rc.toNat ≤ 1 ∧ 1 < ((rep 2).dyn.core 0).ctl.rc.toNat :=
  ⟨by decide, ⟨⟨rfl, rfl, rfl, rfl, rfl⟩, by decide⟩, rfl, by decide, by decide⟩
theorem witness_AccumulatorResults : Ready 0 (core id) ∧ (6 : BitVec 3).toNat % 2 = 0 :=
  ⟨⟨rfl, rfl, rfl, rfl, rfl⟩, by decide⟩

/-- A word load and store at the last word of slot memory, and an access to local memory. -/
def ptr (a : Addr) : State := core (fun x => x.withP 0 a)
theorem witness_LoadStoreResults :
    Ready 0 (ptr 0x0FFFFFFC) ∧ ((ptr 0x0FFFFFFC).dyn.addrForm 0 0 0 2 0).legal = true
    ∧ checkAccess (ptr 0x0FFFFFFC).dyn 0 0x0FFFFFFC 4 = none
    ∧ (scalarLoad img (countCirc (countAccess ((ptr 0x0FFFFFFC).issue 0) 0 0x0105 0x0FFFFFFC) 0 0
        (((ptr 0x0FFFFFFC).issue 0).addrForm 0 0 0 2 0) 4) 0 0x0FFFFFFC 4).2.status < 2
    ∧ readWaits ((ptr 0x0FFFFFFC).issue 0) 0 0x0FFFFFFC = false
    ∧ (0x0FFFFFFC < regBase) ∧ regWaits (core id).dyn (.core 0 .exec) 0x08000010 true = false ∧ ((1 : Word) ≠ 0 ∧ (0xFFFFFFFFFFFF : Addr).toNat + (1 : Word).toNat ≤ 2 ^ 48) :=
  ⟨⟨rfl, rfl, rfl, rfl, rfl⟩, rfl, rfl, by decide +kernel, by decide, by decide, rfl, by decide⟩
theorem witness_LocalMemoryAccess :
    Ready 0 (ptr 0x00E000000000) ∧ ((ptr 0x00E000000000).dyn.addrForm 0 0 0 2 0).legal = true
    ∧ checkAccess (ptr 0x00E000000000).dyn 0 0x00E000000000 4 = none ∧ inLocal 0x00E000000000 = true
    ∧ (∀ w ∈ localWords 0x00E000000000 4, w ∉ ((ptr 0x00E000000000).dyn.core 0).parity)
    ∧ (let bad := core (fun x => { x.withP 0 0x00E000000000 with parity := [0x3800000000] })
       Ready 0 bad ∧ ∃ w ∈ localWords 0x00E000000000 4, w ∈ (bad.dyn.core 0).parity) :=
  ⟨⟨rfl, rfl, rfl, rfl, rfl⟩, rfl, rfl, rfl, by decide, ⟨rfl, rfl, rfl, rfl, rfl⟩, by decide⟩
theorem witness_LocalMemoryAccess_halt :
    let s := core (fun x => (x.withP 0 0x00E000000000).withStatus (fun st => { st with hact := true }))
    Ready 0 s ∧ (s.dyn.addrForm 0 0 0 2 0).legal = true ∧ checkAccess s.dyn 0 0x00E000000000 4 = none
    ∧ (s.dyn.core 0).ctl.status.hact = true ∧ s.dyn.disp.halted = false := ⟨⟨rfl, rfl, rfl, rfl, rfl⟩, rfl, rfl, rfl, rfl⟩
theorem witness_AtomicsAndFences :
    Ready 0 (core id) ∧ (15 : Reg5).toNat < 16 ∧ lockstepTask (core id).dyn 0 = false
    ∧ checkAccess (core id).dyn 0 0 4 = none ∧ inLocal 0 = false ∧ (0 : Nat) < regBase
    ∧ (memPacket img ((core id).issue 0) (coreSender ((core id).issue 0) 0) 0 (.atomic 0 0 0)).2.status < 2 :=
  ⟨⟨rfl, rfl, rfl, rfl, rfl⟩, by decide, rfl, rfl, rfl, by decide, by decide⟩
theorem witness_ControlRegisters :
    Ready 0 (core id) ∧ Ready 0 (below .task id) ∧ Ready 0 (below .plugin (fun x => { x with ctl := { x.ctl with
        pwinBase := [(0, 0)], pwinLimit := [(0, 1)] } }))
    ∧ csrPerm 0x00 = some (2, some 2) ∧ csrPerm 0x43 = some (2, none) ∧ csrPerm 0x01 = some (0, none)
    ∧ csrPerm 0x12 = some (2, some 0) ∧ csrPerm 0xFF = none ∧ Priv.num ((core id).dyn.status 0).pl ≤ 0
    ∧ 0 < Priv.num ((below .task id).dyn.status 0).pl :=
  ⟨⟨rfl, rfl, rfl, rfl, rfl⟩, ⟨rfl, rfl, rfl, rfl, rfl⟩, ⟨rfl, rfl, rfl, rfl, rfl⟩, rfl, rfl, rfl, rfl, rfl, by decide, by decide⟩

def handler (f : CoreSt → CoreSt) : State := core (fun x => f (x.withStatus (fun st => { st with hact := true })))
theorem witness_Exceptions :
    (Ready 0 (core id) ∧ ((core id).dyn.status 0).hact = false ∧ ((core id).dyn.status 0).pl = .exec)
    ∧ (Ready 0 (below .task (fun x => { x with ctl := { x.ctl with exmask := 0x280 } }))
      ∧ (0x280 : Word).getLsbD 7 = true ∧ (0x280 : Word).getLsbD 9 = true)
    ∧ (Ready 0 (withTask id) ∧ ((withTask id).dyn.core 0).tsk.task = some 5
      ∧ ((withTask id).dyn.core 0).ctl.exmask.getLsbD 7 = false)
    ∧ (Ready 0 (handler id) ∧ ((handler id).dyn.status 0).hact = true ∧ ((handler id).dyn.core 0).tsk.task = none)
    ∧ (((core id).dyn.core 0).tsk.abort = none ∧ ((core id).dyn.status 0).inrep = false)
    ∧ (let s := core (fun x => x.withStatus (fun st => { st with pinrep := true }))
       Ready 0 s ∧ ((s.dyn.status 0).pinrep && decide ((s.dyn.core 0).ctl.rc = 0)) = true) :=
  ⟨⟨⟨rfl, rfl, rfl, rfl, rfl⟩, rfl, rfl⟩, ⟨⟨rfl, rfl, rfl, rfl, rfl⟩, rfl, rfl⟩, ⟨⟨rfl, rfl, rfl, rfl, rfl⟩, rfl, rfl⟩,
    ⟨⟨rfl, rfl, rfl, rfl, rfl⟩, rfl, rfl⟩, ⟨rfl, rfl⟩, ⟨rfl, rfl, rfl, rfl, rfl⟩, rfl⟩
def plugin (f : CoreSt → CoreSt) : State :=
  below .plugin (fun x => f { x with ctl := { x.ctl with pwinBase := [(0, 0)], pwinLimit := [(0, 1)] } })
theorem witness_TaskInstructions :
    (Ready 0 (plugin id) ∧ ((plugin id).dyn.status 0).pl = .plugin ∧ (28 : Reg5).toNat ≤ 28)
    ∧ (Ready 0 (core id) ∧ ((core id).dyn.core 0).tsk.task = none)
    ∧ (Ready 0 (withTask (fun x => x.withStatus (fun st => { st with pl := .exec }))))
    ∧ (Ready 0 (withTask id) ∧ ((withTask id).dyn.core 0).tsk.task ≠ none ∧ ((withTask id).dyn.core 0).port.queue = []
      ∧ taskLive (withTask id).dyn 0 = false)
    ∧ (let s := { withTask id with dyn := { (withTask id).dyn with disp := { DispSt.reset with
         tasks := [(5, { TaskEntry.free with state := .running, unit := 0x0100 })] } } }
       Ready 0 s ∧ taskLive s.dyn 0 = true)
    ∧ (let s := withTask (fun x => { x with port := { x.port with queue := [{ bytes := [], tag := 0 }] } })
       Ready 0 s ∧ (s.dyn.core 0).port.queue ≠ []) :=
  ⟨⟨⟨rfl, rfl, rfl, rfl, rfl⟩, rfl, by decide⟩, ⟨⟨rfl, rfl, rfl, rfl, rfl⟩, rfl⟩, ⟨rfl, rfl, rfl, rfl, rfl⟩,
    ⟨⟨rfl, rfl, rfl, rfl, rfl⟩, by decide, rfl, rfl⟩, ⟨⟨rfl, rfl, rfl, rfl, rfl⟩, rfl⟩, ⟨rfl, rfl, rfl, rfl, rfl⟩, by decide⟩
theorem witness_DeclaredFault :
    Ready 0 (plugin id) ∧ Ready 0 (below .task id) ∧ ((below .task id).dyn.core 0).tsk.task = none
    ∧ (Ready 0 (withTask id) ∧ ((withTask id).dyn.status 0).hact = false
        ∧ ((withTask id).dyn.status 0).pl = .task ∧ ((withTask id).dyn.core 0).tsk.task = some 5
        ∧ ((withTask id).dyn.core 0).tsk.abort = none)
    ∧ (Ready 0 (handler (fun x => { x with tsk := { x.tsk with task := some 5 } }))) :=
  ⟨⟨rfl, rfl, rfl, rfl, rfl⟩, ⟨rfl, rfl, rfl, rfl, rfl⟩, rfl, ⟨⟨rfl, rfl, rfl, rfl, rfl⟩, rfl, rfl, rfl, rfl⟩,
    ⟨rfl, rfl, rfl, rfl, rfl⟩⟩

/-- Core 0 with DOORBELL, or its counter 0's interrupt, pending and enabled. -/
def irq (dbell : Word) : State :=
  let s := core (fun x => { x with ctl := { x.ctl with
    dbell, imask := 6, status := { x.ctl.status with ie := true } } })
  { s with dyn := { s.dyn with perf := { s.dyn.perf with banks :=
    [(0x0100, { Bank.reset with ovf := 1, ctrs := [(0, { Ctr.reset with cfg := 0xC0000101 })] })] } } }
theorem witness_BoundaryEvents :
    (atBoundary (core id).dyn 0 = true ∧ ((core id).dyn.status 0).hact = false)
    ∧ (atBoundary (core (fun x => { x with tsk := { x.tsk with abort := some (2, 0x0101) } })).dyn 0 = true)
    ∧ (atBoundary (core (fun x => { x with tsk := { x.tsk with
        storeErrs := [{ addr := 0, kind := 0, store := true }] } })).dyn 0 = true)
    ∧ (atBoundary (irq 1).dyn 0 = true ∧ lockstepTask (irq 1).dyn 0 = false ∧ ((irq 1).dyn.status 0).ie = true
      ∧ ((irq 1).dyn.core 0).tsk.storeErrs = [])
    ∧ (atBoundary (irq 0).dyn 0 = true ∧ counterPending (irq 0).dyn 0 = true)
    ∧ Master.isTaskOrHost (.core 0 .task) = true :=
  ⟨⟨rfl, rfl⟩, rfl, rfl, ⟨rfl, rfl, rfl, rfl⟩, ⟨rfl, rfl⟩, rfl⟩
/-- Core 0 at a boundary with ABORT pending, with a store error waiting, and with its doorbell enabled. -/
theorem witness_AsynchronousEntries :
    (let boundary (s : State) : Prop := islandUp s.dyn = true ∧ (s.dyn.core 0).tsk.run = .active
       ∧ (s.dyn.core 0).tsk.commit = none ∧ s.dyn.powered 0x0100 = true ∧ (s.dyn.core 0).ctl.status.hact = false
     let aborted := core (fun x => { x with tsk := { x.tsk with abort := some (2, 0x0101) } })
     let failed := core (fun x => { x with tsk := { x.tsk with storeErrs := [{ addr := 0, kind := 0, store := true }] } })
     (boundary aborted ∧ (aborted.dyn.core 0).tsk.abort ≠ none)
     ∧ (boundary failed ∧ (failed.dyn.core 0).tsk.abort = none ∧ (failed.dyn.core 0).tsk.storeErrs ≠ [])
     ∧ (boundary (irq 2) ∧ ((irq 2).dyn.core 0).tsk.abort = none ∧ ((irq 2).dyn.core 0).tsk.storeErrs = [] ∧ ((irq 2).dyn.core 0).ctl.status.ie = true
       ∧ lockstepTask (irq 2).dyn 0 = false ∧ ((irq 2).dyn.core 0).ctl.status.inrep = false
       ∧ ((irq 2).dyn.core 0).ctl.dbell ≠ 0 ∧ ((irq 2).dyn.core 0).ctl.imask.getLsbD 1 = true)
     ∧ Master.supervisor.isTaskOrHost = true ∧ (Master.core 191 .plugin).isTaskOrHost = false) := by decide

/-- Core 0 with no instruction at its PC: memory lists nothing, and 0 is no instruction word. -/
def wordless : State := let s := core id; { s with dyn := { s.dyn with mem := { s.dyn.mem with cells := [] } } }
theorem witness_IllegalFields_word :
    ((0 : Word).extractLsb' 26 6).toNat = 0x00 ∧ ((0xF4000000 : Word).extractLsb' 26 6).toNat = 0x3D
    ∧ (islandUp wordless.dyn = true ∧ wordless.dyn.issues 0 = true ∧ boundaryEvent wordless.dyn 0 = none
      ∧ fetchDenied wordless.img wordless.dyn 0 = false ∧ (fetch wordless.img wordless.dyn 0).2 = .illegal
      ∧ (wordless.dyn.pc 0).toNat / 128 ∉ (wordless.dyn.core 0).lines
      ∧ (memLoad wordless.img wordless.dyn (coreSender wordless.dyn 0) 0 4).2.status < 2)
    ∧ (let s := core (fun x => { x with regs := { x.regs with pc := 0x100000000 } })
       2 ≤ (memLoad s.img s.dyn (coreSender s.dyn 0) 0x100000000 4).2.status
       ∧ (s.dyn.pc 0).toNat / 128 ∉ (s.dyn.core 0).lines) := by decide +kernel
theorem witness_IllegalFields : Ready 0 (core id) ∧ onCore (.add 0 1 2 3) = some 0
    ∧ [.fenceS 0 1, .jr 0 0 16 0, .cmpy 0 7 0 0 false false 0, .tcommit 0 0 29 0, .vadd 0 true 8 0 0 0 0 false,
       .vldQ 0 0 0 3 0 false 0 0, .csrr 0 0 0 0xFF].all (fun i => (onCore i).isSome && badFields i) = true :=
  ⟨⟨rfl, rfl, rfl, rfl, rfl⟩, rfl, by decide⟩

/-! ### Witnesses: vectors, the port and Pewter -/

def vec (vl vstart : Nat) : State := core (fun x => { x with vec := { x.vec with vl, vstart } })
theorem witness_VectorElementResults : VecReady 0 true (vec 256 0) ∧ VecReady 0 false (vec 0 0)
    ∧ VecName true 7 ∧ VecName false 31 ∧ (7 : Reg5).toNat < 8 ∧ (3 : BitVec 2) ≠ 2 :=
  ⟨⟨⟨rfl, rfl, rfl, rfl, rfl⟩, rfl, rfl⟩, ⟨⟨rfl, rfl, rfl, rfl, rfl⟩, rfl, rfl⟩, fun _ => by decide, nofun, by decide, by decide⟩
theorem witness_VectorReductions : VecReady 0 true (vec 256 0) ∧ VecName true 7 ∧ (6 : BitVec 3).toNat % 2 = 0
    ∧ (31 : Reg5).toNat < 32 := ⟨⟨⟨rfl, rfl, rfl, rfl, rfl⟩, rfl, rfl⟩, fun _ => by decide, by decide, by decide⟩
theorem witness_VectorPermute : VecReady 0 true (vec 1 0) ∧ VecName true 7 :=
  ⟨⟨⟨rfl, rfl, rfl, rfl, rfl⟩, rfl, rfl⟩, fun _ => by decide⟩
theorem witness_VectorMoves : Ready 0 (vec 256 0) ∧ ((vec 256 0).dyn.core 0).vec.vstart = 0
    ∧ vecEnabled (vec 256 0).dyn 0 true = true ∧ vecEnabled (vec 256 0).dyn 0 false = true ∧ VecName true 7 :=
  ⟨⟨rfl, rfl, rfl, rfl, rfl⟩, rfl, rfl, rfl, fun _ => by decide⟩
theorem witness_VectorLoadsAndStores :
    (Ready 0 (vec 1 0) ∧ VecName true 7 ∧ (2 : BitVec 2) ≠ 3 ∧ vecEnabled (vec 1 0).dyn 0 true = true)
    ∧ ((vec 0 0).dyn.vecN 0 true 0 = 0 ∧ (vec 1 0).dyn.vecN 0 true 0 = 1)
    ∧ firstDenied (vec 1 0).dyn 0 0 8 1 0 = 1 ∧ (loadElems img 0 true 7 8 (vec 1 0).dyn 0 0 1).2 = none
    ∧ (loadElems img 0 true 7 8 (vec 1 0).dyn 0x100000000 0 1).2 = some (0, 5)
    ∧ firstDenied (vec 1 0).dyn 0 0x100000000 8 1 0 = 1 :=
  ⟨⟨⟨rfl, rfl, rfl, rfl, rfl⟩, fun _ => by decide, by decide, rfl⟩, ⟨rfl, rfl⟩, rfl, rfl, rfl, rfl⟩
theorem witness_VectorChecks :
    (Ready 0 (below .task id) ∧ vecEnabled (below .task id).dyn 0 true = false
      ∧ ((below .task id).dyn.core 0).vec.enable.getLsbD 1 = false ∧ ((below .task id).dyn.status 0).pl = .task)
    ∧ (badFields (.vadd 0 true 7 0 0 0 0 false) = false ∧ onCore (.vadd 0 true 7 0 0 0 0 false) = some 0
      ∧ vecFiles (.vadd 0 true 7 0 0 0 0 false) = [true] ∧ badFields (.vsetvl 0 1 2 0 false 0 0) = false)
    ∧ (Ready 0 (vec 1 1) ∧ vecEnabled (vec 1 1).dyn 0 true = true ∧ (vec 1 1).dyn.vecN 0 true 0 ≤ 1)
    ∧ 8 ≤ (8 : Reg5).toNat ∧ (2 : BitVec 2) ≠ 3 :=
  ⟨⟨⟨rfl, rfl, rfl, rfl, rfl⟩, rfl, rfl, rfl⟩, ⟨by decide, rfl, rfl, by decide⟩,
    ⟨⟨rfl, rfl, rfl, rfl, rfl⟩, rfl, by decide⟩, by decide, by decide⟩

/-- CHOL of a 1 x 1 matrix from W0 to W1: a valid command in Q0. -/
def cholBytes : List Byte := [4, 0, 1, 0, 0, 1, 0, 0] ++ zeros 24
def port (queue : List PewterCmd) (busy : List Nat) (results : Map Word) : State := core (fun x => { x with
  vec := { x.vec with q := [(0, BitVec.ofNat 256 (leNat cholBytes))] }
  port := { x.port with queue, busy, results } })
def cmd (op : Byte) : PewterCmd := { bytes := [op, 0, 1, 1, 1, 1, 0, 0] ++ zeros 24, tag := 9 }
theorem witness_PortInstructions :
    (Ready 0 (port [] [] []) ∧ portEnabled (port [] [] []).dyn 0 = true)
    ∧ (pcmdFault (parsePCmd (leBytes 32 (Map.get 0 ((port [] [] []).dyn.core 0).vec.q 0).toNat)) = none
      ∧ pcmdAreas (parsePCmd cholBytes) = [] ∧ pcmdFault (parsePCmd (zeros 32)) = some 0)
    ∧ ([9].contains (9 : Nat) = true ∧ [(9, (7 : Word))].find? (fun e => e.1 == 9) = some (9, 7))
    ∧ (Ready 0 (port (List.replicate 15 (cmd 4)) [] []) ∧ (List.replicate 16 (cmd 4)).length = 16)
    ∧ (Ready 0 (plugin id) ∧ ((plugin id).dyn.core 0).port.enable.toNat / 2 % 2 = 0
      ∧ portEnabled (plugin (fun x => { x with port := { x.port with enable := 2 } })).dyn 0 = true)
    ∧ (Ready 0 (below .task id) ∧ ((below .task id).dyn.core 0).port.enable.toNat % 2 = 0)
    ∧ (0x00DFFFFFF000 + 4096 ≤ 0x00E000000000 ∧ 0x00DFFFFFF000 % 4096 = 0) :=
  ⟨⟨⟨rfl, rfl, rfl, rfl, rfl⟩, rfl⟩, ⟨rfl, rfl, rfl⟩, ⟨rfl, rfl⟩, ⟨⟨rfl, rfl, rfl, rfl, rfl⟩, rfl⟩,
    ⟨⟨rfl, rfl, rfl, rfl, rfl⟩, rfl, rfl⟩, ⟨⟨rfl, rfl, rfl, rfl, rfl⟩, rfl⟩, ⟨by decide, by decide⟩⟩

/-- A context that CPREST accepts, at address 0. -/
def saved : State := up (fun d => { (core id).dyn with
  mem := { d.mem with cells := Memory.writeN [] 0 (leBytes 4 0x58435750 ++ leBytes 2 1) } })
set_option maxRecDepth 100000 in
theorem witness_PortInstructions_context :
    (∃ l, (engineArea img 0 0 4096 (sampleAccess saved.dyn 0 0)).2 = some l ∧ fld l 0 4 = 0x58435750 ∧ fld l 4 2 = 1)
    ∧ (∃ l, (engineArea img 0 4096 4096 (sampleAccess saved.dyn 0 4096)).2 = some l ∧ fld l 0 4 ≠ 0x58435750) := by
  have h (a : Nat) (p : List Byte → Bool) (hp : ((engineArea img 0 a 4096 (sampleAccess saved.dyn 0 a)).2.map p) = some true) :
      ∃ l, (engineArea img 0 a 4096 (sampleAccess saved.dyn 0 a)).2 = some l ∧ p l = true := by
    simpa [Option.map_eq_some_iff] using hp
  obtain ⟨l, h1, h2⟩ := h 0 (fun l => fld l 0 4 == 0x58435750 && fld l 4 2 == 1) (by decide +kernel)
  obtain ⟨k, h3, h4⟩ := h 4096 (fun l => fld l 0 4 != 0x58435750) (by decide +kernel)
  exact ⟨⟨l, h1, by simpa using h2⟩, k, h3, by simpa using h4⟩
theorem witness_PewterCommands :
    (port [cmd 3] [9] []).dyn.powered 0x0200 = true ∧ nextServed (port [cmd 3] [9] []).dyn 0 = some 0
    ∧ ((port [cmd 3] [9] []).dyn.core 0).port.queue = [cmd 3]
    ∧ (parsePCmd (cmd 1).bytes).op = 1 ∧ (parsePCmd (cmd 2).bytes).op = 2 ∧ (parsePCmd (cmd 4).bytes).op = 4
    ∧ (parsePCmd (cmd 5).bytes).op = 5 ∧ (parsePCmd (cmd 6).bytes).op = 6 ∧ (parsePCmd (cmd 7).bytes).op = 7
    ∧ ((parsePCmd (cmd 3).bytes).op = 3 ∧ (parsePCmd (cmd 3).bytes).dst ≠ 3
      ∧ (parsePCmd (cmd 3).bytes).srcA ≠ 3 ∧ (parsePCmd (cmd 3).bytes).srcB ≠ 3)
    ∧ ((port [cmd 3] [9] []).dyn.core 0).tsk.commit = none :=
  ⟨rfl, rfl, rfl, rfl, rfl, rfl, rfl, rfl, rfl, ⟨rfl, by decide, by decide, by decide⟩, rfl⟩

/-! ### Witnesses: the workspace format and the dispatcher -/

/-- One component at the upper edge, in units at both edges of the exponent. -/
def one (u : Int) : CMat := { els := [(0, { re := 32767, im := -32767 })], unit := u }
theorem witness_WorkspaceFormat : (∀ x ∈ (CMat.mk [] 0).comps, x = 0)
    ∧ (∃ x ∈ (one 0).comps, x ≠ 0) ∧ (∀ x ∈ (one 0).comps, -32767 ≤ x ∧ x ≤ 32767)
    ∧ -143 ≤ (one (-143)).unit ∧ (one 112).unit ≤ 112 := by decide

/-- A posted command, with a task table at address 0 and one task entry. -/
def tasks (q : List TaskCmd) (t : TaskEntry) (f : Dyn → Dyn) : State :=
  let s := up (fun d => f { d with
    mem := { d.mem with cells := Memory.writeN [] 0x10 [1, 0, 0, 0, 0xFF, 0xFF] }
    disp := { d.disp with cmdQ := q, tasks := [(0, t)] } })
  { s with img := { s.img with regs := [(0x08000000, 1)] } }
def cmdOf (op : Nat) : TaskCmd := { op, task := 0 }
def task (st : TaskState) : TaskEntry := { TaskEntry.free with state := st, est := 1, deadline := 1, unit := 0x0100 }
theorem witness_TaskCommands :
    (islandUp (tasks [cmdOf 1] (task .free) id).dyn = true ∧ (cmdOf 1).task = (0 : BitVec 15).toNat)
    ∧ (tasks [cmdOf 1] (task .free) (fun d => { d with disp := { d.disp with halted := true } })).dyn.disp.halted = true
    ∧ (let s := tasks [cmdOf 1] (task .free) id
       let m := memLoad s.img s.dyn dispSender 0 64
       let w := parseTask m.2.data
       (s.dyn.task 0).state = .free ∧ taskTable s.img = some 0 ∧ (postTask s.img s.dyn 0 0).isSome = true
       ∧ m.2.status < 2 ∧ fld m.2.data 4 2 = 0 ∧ fld m.2.data 6 2 = 0 ∧ descBad m.2.data w = false
       ∧ (w.lockstep = true → w.cls = 0) ∧ w.condTask = none ∧ linksUsed m.1 ≤ 131072)
    ∧ ((tasks [cmdOf 1] (task .waiting) id).dyn.task 0).state ≠ .free
    ∧ ((tasks [cmdOf 2] (task .ready) id).dyn.task 0).state = .ready
    ∧ ((tasks [cmdOf 2] (task .running) id).dyn.task 0).state = .running
    ∧ ((tasks [cmdOf 2] (task .done) id).dyn.task 0).state = .done := by decide +kernel

def await (mode : Nat) : TaskEntry := { task .waiting with awaited := [{ handle := 0, mode, gen := 3 }] }
theorem witness_ArbiterSteps :
    (let s := up (fun d => { d with disp := { d.disp with
        cascades := [1], walks := [0], tasks := [(0, await 1)]
        handles := [(0, { state := 5, readers := 0, task := 0, gen := 3 })] } })
     islandUp s.dyn = true ∧ s.dyn.disp.halted = false ∧ s.dyn.disp.cascades = [1] ∧ s.dyn.disp.walks = [0]
     ∧ s.dyn.disp.tasks = [(0, s.dyn.task 0)] ∧ (s.dyn.task 0).state = .waiting ∧ (s.dyn.task 0).gated = false
     ∧ (s.dyn.task 0).awaited = [{ handle := 0, mode := 1, gen := 3 }]
     ∧ isFinal (handleOf s.img s.dyn 0).state = true ∧ (handleOf s.img s.dyn 0).gen = 3)
    ∧ (let tb := gridBefore img (boundaryPeriod img) (up id).dyn.now
       (up id).dyn.time.boundary ≠ some tb
       ∧ (up (fun d => { d with time := { d.time with boundary := some tb } })).dyn.time.boundary = some tb) := by decide

/-- Core 0 in TWAIT and a ready task 5; the task running there with its TCOMMIT issued; and a job finished
at the first codec. -/
def waitingCore : State := up (fun d =>
  { d.setCore 0 { CoreSt.reset with tsk := { CoreTask.reset with run := .active, waiting := true } } with
    disp := { d.disp with tasks := [(5, { task .ready with deadline := 4 })] } })
def committed (deadline unit : Nat) (detects : List Raised) : State := up (fun d =>
  { (d.setCore 0 { CoreSt.reset with tsk := { CoreTask.reset with
      run := .active, task := some 5, commit := some { final := 2, rd := 0, result := zeros 16 } } }).setUnit 0x0300
      (fun u => { u with running := some 5, finished := some { final := 2, result := zeros 16 } }) with
    time := { d.time with t := 2 ^ 51 }
    disp := { d.disp with detects, tasks := [(5, { task .running with deadline, unit, cls := b2n (decide (unit ≠ 0x0100)) })] } })
theorem witness_DispatchSteps :
    (let s := waitingCore
     islandUp s.dyn = true ∧ readyList s.dyn 0 = [5] ∧ (s.dyn.task 5).state = .ready ∧ (s.dyn.task 5).cls = 0
     ∧ (s.dyn.task 5).lockstep = false ∧ (s.dyn.task 5).inputs = [] ∧ (s.dyn.task 5).outputs = []
     ∧ pickUnit s.dyn 5 = some 0x0100)
    ∧ (let s := committed 11 0x0100 [{ unit := 0x0100, cond := 0x0101, addr := 0, extra := 0 }]
       taskOn s.dyn 0x0100 = some 5 ∧ pendingDetect s.dyn 5 ≠ none)
    ∧ (let s := committed 11 0x0100 []
       taskOn s.dyn 0x0100 = some 5 ∧ pendingDetect s.dyn 5 = none ∧ (s.dyn.task 5).unit = 0x0100
       ∧ (s.dyn.task 5).shadow = none ∧ (s.dyn.core 0).tsk.commit ≠ none ∧ (s.dyn.core 0).port.queue = []
       ∧ (s.dyn.onPort 0 (fun p => { p with queue := [cmd 4] })).core 0 ≠ s.dyn.core 0)
    ∧ (let s := committed 11 0x0300 []
       taskOn s.dyn 0x0300 = some 5 ∧ pendingDetect s.dyn 5 = none
       ∧ (s.dyn.unit 0x0300).finished = some { final := 2, result := zeros 16 }) := by decide +kernel
/-- The deadlines of these tasks, wherever the dispatcher's copy of tick time stands (R18). -/
theorem witness_DispatchSteps_deadlines :
    waitingCore.dyn.dispNow + (waitingCore.dyn.task 5).est ≤ (waitingCore.dyn.task 5).deadline
    ∧ (∀ u, (committed 11 u []).dyn.dispNow ≤ ((committed 11 u []).dyn.task 5).deadline
      ∧ ((committed 4 u []).dyn.task 5).deadline < (committed 4 u []).dyn.dispNow) :=
  by
  have h0 : waitingCore.dyn.now = 0 := rfl
  have h1 := waitingCore.dyn.nowAt_near 0x0800 (by omega)
  have e : (waitingCore.dyn.task 5).est = 1 ∧ (waitingCore.dyn.task 5).deadline = 4 := by decide
  refine ⟨by simp only [Dyn.dispNow]; omega, fun u => ?_⟩
  have h2 (n : Nat) : (committed n u []).dyn.now = 8 := by simp [committed, up, Dyn.now, Dyn.setUnit]
  have h3 (n : Nat) := (committed n u []).dyn.nowAt_near 0x0800 (by rw [h2]; decide)
  have d (n : Nat) : ((committed n u []).dyn.task 5).deadline = n := rfl
  have := h2 11
  have := h2 4
  have := h3 11
  have := h3 4
  simp only [Dyn.dispNow, d]
  omega

/-- A SET_GPIO drive of pin 31 that ends at tick 1. -/
def driven (t : Nat) : State := up (fun d => { d with
  time := { d.time with t := t * 2 ^ 48 }, gpio := [(31, { order := some (1, true), source := 0 })] })
theorem witness_Detections :
    (islandUp (up id).dyn = true ∧ (up id).dyn.disp.halted = false ∧ allowedActions 0x0101 ≠ []
      ∧ 0x0101 ∉ ([0x0311, 0x0611, 0x0711, 0x0712, 0x0A01] : List Nat) ∧ (up id).dyn.disp.orders = [])
    ∧ ((Map.get PinSt.reset (driven 1).dyn.gpio (31 : Fin 32).val).order = some (1, true) ∧ 1 ≤ (driven 1).dyn.now)
    ∧ (up (fun d => { d with disp := { d.disp with halted := true } })).dyn.disp.halted = true := by decide +kernel

/-! ### Witnesses: engines, cipher locks and lanes -/

/-- A dispatched job of KIND `kind` at unit `u`, its job block at address 0. -/
def jobAt (u kind : Nat) : State := up (fun d => { d.setUnit u (fun x => { x with running := some 5 }) with
  mem := { d.mem with cells := Memory.writeN [] 0 [BitVec.ofNat 8 kind] } })
def jobOk (u kind : Nat) : Bool :=
  let s := jobAt u kind
  ((s.dyn.unit u).running == some 5) && (s.dyn.unit u).finished.isNone && (pendingDetect s.dyn 5).isNone
  && (s.dyn.cipherEng (u % 8)).direct.isNone && (s.dyn.cipherEng (u % 8)).owner == 0 && (suspended s.dyn (u % 8)).isNone
  && (match readPackets s.img (engineSender u) (packetsOf (s.dyn.task 5).work 64) [] s.dyn with
      | (_, .inl blk) => fld blk 0 1 == kind
      | _ => false)
theorem witness_EngineJobs : islandUp (jobAt 0x0300 1).dyn = true ∧ jobOk 0x0300 0 = true
    ∧ [1, 2, 3, 4].all (jobOk 0x031F) = true ∧ [0x11, 0x12].all (jobOk 0x033F) = true
    ∧ [0x21, 0x22, 0x27].all (jobOk 0x042F) = true ∧ [0x23, 0x24].all (jobOk 0x0437) = true
    ∧ [0x25, 0x26].all (jobOk 0x043F) = true ∧ [0x31, 0x32].all (jobOk 0x0907) = true := by decide +kernel

theorem witness_CipherRoundTrip : ([] : List Byte).length = (parseMsg (zeros 64)).length := by decide

/-- Cipher engine 7 with the given lock. -/
def locked (f : CipherSt → CipherSt) : State := up (fun d => d.onCipher 7 f)

/-- Two committed buffers of 64 bytes, a key in slot 0, and a direct GCM_ENC job at address 0. -/
def direct : State :=
  let s := up (fun d => { d.onCipher 7 (fun x => { x with owner := 0x0C00 }) with
    keys := [(0, { key := 1, use := 1, origin := 2, gen := 1 })]
    mem := { d.mem with cells := Memory.writeN [] 0 ([0x31] ++ zeros 15 ++ [0xFF, 0xFF, 0, 0, 1, 0]) } })
  { s with img := { s.img with sections := s.img.sections ++
      [(secBuffers, [leBytes 2 0 ++ leBytes 2 1 ++ leBytes 4 2 ++ leBytes 6 0x1000 ++ leBytes 2 1])] } }
theorem witness_CipherLocks :
    ¬ ((Master.management : Master) = .supervisor ∨ ∃ k, (Master.management : Master) = .core k .exec)
    ∧ (Master.supervisor = Master.supervisor ∧ ((up id).dyn.cipherEng 7).owner = 0 ∧ ((up id).dyn.unit 0x0907).running = none)
    ∧ (((locked (fun x => { x with owner := 0x0C00 })).dyn.cipherEng 7).owner = Master.supervisor.source
      ∧ ((locked (fun x => { x with owner := 0x0C00 })).dyn.cipherEng 7).susp = none)
    ∧ ((locked (fun x => { x with owner := 0x0100 })).dyn.cipherEng 7).owner ≠ Master.supervisor.source
    ∧ ((locked (fun x => { x with pending := true })).dyn.cipherEng 7).pending = true
    ∧ ((up id).dyn.cipherEng 7).pending = false
    ∧ (match readPackets direct.img (engineSender 0x0907) (packetsOf 0 64) [] direct.dyn with
       | (d, .inl blk) =>
         let x := parseMsg blk
         (direct.dyn.cipherEng 7).owner == Master.supervisor.source && !(direct.dyn.cipherEng 7).pending
         && (direct.dyn.cipherEng 7).direct.isNone
         && (msgBad x (d.key x.slot) (directBad direct.img d false) (directBad direct.img d true)).isNone
       | _ => false) = true := ⟨nofun, ⟨rfl, rfl, rfl⟩, ⟨rfl, rfl⟩, by decide, rfl, rfl, by decide +kernel⟩

theorem witness_LaneCommands :
    (Master.management.isExecOrHost = true ∧ laneRecord img 0 ≠ none ∧ laneRecord img 79 = none)
    ∧ (Master.core 0 .task).isExecOrHost = false
    ∧ ((teth 0 id).dyn.lane 0).teth.state = 0 ∧ ((teth 0 id).dyn.lane 0).teth.pendQuiet = false
    ∧ ((teth 0 (fun x => { x with state := 1 })).dyn.lane 0).teth.state = 1
    ∧ ((teth 0 (fun x => { x with state := 5 })).dyn.lane 0).teth.state = 5
    ∧ ((teth 0 (fun x => { x with state := 7 })).dyn.lane 0).teth.state = 7
    ∧ (((teth 0 (fun x => { x with state := 6 })).dyn.lane 0).teth.state = 6
      ∧ ((teth 0 (fun x => { x with state := 6 })).dyn.lane 0).teth.quietLeft = none)
    ∧ ((teth 0 (fun x => { x with state := 6, quietLeft := some 0 })).dyn.lane 0).teth.quietLeft ≠ none :=
  ⟨⟨rfl, by decide, by decide⟩, rfl, rfl, rfl, rfl, rfl, rfl, ⟨rfl, rfl⟩, by decide⟩

theorem witness_TrainingAttempts :
    ((up id).dyn.lane 0).teth.lock ≠ 2 ∧ ((up id).dyn.lane 0).bridle.opened = []
    ∧ ((up id).dyn.lane 0).bridle.dlq = [] ∧ pinsTaken (up id).dyn = false
    ∧ ((teth 0 (fun x => { x with state := 2 })).dyn.lane 0).teth.state = 2
    ∧ ((teth 0 (fun x => { x with state := 1 })).dyn.lane 0).teth.state = 1
    ∧ ((teth 0 (fun x => { x with state := 4 })).dyn.lane 0).teth.state = 4
    ∧ laneCfg img (up id).dyn 0 ≠ none ∧ (0 : Nat) ≠ 4 := by decide

/-- Lane 79 in the given state, `n` frame periods into its phase. -/
def phase (state n : Nat) (f : TetherSt → TetherSt) : State := teth 79 (fun x => f { x with state, phaseFrames := n })
def elapsed (s : State) : Nat := phaseClock s.img s.dyn 79
theorem witness_TrainingPhases : islandUp (phase 2 64 id).dyn = true
    ∧ (((phase 2 64 id).dyn.lane 79).teth.state = 2 ∧ 64 ≤ elapsed (phase 2 64 id) ∧ elapsed (phase 2 63 id) < 64)
    ∧ (let s := phase 3 8192 id
       (s.dyn.lane 79).teth.state = 3 ∧ (s.dyn.lane 79).teth.fast = false ∧ 8192 ≤ elapsed s)
    ∧ (let s := phase 3 1024 (fun x => { x with fast := true })
       (s.dyn.lane 79).teth.fast = true ∧ 1024 ≤ elapsed s ∧ elapsed (phase 3 1023 id) < 1024)
    ∧ (let s := phase 4 8193 (fun x => { x with lock := 2 })
       (s.dyn.lane 79).teth.state = 4 ∧ 8193 ≤ elapsed s ∧ (s.dyn.lane 79).teth.lock = 2)
    ∧ ((phase 4 8193 id).dyn.lane 79).teth.lock ≠ 2
    ∧ (let s := phase 5 4031 id
       (s.dyn.lane 79).teth.state = 5 ∧ 4031 ≤ elapsed s ∧ (s.dyn.lane 79).teth.decided = false)
    ∧ ((phase 5 4031 (fun x => { x with decided := true })).dyn.lane 79).teth.decided = true
    ∧ (let s := phase 5 4096 (fun x => { x with go := true })
       (s.dyn.lane 79).teth.state = 5 ∧ 4096 ≤ elapsed s ∧ (s.dyn.lane 79).teth.go = true)
    ∧ ((phase 5 4096 id).dyn.lane 79).teth.go = false
    ∧ (let x := ((teth 79 (fun x => { x with state := 6, quietLeft := some 0 })).dyn.lane 79).teth
       x.state = 6 ∧ x.quietLeft = some 0) := by decide +kernel

def cand (count : Nat) : TetherSt → TetherSt :=
  fun x => { x with state := 4, main := some { align := 4351, count, seq := 0xFFFF } }
theorem witness_Hunting :
    (let t := ((teth 0 (fun x => { x with state := 4, lock := 2 })).dyn.lane 0).teth; t.state = 4 ∧ t.lock = 2)
    ∧ (let t := ((teth 0 (fun x => { x with state := 4 })).dyn.lane 0).teth; t.lock ≠ 2 ∧ t.main = none)
    ∧ (let t := ((teth 0 (cand 1)).dyn.lane 0).teth
       t.lock ≠ 2 ∧ t.main = some { align := (4351 : Fin 4352).val, count := 1, seq := 0xFFFF } ∧ (0xFFFF + 1) % 65536 = (0 : Half).toNat)
    ∧ (let t := ((teth 0 (cand 2)).dyn.lane 0).teth
       t.main = some { align := (4351 : Fin 4352).val, count := 2, seq := 0xFFFF } ∧ t.frozen = false)
    ∧ popcount32 (0xB5E3192E ^^^ 0xB5E3192D) ≤ 2
    ∧ (¬ popcount32 (0xE0B64C78 ^^^ 0xB5E3192D) ≤ 2 ∧ popcount32 (0xE0B64C78 ^^^ (0xB5E3192D ^^^ 0x55555555)) ≤ 2)
    ∧ (¬ popcount32 (0 ^^^ 0xB5E3192D) ≤ 2 ∧ ¬ popcount32 (0 ^^^ (0xB5E3192D ^^^ 0x55555555)) ≤ 2)
    ∧ ((teth 0 (fun x => { x with state := 7 })).dyn.lane 0).teth.state = 7
    ∧ ((teth 0 (fun x => { x with state := 2 })).dyn.lane 0).teth.state = 2 := by decide

theorem witness_FrameRoundTrip : ([] : List Nat).length ≤ 126 ∧ (∀ w ∈ ([2 ^ 64 - 1] : List Nat), w < 2 ^ 64)
    ∧ (List.replicate 126 0).length ≤ 126 := ⟨by decide, by decide, by simp⟩

/-- Lane 0 under a record with LOCK_LOSS 2, automatic retraining and a RELOCK of 0. -/
def relock (f : TetherSt → TetherSt) : State :=
  let s := teth 0 f
  { s with img := { s.img with sections := [(secLanes, [zeros 3 ++ [1] ++ zeros 4 ++ [2] ++ zeros 23])] } }
theorem witness_ReceivedFrames :
    (let s := relock (fun x => { x with state := 6, lock := 2 })
     ∃ c, laneCfg s.img s.dyn 0 = some c ∧ c.lockLoss = 2 ∧ c.auto = true ∧ (s.dyn.lane 0).teth.lock = 2
       ∧ (s.dyn.lane 0).teth.badRun + 1 < c.lockLoss ∧ (s.dyn.lane 0).bridle.opened = [])
    ∧ (let s := relock (fun x => { x with state := 6, lock := 2, badRun := 1 })
       2 ≤ (s.dyn.lane 0).teth.badRun + 1)
    ∧ (let s := relock (fun x => { x with state := 6, lock := 0 })
       ∃ c, laneCfg s.img s.dyn 0 = some c ∧ (s.dyn.lane 0).teth.lock ≠ 2 ∧ c.relock ≤ (s.dyn.lane 0).teth.frames
         - (s.dyn.lane 0).teth.huntSince)
    ∧ (∃ c, laneCfg img (up id).dyn 0 = some c ∧ c.auto = false) :=
  ⟨⟨_, rfl, rfl, rfl, rfl, by decide, rfl⟩, by decide, ⟨_, rfl, by decide, by decide⟩, ⟨_, rfl, rfl⟩⟩
theorem witness_ReceivedFrames_good :
    frameGood (encodeFrame 0 0 0 0 []) (descramble (encodeFrame 0 0 0 0 [])) = true
    ∧ frameGood 0 (descramble 0) = false ∧ codeHolds (encodeFrame 0 0 0 0 []) = true
    ∧ (let f := encodeFrame 0 0 0 4 []
       frameGood f (descramble f) = true ∧ bits (descramble f) 67 64 = 4)
    ∧ (let s := teth 0 (fun x => { x with state := 7, noGo := true })
       (s.dyn.lane 0).teth.state = 7 ∧ (s.dyn.lane 0).teth.noGo = true ∧ laneCfg s.img s.dyn 0 ≠ none) := by decide +kernel

theorem witness_BuiltFrames : ((teth 0 (fun x => { x with state := 3 })).dyn.lane 0).teth.state = 3
    ∧ (let t := ((teth 0 (fun x => { x with state := 6 })).dyn.lane 0).teth; t.state = 6 ∧ t.quietLeft ≠ some 0)
    ∧ ((teth 0 (fun x => { x with state := 6, quietLeft := some 0 })).dyn.lane 0).teth.quietLeft = some 0
    ∧ ((teth 0 (fun x => { x with state := 4 })).dyn.lane 0).teth.state = 4 := by decide

theorem witness_ReceivedUnits : (63 : Lane).val < 64
    ∧ ((unitOn 63 1).dyn.lane 63).rx = [.unit [1] 0] ∧ 0x820002 % 16 = 2 ∧ 0x820002 / 2 ^ 16 % 256 = 0x82
    ∧ 0x810002 / 2 ^ 16 % 256 = 0x81 ∧ 0xC0 ≤ 0xFF0002 / 2 ^ 16 % 256
    ∧ (let b := ((lane 0 (fun x => { x with bridle := { x.bridle with reqSent := some (0, 7), reqId := 255 } })).dyn.lane 0)
       b.bridle.reqSent = some (0, 7) ∧ 255 = b.bridle.reqId ∧ b.teth.frames ≤ 0 + 64)
    ∧ ((up id).dyn.lane 0).bridle.reqSent = none := by decide

/-! ### Witnesses: Bridle, Paretlink, the fabric and memory -/

/-- Lane 63 in DATA with a round-trip time and an open container of stream 0, one millisecond ago; a message
ready for BR_CTRL_SEND at address 0. -/
def bridle : State :=
  let s := up (fun d => { d.onLane 63 (fun x => { x with
      teth := { x.teth with state := 6 }
      bridle := { x.bridle with opened := [(15, { stream := 0, q := 13, handle := 0, time := 0, got := [], good := 0, discard := false, refused := false })] } }) with
    time := { d.time with t := 1966080 * 2 ^ 48, rtts := [(63, [1])] }
    mem := { d.mem with cells := Memory.writeN [] 0 [2, 0, 0x7F, 1] } })
  { s with img := { s.img with sections :=
      [(secCells, [zeros 32]), (secAntenna, [zeros 3 ++ [1, 63, 15, 16] ++ zeros 9]), (secRegions, [region])] } }
theorem witness_BridleCommands : (63 : Lane).val < 64 ∧ (bridle.dyn.lane 63).teth.state = 6
    ∧ Map.get [] bridle.dyn.time.rtts 63 ≠ []
    ∧ (∀ x, (bridle.dyn.lane 63).bridle.reqTick = some x → x + 1966080 ≤ bridle.dyn.now ∨ bridle.dyn.now < x)
    ∧ (let s := { bridle with dyn := bridle.dyn.onBridle 63 (fun b => { b with reqTick := some bridle.dyn.now }) }
       (s.dyn.lane 63).bridle.reqTick = some s.dyn.now ∧ s.dyn.now < s.dyn.now + 1966080) ∧ ¬ ((up id).dyn.lane 63).teth.state = 6
    ∧ (∃ c i, (bridle.dyn.lane 63).bridle.opened.find? (fun e => e.1 == (15 : BitVec 4).toNat) = some (15, c)
      ∧ streamInfo bridle.img c.stream 0 = some i
      ∧ c.time + ((List.range 4).map (fun j => symTc i.mu i.ext ((c.q + j + 1) % i.syms))).sum ≤ bridle.dyn.now)
    ∧ (bridle.dyn.lane 63).bridle.opened.find? (fun e => e.1 == (0 : BitVec 4).toNat) = none
    ∧ (Master.core 0 .plugin).isTaskOrHost = false ∧ Master.supervisor.isTaskOrHost = true
    ∧ (let r := memLoad bridle.img bridle.dyn (laneSender 63) 0 16
       let h := leNat (r.2.data.take 8)
       r.2.status < 2 ∧ h / 2 ^ 16 % 256 = 0x7F ∧ (r.1.lane 63).bridle.ctrlq.length < 16 ∧ h / 2 ^ 24 % 4 = 1) :=
  ⟨by decide, rfl, by decide, nofun, ⟨rfl, by decide⟩, by decide, ⟨_, _, rfl, rfl, by decide +kernel⟩, rfl, rfl, rfl, by decide +kernel⟩

/-- A unit whose header is `h`, waiting on Paretlink lane 79 with PSN `rx` expected, and two units sent. -/
def link (h rx : Nat) : State := lane 79 (fun x => { x with
  rx := [.unit (sealUnit [h]) 0], link := { x.link with rxPsn := rx, window := [(4095, [0]), (0, [0])] } })
def linkOk (h rx : Nat) : Bool :=
  match ((link h rx).dyn.lane 79).rx with
  | [.unit (h' :: ws) _] => h' == h && unitGood (h' :: ws) && !linkReserved h'
  | _ => false
theorem witness_ParetlinkUnits :
    (64 ≤ (79 : Lane).val ∧ ((link 1 0).dyn.lane 79).link.sent = []
      ∧ ((link 1 0).dyn.lane 79).link.window = [(4095, [0]), (0, [0])])
    ∧ (linkOk 1 0 = true ∧ (1 / 2 ^ 16 % 4096 = 0))
    ∧ (linkOk 1 2048 = true ∧ (2048 + 4096 - 0) % 4096 ≤ 2048) ∧ (linkOk 1 2049 = true ∧ 2048 < (2049 + 4096 - 0) % 4096)
    ∧ (linkOk 0x00010002 0 = true ∧ (1 + 4096 - 4095) % 4096 ≤ 2) ∧ (linkOk 0x00020002 0 = true ∧ 2 < (2 + 4096 - 4095) % 4096)
    ∧ (linkOk 0x00010003 0 = true ∧ (1 + 4096 - 4095) % 4096 ≤ 2)
    ∧ linkOk 0xFFFF000003F4 0 = true ∧ linkOk 5 0 = true := by decide +kernel
theorem witness_ParetlinkUnits_others :
    unitGood [1, 0] = false ∧ laneVcs img 79 = [] ∧ ((up id).dyn.lane 79).link.sent = []
    ∧ (let s := lane 79 (fun x => { x with
         teth := { x.teth with frames := 1024 }, link := { x.link with window := [(0, [0])] } })
       (s.dyn.lane 79).link.window ≠ [] ∧ (s.dyn.lane 79).link.advanced + 1024 ≤ (s.dyn.lane 79).teth.frames)
    ∧ ((up id).dyn.lane 79).link.window = [] := by decide +kernel

theorem witness_ParetlinkUnits_rings : islandUp (up id).dyn = true ∧ (0 : BitVec 6).toNat = 0 ∧ (63 : BitVec 6).toNat ≠ 0
    ∧ (let room := 2 ^ ((img.reg (0x05034000 + 0x10 * 63)) / 2 ^ 19 % 16)
       ((1 : Half).toNat + 65536 - ((up id).dyn.vc 63).txDone) % 65536 ≤ room
       ∧ room < ((2 : Half).toNat + 65536 - ((up id).dyn.vc 63).txDone) % 65536)
    ∧ 32768 ≤ ((0x8000 : Half).toNat + 65536 - ((up id).dyn.vc 63).rxProduced) % 65536
    ∧ (0 < ((0x7FFF : Half).toNat + 65536 - ((up id).dyn.vc 63).rxProduced) % 65536
      ∧ ((0x7FFF : Half).toNat + 65536 - ((up id).dyn.vc 63).rxProduced) % 65536 < 32768) := by decide +kernel

/-- A read of four bytes of slot memory by core 0, and packets under way. -/
def readPacket : Packet := { badPacket with kind := 0, cls := 1, src := 4, dest := 1, length := 4, master := 0x0100 }
/-- A write of TASK_CMD by the same core. -/
def cmdPacket : Packet := { readPacket with
  kind := 1, cls := 3, dest := (regEndpoint 0x08000010).getD 0, address := 0x00F008000010, data := [0, 0, 1, 0] }
def fab (f : FabSt → FabSt) : State := up (fun d => { d with fab := f d.fab })
theorem witness_PacketsEnter :
    packetOk badPacket = false ∧ (packetOk readPacket = true ∧ readPacket.resp = false ∧ readPacket.kind ≠ 3)
    ∧ (packetOk { readPacket with address := 0x10000000 } = true ∧ addrEndpoint 0x10000000 = none)
    ∧ (addrEndpoint readPacket.address.toNat = some readPacket.dest.toNat ∧ tagFree (up id).dyn readPacket = true
      ∧ regulatorOf img readPacket.src.toNat readPacket.cls.toNat = none ∧ (up id).dyn.fab.waiting = []
      ∧ trackerRoom (up id).dyn readPacket = true ∧ eventRoom (up id).dyn readPacket = true
      ∧ routeOpen (up id).dyn (routeOf readPacket.src.toNat readPacket.dest.toNat) = true
      ∧ (up id).dyn.portMode readPacket.src.toNat ≠ 2)
    ∧ (let t : Track := { endpoint := 4, tag := 0, target := 1, unit := 0x0700, since := 0, timedOut := false }
       tagFree (fab (fun f => { f with trackers := [t] })).dyn readPacket = false)
    ∧ (packetOk { readPacket with kind := 3, cls := 0 } = true)
    ∧ (fab (fun f => { f with modes := [(4, 2)] })).dyn.portMode readPacket.src.toNat = 2 := by decide +kernel

def sentPacket : Packet := sealPacket readPacket
/-- A request of class 3 from the same endpoint. -/
def bulkPacket : Packet := { sentPacket with cls := 3 }

/-- An output's arbiter with its class 0 run at the limit sends class 1 next (R323). -/
theorem test_class0_limit :
    (outputPick { Arbiter.reset with run := 3 } [(0, { sentPacket with cls := 0 }), (1, { sentPacket with cls := 1 })]).map
      (·.1.1) = some 1
    ∧ (outputPick Arbiter.reset [(1, { sentPacket with cls := 1 }), (0, { sentPacket with cls := 0 })]).map
      (·.1.1) = some 0 := by decide +kernel

theorem witness_PacketsArrive_waits :
    let s := fab (fun f => { f with inflight := [bulkPacket, { sentPacket with cls := 1 }] })
    s.dyn.fab.inflight[0]? = some bulkPacket ∧ rivalsOf s.dyn.fab.inflight 0 bulkPacket = [1]
    ∧ passesWith s.dyn.fab 0 bulkPacket (fun i => i == 1) = none
    ∧ (passesWith s.dyn.fab 0 bulkPacket (fun _ => false)).isSome = true
    ∧ 1 ≤ Arbiter.reset.turn ∧ (waitingAt 8 [bulkPacket]).all (fun y => decide (y.1 < 9)) = true := by decide +kernel

theorem witness_PacketsArrive :
    (let s := fab (fun f => { f with inflight := [sentPacket] })
     s.dyn.fab.inflight[0]? = some sentPacket ∧ (arbitrateFor s.dyn 0 sentPacket).1.isSome = true ∧ (s.dyn.fab.inflight.take 0).all (fun q => !sameFlow sentPacket q) = true
     ∧ sentPacket.resp = false ∧ packetGood sentPacket = true ∧ s.dyn.portMode sentPacket.dest.toNat = 0
     ∧ (0 : BitVec 6).toNat ∈ routeOf sentPacket.src.toNat sentPacket.dest.toNat)
    ∧ (fab (fun f => { f with modes := [(1, 1)] })).dyn.portMode 1 = 1
    ∧ (fab (fun f => { f with modes := [(1, 2)] })).dyn.portMode 1 = 2
    ∧ (replyTo sentPacket Resp.ok).resp = true
    ∧ (let t : Track := { endpoint := (115 : Byte).toNat, tag := (0 : BitVec 10).toNat, target := 1, unit := 0x0700, since := 0, timedOut := false }
       let s := up (fun d => { d with time := { d.time with t := 2 ^ 70 }, fab := { d.fab with trackers := [t] } })
       s.dyn.fab.trackers = [t]
       ∧ usPassed (wholeUs (endpointNow s.dyn (115 : Byte).toNat)) t.since (s.img.reg 0x06000000 % 1024) = true)
    ∧ (up id).dyn.fab.trackers = []
    ∧ (let p := { sentPacket with kind := 1, data := [1, 2, 3, 4] }
       let s := fab (fun f => { f with inflight := [p], modes := [(4, 2)] })
       s.dyn.fab.inflight[0]? = some p ∧ s.dyn.portMode p.src.toNat = 2 ∧ p.data ≠ []
       ∧ (up id).dyn.portMode p.src.toNat ≠ 2)
    ∧ (let s := up (fun d => { d with
         fab := { d.fab with inflight := [cmdPacket] }
         disp := { d.disp with cmdQ := List.replicate 256 { op := 1, task := 0 } } })
       packetOk cmdPacket = true ∧ s.dyn.fab.inflight[0]? = some cmdPacket ∧ holdsBack s.dyn cmdPacket = true
       ∧ holdsBack (up id).dyn cmdPacket = false ∧ holdsBack s.dyn sentPacket = false) := by decide +kernel

def change (retryAt : Option Nat) : State := up (fun d => { d.setChanges 63
    [{ slot := 0, mode := 2, master := 0x0C00, since := 0, retryAt, failed := false }] with time := { d.time with t := 2 ^ 70 } })
theorem witness_PortChanges :
    (Master.supervisor.isHost = true ∧ hasEndpoint (4 * (63 : BitVec 6).toNat + (0 : BitVec 2).toNat) = true
      ∧ ¬ (some 252 = endpointOf 0x0C00 ∨ some 252 = endpointOf 0x0A00 ∨ some 252 = endpointOf 0x0B00)
      ∧ ((up id).dyn.changes 63).length < 9 ∧ (up id).dyn.changes 63 = []
      ∧ (up id).dyn.power.leaving = none ∧ (up id).dyn.power.rising = none ∧ (up id).dyn.power.releasing = none)
    ∧ (Master.core 0 .exec).isHost = false
    ∧ (∃ c, (change none).dyn.changes 63 = [c] ∧ c.retryAt = none
      ∧ usPassed (change none).dyn.now c.since ((change none).img.reg 0x06000000 / 2 ^ 16 % 256) = true
      ∧ usPassed (change none).dyn.now (change none).dyn.now ((change none).img.reg 0x06000000 / 2 ^ 16 % 256) = false)
    ∧ (∃ c, (change (some 5)).dyn.changes 63 = [c] ∧ c.retryAt = some 5 ∧ 5 ≤ (change (some 5)).dyn.now) :=
  ⟨⟨rfl, by decide, by decide, by decide, rfl, rfl, rfl, rfl⟩, rfl, ⟨_, rfl, rfl, by decide +kernel, by decide +kernel⟩,
    ⟨_, rfl, rfl, by decide +kernel⟩⟩

def later : State := up (fun d => { d with time := { d.time with t := 2 ^ 90 } })
theorem witness_MemoryCommands : islandUp later.dyn = true
    ∧ (3 : Addr).toNat % 4 ≠ 0 ∧ (4 : Addr).toNat % 4 = 0
    ∧ hitsHandleTable { img with regs := [(0x08080000, 1)] } 0xFFFFF 1 = true ∧ hitsHandleTable img 0xFFFFF 1 = false
    ∧ (later.dyn.memUnit 0x0700).nextVisit ≤ later.dyn.now
    ∧ (let s := up (fun d => d.setMemUnit 0x072F (fun x => { x with nextVisit := 1 }))
       s.dyn.now < (s.dyn.memUnit 0x072F).nextVisit)
    ∧ (let limit := img.reg 0x07000000 / 2 ^ 16 % 65536
       limit ≠ 0 ∧ (later.dyn.memUnit 0x0700).limitSaid = false
       ∧ (nextBlock img later.dyn 0x0700 0).isSome = true ∧ nextBlock img later.dyn 0x0710 0 = none) := by decide +kernel
/-- A lap past its limit, and one that is not, by the unit's own copy of tick time. -/
theorem witness_MemoryCommands_lap :
    60 * 1966080000 < later.dyn.nowAt 0x0700 - (later.dyn.memUnit 0x0700).lapStart
    ∧ (up id).dyn.nowAt 0x0700 - ((up id).dyn.memUnit 0x0700).lapStart ≤ 60 * 1966080000
    ∧ img.reg 0x07000000 / 2 ^ 16 % 65536 = 60 := by
  have h1 : 2 ^ 42 - 3 ≤ later.dyn.nowAt 0x0700 := (later.dyn.nowAt_near 0x0700 (by decide)).1
  have h2 : (up id).dyn.nowAt 0x0700 ≤ 0 + 3 := ((up id).dyn.nowAt_near 0x0700 (by decide)).2
  have h3 : (later.dyn.memUnit 0x0700).lapStart = 0 := by decide +kernel
  exact ⟨by rw [h3]; omega, by omega, by decide +kernel⟩
theorem witness_MemoryStaysCanonical : Memory.wf (up id).dyn.mem.cells = true
    ∧ (∃ t, exec (.memoryWrite .supervisor 0 [1]) (up id) = .next t) := ⟨rfl, _, rfl⟩
theorem witness_MemoryAccessFrame : (∀ k, ((up id).dyn.code k).rows = 0 ∧ ((up id).dyn.code k).cols = 0)
    ∧ Memory.wf (up id).dyn.mem.cells = true ∧ (0 : Nat) + [(1 : Byte)].length ≤ 1 := ⟨fun k => by unfold Dyn.code; split <;> exact ⟨rfl, rfl⟩, rfl, by decide⟩
theorem witness_BlockReads :
    (let c (f : BlockCode → BlockCode) := ((up id).dyn.setCode 0 (f BlockCode.clean)).code 0
     (c id).raw = false ∧ (c id).flagSplit = false ∧ (c id).poisoned = false ∧ (c id).rows = 0 ∧ (c id).cols = 0
     ∧ (c (fun x => { x with p0 := true, p1 := true, p2 := true })).poisoned = true
     ∧ (15 < 16 ∧ 63 < rowWidth 1 ∧ (c (fun x => { x with rows := 2 ^ 15, cols := 2 ^ 63 })).cols = 2 ^ 63)
     ∧ (c (fun x => { x with rows := 3 })).rows = 2 ^ 0 + 2 ^ 1)
    ∧ (∃ r, memUnitOf 0 = some 0x0700 ∧ regionAt img (up id).dyn 0 = some r ∧ 1 ≤ r.geom
      ∧ (zeros 64).length = blockSize r.geom ∧ hitsHandleTable img 0 64 = false
      ∧ (up id).dyn.portMode ((endpointOf 0x0700).getD 0) = 0 ∧ (up id).dyn.portMode ((endpointOf 0x0C00).getD 0) = 0
      ∧ (let e := (endpointOf 0x0700).getD 0; let se := (endpointOf 0x0C00).getD 0
         routeOpen (up id).dyn (routeOf se e ++ routeOf e se) = true)
      ∧ (up id).dyn.fab.waiting ++ (up id).dyn.fab.inflight = []) :=
  ⟨by decide, ⟨_, rfl, rfl, by decide, rfl, rfl, by decide, by decide, by decide +kernel, rfl⟩⟩

/-! ### Witnesses: time, power, reports and management -/

/-- A configuration with a TIME, a PULSES, a BOARD and a WAKE record, and cell 255. -/
def cfg : Img := { img with
  sections := img.sections ++
    [(secTime, [[3, 0, 0, 0, 1] ++ zeros 11 ++ leBytes 4 100 ++ zeros 12]),
     (secPulses, [[15] ++ zeros 19 ++ leBytes 4 10 ++ zeros 8]),
     (secCells, [[255] ++ zeros 31]),
     (secPower, [[2, 0, 0, 0] ++ leBytes 2 700 ++ leBytes 2 800 ++ [0, 0] ++ leBytes 2 1 ++ zeros 20, [3, 0, 31, 0, 3] ++ zeros 27])]
  regs := [(0x0A000408, 4), (0x0A000448, 6), (0x0C000018, 0x80000000)] }
def timed (f : TimeSt → TimeSt) : State :=
  let s := up (fun d => { d with time := f { d.time with t := 1966080001 * 2 ^ 48, port := 1 } })
  { s with img := cfg }

/-- A master in domain 0 over Ethernet, as the TIME record of `cfg` has them, and a message exchange with it that
places its time at `x` ns. -/
def master : PtpMaster :=
  { sender := [1], domain := 0, transport := 0, clockClass := 6, accuracy := 0, variance := 0, priority2 := 0
    grandmaster := 0, stepsRemoved := 0 }
def ptp (x : Nat) : PtpExchange :=
  { sender := [1], domain := 0, transport := 0, t1 := x, syncAgo := 0, t4 := x, syncCorrection := 0, respCorrection := 0 }
theorem witness_TimeUnit :
    (heardPtp cfg 1 (ptp 0).domain (ptp 0).transport = true ∧ heardPtp cfg 1 1 (ptp 0).transport = false
      ∧ fromMaster cfg 1 (ptp 0).sender = true)
    ∧ ((timed id).dyn.time.port = 1 ∧ (timePorts cfg).testBit 0 = true ∧ (timePorts cfg).testBit 1 = true
      ∧ (2 : Nat) ≠ (timed id).dyn.time.port)
    ∧ (let t := (timed (fun t => { t with masters := [(1, master)], reqStamp := [(1, 0)] })).dyn.time
       masterId t.masters = some (1, (ptp 0).sender) ∧ (1, 0) ∈ t.reqStamp)
    ∧ masterId (timed id).dyn.time.masters = none
    ∧ (timed id).dyn.time.servo = .freerun
    ∧ (timed (fun t => { t with servo := .holdover, sticky := true })).dyn.time.sticky = true
    ∧ (let jump : Int := timeField cfg 0x10 4 * 65536
       let small := offsetOf cfg 1 0 0 (ptp 0)
       let large := offsetOf cfg 1 0 0 (ptp 1000000)
       (timed (fun t => { t with servo := .locked })).dyn.time.servo = .locked ∧ ¬ (jump < small ∨ jump < -small)
       ∧ (jump < large ∨ jump < -large)
       ∧ (timed (fun t => { t with servo := .locked, beyond := 1 })).dyn.time.beyond < 2
       ∧ 2 ≤ (timed (fun t => { t with servo := .locked, beyond := 2 })).dyn.time.beyond)
    ∧ (timed (fun t => { t with servo := .acquiring, valid := 14 })).dyn.time.valid + 1 < 16 := by decide +kernel
theorem witness_TimeUnit_others :
    (let a : PtpMaster := master
     let b : PtpMaster := { master with sender := [2], clockClass := 7 }
     let s (l : List (Nat × PtpMaster)) := timed (fun t => { t with servo := .locked, masters := l })
     b.sender ≠ a.sender ∧ betterMaster 2 b 2 a = false ∧ betterMaster 2 a 2 b = true ∧ fromMaster cfg 2 a.sender = true
     ∧ (let g := { cfg with sections := [(secTime, [[3, 1] ++ zeros 30])] }
        fromMaster g 1 a.sender = false) ∧
     heardPtp cfg 2 a.domain a.transport = true ∧ heardPtp cfg 2 24 a.transport = false
     ∧ (s []).dyn.time.masters = []
     ∧ (s [(1, a), (2, a)]).dyn.time.masters = [(1, a), (2, a)] ∧ (s [(2, a)]).dyn.time.masters = [(2, a)]
     ∧ (s [(2, a)]).dyn.time.servo = .locked
     ∧ (timed (fun t => { t with servo := .freerun, masters := [(1, a), (2, a)] })).dyn.time.servo = .freerun)
    ∧ (syncePort cfg ≠ 0 ∧ syncePort img = 0 ∧ (timed (fun t => { t with synceLock := true })).dyn.time.synceLock = true
      ∧ pinsTaken (timed id).dyn = false)
    ∧ ((Master.core 0 .task).isExecOrHost = false ∧ timePorts img = 0 ∧ Master.management.isExecOrHost = true
      ∧ timePorts cfg ≠ 0)
    ∧ (portBytes cfg 1 8 1 = [4] ∧ portBytes cfg 1 0x10 4 = zeros 4 ∧ portBytes cfg 2 8 1 = [6]
      ∧ portBytes cfg 2 0x10 16 = zeros 16 ∧ zeros 4 ≠ portBytes cfg 2 0x10 16)
    ∧ ((Master.core 0 .plugin).isTaskOrHost = false ∧ (Master.core 0 .task).isTaskOrHost = true)
    ∧ (let s := timed (fun t => { t with ppsOut := true })
       s.dyn.time.ppsOut = true ∧ s.dyn.time.ppsAt + ppsWidth s.img ≤ s.dyn.now)
    ∧ (let s := timed (fun t => { t with ppsOut := true, ppsAt := 1966080000 })
       s.dyn.now < s.dyn.time.ppsAt + ppsWidth img)
    ∧ (let s := timed id
       s.dyn.time.ppsOut = false ∧ s.dyn.dst.state = .service ∧ s.dyn.time.ppsSince ≤ s.dyn.now / 1966080000 * 1966080000)
    ∧ (let s := timed (fun t => { t with ppsSince := 1966080001 })
       s.dyn.time.ppsOut = false ∧ s.dyn.now / 1966080000 * 1966080000 < s.dyn.time.ppsSince)
    ∧ (at_ .hold).dyn.dst.state ≠ .service
    ∧ pinsTaken (up (fun d => { d with tap := { d.tap with ir := 0 } })).dyn = true := by decide +kernel

/-- Generator 15, running or not, with the given state. -/
def pulse (run : Nat) (f : PulseSt → PulseSt) : State :=
  timed (fun t => { t with run, pulses := [(15, f PulseSt.reset)] })
theorem witness_PulseGenerators :
    (let r := [15] ++ zeros 19 ++ leBytes 4 10 ++ zeros 8
     pulseRec cfg (15 : BitVec 4).toNat = some r ∧ pulsePeriodic r = false ∧ pulseWidth r = 10 ∧ strobeLead cfg r = 0)
    ∧ ((Master.core 0 .plugin).isTaskOrHost = false ∧ (Master.core 0 .task).isTaskOrHost = true
      ∧ (∀ j < 16, (((pulse 0 id).dyn.pulse j).armed).isNone)
      ∧ (let s := pulse 0x8000 (fun x => { x with level := true })
         (s.dyn.pulse 15).level = true ∧ s.dyn.time.run.testBit 15 = true ∧ ∀ j < 15, (s.dyn.pulse j).level = false))
    ∧ ((pulse 0 id).dyn.now ≤ 0 * 2 ^ 32 + (0x753000F1 : Word).toNat ∧ 0 * 2 ^ 32 + (0 : Word).toNat < (pulse 0 id).dyn.now)
    ∧ (pulse 0 id).dyn.time.run.testBit 15 = false
    ∧ ((pulse 0x8000 id).dyn.time.run.testBit 15 = true ∧ ((pulse 0x8000 id).dyn.pulse 15).level = false
      ∧ ((pulse 0x8000 id).dyn.pulse 15).armed = none)
    ∧ (let at_ : Int := (pulse 0 id).dyn.now
       ((pulse 0x8000 (fun x => { x with armed := some 1966080001 })).dyn.pulse 15).armed = some 1966080001
       ∧ 1966080001 ≤ at_ ∧ at_ < 1966080002)
    ∧ (let s := pulse 0x8000 (fun x => { x with level := true, lastRise := some 1966079991 })
       (s.dyn.pulse 15).level = true ∧ (s.dyn.pulse 15).armed = none ∧ (s.dyn.pulse 15).lastRise = some 1966079991
       ∧ 1966079991 + 10 ≤ s.dyn.now ∧ s.dyn.now < 1966079992 + 10)
    ∧ (pulse 0 id).dyn.now < 1966080002 := by decide +kernel
/-- Generator 15 periodic at 1,966,080 Tc: its last multiple is met or still to come. -/
theorem witness_PulseGenerators_periodic :
    (let r : List Byte := [15, 2] ++ zeros 14 ++ leBytes 4 1966080 ++ leBytes 4 10 ++ zeros 8
     let s := { pulse 0x8000 id with img := { cfg with sections := [(secPulses, [r])] } }
     let t : Int := s.dyn.now - ((s.dyn.now : Int) - timeOffset s.img - 0) % 1966080
     pulseRec s.img 15 = some r ∧ pulsePeriodic r = true ∧ fld r 0x10 4 = 1966080 ∧ fld r 8 4 = 0
     ∧ s.dyn.time.run.testBit 15 = true ∧ (s.dyn.pulse 15).level = false
     ∧ (((s.dyn.pulse 15).since : Int) ≤ t) ∧ t < 1966080001)
    ∧ (let u := pulse 0x8000 (fun x => { x with level := true, lastRise := some 1966079990 })
       let at_ : Int := u.dyn.now
       (u.dyn.pulse 15).level = true ∧ (u.dyn.pulse 15).lastRise = some 1966079990
       ∧ at_ - (at_ - 0 - 0) % 1966080 = 1966079990 + 10 ∧ ((u.dyn.pulse 15).since : Int) ≤ 1966080000) := by decide +kernel

def powered (f : PowerSt → PowerSt) : State :=
  let s := up (fun d => { d with time := { d.time with t := 2 ^ 90 }, power := f d.power })
  { s with img := cfg }
theorem witness_PowerCommands :
    ((Master.core 0 .task).isExecOrHost = false ∧ (Master.core 0 .exec).isHost = false ∧ Master.supervisor ≠ .management)
    ∧ (powerMaster .supervisor 3 = false ∧ powerMaster .management 3 = true ∧ powerMaster (.core 0 .exec) 1 = true)
    ∧ ((at_ .recovery).dyn.dst.state ≠ .service ∧ ¬ ((at_ .recovery).dyn.dst.state = .hold ∧ 3 = 3))
    ∧ (allQuiet cfg (powered id).dyn = true
      ∧ allQuiet cfg (timed (fun t => { t with cellActive := [(7, 0x80000000)] })).dyn = false)
    ∧ ((powered id).dyn.power.busy = false ∧ (powered id).dyn.power.current = 0)
    ∧ ((powered (fun p => { p with busy := true })).dyn.power.busy = true
      ∧ (powered (fun p => { p with busy := true })).dyn.power.pend = none
      ∧ (powered (fun p => { p with busy := true, pend := some 1 })).dyn.power.pend = some 1)
    ∧ (let s := powered (fun p => { p with pend := some 1 })
       s.dyn.power.busy = false ∧ s.dyn.power.pend = some 1 ∧ s.dyn.power.current ≠ 1
       ∧ (let d := goOn 4 (planChange s.img (s.dyn.onPower (fun x => { x with pend := none })) 1)
          d.power.busy = true ∧ d.power.pend = none)) := by decide +kernel
theorem witness_PowerCommands_steps :
    (let s := powered (fun p => { p with leaving := some (216, 0) })
     s.dyn.power.leaving = some (216, 0) ∧ domainIdle s.dyn 216 = true ∧ s.dyn.power.fencing = false)
    ∧ (let s := powered (fun p => { p with on := [(136, true), (0, true)], leaving := some (0, 0), fencing := true })
       let c : PortChange := { slot := 0, mode := 1, master := 0x0B00, since := 0, retryAt := none, failed := false }
       let l := { s with dyn := s.dyn.setChanges 1 [c] }
       domainIdle s.dyn 0 = true ∧ s.dyn.power.fencing = true
       ∧ (4 ∈ fencesOf l.dyn 0 ∧ l.dyn.portMode 4 = 0 ∧ l.dyn.changes (4 / 4) = [c]
         ∧ usPassed l.dyn.now c.since (l.img.reg 0x06000000 / 2 ^ 16 % 256) = true)
       ∧ (let f := { s with dyn := { s.dyn with fab := { s.dyn.fab with modes := (fencesOf s.dyn 0).map (fun e => (e, 1)) } } }
          (∀ e ∈ fencesOf f.dyn 0, fenceStands f.dyn e = true) ∧ ∃ e ∈ domainEndpoints 0, f.dyn.portMode e = 1)
       ∧ (∀ e ∈ domainEndpoints 0, s.dyn.portMode e ≠ 1))
    ∧ (let s := { lane 79 (fun x => { x with teth := { x.teth with state := 6 } }) with img := cfg }
       domainIdle s.dyn 216 = false ∧ usPassed (powered id).dyn.now 0 (boardField s.img 0xA 2) = true)
    ∧ (let s (f : PowerSt → PowerSt) := powered (fun p => f { p with rising := some (0, 0) })
       let now := (powered id).dyn.now
       let k := powered (fun p => { p with rising := some (0, now) })
       (s id).dyn.power.rising = some (0, 0) ∧ (s id).dyn.power.good = none ∧ (s id).dyn.power.copied = false
       ∧ 20 * 196608 < ((s id).dyn.now - 0) * 100
       ∧ (k.dyn.now - now) * 100 ≤ 20 * 196608 ∧ (k.dyn.now - now) * 100 < 20 * 196608
       ∧ (s (fun p => { p with good := some (now + 1) })).dyn.now < now + 1
       ∧ (s (fun p => { p with good := some now })).dyn.power.good = some now ∧ now ≤ now
       ∧ (s (fun p => { p with copied := true })).dyn.power.copied = true)
    ∧ ((powered (fun p => { p with releasing := some 0 })).dyn.power.releasing = some 0
      ∧ (∀ e ∈ domainEndpoints 0, (powered id).dyn.portMode e ≠ 1)
      ∧ (fab (fun f => { f with modes := (domainEndpoints 0).map (fun e => (e, 1)) })).dyn.portMode ((domainEndpoints 0).headD 0) = 1)
    ∧ (powered id).dyn.power.rising = none
    ∧ ((powered id).dyn.power.avsFault = false ∧ avsLimits cfg ≠ some (0, 0) ∧ avsLimits cfg ≠ none
      ∧ 1966080 ≤ (powered id).dyn.now - (powered id).dyn.power.avsAt
      ∧ avsLimits { cfg with sections := [(secPower, [[2] ++ zeros 31])] } = some (0, 0)
      ∧ (up id).dyn.now - (up id).dyn.power.avsAt < 1966080)
    ∧ ((powered (fun p => { p with current := 2 })).dyn.power.current = 2 ∧ wakes cfg 31 true 0 = true
      ∧ wakes cfg 31 true 1 = true ∧ pinsTaken (powered id).dyn = false)
    ∧ ((at_ .deepsleep).dyn.dst.state = .deepsleep ∧ (at_ .deepsleep).dyn.dst.waking = false)
    ∧ (let s := at_ .deepsleep
       { s.dyn.dst with waking := true }.waking = true) := by decide +kernel

def rec0 : Report := { mkReport (up id).dyn 0x0700 0 2 0 none 0 [] with time := 0 }
def bank (value : Nat) : State := up (fun d => { d with perf := { d.perf with banks :=
  [(0x0100, { Bank.reset with ctrs := [(7, { Ctr.reset with cfg := 0x8400010A, value })] })] } })
theorem witness_ReportsAndCounters :
    rec0.source = 0x0700 ∧ (Map.get [] (up id).dyn.rep.ifq 0x0700).length < 4
    ∧ (let s := up (fun d => { d with rep := { d.rep with ifq := [(0x0700, List.replicate 4 rec0)] } })
       4 ≤ (Map.get [] s.dyn.rep.ifq (0x0700 : Half).toNat).length)
    ∧ (let s := up (fun d => { d with rep := { d.rep with ifq := [(0x0700, [rec0])], alertCfg := 0 } })
       Map.get [] s.dyn.rep.ifq 0x0700 = [rec0] ∧ s.dyn.rep.alertCfg = 0 ∧ s.dyn.rep.streamOn = false)
    ∧ (let c := Map.get Ctr.reset (Map.get Bank.reset (bank (2 ^ 48 - 1)).dyn.perf.banks 0x0100).ctrs (7 : BitVec 3).toNat
       (bank 0).dyn.powered 0x0100 = true ∧ c.cfg.getLsbD 31 = true ∧ c.cfg.toNat % 65536 / 256 = 1
       ∧ c.cfg.toNat % 256 ≤ 10 ∧ 2 ^ 48 ≤ c.value + 1 ∧ c.value < 2 ^ 48
       ∧ privSome c.cfg.toNat (c.cfg.toNat % 65536) = true ∧ privSome 0x80000100 0x0100 = false)
    ∧ (epochOf img (up id).dyn = (up id).dyn.perf.epoch ∧ (up id).dyn.perf.stepped = false
      ∧ (up id).dyn.perf.shadow = none)
    ∧ epochOf img later.dyn ≠ later.dyn.perf.epoch
    ∧ (let s := up (fun d => { d.setCore 0 { CoreSt.reset with tsk := { CoreTask.reset with busy := true } } with
         perf := { d.perf with
           banks := [(0x0100, { Bank.reset with dump := true })]
           shadow := some { epoch := 0, tick := 0, boundary := 0, step := false, banks := [], off := [], waitMax := [], coreBusy := [] } } })
       (s.dyn.core 0).tsk.busy = true ∧ (s.dyn.core 1).tsk.busy = false ∧ s.dyn.perf.shadow.isSome = true
       ∧ s.dyn.perf.banks.any (·.2.dump) = true)
    ∧ (dumpsOn cfg = true ∧ dumpsOn img = false ∧ usPassed later.dyn.now 0 2 = true ∧ usPassed 0 0 2 = false)
    ∧ (((0xFFFFFFFF : Word) - (up id).dyn.perf.dumpWr).toInt ≤ 0 ∧ 0 < ((1 : Word) - (up id).dyn.perf.dumpWr).toInt) := by
  decide +kernel

theorem witness_RegistersAndJtag :
    ((0x08000010 : Word).toNat % 4 = 0 ∧ imgBits 0x0C000008 = 0 ∧ imgBits 0x07000000 ≠ 0 ∧ 0x07000001 % 4 ≠ 0
      ∧ (0x0D000000 : Word).toNat / 2 ^ 24 = 0x0D ∧ 0x01000400 + 4 * (191 : Core).val = 0x010006FC)
    ∧ 256 ≤ (up (fun d => { d with disp := { d.disp with cmdQ := List.replicate 256 (cmdOf 1) } })).dyn.disp.cmdQ.length
    ∧ (jtagUp (up id).dyn = true ∧ jtagUp (at_ .deepsleep).dyn = true ∧ islandUp (at_ .deepsleep).dyn = false
      ∧ (up id).dyn.tap.running = none ∧ 7 ∉ [0x00, 0x01, 0x02, 0x03, 0x04, 0x05, 0x06, 0x10]
      ∧ (up (fun d => { d with tap := { d.tap with running := some 3 } })).dyn.tap.running = some 3
      ∧ 2 ^ 24 ≤ (0x100000000000000 : BitVec 67).toNat / 2 ^ 32 % 2 ^ 31 ∧ (0x3FFFFFFFF : BitVec 67).toNat / 2 ^ 32 % 2 ^ 31 < 4
      ∧ (0x3FFFFFFFF : BitVec 67).toNat < 2 ^ 63)
    ∧ jtagUp State.reset.dyn = false ∧ (up id).dyn.tap.spi = .clear
    ∧ (atBoundary (core id).dyn 0 = true ∧ ((core id).dyn.status 0).hact = false
      ∧ ((core id).dyn.core 0).tsk.abort = none ∧ ((core id).dyn.status 0).pl = .exec)
    ∧ atBoundary (up id).dyn 0 = false := by decide +kernel

/-- A standing order on ERROR_RATE of any source: hold the unit at the first occurrence (Tables 5.5 to 5.7). -/
def order : List Byte := leBytes 2 0x0712 ++ zeros 4 ++ [3, 0, 1] ++ zeros 23
theorem witness_ManagementAccesses :
    (1 ≤ (256 : Word).toNat ∧ (0x0CFFFC00 : Word).toNat % 4 = 0 ∧ (0x0CFFFC00 : Word).toNat + 4 * (256 : Word).toNat ≤ 0x0D000000)
    ∧ ¬ (1 ≤ (0 : Word).toNat)
    ∧ (at_ .hold).dyn.dst.state = .hold ∧ (65536 : Word).toNat ≤ 65536
    ∧ ((at_ .selftest).dyn.dst.state = .selftest ∧ islandUp (at_ .selftest).dyn = true)
    ∧ 7 < (8 : Byte).toNat ∧ (up id).dyn.rep.streamOn = false
    ∧ (let s := up (fun d => { d.onVc 0 (fun x => { x with total := 1 }) with rep := { d.rep with streamOn := true } })
       s.dyn.rep.streamOn = true ∧ creditLeft s.dyn = true)
    ∧ creditLeft (up id).dyn = false
    ∧ freeEntry (up id).dyn = some 0
    ∧ (zeros 32).length = 32 ∧ orderBad (zeros 32) = true
    ∧ (order.length = 32 ∧ orderBad order = false ∧ fld order 6 1 ≠ 8)
    ∧ (let s (image : Bool) := up (fun d => { d with disp := { d.disp with
         orders := [(255, { record := zeros 32, image, counts := [] })] } })
       (s false).dyn.disp.orders.find? (fun e => e.1 == (255 : Half).toNat)
         = some (255, { record := zeros 32, image := false, counts := [] })
       ∧ (s true).dyn.disp.orders.find? (fun e => e.1 == (255 : Half).toNat)
         = some (255, { record := zeros 32, image := true, counts := [] }))
    ∧ (0x0C00 : Half).toNat ∈ allSources ∧ (255 : Half).toNat < 256 ∧ 2 ≤ (2 : Byte).toNat := by decide +kernel

/-! ### Witnesses: starts, keys and the whole machine

A copy that the loader accepts (Tables 2.1 to 2.5 and each section's record). -/

/-- A section's type and body: record length, format version, number of records, the records. -/
def sect (type : Nat) (recs : List (List Byte)) : Nat × List Byte :=
  (type, leBytes 2 (recs.headD []).length ++ leBytes 2 1 ++ leBytes 4 recs.length ++ recs.flatten)
/-- A region of 64-byte blocks. -/
def regionRec (n exec base len : Nat) : List Byte :=
  leBytes 1 n ++ leBytes 1 exec ++ leBytes 1 1 ++ zeros 5 ++ leBytes 8 base ++ leBytes 8 len ++ zeros 8
def laneSettings (n typ : Nat) : List Byte :=
  leBytes 1 n ++ [0, BitVec.ofNat 8 typ, 0] ++ leBytes 2 400 ++ [0, 0, 4, 40, 0, 0] ++ leBytes 2 64 ++ zeros 18
/-- An LTE cell of 10 MHz with one uplink stream on lane 0, its ring of two handles, the boot link, a budget of
300 W and a program of one word for core 0. -/
def sects : List (Nat × List Byte) :=
  [ sect secCells [[0, 0, 0, 0] ++ leBytes 2 100 ++ leBytes 2 50 ++ leBytes 2 1024 ++ [3, 0xFF] ++ zeros 18 ++ [0xFF] ++ zeros 33],
    sect secAntenna [[0, 0, 0, 1, 0, 0, 16] ++ zeros 9],
    sect secLanes [laneSettings 0 0, laneSettings 64 1],
    sect secRegions [regionRec 0 0 0 0x200000, regionRec 1 1 0x200000 0x10000],
    sect secBuffers [zeros 4 ++ leBytes 4 2 ++ leBytes 6 0x201000 ++ leBytes 2 72],
    sect secPower [[2, 0] ++ leBytes 2 300 ++ zeros 5 ++ [1] ++ leBytes 2 1 ++ zeros 4],
    sect secRegisters [leBytes 4 0x05032000 ++ leBytes 4 0xFF0000 ++ leBytes 4 0x20000, leBytes 4 0x08080000 ++ leBytes 4 1 ++ leBytes 4 1],
    (secProgram, leBytes 2 48 ++ leBytes 2 1 ++ leBytes 4 1 ++ leBytes 8 0x200000 ++ leBytes 4 4 ++ leBytes 4 0
      ++ [1] ++ zeros 31 ++ zeros 4) ]
/-- Bodies at rising multiples of 64 bytes from `off`: the directory's entries, and the bytes. -/
def layout : Nat → List (Nat × List Byte) → List Byte × List Byte
  | _, [] => ([], [])
  | off, (type, b) :: rest =>
    let padded := b ++ zeros ((64 - b.length % 64) % 64)
    let r := layout (off + padded.length) rest
    (leBytes 2 type ++ zeros 2 ++ leBytes 4 off ++ leBytes 4 b.length ++ leBytes 4 b.length ++ zeros 16 ++ r.1,
      padded ++ r.2)
def signed : List Byte :=
  let l := layout 0x180 sects
  let n := 0x180 + l.2.length + 256
  leBytes 4 0x49363954 ++ leBytes 2 1 ++ leBytes 2 0x80 ++ leBytes 4 n ++ leBytes 4 0x7960 ++ leBytes 2 0
  ++ leBytes 2 0xFFFF ++ leBytes 2 1 ++ leBytes 2 0 ++ leBytes 2 8 ++ zeros 2 ++ leBytes 4 0x80 ++ zeros 96
  ++ l.1 ++ l.2
/-- The copy; its digest was computed with another program. -/
def copyA : List Byte := signed ++ leBytes 4 0x54363954 ++ zeros 4
  ++ beBytes 48 0x8fbaf3f1a86d425e4dce9dae1a3bbfb2b46d76dc196e2e98e59171960e2faa19d6624303d74d38d37279d98a417f1613 ++ zeros 200
def flash : FlashSt :=
  let put (a : Nat) (l : List Byte) : Map Byte := ((List.range l.length).zip l).map (fun e => (a + e.1, e.2))
  let dir : BootDir := { flags := 0, seq := 0, aOffset := 0x10000, aLength := copyA.length, bOffset := 0, bLength := 0 }
  { FlashSt.reset with cells := put 0 (dirBytes dir) ++ put 0x10000 copyA }

def starting (f : DeviceSt → DeviceSt) : State := { State.reset with dyn := { Dyn.reset with
  flash, dst := f { DeviceSt.reset with aonUp := true, startReady := true } } }
/-- Clocks as R442 accepts them. -/
def clocks : StartEnv :=
  { vcoreHeld := true, trefHz := 30720000, trefAonHz := 30720000, lrefAonHz := 156250000, tj := 25
    avsAcked := 7, avsFault := false, avsReadMv := 750, bootLink := false
    dramFail := [], failing := [], loops := [{ lane := 0, lost := 0, margin := 80 }], applyError := false }
theorem witness_StartsAndResets_copy :
    (let s := starting id
     match bootDir s.dyn.flash with
     | some b => copyOrder b.1 == [1] && (match checkCopy s.dyn.flash s.dyn.fuse ((loadImageKey s.dyn).key 63) b.1 1 with
       | ([], some _) => true
       | _ => false)
     | none => false) = true := by decide +kernel
theorem witness_StartsAndResets :
    State.reset.dyn.dst.aonUp = false ∧ (starting id).dyn.dst.aonUp = true ∧ (1000 : Nat) ≤ 1000
    ∧ ((starting (fun x => { x with startReady := false })).dyn.dst.state = .boot
      ∧ (starting (fun x => { x with startReady := false })).dyn.dst.startReady = false)
    ∧ (up id).dyn.dst.state ≠ .boot ∧ islandUp (up id).dyn = true
    ∧ ((starting id).dyn.dst.startReady = true ∧ clocks.vcoreHeld = true ∧ clocks.dramFail = [])
    ∧ clocksBad { clocks with trefHz := 0 } = true ∧ clocksBad clocks = false
    ∧ (starting (fun x => { x with bootsel := true })).dyn.dst.bootsel = true ∧ (starting id).dyn.dst.bootsel = false
    ∧ flashRefused (starting id).dyn.flash = none ∧ pinsTaken (starting id).dyn = false ∧ clocks.failing = []
    ∧ (∀ x ∈ clocks.loops, x.lost = 0 ∧ 80 ≤ x.margin) ∧ clocks.applyError = false := by decide +kernel

def flashing (f : FlashSt → FlashSt) : State := up (fun d => { d with flash := f d.flash })
/-- The key-encryption key 00 01 ... 1F of RFC 3394 section 4.6 in slot 63, and its wrapped 256-bit key. -/
def keyed : State := up (fun d => { d with keys := [(63, { key := leNat ((List.range 32).map (BitVec.ofNat 8)), use := 0, origin := 3, gen := 1 })] })
def wrapped : List Byte := [62, 3] ++ zeros 6
  ++ beBytes 40 0x28C9F404C4B810F4CBCCB35CFB87F8263F5786E2D80ED326CBC7F0E71A99F43BFB988B9B7A02DD21
/-- FIPS 197 appendix C.3. -/
theorem test_aes : aesEncrypt (aesRoundKeys (keyed.dyn.key 63).key) ((List.range 16).map (fun i => BitVec.ofNat 8 (17 * i)))
    = beBytes 16 0x8ea2b7ca516745bfeafc49904b496089 := by decide +kernel
theorem test_keyUnwrap : (keyUnwrap (keyed.dyn.key 63).key ((wrapped.drop 8).take 40)).map beNat
    = some 0x00112233445566778899AABBCCDDEEFF000102030405060708090A0B0C0D0E0F := by decide +kernel
theorem witness_ManagementControl :
    (65536 ≤ 65536 ∧ (0x3FF0000 : Word).toNat + 65536 ≤ (up id).dyn.flash.density ∧ (up id).dyn.flash.job = none
      ∧ (up id).dyn.flash.responds = true)
    ∧ ((0x10000 : Word).toNat % 4096 = 0 ∧ flashProtected img (up id).dyn 0x10000 4096 = false
      ∧ flashProtected img (up id).dyn 0xF000 4096 = true)
    ∧ (pagesBad 0x10000 257 = false ∧ flashProtected img (up id).dyn 0x10000 257 = false)
    ∧ (flashing (fun f => { f with job := some (.erase 7 0 4096) })).dyn.flash.job = some (.erase 7 0 4096)
    ∧ (flashing (fun f => { f with job := some (.erase 7 0 4096) })).dyn.flash.restart = none
    ∧ ((up id).dyn.tap.spi = .clear ∧ pinsTaken (up id).dyn = false
      ∧ (up (fun d => { d with tap := { d.tap with spi := .lost } })).dyn.tap.spi = .lost)
    ∧ ((up id).dyn.dst.state = .service ∧ (62 : Byte).toNat < 63 ∧ ((up id).dyn.key 62).origin ≠ 1)
    ∧ ((63 : Byte).toNat = 63)
    ∧ (wrapped.length = 48 ∧ fld wrapped 0 1 < 63 ∧ (keyed.dyn.key (fld wrapped 0 1)).origin ≠ 1 ∧ fld wrapped 1 1 = 3
      ∧ (keyed.dyn.key 63).origin ≠ 0)
    ∧ ((at_ .hold).dyn.dst.state = .hold ∧ 64 = leNat [64] ∧ (at_ .hold).dyn.fuse.minSecver ≤ 64)
    ∧ (up id).dyn.dst.state ≠ .hold
    ∧ (allQuiet img (up id).dyn = true ∧ allQuiet cfg (timed (fun t => { t with cellActive := [(7, 0x80000000)] })).dyn = false) := by
  decide +kernel

theorem witness_StepRunsFront : (up id).pending = [] ∧ islandUp (up id).dyn = true ∧ islandUp State.reset.dyn = false
    ∧ ((up id).dyn.power.rising = none ∧ (up id).dyn.power.pend = none ∧ (up id).dyn.tap.running = none)
    ∧ (let p := (powered (fun p => { p with pend := some 1 })).dyn.power
       p.pend = some 1 ∧ p.busy = false ∧ 1 ≠ p.current ∧ 0 = p.current)
    ∧ (up (fun d => { d with tap := { d.tap with running := some 3 } })).dyn.tap.running = some 3 := by decide
theorem witness_LoadedConfiguration : (State.reset.img.loaded = 0 → State.reset.img = Img.reset)
    ∧ (∃ t, step State.reset = .next t) ∧ (∃ t, exec .cascade (up id) = .next t) ∧ (up id).img.loaded ≠ 0 :=
  ⟨fun _ => rfl, ⟨_, rfl⟩, ⟨_, rfl⟩, by decide⟩
theorem witness_IslandDown : islandUp (at_ .deepsleep).dyn = false
    ∧ (∃ t, exec .cascade (at_ .deepsleep) = .next t) := ⟨rfl, _, rfl⟩

/-! ### Instruction words, written bit by bit from the formats of 07, 08 and 09 -/

/-- Table 7.9, format R: MAJOR, RD, RA, RB, FUNC. -/
def rWord (major rd ra rb func : Nat) : Word := BitVec.ofNat 32 (major * 2 ^ 26 + rd * 2 ^ 21 + ra * 2 ^ 16 + rb * 2 ^ 11 + func)
theorem test_decode_words :
    rWord 0x01 1 2 3 1 = 0b00000100001000100001100000000001
    ∧ decodeBronze 0 0b00000100001000100001100000000001 0 = some (.sub 0 1 2 3)
    ∧ decodeBronze 0 0b00001011111000011111111111111111 0 = some (.addi 0 31 1 0xFFFF)
    ∧ decodeBronze 0 0b01000000101001101010100000000100 0 = some (.ld 0 5 3 2 2 0x804)
    ∧ decodeBronze 0 0b01001100001000100001100000000010 0 = some (.cas 0 1 2 3)
    ∧ decodeBronze 0 0b01010000001000100001100000000011 0 = some (.addp 0 1 2 3)
    ∧ decodeBronze 0 0b01110000001001000000000000000101 0 = some (.br 0 1 1 5)
    ∧ decodeBronze 0 0b01111100010100010000000000000111 9 = some (.rep 0 2 true 1 7 9)
    ∧ decodeBronze 0 0b01100001000001000100101000000010 0 = some (.cmac 0 2 1 2 true false 0)
    ∧ decodeBronze 0 0b01100101000011010000001000000000 0 = some (.ardC 0 2 3 16 0)
    ∧ decodeBronze 0 0b11111000000000000000000000000010 0 = some (.fenceI 0 0)
    ∧ decodeBronze 0 0b11111100001000000001001000000000 0 = some (.csrr 0 1 0 0x12)
    ∧ decodeBronze 0 0b11111100001000100000000000010001 0 = some (.tcommit 0 1 2 0) := by decide
theorem test_decode_vectors :
    decodeBronze 0 0b10000000011001001011000000000000 0 = some (.vldQ 0 3 2 1 1 true 0 0)
    ∧ decodeBronze 0 0b10010000011001000010101000001110 0 = some (.vcmulr 0 false 3 4 5 1 0 false)
    ∧ decodeBronze 0 0b10010100011001000010101001001101 0 = some (.vmulr 0 true 3 4 5 1 0 true)
    ∧ decodeBronze 0 0b10011000001000100001111000000010 0 = some (.vext 0 1 2 3 true 2 0)
    ∧ decodeBronze 0 0b10110000001000011000000000000000 0 = some (.pcmd 0 1 3 0)
    ∧ decodeBronze 0 0b10110100001000011100000000000000 0 = some (.pres 0 1 3 true 0)
    ∧ decodeBronze 0 0b10111100000000000000000000000000 0 = some (.psync 0 0)
    ∧ decodeBronze 0 0 0 = none ∧ isInstruction 0xF8000000 = true := by decide

/-! ### Worked values of the spec -/

/-- The state that a step answers, itself where it answers none. -/
def after (i : Instr) (s : State) : State := match exec i s with
  | .next t => t
  | _ => s

/-- The rounding example of R11. -/
theorem test_round : roundShift 5 1 = 3 ∧ roundShift (-5) 1 = -2 ∧ roundShift (-3) 1 = -1 := by decide
/-- The circular-buffer example of R188: P5 and P6 in buffer 2. -/
def circ : State := core (fun x => { x with
  regs := { x.regs with b := [(2, 0x400000)], l := [(2, 64)], m := [(3, -4)], p := [(5, 0x400050), (6, 0x400000)] }
  ctl := { x.ctl with pbind0 := 0x0CD00000 } })
theorem test_circ : (after (.ld 0 7 5 1 1 1) circ).dyn.rp 0 5 = 0x400012
    ∧ (after (.ld 0 7 6 2 1 3) circ).dyn.rp 0 6 = 0x40003C := by decide +kernel
/-- The multiply-accumulate example of 07: CMAC with FRAC 1, then ARD.C with S = 16. -/
def mac : State := core (fun x => { x with regs := { x.regs with d := [(1, 0x40004000), (2, 0xE0004000)] } })
theorem test_cmac : let s := after (.cmac 0 2 1 2 true false 0) mac
    Map.get 0 (s.dyn.core 0).regs.acc 2 = 805306368 ∧ Map.get 0 (s.dyn.core 0).regs.acc 3 = 268435456
    ∧ (after (.ardC 0 2 3 16 0) { s with dyn := s.dyn.onCore 0 (fun x => { x with lines := [] }) }).dyn.rd 0 3
      = 0x10003000 := by decide +kernel
/-- The examples of 08: VCMULR, and VMULR of -32,768 by itself. -/
def vmul : State := core (fun x => { x with vec := { x.vec with q := [(4, 0x40004000), (5, 0xE0004000), (6, 0x8000)] } })
theorem test_vcmulr : (Map.get 0 ((after (.vcmulr 0 false 3 4 5 3 0 false) vmul).dyn.core 0).vec.q 3).toNat % 2 ^ 32
    = 0x10003000 := by decide +kernel
theorem test_vmulr : let s := after (.vmulr 0 false 3 6 6 1 0 false) vmul
    (Map.get 0 (s.dyn.core 0).vec.q 3).toNat % 2 ^ 16 = 32767 ∧ (s.dyn.status 0).dsat = true := by decide +kernel
/-- The window example of 08: a VLD at PLUGIN is denied at element 4. -/
def window : State := below .plugin (fun x => { x with
  regs := { x.regs with p := [(2, 0x41FFF8)] }
  ctl := { x.ctl with exmask := 0x10, pwinBase := [(0, 0x40), (1, 0)], pwinLimit := [(0, 0x41), (1, 0)] }
  vec := { x.vec with enable := 4 } })
theorem test_window : let s := after (.vldQ 0 3 2 1 1 true 0 0) window
    (s.dyn.core 0).vec.vstart = 4 ∧ (s.dyn.core 0).ctl.eaddr = 0x420000 ∧ s.dyn.rp 0 2 = 0x41FFF8 := by decide +kernel
/-- The block examples of 13: what three flips of a large block and two of a medium one decode to. -/
theorem test_block : decodeBlock 2 { BlockCode.clean with rows := 2 ^ 9, cols := 2 ^ 41 } = .fixBit 617
    ∧ decodeBlock 1 { BlockCode.clean with rows := 2 ^ 1 + 2 ^ 5 } = .bad := by decide
/-- The fabric example of 12: endpoints of tile 14 and of bank group 10, four links apart. -/
theorem test_fabric : endpointOf 0x0139 = some 76 ∧ endpointOf 0x070A = some 93 ∧ (routeOf 76 93).length = 5 := by decide
/-- The column shifts of the lane code's example (10): a bit of column block 5 in each parity row. -/
theorem test_rowSum : (List.range 4).map (fun i => rotBlock (2 ^ 127) ((17 * i * (5 + 1) + 5) % 128))
    = [2 ^ 122, 2 ^ 20, 2 ^ 46, 2 ^ 72] := by decide
/-- The standing-order example of 05. -/
theorem test_order : let o : Order :=
      { record := [1, 4, 0, 4, 0, 0xFF, 5, 0, 3, 0, 0, 0, 0x60, 0xEA, 0, 0] ++ zeros 16, image := false, counts := [] }
    o.cond = 0x0401 ∧ o.source = 0x0400 ∧ o.mask = 0xFF00 ∧ o.action = 5 ∧ o.threshold = 3 ∧ o.window = 60000
    ∧ orderBad o.record = false := by decide
/-- The time example of 14, and the JTAG example of 18. -/
theorem test_time : deviceTime ((1700000000 * 1966080000 + 859422720) * 2 ^ 48) = (1700000000, 437125000, 0) := by decide
def held : State := up (fun d => { d with dst := { d.dst with state := .hold, phase := 0 } })
theorem test_jtag : (regaccRun held.img held.dyn (0x020 * 2 ^ 32)).2 = 2 ^ 64 + 2 := by decide +kernel
/-- The container example of 11: 4,384 samples are 274 blocks, and 16 such streams load a lane of 28 GBd below its limit. -/
theorem test_lane : divUp 4384 16 = 274 ∧ 10 * 28 % 56 = 0 ∧ 115529 % 56 = 1 ∧ loadPast (16 * 36072) 1 = false := by decide
/-- CRC-32 of R21 on the nine digits, the standard check value. -/
theorem test_crc32 : crc32 [0x31, 0x32, 0x33, 0x34, 0x35, 0x36, 0x37, 0x38, 0x39] = 0xCBF43926 := by decide +kernel
/-- The DEMAP example of 09, without a prior and with one of +40 on bit 1. -/
theorem test_demap :
    (demapSymbol 2 800 1 16 { re := 1000, im := -300 } (fun _ => 0)).map (·.1) = [49, -15]
    ∧ ((demapSymbol 2 800 1 16 { re := 1000, im := -300 } (fun k => if k = 1 then 40 else 0)).map (·.1)).head? = some 49 := by decide

end Sys2Proof.Tests
end

section
open Sys2Proof Sys2Proof.Machine

/-- STATUS at reset reads as zero (Table 7.6). -/
theorem statusReset_word : StatusReg.reset.word = 0 := by decide

/-- Settles O58: every register that the statement names stands at its reset value in `State.reset`, and an unlisted
core, engine, key slot, lane or handle reads as its reset value. -/
theorem resetValues : Obligations.ResetValues := by
  unfold Obligations.ResetValues
  intro s
  refine ⟨rfl, rfl, rfl, rfl, rfl, by decide, by decide, by decide, by decide, by decide, rfl, rfl, rfl,
    ?cores, ?engines, ?keys, ?lanes, ?handles, Memory.wf_reset⟩
  case cores => exact fun _ => ⟨statusReset_word, rfl, fun _ => rfl⟩
  case engines => exact fun _ => ⟨rfl, rfl⟩
  case keys => exact fun _ => ⟨rfl, rfl⟩
  case lanes => exact fun _ => rfl
  case handles => exact fun _ => rfl

end

section
/-! PROOF. The forms that a command's effect takes, and what they leave alone: the queue always, the loaded
configuration but for a start and what ends one. -/

namespace Sys2Proof.Machine

/-- A start, and what can end one: the only commands that may change what an image loads. -/
def loads : Instr → Bool
  | .startSequence .. | .resetN .. | .vcoreTrip | .vaonTrip | .restart .. | .flashCommandDone
  | .deepsleepWakeCheck .. => true
  | _ => false

/-- The four forms of a command's effect; only one that `loads` takes the last. -/
inductive Form (loads : Bool) : (State → Out) → Prop where
  | island (f : Img → Dyn → Dyn) : Form loads (act f)
  | checked (ok : Bool) (f : Img → Dyn → Dyn) : Form loads (actIf ok f)
  | alwaysOn (f : Img → Dyn → Dyn) : Form loads (actAon f)
  | loader (f : Img → Dyn → Img × Dyn) (h : loads = true) : Form loads (actImg f)

theorem Form.boundary {b : Bool} (op update : Nat) : Form b (jtagBoundary op update) := by
  unfold jtagBoundary
  exact .alwaysOn _

theorem Form.pins {b : Bool} (f : Img → Dyn → Dyn) : Form b (actPins f) := by
  unfold actPins
  exact .island _

theorem exec_form (c : Instr) : Form (loads c) (exec c) := by
  cases c <;> unfold exec
  case packetInjection => exact .checked _ _
  case aonResetRelease | resetNRelease | wakeEdge | idcode | highz | clamp | regacc | bypass => exact .alwaysOn _
  case extest | samplePreload | extestPulse | extestTrain => exact .boundary _ _
  case startSequence | resetN | vcoreTrip | vaonTrip | restart | flashCommandDone | deepsleepWakeCheck =>
    exact .loader _ rfl
  case signalInSilence | markerDetected | ptpMeasurement | ppsIn | synceLinkUp | announce | arpRequest =>
    exact .pins _
  all_goals exact .island _

theorem actIf_next {ok : Bool} {f : Img → Dyn → Dyn} {s t : State} (h : actIf ok f s = .next t) :
    act f s = .next t := by
  unfold actIf at h
  split at h
  · exact h
  · cases h

theorem actAon_next {f : Img → Dyn → Dyn} {s t : State} (h : actAon f s = .next t) :
    t = { s with dyn := f s.img s.dyn } := by
  cases h; rfl

theorem actImg_next {f : Img → Dyn → Img × Dyn} {s t : State} (h : actImg f s = .next t) :
    t = { s with img := (f s.img s.dyn).1, dyn := (f s.img s.dyn).2 } := by
  cases h; rfl

theorem Form.pending {b : Bool} {o : State → Out} {s t : State} (ho : Form b o) (h : o s = .next t) :
    t.pending = s.pending := by
  cases ho with
  | island f => exact (act_next h).1
  | checked ok f => exact (act_next (actIf_next h)).1
  | alwaysOn f => rw [actAon_next h]
  | loader f _ => rw [actImg_next h]

theorem Form.img {o : State → Out} {s t : State} (ho : Form false o) (h : o s = .next t) : t.img = s.img := by
  cases ho with
  | island f => exact (act_next h).2.1
  | checked ok f => exact (act_next (actIf_next h)).2.1
  | alwaysOn f => rw [actAon_next h]
  | loader f hc => cases hc

/-- No command's effect touches the queue. -/
theorem exec_pending {c : Instr} {s t : State} (h : exec c s = .next t) : t.pending = s.pending :=
  (exec_form c).pending h

/-- A command that neither starts the device nor ends a start keeps what is loaded. -/
theorem exec_img {c : Instr} {s t : State} (hc : loads c = false) (h : exec c s = .next t) : t.img = s.img :=
  (hc ▸ exec_form c).img h

end Sys2Proof.Machine
end

section
/-! PROOF. Where LOADED_IMAGE shows none, nothing is loaded: a start loads a copy, whose number LOADED_IMAGE shows,
or leaves the configuration at its reset value. -/

namespace Sys2Proof.Machine

/-- LOADED_IMAGE shows that an image is loaded, or nothing is. -/
def ShowsLoaded (img : Img) : Prop := img.loaded = 0 → img = Img.reset

theorem showsLoaded_reset : ShowsLoaded Img.reset := fun _ => rfl

/-- COPY of LOADED_IMAGE (Table 2.15) shows in its two low bits. -/
theorem loadedWord_ne_zero {im : Image} (h : im.copy = 1 ∨ im.copy = 2) (minSecver : Nat) (degraded : Bool) :
    loadedWord im minSecver degraded ≠ 0 := by
  intro h0
  have h1 := congrArg (fun w : Word => w.toNat % 4) h0
  simp only [loadedWord, BitVec.toNat_ofNat] at h1
  change _ = 0 at h1
  omega

theorem check6_copy {f : FlashSt} {fuse : FuseSt} {k : KeySlot} {dir : BootDir} {copy : Nat} {im : Image}
    (h : check6 f fuse k dir copy = .inr im) : im.copy = copy := by
  unfold check6 at h
  dsimp only at h
  repeat' split at h
  all_goals cases h
  rfl

/-- The copy that the checks read is the one they were asked for. -/
theorem checkCopy_copy {f : FlashSt} {fuse : FuseSt} {k : KeySlot} {dir : BootDir} {copy : Nat} {l : List Refuse}
    {im : Image} (h : checkCopy f fuse k dir copy = (l, some im)) : im.copy = copy := by
  unfold checkCopy at h
  split at h
  · cases h
  · rename_i h6
    cases h
    exact check6_copy h6

/-- A directory names copies 1 and 2 only. -/
theorem copyOrder_mem {dir : BootDir} {n : Nat} (h : n ∈ copyOrder dir) : n = 1 ∨ n = 2 := by
  unfold copyOrder at h
  dsimp only at h
  split at h <;> split at h <;> simp at h <;> omega

/-- A start, or what may end one, leaves a configuration that LOADED_IMAGE shows. -/
def LeavesShown (x : Img × Dyn) : Prop := ShowsLoaded x.1

theorem leavesShown_reset (d : Dyn) : LeavesShown (Img.reset, d) := showsLoaded_reset

theorem leavesShown_deviceRefused (copy code : Nat) (d : Dyn) : LeavesShown (deviceRefused copy code d) :=
  leavesShown_reset _

theorem leavesShown_runImage (env : StartEnv) {im : Image} (d : Dyn) (h : im.copy = 1 ∨ im.copy = 2) :
    LeavesShown (runImage env im d) := by
  unfold runImage
  dsimp only
  split
  · exact leavesShown_reset _
  · split
    · exact leavesShown_reset _
    · exact fun h0 => absurd h0 (loadedWord_ne_zero h _ _)

theorem leavesShown_tryCopies (env : StartEnv) (f : FlashSt) (dir : BootDir) :
    ∀ (l : List Nat) (d : Dyn), (∀ n ∈ l, n = 1 ∨ n = 2) → LeavesShown (tryCopies env f dir l d)
  | [], _, _ => leavesShown_reset _
  | copy :: rest, d, h => by
    unfold tryCopies
    dsimp only
    split
    · rename_i him
      exact leavesShown_runImage env _ (checkCopy_copy him ▸ h copy (List.mem_cons_self ..))
    · exact leavesShown_tryCopies env f dir rest _ fun n hn => h n (List.mem_cons_of_mem _ hn)

theorem leavesShown_trainDram (env : StartEnv) {next : Dyn → Img × Dyn} (h : ∀ d, LeavesShown (next d)) (d : Dyn) :
    LeavesShown (trainDram env next d) := by
  unfold trainDram
  split
  · exact h _
  · exact leavesShown_reset _

theorem leavesShown_startSequence (env : StartEnv) (d : Dyn) : LeavesShown (startSequence env d) := by
  unfold startSequence
  dsimp only
  split
  · exact leavesShown_deviceRefused _ _ _
  · split
    · exact leavesShown_trainDram env (fun _ => leavesShown_reset _) _
    · split
      · exact leavesShown_deviceRefused _ _ _
      · split
        · exact leavesShown_deviceRefused _ _ _
        · exact leavesShown_trainDram env
            (fun d => leavesShown_tryCopies env _ _ _ d fun _ => copyOrder_mem) _

theorem leavesShown_flashDone {img : Img} (d : Dyn) (h : ShowsLoaded img) : LeavesShown (flashDone img d) := by
  unfold flashDone
  split
  · exact h
  · dsimp only
    split
    · exact leavesShown_reset _
    · exact h

theorem leavesShown_restartCmd {img : Img} (tag : Half) (d : Dyn) (h : ShowsLoaded img) :
    LeavesShown (restartCmd img tag d) := by
  unfold restartCmd
  dsimp only
  split
  · exact h
  · split
    · exact h
    · split
      · exact h
      · exact leavesShown_reset _

theorem leavesShown_ite {p : Prop} [Decidable p] {x y : Img × Dyn} (hx : LeavesShown x) (hy : LeavesShown y) :
    LeavesShown (if p then x else y) := by
  split
  · exact hx
  · exact hy

theorem showsLoaded_actImg {f : Img → Dyn → Img × Dyn} {s t : State} (h : actImg f s = .next t)
    (hf : LeavesShown (f s.img s.dyn)) : ShowsLoaded t.img := by
  rw [actImg_next h]
  exact hf

/-- A start, and what ends one, keep it. -/
theorem showsLoaded_loader {c : Instr} {s t : State} (hc : loads c = true) (h : exec c s = .next t)
    (hs : ShowsLoaded s.img) : ShowsLoaded t.img := by
  cases c
  case startSequence env =>
    exact showsLoaded_actImg (show execStartSequence env s = _ from h)
      (leavesShown_ite (leavesShown_startSequence env s.dyn) hs)
  case resetN n =>
    exact showsLoaded_actImg (show execResetN n s = _ from h) (leavesShown_ite (leavesShown_reset _) hs)
  case vcoreTrip =>
    exact showsLoaded_actImg (show execVcoreTrip s = _ from h) (leavesShown_ite (leavesShown_reset _) hs)
  case vaonTrip =>
    exact showsLoaded_actImg (show execVaonTrip s = _ from h) (leavesShown_ite (leavesShown_reset _) hs)
  case restart tag =>
    exact showsLoaded_actImg (show execRestart tag s = _ from h)
      (leavesShown_ite (leavesShown_restartCmd _ _ hs) hs)
  case flashCommandDone =>
    exact showsLoaded_actImg (show execFlashCommandDone s = _ from h)
      (leavesShown_ite (leavesShown_flashDone _ hs) hs)
  case deepsleepWakeCheck v =>
    exact showsLoaded_actImg (show execDeepsleepWakeCheck v s = _ from h)
      (leavesShown_ite (leavesShown_ite (leavesShown_reset _) hs) hs)
  all_goals cases hc

theorem showsLoaded_exec {c : Instr} {s t : State} (h : exec c s = .next t) (hs : ShowsLoaded s.img) :
    ShowsLoaded t.img := by
  cases hc : loads c with
  | true => exact showsLoaded_loader hc h hs
  | false => exact exec_img hc h ▸ hs

theorem showsLoaded_step {s t : State} (h : step s = .next t) (hs : ShowsLoaded s.img) : ShowsLoaded t.img := by
  unfold step at h
  split at h
  · exact (act_next h).2.1 ▸ hs
  · exact showsLoaded_exec h hs

end Sys2Proof.Machine
end

section
open Sys2Proof Sys2Proof.Machine

/-- Settles O59, by the forms of a command's effect and an induction over the copies that a start tries. -/
theorem loadedConfiguration : Obligations.LoadedConfiguration := by
  unfold Obligations.LoadedConfiguration
  refine ⟨fun s t hs h => showsLoaded_step h hs, ?_, fun c s t h => exec_pending h⟩
  intro c s t h h1 h2 h3 h4 h5 h6 h7
  refine exec_img (Bool.eq_false_iff.mpr fun hc => ?_) h
  cases c
  case startSequence env => exact h1 env rfl
  case resetN n => exact h2 n rfl
  case vcoreTrip => exact h3 rfl
  case vaonTrip => exact h4 rfl
  case restart tag => exact h5 tag rfl
  case flashCommandDone => exact h6 rfl
  case deepsleepWakeCheck v => exact h7 v rfl
  all_goals cases hc

end

section
/-! PROOF. A register write that is not aligned and whose four bytes cross into the next block: the part that the
next block serves goes over the fabric, so more than the answer changes. -/

namespace Sys2Proof.Machine

/-- The machine right after reset, brought into SERVICE: its main island is up. -/
def servingState : State :=
  { State.reset with dyn := { Dyn.reset with dst := { DeviceSt.reset with state := .service } } }

/-- The arbiters of the fabric after a command that has ended. -/
def arbitersAfter : Out → Map Arbiter
  | .next t => t.dyn.fab.arbiters
  | _ => []

/-- Two bytes of this write lie in block 7 and two in the dispatcher's block 8, behind an endpoint of the fabric. -/
theorem execRegisterWrite_crossing_uses_fabric :
    (arbitersAfter (execRegisterWrite .supervisor 0x07FFFFFE 0 servingState)).isEmpty = false := by
  decide +kernel

end Sys2Proof.Machine
end

section
open Sys2Proof Sys2Proof.Machine

/-- Refutes O53: a misaligned register write by the supervisor at the last two bytes of block 7 answers ERROR, but
its second part is block 8's and crosses the fabric, whose arbiters have taken a turn afterwards; the statement has
nothing but the answer change. -/
theorem not_registersAndJtag : ¬ Obligations.RegistersAndJtag := by
  unfold Obligations.RegistersAndJtag
  rintro ⟨hwrite, -⟩
  obtain ⟨hserved, -⟩ := hwrite .supervisor 0x07FFFFFE 0 servingState (by decide)
  obtain ⟨-, -, hmisaligned, -⟩ := hserved (.inl (by decide)) rfl
  have hout : execRegisterWrite .supervisor 0x07FFFFFE 0 servingState = _ := hmisaligned (by decide)
  have hfabric := execRegisterWrite_crossing_uses_fabric
  rw [hout] at hfabric
  exact absurd hfabric (by decide)

end

section
/-! PROOF. Control registers: an access inside its permission changes one core's registers and retires; what each
register keeps of a write; STATUS as its word. -/

namespace Sys2Proof.Machine

/-! ### What an access leaves alone -/

/-- Only core `c` and the counters differ; its PC and its instruction cache do not, and its clock has not gone
back. -/
def KeepsIssue (c : Nat) (d e : Dyn) : Prop :=
  OnlyCoreDyn c d e ∧ (e.core c).regs.pc = (d.core c).regs.pc ∧ (e.core c).lines = (d.core c).lines
  ∧ (d.core c).clock ≤ (e.core c).clock

namespace KeepsIssue

theorem refl (c : Nat) (d : Dyn) : KeepsIssue c d d := ⟨.refl c d, rfl, rfl, Nat.le_refl _⟩

theorem trans {c : Nat} {d e f : Dyn} (h : KeepsIssue c d e) (g : KeepsIssue c e f) : KeepsIssue c d f := by
  obtain ⟨hd, hpc, hl, hk⟩ := h
  obtain ⟨gd, gpc, gl, gk⟩ := g
  exact ⟨hd.trans gd, gpc.trans hpc, gl.trans hl, hk.trans gk⟩

theorem onCtl (c : Nat) (d : Dyn) (f : CoreCtl → CoreCtl) : KeepsIssue c d (d.onCtl c f) :=
  ⟨.onCtl c d f, by simp, by simp, by simp⟩

theorem onVec (c : Nat) (d : Dyn) (f : CoreVec → CoreVec) : KeepsIssue c d (d.onVec c f) :=
  ⟨.setCore c d _, by simp, by simp, by simp⟩

theorem onPort (c : Nat) (d : Dyn) (f : CorePort → CorePort) : KeepsIssue c d (d.onPort c f) :=
  ⟨.setCore c d _, by simp, by simp, by simp⟩

theorem wd (c : Nat) (d : Dyn) (r : Reg5) (v : Word) : KeepsIssue c d (d.wd c r v) :=
  ⟨.onRegs c d _, by simp, by simp [CoreSt.withD], by simp [CoreSt.withD]⟩

theorem ite {c : Nat} {d e f : Dyn} {p : Prop} [Decidable p] (he : KeepsIssue c d e) (hf : KeepsIssue c d f) :
    KeepsIssue c d (if p then e else f) := by
  split
  · exact he
  · exact hf

end KeepsIssue

/-- A write changes the core's control, vector or port registers. -/
theorem csrWrite_keepsIssue (d : Dyn) (c i : Nat) (w : Word) : KeepsIssue c d (csrWrite d c i w) := by
  unfold csrWrite
  exact .ite (.onCtl ..) <| .ite (.onCtl ..) <| .ite (.onCtl ..) <| .ite (.onCtl ..) <| .ite (.onCtl ..) <|
    .ite (.onCtl ..) <| .ite (.onCtl ..) <| .ite (.onCtl ..) <| .ite (.onCtl ..) <| .ite (.onCtl ..) <|
    .ite (.onCtl ..) <| .ite (.onCtl ..) <| .ite (.onCtl ..) <| .ite (.onVec ..) <| .ite (.onVec ..) <|
    .ite (.onVec ..) <| .ite (.onPort ..) (.refl ..)

/-- CYCLE_LO's value, the clock that it leaves (log 23). -/
def cycleRead (d : Dyn) (c : Nat) : Nat := (d.core c).clock + Config.freeValue d.free

/-- A read changes nothing but a latched HI half and, for CYCLE_LO, the clock. -/
theorem csrRead_fst (d : Dyn) (c i : Nat) :
    (csrRead d c i).1 =
      if i = 0x18 then
        ({ d with free := d.free + 1 }.onCore c (fun y => { y with clock := cycleRead d c })).onCtl c
          (fun y => { y with cycleHi := BitVec.ofNat 32 (cycleRead d c / 2 ^ 32) })
      else if i = 0x1A then
        d.onCtl c (fun y => { y with tickHi := BitVec.ofNat 32 (d.nowAt (coreSrc c) / 2 ^ 32) })
      else d := by
  by_cases h : i = 0x18
  · subst h; rfl
  by_cases g : i = 0x1A
  · subst g; rfl
  simp only [csrRead, h, g, if_false, apply_ite Prod.fst, ite_self]

/-- The free value drawn, and the clock counted on to `n`. -/
theorem KeepsIssue.drawn (c : Nat) (d : Dyn) (n : Nat) (h : (d.core c).clock ≤ n) :
    KeepsIssue c d ({ d with free := d.free + 1 }.onCore c (fun y => { y with clock := n })) := by
  have hc (k : Nat) : { d with free := d.free + 1 }.core k = d.core k := rfl
  exact ⟨⟨rfl, fun k hk => by simp [Dyn.onCore, hk, hc]⟩, by simp [Dyn.onCore, hc], by simp [Dyn.onCore, hc],
    by simpa [Dyn.onCore, hc] using h⟩

theorem csrRead_keepsIssue (d : Dyn) (c i : Nat) : KeepsIssue c d (csrRead d c i).1 := by
  rw [csrRead_fst]
  exact .ite ((KeepsIssue.drawn c d _ (Nat.le_add_right ..)).trans (.onCtl ..)) (.ite (.onCtl ..) (.refl ..))

/-! ### The checks of an access -/

theorem csrAccess_unknown {c : Core} {l : Bool} {code : Byte} {read : Bool} {f : Dyn → Res} {img : Img} {d : Dyn}
    (h : csrPerm code.toNat = none) : csrAccess c l code read f img d = .exc d excIllegal := by
  cases l <;> simp [csrAccess, h]

section
variable {c : Core} {code : Byte} {f : Dyn → Res} {img : Img} {d : Dyn} {rl : Nat} {wl : Option Nat}
  (h : csrPerm code.toNat = some (rl, wl))
include h

theorem csrAccess_read (hl : Priv.num (d.status c.val).pl ≤ rl) : csrAccess c true code true f img d = f d := by
  simp [csrAccess, h, Nat.not_lt.mpr hl]

theorem csrAccess_read_denied (hl : rl < Priv.num (d.status c.val).pl) :
    csrAccess c true code true f img d = .exc d excPrivilege := by
  simp [csrAccess, h, hl]

theorem csrAccess_write {l : Nat} (hw : wl = some l) (hl : Priv.num (d.status c.val).pl ≤ l) :
    csrAccess c true code false f img d = f d := by
  simp [csrAccess, h, hw, Nat.not_lt.mpr hl]

theorem csrAccess_write_denied {l : Nat} (hw : wl = some l) (hl : l < Priv.num (d.status c.val).pl) :
    csrAccess c true code false f img d = .exc d excPrivilege := by
  simp [csrAccess, h, hw, hl]

theorem csrAccess_write_ignored (hw : wl = none) : csrAccess c true code false f img d = .done d none := by
  simp [csrAccess, h, hw]

end

/-! ### An access that retires -/

/-- An instruction that keeps what `KeepsIssue` says retires, and its core's clock is as it left it. -/
theorem bronze_keepsIssue {c : Core} {icls : Nat} {f : Img → Dyn → Res} {s : State} {e : Dyn} (h : Ready c s)
    (hf : f s.img (s.issue c) = .done e none) (he : KeepsIssue c.val (s.issue c) e) :
    Answers (act (bronze c icls f) s) (fun t =>
      (t.dyn.core c.val).clock = (e.core c.val).clock ∧ Retires c (e.core c.val) none s t) := by
  obtain ⟨honly, hpc, hlines, hclock⟩ := he
  simp only [State.issue_core, if_true, CoreSt.issued_regs, CoreSt.issued_clock] at hpc hlines hclock
  obtain ⟨t, ht, hret⟩ := bronze_retires (icls := icls) h hf honly hpc hclock (fun k hk => hlines ▸ hk)
  refine ⟨t, ht, ?_, hret⟩
  have hdone := bronze_done (icls := icls) h hf
  rw [Becomes, ht] at hdone
  cases hdone
  obtain ⟨pc, rc, n, b, hcore, -⟩ :=
    retire_core c.val icls e (s.dyn.status c.val).pl (s.dyn.status c.val).inrep none
  simp [hcore]

theorem bronze_retires_keepsIssue {c : Core} {icls : Nat} {f : Img → Dyn → Res} {s : State} {e : Dyn}
    (h : Ready c s) (hf : f s.img (s.issue c) = .done e none) (he : KeepsIssue c.val (s.issue c) e) :
    Answers (act (bronze c icls f) s) (Retires c (e.core c.val) none s) := by
  obtain ⟨t, ht, -, hret⟩ := bronze_keepsIssue (icls := icls) h hf he
  exact ⟨t, ht, hret⟩

/-- What CSRR does, and what CSRW, CSRS and CSRC do with the value that each one writes. -/
def csrReading (c : Core) (r : Reg5) (code : Byte) : Img → Dyn → Res :=
  csrAccess c true code true (fun d =>
    setD (csrRead d c.val code.toNat).1 c r (csrRead d c.val code.toNat).2)
def csrWriting (c : Core) (code : Byte) (v : Dyn → Word) : Img → Dyn → Res :=
  csrAccess c true code false (fun d => .done (csrWrite d c.val code.toNat (v d)) none)

section
variable {c : Core} {r : Reg5} {code : Byte} {s : State} (h : Ready c s)
include h

section
variable {rl : Nat} {wl : Option Nat} (hp : csrPerm code.toNat = some (rl, wl))
include hp

theorem csrReading_reads (hl : Priv.num (s.dyn.status c.val).pl ≤ rl) :
    Answers (act (bronze c 7 (csrReading c r code)) s) (fun t =>
      (t.dyn.core c.val).clock = ((csrRead (s.issue c) c.val code.toNat).1.core c.val).clock
      ∧ Retires c (((csrRead (s.issue c) c.val code.toNat).1.core c.val).withD r
          (csrRead (s.issue c) c.val code.toNat).2) none s t) := by
  have he := (csrRead_keepsIssue (s.issue c) c.val code.toNat).trans
    (.wd c.val _ r (csrRead (s.issue c) c.val code.toNat).2)
  rw [← State.issue_status s c] at hl
  have := bronze_keepsIssue (icls := 7) (f := csrReading c r code) h (csrAccess_read hp hl) he
  rw [Dyn.core_wd] at this
  exact this

theorem csrWriting_writes {l : Nat} (v : Dyn → Word) (hw : wl = some l)
    (hl : Priv.num (s.dyn.status c.val).pl ≤ l) :
    Answers (act (bronze c 7 (csrWriting c code v)) s)
      (Retires c ((csrWrite (s.issue c) c.val code.toNat (v (s.issue c))).core c.val) none s) := by
  rw [← State.issue_status s c] at hl
  exact bronze_retires_keepsIssue h (csrAccess_write hp hw hl) (csrWrite_keepsIssue ..)

theorem csrWriting_ignored (v : Dyn → Word) (hw : wl = none) :
    Answers (act (bronze c 7 (csrWriting c code v)) s) (Retires c (s.dyn.core c.val) none s) := by
  have := bronze_retires_keepsIssue (icls := 7) (f := csrWriting c code v) h
    (csrAccess_write_ignored hp hw) (.refl ..)
  rw [State.issue_core, if_pos rfl] at this
  exact this

theorem csrReading_denied (hl : rl < Priv.num (s.dyn.status c.val).pl) :
    Raises (act (bronze c 7 (csrReading c r code)) s) c excPrivilege s := by
  rw [← State.issue_status s c] at hl
  exact bronze_raises h (csrAccess_read_denied hp hl)

theorem csrWriting_denied {l : Nat} (v : Dyn → Word) (hw : wl = some l)
    (hl : l < Priv.num (s.dyn.status c.val).pl) :
    Raises (act (bronze c 7 (csrWriting c code v)) s) c excPrivilege s := by
  rw [← State.issue_status s c] at hl
  exact bronze_raises h (csrAccess_write_denied hp hw hl)

end

theorem csrReading_unknown (hp : csrPerm code.toNat = none) :
    Raises (act (bronze c 7 (csrReading c r code)) s) c excIllegal s :=
  bronze_raises h (csrAccess_unknown hp)

theorem csrWriting_unknown (hp : csrPerm code.toNat = none) (v : Dyn → Word) :
    Raises (act (bronze c 7 (csrWriting c code v)) s) c excIllegal s :=
  bronze_raises h (csrAccess_unknown hp)

/-- CYCLE_LO's count has gone on, and its high bits are latched (log 23). -/
theorem csrReading_cycle (hl : Priv.num (s.dyn.status c.val).pl ≤ 2) (hc : code = 0x18) :
    ∃ n, (s.dyn.core c.val).clock < n ∧ Answers (act (bronze c 7 (csrReading c r code)) s) (fun t =>
      (t.dyn.core c.val).clock = n ∧ Retires c
        (CoreSt.withD { s.dyn.core c.val with ctl := { (s.dyn.core c.val).ctl with
          cycleHi := BitVec.ofNat 32 (n / 2 ^ 32) } } r (BitVec.ofNat 32 n)) none s t) := by
  subst hc
  obtain ⟨t, ht, hclock, hret⟩ := csrReading_reads (r := r) h (code := 0x18) (rl := 2) (wl := none) rfl hl
  have hcore : (csrRead (s.issue c) c.val 0x18).1.core c.val = { (s.dyn.core c.val).issued with
      clock := cycleRead (s.issue c) c.val
      ctl := { (s.dyn.core c.val).ctl with
        cycleHi := BitVec.ofNat 32 (cycleRead (s.issue c) c.val / 2 ^ 32) } } := by
    have hdrawn : { s.issue c with free := (s.issue c).free + 1 }.core c.val = (s.dyn.core c.val).issued :=
      (State.issue_core s c c.val).trans (if_pos rfl)
    simp [csrRead_fst, Dyn.onCore, hdrawn]
  have hclock' : (t.dyn.core c.val).clock = cycleRead (s.issue c) c.val := by rw [hclock]; exact congrArg _ hcore
  refine ⟨cycleRead (s.issue c) c.val, ?_, t, ht, hclock', ?_⟩
  · simp [cycleRead]
    omega
  · erw [hcore] at hret
    exact hret

end

/-! ### What each register keeps of a write (Tables 7.5, 8.3, 9.1) -/

/-- A word of `k` ones masks all but the low `k` bits off. -/
theorem toNat_and_low {m : Word} {k : Nat} (hm : m.toNat = 2 ^ k - 1) (w : Word) :
    (w &&& m).toNat = w.toNat % 2 ^ k := by
  rw [BitVec.toNat_and, hm, Nat.and_two_pow_sub_one_eq_mod]

/-- Its complement clears them. -/
theorem and_not_low {m : Word} {k : Nat} (hm : m.toNat = 2 ^ k - 1) (w : Word) :
    w &&& ~~~m = BitVec.ofNat 32 (w.toNat / 2 ^ k * 2 ^ k) := by
  have hshift : BitVec.ofNat 32 (w.toNat / 2 ^ k * 2 ^ k) = w >>> k <<< k := by
    apply BitVec.eq_of_toNat_eq
    simp [Nat.shiftLeft_eq, Nat.shiftRight_eq_div_pow]
  rw [hshift]
  apply BitVec.eq_of_getLsbD_eq
  intro i hi
  have hbit : m.getLsbD i = decide (i < k) := by rw [BitVec.getLsbD, hm, Nat.testBit_two_pow_sub_one]
  rw [BitVec.getLsbD_and, BitVec.getLsbD_not, hbit, BitVec.getLsbD_shiftLeft, BitVec.getLsbD_ushiftRight]
  by_cases h : i < k
  · simp [h]
  · simp [h, hi, Nat.le_of_not_lt h]

@[simp] theorem loWord_withLo (a : Addr) (w : Word) : loWord (withLo a w) = w := by
  apply BitVec.eq_of_toNat_eq
  simp [loWord, withLo]
  omega

@[simp] theorem hiWord_withHi (a : Addr) (w : Word) : hiWord (withHi a w) = w &&& 0xFFFF := by
  apply BitVec.eq_of_toNat_eq
  rw [toNat_and_low (k := 16) rfl]
  simp [hiWord, withHi, Nat.shiftRight_eq_div_pow]
  omega

/-- What a read of register `i` gives after a write of `w`. -/
def afterWrite (d : Dyn) (c i : Nat) (w : Word) : Word := (csrRead (csrWrite d c i w) c i).2

section
variable (d : Dyn) (c : Nat) (w : Word)

theorem epcLo_keeps : afterWrite d c 0x02 w = w &&& ~~~3 := by
  rw [and_not_low (k := 2) rfl]
  simp [afterWrite, csrRead, csrWrite]

theorem epcHi_keeps : afterWrite d c 0x03 w = w &&& 0xFFFF := by simp [afterWrite, csrRead, csrWrite]

theorem vbaseLo_keeps : afterWrite d c 0x06 w = w &&& ~~~0xFFF := by
  rw [and_not_low (k := 12) rfl]
  simp [afterWrite, csrRead, csrWrite]

theorem vbaseHi_keeps : afterWrite d c 0x07 w = w &&& 0xFFFF := by simp [afterWrite, csrRead, csrWrite]

theorem exmask_keeps : afterWrite d c 0x08 w = w := by simp [afterWrite, csrRead, csrWrite]

theorem imask_keeps : afterWrite d c 0x09 w = w &&& 6 := by simp [afterWrite, csrRead, csrWrite]

theorem dbell_keeps : afterWrite d c 0x0B w = (d.core c).ctl.dbell &&& ~~~w := by
  simp [afterWrite, csrRead, csrWrite]

theorem escr_pbind_keep {i : Nat} (hl : 0x0C ≤ i) (hu : i ≤ 0x11) : afterWrite d c i w = w := by
  interval_cases i <;> simp [afterWrite, csrRead, csrWrite]

theorem rc_keeps : afterWrite d c 0x12 w = w &&& 0x1FFFF := by
  apply BitVec.eq_of_toNat_eq
  rw [toNat_and_low (k := 17) rfl]
  simp [afterWrite, csrRead, csrWrite]
  omega

theorem pwin_keeps {i : Nat} (hl : 0x20 ≤ i) (hu : i ≤ 0x27) : afterWrite d c i w = w := by
  interval_cases i <;> simp [afterWrite, csrRead, csrWrite]

theorem venable_keeps : afterWrite d c 0x30 w = w &&& 15 := by simp [afterWrite, csrRead, csrWrite]

theorem vl_keeps : afterWrite d c 0x31 w = BitVec.ofNat 32 (min 256 (w.toNat % 512)) := by
  simp [afterWrite, csrRead, csrWrite]

theorem vstart_keeps : afterWrite d c 0x32 w = w &&& 0x1FF := by
  apply BitVec.eq_of_toNat_eq
  rw [toNat_and_low (k := 9) rfl]
  simp [afterWrite, csrRead, csrWrite]
  omega

theorem penable_keeps : afterWrite d c 0x40 w = w &&& 3 := by simp [afterWrite, csrRead, csrWrite]

end

/-! ### STATUS as a word (Table 7.6) -/

theorem b2n_le (b : Bool) : b2n b ≤ 1 := by cases b <;> decide

theorem b2n_eq_one (b : Bool) : decide (b2n b = 1) = b := by cases b <;> rfl

theorem Priv.num_le (p : Priv) : Priv.num p ≤ 2 := by cases p <;> decide

/-- Bits `k` to `k + n - 1` of a number, as a field. -/
theorem extractLsb'_ofNat (x k n : Nat) (h : x < 2 ^ 32) :
    (BitVec.ofNat 32 x).extractLsb' k n = BitVec.ofNat n (x / 2 ^ k) := by
  apply BitVec.eq_of_toNat_eq
  rw [BitVec.extractLsb'_toNat, BitVec.toNat_ofNat, BitVec.toNat_ofNat, Nat.mod_eq_of_lt h,
    Nat.shiftRight_eq_div_pow]

theorem getLsbD_ofNat_word (x k : Nat) (h : x < 2 ^ 32) :
    (BitVec.ofNat 32 x).getLsbD k = decide (x / 2 ^ k % 2 = 1) := by
  rw [BitVec.getLsbD, BitVec.toNat_ofNat, Nat.mod_eq_of_lt h, Nat.testBit_eq_decide_div_mod_eq]

/-- The number that STATUS reads as. -/
def StatusReg.num (s : StatusReg) : Nat :=
  b2n s.pinrep * 2048 + b2n s.inrep * 1024 + b2n s.shadow * 512 + b2n s.task * 256 + b2n s.dsat * 128
    + b2n s.asat * 64 + b2n s.ie * 32 + b2n s.hact * 16 + Priv.num s.ppl * 4 + Priv.num s.pl

/-- The fields of that number, each at its place. -/
theorem StatusReg.num_fields (s : StatusReg) : s.num < 2 ^ 32
    ∧ s.num / 2 ^ 11 % 2 = b2n s.pinrep ∧ s.num / 2 ^ 10 % 2 = b2n s.inrep ∧ s.num / 2 ^ 9 % 2 = b2n s.shadow
    ∧ s.num / 2 ^ 8 % 2 = b2n s.task ∧ s.num / 2 ^ 7 % 2 = b2n s.dsat ∧ s.num / 2 ^ 6 % 2 = b2n s.asat
    ∧ s.num / 2 ^ 5 % 2 = b2n s.ie ∧ s.num / 2 ^ 4 % 2 = b2n s.hact
    ∧ s.num / 2 ^ 2 % 4 = Priv.num s.ppl ∧ s.num / 2 ^ 0 % 4 = Priv.num s.pl
    ∧ s.num / 2 ^ 12 % 2 ^ 20 = 0 := by
  have := b2n_le s.pinrep
  have := b2n_le s.inrep
  have := b2n_le s.shadow
  have := b2n_le s.task
  have := b2n_le s.dsat
  have := b2n_le s.asat
  have := b2n_le s.ie
  have := b2n_le s.hact
  have := Priv.num_le s.ppl
  have := Priv.num_le s.pl
  unfold StatusReg.num
  refine ⟨?_, ?_, ?_, ?_, ?_, ?_, ?_, ?_, ?_, ?_, ?_, ?_⟩ <;> omega

/-- STATUS reads as its fields at their bits; the bits above them read zero. -/
theorem StatusReg.word_fields (s : StatusReg) :
    s.word.extractLsb' 12 20 = 0 ∧ s.word.getLsbD 11 = s.pinrep ∧ s.word.getLsbD 10 = s.inrep
    ∧ s.word.getLsbD 9 = s.shadow ∧ s.word.getLsbD 8 = s.task ∧ s.word.getLsbD 7 = s.dsat
    ∧ s.word.getLsbD 6 = s.asat ∧ s.word.getLsbD 5 = s.ie ∧ s.word.getLsbD 4 = s.hact
    ∧ s.word.extractLsb' 2 2 = BitVec.ofNat 2 (Priv.num s.ppl)
    ∧ s.word.extractLsb' 0 2 = BitVec.ofNat 2 (Priv.num s.pl) := by
  obtain ⟨hlt, hpinrep, hinrep, hshadow, htask, hdsat, hasat, hie, hhact, hppl, hpl, hzero⟩ := s.num_fields
  have hbit (k : Nat) (b : Bool) (h : s.num / 2 ^ k % 2 = b2n b) : s.word.getLsbD k = b := by
    rw [← b2n_eq_one b, ← h]
    exact getLsbD_ofNat_word _ k hlt
  have hfield (k n v : Nat) (h : s.num / 2 ^ k % 2 ^ n = v) : s.word.extractLsb' k n = BitVec.ofNat n v := by
    rw [← h]
    exact (extractLsb'_ofNat _ k n hlt).trans (BitVec.eq_of_toNat_eq (by simp))
  exact ⟨hfield 12 20 0 hzero, hbit 11 _ hpinrep, hbit 10 _ hinrep, hbit 9 _ hshadow, hbit 8 _ htask,
    hbit 7 _ hdsat, hbit 6 _ hasat, hbit 5 _ hie, hbit 4 _ hhact, hfield 2 2 _ hppl, hfield 0 2 _ hpl⟩

/-- The two-bit level field of a written STATUS: 3 is no level, and keeps the old one. -/
theorem privOf_field (e : BitVec 2) (p : Priv) :
    (privOf e.toNat).getD p = match e with
      | 0 => .exec
      | 1 => .task
      | 2 => .plugin
      | _ => p := by
  have hcases : ∀ e : BitVec 2, e = 0 ∨ e = 1 ∨ e = 2 ∨ e = 3 := by decide
  obtain rfl | rfl | rfl | rfl := hcases e <;> rfl

theorem bits_eq_extractLsb' (w : Word) (hi lo : Nat) :
    bits w.toNat hi lo = (w.extractLsb' lo (hi + 1 - lo)).toNat := by
  rw [BitVec.extractLsb'_toNat, bits]

/-- The status a core holds after a write of STATUS, and the word that a read gives. -/
theorem status_csrWrite (d : Dyn) (c : Nat) (w : Word) : (csrWrite d c 0 w).status c = (d.status c).write w := by
  simp [csrWrite, Dyn.status, CoreSt.withStatus]

theorem csrRead_status (d : Dyn) (c : Nat) : (csrRead d c 0).2 = (d.status c).word := rfl

theorem StatusReg.write_kept (s : StatusReg) (w : Word) : (s.write w).pl = s.pl ∧ (s.write w).task = s.task
    ∧ (s.write w).shadow = s.shadow ∧ (s.write w).inrep = s.inrep := by
  unfold StatusReg.write
  dsimp only
  split <;> exact ⟨rfl, rfl, rfl, rfl⟩

theorem StatusReg.write_saturation (s : StatusReg) (w : Word) :
    (s.write w).dsat = (s.dsat && !w.getLsbD 7) ∧ (s.write w).asat = (s.asat && !w.getLsbD 6) := by
  unfold StatusReg.write
  dsimp only
  split <;> exact ⟨rfl, rfl⟩

theorem StatusReg.write_flags (s : StatusReg) (w : Word) :
    (s.write w).ie = (if s.pl = .exec then w.getLsbD 5 else s.ie)
    ∧ (s.write w).hact = (if s.pl = .exec then w.getLsbD 4 else s.hact)
    ∧ (s.write w).pinrep = (if s.pl = .exec then w.getLsbD 11 else s.pinrep) := by
  unfold StatusReg.write
  dsimp only
  split <;> exact ⟨rfl, rfl, rfl⟩

theorem StatusReg.write_ppl (s : StatusReg) (w : Word) :
    (s.write w).ppl = if s.pl = .exec then (privOf (w.extractLsb' 2 2).toNat).getD s.ppl else s.ppl := by
  rw [← bits_eq_extractLsb' w 3 2]
  unfold StatusReg.write
  dsimp only
  split <;> rfl

end Sys2Proof.Machine
end

section
open Sys2Proof Sys2Proof.Machine

/-- Settles O9: every access is `csrAccess`'s, a read or a write of which changes one core alone and retires; the
registers and STATUS keep what their own lemmas say. -/
theorem controlRegisters : Obligations.ControlRegisters := by
  unfold Obligations.ControlRegisters
  refine ⟨?_, ?_, ?_, ?_⟩
  · intro c r code s h rl wl hp
    refine ⟨fun hl => ?_, fun hc => ?_, fun l hw hl => ⟨?_, ?_, ?_⟩, fun hw => ?_, fun hl => ?_, fun l hw hl => ?_⟩
    · obtain ⟨t, ht, -, hret⟩ := csrReading_reads (r := r) h hp hl
      exact ⟨t, ht, hret⟩
    · subst hc
      exact csrReading_cycle h (by cases (s.dyn.status c.val).pl <;> decide) rfl
    · have hwrite := csrWriting_writes h hp (·.rd c.val r) hw hl
      rw [State.issue_rd] at hwrite
      exact hwrite
    · have hset := csrWriting_writes h hp (fun d => (csrRead d c.val code.toNat).2 ||| d.rd c.val r) hw hl
      rw [State.issue_rd] at hset
      exact hset
    · have hclear := csrWriting_writes h hp (fun d => (csrRead d c.val code.toNat).2 &&& ~~~(d.rd c.val r)) hw hl
      rw [State.issue_rd] at hclear
      exact hclear
    · exact csrWriting_ignored h hp _ hw
    · exact csrReading_denied h hp hl
    · exact csrWriting_denied h hp _ hw hl
  · exact fun c r code s h hp =>
      ⟨csrReading_unknown h hp, csrWriting_unknown h hp _, csrWriting_unknown h hp _, csrWriting_unknown h hp _⟩
  · exact fun d c w => ⟨epcLo_keeps d c w, epcHi_keeps d c w, vbaseLo_keeps d c w, vbaseHi_keeps d c w,
      exmask_keeps d c w, imask_keeps d c w, dbell_keeps d c w, fun i hl hu => escr_pbind_keep d c w hl hu,
      rc_keeps d c w, fun i hl hu => pwin_keeps d c w hl hu, venable_keeps d c w, vl_keeps d c w,
      vstart_keeps d c w, penable_keeps d c w⟩
  · intro d c w
    dsimp only
    rw [status_csrWrite, csrRead_status]
    obtain ⟨hdsat, hasat⟩ := StatusReg.write_saturation (d.status c) w
    obtain ⟨hie, hhact, hpinrep⟩ := StatusReg.write_flags (d.status c) w
    obtain ⟨hpl, htask, hshadow, hinrep⟩ := StatusReg.write_kept (d.status c) w
    have hppl := StatusReg.write_ppl (d.status c) w
    rw [privOf_field] at hppl
    exact ⟨hdsat, hasat, hie, hhact, hpinrep, hppl, hpl, htask, hshadow, hinrep, StatusReg.word_fields _⟩

end

section
/-! PROOF. The canonical form of memory, as a predicate on the machine. Each function `f` of the model that gives a
machine has a lemma `Canonical.f`, that it keeps the form, whose proof follows the branches of `f`: `h.f.g` reads
as `g` after `f`, `⟨h.wf⟩` is a machine with the memory of another. The few functions that write bytes rest on
`Memory.wf_write`, `Memory.wf_writeN` and `Memory.putRun_wf`. -/

namespace Sys2Proof.Machine

/-- Memory is in its canonical form (log 9). -/
structure Canonical (d : Dyn) : Prop where
  wf : Memory.wf d.mem.cells = true

/-- The machine that an instruction leaves, however it ends, is canonical. -/
inductive CanonicalRes : Res → Prop where
  | done {d : Dyn} {pc : Option Addr} (h : Canonical d) : CanonicalRes (.done d pc)
  | exc {d : Dyn} {e : Exc} (h : Canonical d) : CanonicalRes (.exc d e)
  | wait {d : Dyn} (h : Canonical d) : CanonicalRes (.wait d)

theorem Memory.wf_foldl {α : Type} {f : List Host.Cell → α → List Host.Cell} {l : List α} {m : List Host.Cell}
    (h : Memory.wf m = true) (hf : ∀ m a, Memory.wf m = true → Memory.wf (f m a) = true) :
    Memory.wf (l.foldl f m) = true :=
  l.foldlRecOn f h (fun m hm a _ => hf m a hm)

/-- What an image loads into memory is canonical, whatever memory held. -/
theorem loadMemory_wf (img : Img) (im : Image) : Memory.wf (loadMemory img im).cells = true := by
  unfold loadMemory
  dsimp only
  have hprogram : Memory.wf ((im.sects.filter (fun s => s.type == secProgram)).foldl
      (fun m s => Memory.writeN m (fld s.body 8 6) (s.body.drop 56)) []) = true :=
    Memory.wf_foldl rfl (fun m s h => Memory.wf_writeN _ m _ h)
  split
  · exact hprogram
  · refine Memory.wf_foldl hprogram (fun m r h => Memory.wf_foldl h (fun m k h => ?_))
    split
    · exact Memory.wf_writeN _ m _ h
    · exact h

namespace Canonical

variable {α β : Type} {d e : Dyn}

/-- A machine with the same bytes in memory is as canonical. -/
theorem of_cells (h : e.mem.cells = d.mem.cells) (hd : Canonical d) : Canonical e :=
  ⟨h ▸ hd.wf⟩

theorem withDisp {x : DispSt} (h : Canonical d) : Canonical { d with disp := x } := ⟨h.wf⟩

theorem withAnswers {x : List MgmtAnswer} (h : Canonical d) : Canonical { d with answers := x } := ⟨h.wf⟩

theorem withPerf {x : PerfSt} (h : Canonical d) : Canonical { d with perf := x } := ⟨h.wf⟩

theorem snd_mk {a : α} (h : Canonical d) : Canonical (a, d).2 := h

theorem ite {p : Prop} {i : Decidable p} (hd : Canonical d) (he : Canonical e) :
    Canonical (if p then d else e) := by
  split
  · exact hd
  · exact he

theorem ite_fst {p : Prop} {i : Decidable p} {x y : Dyn × α} (hx : Canonical x.1) (hy : Canonical y.1) :
    Canonical (if p then x else y).1 := by
  split
  · exact hx
  · exact hy

theorem ite_snd {p : Prop} {i : Decidable p} {x y : α × Dyn} (hx : Canonical x.2) (hy : Canonical y.2) :
    Canonical (if p then x else y).2 := by
  split
  · exact hx
  · exact hy

theorem of_fst {p : Dyn × α} {r : α} (h : p = (d, r)) (hp : Canonical p.1) : Canonical d := by
  rw [h] at hp
  exact hp

theorem of_snd {p : α × Dyn} {r : α} (h : p = (r, d)) (hp : Canonical p.2) : Canonical d := by
  rw [h] at hp
  exact hp

theorem foldl {f : Dyn → α → Dyn} {l : List α} (h : Canonical d) (hf : ∀ d a, Canonical d → Canonical (f d a)) :
    Canonical (l.foldl f d) :=
  l.foldlRecOn f h (fun x hx a _ => hf x a hx)

theorem foldl_fst {f : Dyn × β → α → Dyn × β} {l : List α} {p : Dyn × β} (h : Canonical p.1)
    (hf : ∀ p a, Canonical p.1 → Canonical (f p a).1) : Canonical (l.foldl f p).1 :=
  l.foldlRecOn f h (fun x hx a _ => hf x a hx)

theorem foldl_snd {f : β × Dyn → α → β × Dyn} {l : List α} {p : β × Dyn} (h : Canonical p.2)
    (hf : ∀ p a, Canonical p.2 → Canonical (f p a).2) : Canonical (l.foldl f p).2 :=
  l.foldlRecOn f h (fun x hx a _ => hf x a hx)

theorem of_done {r : Res} {pc : Option Addr} (h : r = .done d pc) (hr : CanonicalRes r) : Canonical d := by
  cases hr <;> cases h
  assumption

theorem of_exc {r : Res} {x : Exc} (h : r = .exc d x) (hr : CanonicalRes r) : Canonical d := by
  cases hr <;> cases h
  assumption

theorem of_wait {r : Res} (h : r = .wait d) (hr : CanonicalRes r) : Canonical d := by
  cases hr <;> cases h
  assumption

end Canonical

theorem CanonicalRes.ite {p : Prop} {i : Decidable p} {x y : Res} (hx : CanonicalRes x) (hy : CanonicalRes y) :
    CanonicalRes (if p then x else y) := by
  split
  · exact hx
  · exact hy

/-! ### Every function of the model that gives a machine -/

section
variable {img : Img} {d : Dyn}

/-! ### Machine/State -/

theorem Canonical.reset : Canonical Dyn.reset :=
  ⟨Memory.wf_reset⟩

/-! ### Machine/Ops -/

theorem Canonical.when_ {c : Bool} {f : Dyn → Dyn} (h : Canonical d)
    (hf : ∀ d1, Canonical d1 → Canonical (f d1)) : Canonical (when_ c f d) :=
  .ite (hf _ h) h

theorem Canonical.freshNat (h : Canonical d) : Canonical (freshNat d).2 :=
  ⟨h.wf⟩

theorem Canonical.setUnit {s : Nat} {f : UnitSt → UnitSt} (h : Canonical d) : Canonical (d.setUnit s f) :=
  ⟨h.wf⟩

theorem Canonical.issue {r : Report} (h : Canonical d) : Canonical (issue d r) :=
  .ite ⟨h.wf⟩ ⟨h.wf⟩

theorem Canonical.event {src cls code : Nat} {detail : List Byte} (h : Canonical d) :
    Canonical (event d src cls code detail) :=
  h.issue

theorem Canonical.eventTask {src cls code : Nat} {task : Option Nat} {detail : List Byte}
    (h : Canonical d) : Canonical (eventTask d src cls code task detail) :=
  h.issue

theorem Canonical.refusal {src code : Nat} {detail : List Byte} (h : Canonical d) :
    Canonical (refusal d src code detail) :=
  h.issue

theorem Canonical.accessRefused {src addr m : Nat} (h : Canonical d) :
    Canonical (accessRefused d src addr m) :=
  h.event

theorem Canonical.writeRefused {src : Nat} (h : Canonical d) : Canonical (writeRefused d src) :=
  h.event

theorem Canonical.masterRefused {src m : Nat} (h : Canonical d) : Canonical (masterRefused d src m) :=
  h.event

theorem Canonical.clockCount {unit : Nat} {k : Nat} (h : Canonical d) : Canonical (clockCount unit d k) :=
  .ite ⟨h.freshNat.wf⟩ h

theorem Canonical.countClocks {unit : Nat} (h : Canonical d) : Canonical (countClocks d unit) :=
  h.foldl (fun _ _ h1 => h1.clockCount)

theorem Canonical.countEv {unit ev n : Nat} {i : EvInfo} (h : Canonical d) :
    Canonical (countEv d unit ev n i) :=
  .ite h ⟨h.freshNat.wf⟩

theorem Canonical.epochMark {kind src : Nat} (h : Canonical d) : Canonical (epochMark d kind src) :=
  ⟨h.wf⟩

theorem Canonical.raiseTask {unit cond addr extra : Nat} (h : Canonical d) :
    Canonical (raiseTask d unit cond addr extra) :=
  ⟨h.wf⟩

theorem Canonical.raiseUnit {unit cond addr extra : Nat} (h : Canonical d) :
    Canonical (raiseUnit d unit cond addr extra) :=
  ⟨h.wf⟩

/-! ### Machine/Memory -/

theorem Canonical.setCode {base : Nat} {c : BlockCode} (h : Canonical d) : Canonical (d.setCode base c) :=
  ⟨h.wf⟩

theorem Canonical.setMemUnit {unit : Nat} {f : MemUnit → MemUnit} (h : Canonical d) :
    Canonical (d.setMemUnit unit f) :=
  ⟨h.wf⟩

theorem Canonical.bucketLeak {unit : Nat} (h : Canonical d) : Canonical (bucketLeak img d unit) :=
  h.setMemUnit

theorem Canonical.bucketAdd {d0 : Dyn} {unit n : Nat} (h : Canonical d0) :
    Canonical (bucketAdd img d0 unit n) :=
  .ite h.bucketLeak.setMemUnit.raiseUnit h.bucketLeak.setMemUnit

theorem Canonical.noteCorrected {unit base region : Nat} (h : Canonical d) :
    Canonical (noteCorrected img d unit base region) :=
  Canonical.bucketAdd (.ite h.setMemUnit.epochMark.event h.setMemUnit)

theorem Canonical.poisonBlock {unit base region finder : Nat} (h : Canonical d) :
    Canonical (poisonBlock img d unit base region finder) :=
  Canonical.bucketAdd (.ite h.setCode.setMemUnit.raiseUnit h.setCode.setMemUnit.event)

theorem Canonical.settleBlock {unit base finder : Nat} {r : RegionInfo} (h : Canonical d) :
    Canonical (settleBlock img d unit base finder r).1 := by
  unfold Machine.settleBlock
  refine .ite_fst (.ite_fst h.freshNat.setCode h.freshNat.poisonBlock) ?_
  dsimp only
  refine .ite_fst (.ite_fst h.setCode.noteCorrected h) ?_
  split
  · exact .ite_fst h.setCode.noteCorrected h
  · exact Canonical.noteCorrected (Canonical.setCode ⟨Memory.wf_write _ _ _ (Canonical.ite_fst
      h.setCode.noteCorrected h).wf⟩)
  · exact Canonical.noteCorrected (Canonical.setCode (.ite_fst h.setCode.noteCorrected h))
  · exact Canonical.poisonBlock (.ite_fst h.setCode.noteCorrected h)

theorem Canonical.unitRead {unit a n : Nat} {i : EvInfo} (h : Canonical d) :
    Canonical (unitRead img d unit a n i).1 := by
  unfold Machine.unitRead
  dsimp only
  split
  · exact h
  · exact .foldl_fst h (fun _ _ h1 => h1.countEv.settleBlock)

theorem Canonical.blockWrite {unit base a : Nat} {bytes : List Byte} {r : RegionInfo} {i : EvInfo}
    (h : Canonical d) : Canonical (blockWrite img d unit base a bytes r i).1 :=
  .ite_fst ⟨Memory.wf_writeN _ _ _ h.countEv.setCode.wf⟩ (.ite_fst h.setMemUnit (.ite_fst
    h.settleBlock.setMemUnit ⟨Memory.wf_writeN _ _ _ h.settleBlock.countEv.setCode.wf⟩))

theorem Canonical.unitWrite {unit a : Nat} {bytes : List Byte} {i : EvInfo} (h : Canonical d) :
    Canonical (unitWrite img d unit a bytes i).1 := by
  unfold Machine.unitWrite
  dsimp only
  split
  · exact h
  · exact .foldl_fst h (fun _ _ h1 => h1.blockWrite)

theorem Canonical.unitAtomic {unit a func operand compare : Nat} {i : EvInfo} (h : Canonical d) :
    Canonical (unitAtomic img d unit a func operand compare i).1 := by
  unfold Machine.unitAtomic
  dsimp only
  split
  · exact h
  · refine .ite_fst h.setMemUnit (.ite_fst h.settleBlock.setMemUnit ?_)
    split
    · exact ⟨Memory.wf_writeN _ _ _ h.settleBlock.countEv.setCode.wf⟩
    · exact h.settleBlock.countEv.setCode

theorem Canonical.countAbsorbed {e : Nat} (h : Canonical d) : Canonical (countAbsorbed d e) :=
  ⟨h.wf⟩

theorem Canonical.countAsleep {e : Nat} (h : Canonical d) : Canonical (countAsleep d e) :=
  ⟨h.wf⟩

theorem Canonical.noteTimeout {srcEp e unit : Nat} (h : Canonical d) :
    Canonical (noteTimeout d srcEp e unit) :=
  .ite ⟨h.wf⟩ (Canonical.raiseUnit ⟨h.wf⟩)

theorem Canonical.noteAnswered {srcEp e : Nat} (h : Canonical d) : Canonical (noteAnswered d srcEp e) :=
  ⟨h.wf⟩

theorem Canonical.perform {w : Sender} {unit a : Nat} {op : MemOp} (h : Canonical d) :
    Canonical (perform img d w unit a op).1 := by
  unfold Machine.perform
  dsimp only
  split
  · exact h.unitRead
  · exact .ite_fst h.masterRefused h.unitWrite
  · exact .ite_fst h.masterRefused h.unitAtomic

/-! ### Machine/Fabric -/

theorem Canonical.setChanges {r : Nat} {l : List PortChange} (h : Canonical d) :
    Canonical (d.setChanges r l) :=
  ⟨h.wf⟩

theorem Canonical.requestChange {e mode m : Nat} (h : Canonical d) : Canonical (requestChange d e mode m) :=
  .ite h.masterRefused h.setChanges

theorem Canonical.rearm {e : Nat} (h : Canonical d) : Canonical (rearm d e) :=
  ⟨h.wf⟩

theorem Canonical.applyMode {e mode : Nat} (h : Canonical d) : Canonical (applyMode d e mode) :=
  .ite h (.ite (.foldl ⟨h.wf⟩ (fun _ _ h1 => h1.setUnit)) (.ite (Canonical.rearm (.foldl (.ite ⟨h.wf⟩ h)
    (fun _ _ h1 => h1.setUnit))) (.ite h ⟨h.wf⟩)))

theorem Canonical.portCtrl {m : Master} {r slot op : Nat} (h : Canonical d) :
    Canonical (portCtrl d m r slot op) :=
  .ite h.writeRefused (.ite h.writeRefused (.ite h h.requestChange))

theorem Canonical.quiesce {r : Nat} (h : Canonical d) : Canonical (quiesce d r) := by
  unfold Machine.quiesce
  dsimp only
  split
  · exact h
  · exact h.applyMode.setChanges

theorem Canonical.quiesceLimit {r : Nat} (h : Canonical d) : Canonical (quiesceLimit img d r) := by
  unfold Machine.quiesceLimit
  dsimp only
  split
  · exact h
  · exact .ite h.setChanges.event h

theorem Canonical.acceptAgain {r : Nat} (h : Canonical d) : Canonical (acceptAgain img d r) := by
  unfold Machine.acceptAgain
  split
  · exact h
  · exact .ite h.quiesceLimit h.quiesce

theorem Canonical.spend {e cls flits : Nat} (h : Canonical d) : Canonical (spend img d e cls flits) := by
  unfold Machine.spend
  dsimp only
  split
  · exact h
  · exact ⟨h.wf⟩

/-! ### Machine/Arbiter -/

theorem Canonical.arbitrateFor {k : Nat} {p : Packet} (h : Canonical d) : Canonical (arbitrateFor d k p).2 := by
  unfold Machine.arbitrateFor
  dsimp only
  split
  · exact h
  · exact h.freshNat

/-! ### Machine/Operands -/

theorem Canonical.setCore {c : Nat} {x : CoreSt} (h : Canonical d) : Canonical (d.setCore c x) :=
  ⟨h.wf⟩

theorem Canonical.onCore {c : Nat} {f : CoreSt → CoreSt} (h : Canonical d) : Canonical (d.onCore c f) :=
  h.setCore

theorem Canonical.onRegs {c : Nat} {f : CoreRegs → CoreRegs} (h : Canonical d) : Canonical (d.onRegs c f) :=
  h.onCore

theorem Canonical.onCtl {c : Nat} {f : CoreCtl → CoreCtl} (h : Canonical d) : Canonical (d.onCtl c f) :=
  h.onCore

theorem Canonical.onTsk {c : Nat} {f : CoreTask → CoreTask} (h : Canonical d) : Canonical (d.onTsk c f) :=
  h.onCore

theorem Canonical.onVec {c : Nat} {f : CoreVec → CoreVec} (h : Canonical d) : Canonical (d.onVec c f) :=
  h.onCore

theorem Canonical.onPort {c : Nat} {f : CorePort → CorePort} (h : Canonical d) : Canonical (d.onPort c f) :=
  h.onCore

theorem Canonical.onStatus {c : Nat} {f : StatusReg → StatusReg} (h : Canonical d) :
    Canonical (d.onStatus c f) :=
  h.onCtl

theorem Canonical.wd {c : Nat} {r : Reg5} {v : Word} (h : Canonical d) : Canonical (d.wd c r v) :=
  h.onRegs

theorem Canonical.wp {c k : Nat} {v : Addr} (h : Canonical d) : Canonical (d.wp c k v) :=
  h.onRegs

theorem Canonical.wb {c k : Nat} {v : Addr} (h : Canonical d) : Canonical (d.wb c k v) :=
  h.onRegs

theorem Canonical.wl {c k : Nat} {v : Word} (h : Canonical d) : Canonical (d.wl c k v) :=
  h.onRegs

theorem Canonical.wm {c k : Nat} {v : Word} (h : Canonical d) : Canonical (d.wm c k v) :=
  h.onRegs

theorem Canonical.wacc {c k : Nat} {v : BitVec 72} (h : Canonical d) : Canonical (d.wacc c k v) :=
  h.onRegs

theorem Canonical.wpc {c : Nat} {v : Addr} (h : Canonical d) : Canonical (d.wpc c v) :=
  h.onRegs

theorem Canonical.postMod {c n : Nat} {step : Int} (h : Canonical d) : Canonical (d.postMod c n step) :=
  h.wp

/-! ### Machine/Flags -/

theorem Canonical.dsat {c : Nat} {b : Bool} (h : Canonical d) : Canonical (d.dsat c b) :=
  .ite h.onStatus h

theorem Canonical.asat {c : Nat} {b : Bool} (h : Canonical d) : Canonical (d.asat c b) :=
  .ite h.onStatus h

/-! ### Machine/Access -/

theorem Canonical.onFab {f : FabSt → FabSt} (h : Canonical d) : Canonical (d.onFab f) :=
  ⟨h.wf⟩

theorem Canonical.launch {p : Packet} (h : Canonical d) : Canonical (launch p d) :=
  .ite h.countAbsorbed h.countEv.onFab

theorem Canonical.track {p : Packet} (h : Canonical d) : Canonical (track p d) :=
  .ite h h.onFab

theorem Canonical.regulate {p : Packet} (h : Canonical d) : Canonical (regulate img d p) :=
  .ite h.spend.onFab.track.launch (.ite h h.onFab)

theorem Canonical.deliver {p : Packet} (h : Canonical d) : Canonical (deliver p d) :=
  h.onFab

theorem Canonical.countCrc {e : Nat} (h : Canonical d) : Canonical (countCrc d e) :=
  h.onFab

theorem Canonical.arriveRequest {serve : Target} {p : Packet} (h : Canonical d)
    (hserve : ∀ img1 d1 x, Canonical d1 → Canonical (serve img1 d1 x).1) :
    Canonical (arriveRequest serve img d p) := by
  unfold Machine.arriveRequest
  dsimp only
  split
  · exact h.countAsleep.onFab
  · exact h.countAbsorbed.onFab
  · exact h.onFab
  · exact Canonical.regulate (.ite_fst (hserve _ _ _ h.countEv) h.countEv.countCrc)

theorem Canonical.arriveResponse {p : Packet} (h : Canonical d) : Canonical (arriveResponse d p) := by
  unfold Machine.arriveResponse
  refine .ite h.countAbsorbed ?_
  dsimp only
  split
  · exact h.countEv
  · exact .ite h.countEv.onFab.onFab (.ite (Canonical.deliver (.ite h.countEv.onFab
      h.countEv.onFab.noteAnswered)) (Canonical.deliver (Canonical.countCrc (.ite h.countEv.onFab
      h.countEv.onFab.noteAnswered))))

theorem Canonical.arriveAt {serve : Target} {p : Packet} (h : Canonical d)
    (hserve : ∀ img1 d1 x, Canonical d1 → Canonical (serve img1 d1 x).1) :
    Canonical (arriveAt serve img d p) :=
  .ite h.arriveResponse (h.arriveRequest hserve)

theorem Canonical.sendWaiting {p : Packet} (h : Canonical d) : Canonical (sendWaiting img d p) :=
  h.foldl (fun _ _ h1 => h1.spend.onFab.track.launch)

theorem Canonical.landFirst {serve : Target} {p : Packet} (h : Canonical d)
    (hserve : ∀ img1 d1 x, Canonical d1 → Canonical (serve img1 d1 x).1) :
    Canonical (landFirst serve img p d) := by
  unfold Machine.landFirst
  split
  · exact h
  · exact .ite h (h.onFab.arriveAt hserve)

theorem Canonical.landFlow {serve : Target} {p : Packet} (h : Canonical d)
    (hserve : ∀ img1 d1 x, Canonical d1 → Canonical (serve img1 d1 x).1) :
    Canonical (landFlow serve img d p) :=
  h.foldl (fun _ _ h1 => h1.landFirst hserve)

theorem Canonical.enter {serve : Target} {p : Packet} (h : Canonical d)
    (hserve : ∀ img1 d1 x, Canonical d1 → Canonical (serve img1 d1 x).1) : Canonical (enter serve img d p) :=
  Canonical.spend (h.sendWaiting.landFlow hserve)

theorem Canonical.cross {p : Packet} (h : Canonical d) : Canonical (cross d p) :=
  h.onFab.countEv

theorem Canonical.eject {p : Packet} (h : Canonical d) : Canonical (eject d p) :=
  h.countEv

theorem Canonical.routerAnswers {q : Packet} {r : Resp} (h : Canonical d) :
    Canonical (routerAnswers d q r).1 :=
  h.onFab.eject

theorem Canonical.exchange {serve : Target} {q : Packet} {act : Dyn → Dyn × Resp} (h : Canonical d)
    (hserve : ∀ img1 d1 x, Canonical d1 → Canonical (serve img1 d1 x).1)
    (hact : ∀ d1, Canonical d1 → Canonical (act d1).1) : Canonical (exchange serve img d q act).1 := by
  unfold Machine.exchange
  refine .ite_fst (Canonical.noteTimeout (Canonical.countAbsorbed (Canonical.enter (h.foldl (fun _ _ h1 =>
    h1.acceptAgain)) hserve))) ?_
  dsimp only
  split
  · exact Canonical.noteAnswered (Canonical.eject (Canonical.cross (Canonical.enter (hact _ (Canonical.eject
      (Canonical.cross (Canonical.enter (h.foldl (fun _ _ h1 => h1.acceptAgain)) hserve)))) hserve)))
  · exact Canonical.routerAnswers (Canonical.countAsleep (Canonical.cross (Canonical.enter (h.foldl (fun _ _
      h1 => h1.acceptAgain)) hserve)))
  · exact Canonical.routerAnswers (Canonical.countAbsorbed (Canonical.cross (Canonical.enter (h.foldl (fun _
      _ h1 => h1.acceptAgain)) hserve)))
  · exact Canonical.routerAnswers (Canonical.cross (Canonical.enter (h.foldl (fun _ _ h1 => h1.acceptAgain))
      hserve))

theorem Canonical.performMem {p : Packet} (h : Canonical d) : Canonical (performMem img d p).1 := by
  unfold Machine.performMem
  refine .ite_fst h ?_
  dsimp only
  split
  · exact h
  · exact h.perform

theorem Canonical.memPacket {w : Sender} {a : Nat} {op : MemOp} (h : Canonical d) :
    Canonical (memPacket img d w a op).1 := by
  unfold Machine.memPacket
  split
  · exact h
  · exact h.exchange (fun _ _ _ h1 => h1.performMem) (fun _ h1 => h1.perform)

theorem Canonical.memLoad {w : Sender} {a n : Nat} (h : Canonical d) : Canonical (memLoad img d w a n).1 :=
  .foldl_fst h (fun _ _ h1 => h1.memPacket)

theorem Canonical.memStore {w : Sender} {a : Nat} {bytes : List Byte} (h : Canonical d) :
    Canonical (memStore img d w a bytes).1 :=
  .foldl_fst h (fun _ _ h1 => h1.memPacket)

/-! ### Machine/CoreOps -/

theorem Canonical.sampleAt {c : Nat} {pc : Addr} {k : Nat} {tag exc : Bool} (h : Canonical d) :
    Canonical (sampleAt d c pc k tag exc) := by
  cases tag
  · exact ⟨h.wf⟩
  · exact ⟨h.freshNat.freshNat.wf⟩

theorem Canonical.setArms {c : Nat} {l : List SampleArm} (h : Canonical d) : Canonical (setArms d c l) :=
  ⟨h.wf⟩

theorem Canonical.recordAll {c : Nat} {pc : Addr} {exc : Bool} {l : List SampleArm} (h : Canonical d) :
    Canonical (recordAll c pc exc l d) :=
  h.foldl (fun _ _ h1 => h1.sampleAt)

theorem Canonical.sampleTick {c : Nat} {pc : Addr} (h : Canonical d) : Canonical (sampleTick d c pc) :=
  .ite h h.setArms.recordAll

theorem Canonical.sampleExc {c : Nat} (h : Canonical d) : Canonical (sampleExc d c) :=
  .ite h h.setArms.recordAll

theorem Canonical.sampleAccess {c a : Nat} (h : Canonical d) : Canonical (sampleAccess d c a) :=
  .ite ⟨h.wf⟩ h

theorem Canonical.countEntry {c : Nat} (h : Canonical d) : Canonical (countEntry d c) :=
  .ite h.countEv.setArms h.countEv

theorem Canonical.takeException {c : Nat} {e : Exc} {epc : Addr} (h : Canonical d) :
    Canonical (takeException d c e epc) :=
  h.countEntry.onCtl.wpc

theorem Canonical.takeAbort {c detail cond : Nat} (h : Canonical d) : Canonical (takeAbort d c detail cond) :=
  h.countEv.onPort.onVec.onTsk.onCtl.takeException

theorem Canonical.takeStoreErr {c : Nat} (h : Canonical d) : Canonical (takeStoreErr d c) := by
  unfold Machine.takeStoreErr
  dsimp only
  split
  · exact h
  · exact h.onTsk.takeException

theorem Canonical.haltCore {c : Nat} {e : Exc} (h : Canonical d) : Canonical (haltCore d c e) := by
  unfold Machine.haltCore
  exact Canonical.onTsk (.ite h.eventTask.raiseTask.onTsk h.eventTask)

theorem Canonical.syncException {d0 : Dyn} {c : Nat} {e : Exc} (h : Canonical d0) :
    Canonical (syncException d0 c e) := by
  unfold Machine.syncException
  refine .ite h.sampleExc.haltCore (.ite ?_ h.sampleExc.takeException)
  split
  · exact h.sampleExc.raiseTask.takeAbort
  · exact h.sampleExc.takeAbort

theorem Canonical.nextPc {c : Nat} {inrep : Bool} {goto : Option Addr} (h : Canonical d) :
    Canonical (nextPc d c inrep goto) :=
  .ite (.ite h.onCtl.onStatus.wpc h.onCtl) h.wpc

theorem Canonical.retire {c icls : Nat} {pl : Priv} {inrep : Bool} {goto : Option Addr} (h : Canonical d) :
    Canonical (retire d c icls pl inrep goto) :=
  h.countEv.sampleTick.nextPc

theorem Canonical.boundaryEvent {c : Nat} (h : Canonical d) :
    ∀ d1, boundaryEvent d c = some d1 → Canonical d1 := by
  intro d1 e
  simp only [Machine.boundaryEvent] at e
  split at e
  · cases e
  · split at e
    · cases e
      exact h.takeAbort
    · split at e
      · cases e
      · cases e
        exact h.takeStoreErr

theorem Canonical.legally {legal : Bool} {r : Dyn → Res} (h : Canonical d)
    (hr : ∀ d1, Canonical d1 → CanonicalRes (r d1)) : CanonicalRes (legally legal d r) :=
  .ite (hr _ h) (.exc h)

theorem Canonical.setD {c : Core} {rd : Reg5} {v : Word} (h : Canonical d) : CanonicalRes (setD d c rd v) :=
  .done h.wd

/-! ### Machine/Lane -/

theorem Canonical.onLane {n : Nat} {f : LaneSt → LaneSt} (h : Canonical d) : Canonical (d.onLane n f) :=
  ⟨h.wf⟩

theorem Canonical.onTeth {n : Nat} {f : TetherSt → TetherSt} (h : Canonical d) : Canonical (d.onTeth n f) :=
  h.onLane

theorem Canonical.onBridle {n : Nat} {f : BridleSt → BridleSt} (h : Canonical d) :
    Canonical (d.onBridle n f) :=
  h.onLane

theorem Canonical.onLink {n : Nat} {f : LinkSt → LinkSt} (h : Canonical d) : Canonical (d.onLink n f) :=
  h.onLane

theorem Canonical.onVc {v : Nat} {f : VcSt → VcSt} (h : Canonical d) : Canonical (d.onVc v f) :=
  ⟨h.wf⟩

theorem Canonical.violationReport {key n kind : Nat} (h : Canonical d) :
    Canonical (violationReport d key n kind) :=
  .ite h.epochMark.event h

theorem Canonical.violation {n kind : Nat} (h : Canonical d) : Canonical (violation d n kind) :=
  h.onTeth.violationReport

theorem Canonical.protoViolation {n kind : Nat} (h : Canonical d) : Canonical (protoViolation d n kind) :=
  h.onLane.violationReport

theorem Canonical.dropContainer {n : Nat} (h : Canonical d) : Canonical (dropContainer d n) :=
  h.onBridle

theorem Canonical.zeroWaiting {x : Nat} (h : Canonical d) : Canonical (zeroWaiting x d) :=
  ⟨h.wf⟩

theorem Canonical.ringFinal {x st : Nat} {hold : Dyn → Dyn} (h : Canonical d)
    (hhold : ∀ d1, Canonical d1 → Canonical (hold d1)) : Canonical (ringFinal img x st hold d) := by
  unfold Machine.ringFinal
  refine h.foldl (fun _ _ h1 => ?_)
  dsimp only
  split
  · exact h1
  · exact .ite h1.dropContainer (Canonical.onBridle (hhold _ h1))

/-! ### Machine/Handles -/

theorem Canonical.putHandle {x : Nat} {b : Buf} {x1 : HandleSt} (h : Canonical d) :
    Canonical (putHandle img d x b x1) := by
  unfold Machine.putHandle
  dsimp only
  split
  · exact Canonical.memStore ⟨h.wf⟩
  · exact ⟨h.wf⟩

theorem Canonical.setHandle {x : Nat} {f : HandleSt → HandleSt} (h : Canonical d) :
    Canonical (setHandle img d x f) := by
  unfold Machine.setHandle
  dsimp only
  split
  · exact h
  · split
    · exact .ite (Canonical.event ⟨h.putHandle.wf⟩) h.putHandle
    · exact h.putHandle

theorem Canonical.enterFinal {x st : Nat} (h : Canonical d) : Canonical (enterFinal img d x st) :=
  .ite h (Canonical.ringFinal ⟨h.setHandle.wf⟩ (fun _ h1 => h1.setHandle))

theorem Canonical.poisonHandle {x : Nat} (h : Canonical d) : Canonical (poisonHandle img d x) :=
  h.setHandle.zeroWaiting

theorem Canonical.commitBuffer {x st : Nat} (h : Canonical d) : Canonical (commitBuffer img d x st) :=
  .ite ⟨h.wf⟩ h.enterFinal

theorem Canonical.incReaders {x : Nat} (h : Canonical d) : Canonical (incReaders img d x) :=
  h.setHandle

theorem Canonical.decReaders {x : Nat} (h : Canonical d) : Canonical (decReaders img d x) :=
  h.setHandle

theorem Canonical.setTask {n : Nat} {t : TaskEntry} (h : Canonical d) : Canonical (d.setTask n t) :=
  ⟨h.wf⟩

theorem Canonical.onTask {n : Nat} {f : TaskEntry → TaskEntry} (h : Canonical d) : Canonical (d.onTask n f) :=
  h.setTask

theorem Canonical.writeComp {n : Nat} {rec : List Byte} (h : Canonical d) :
    Canonical (writeComp img d n rec) := by
  unfold Machine.writeComp
  dsimp only
  split
  · exact h
  · exact .ite h.memStore h.memStore.eventTask

theorem Canonical.checkReady {n step : Nat} (h : Canonical d) : Canonical (checkReady d n step) :=
  .ite h.setTask h

theorem Canonical.finishOne {n outcome : Nat} {result : List Byte} (h : Canonical d) :
    Canonical (finishOne img d n outcome result) :=
  .of_cells (d := Machine.writeComp img d n (compBytes outcome (d.task n) (d.nowAt 0x0800) result)) rfl h.writeComp

theorem Canonical.runGates {fuel : Nat} {work : List Nat} (h : Canonical d) :
    Canonical (runGates img fuel work d) := by
  induction fuel generalizing work d with
  | zero => exact h
  | succ fuel ih =>
    cases work with
    | nil => exact h
    | cons n work => exact ih (.foldl_fst h (fun _ _ h1 => .ite_fst h1.setTask.checkReady h1.finishOne))

theorem Canonical.finishTask {n outcome : Nat} {result : List Byte} (h : Canonical d) :
    Canonical (finishTask img d n outcome result) :=
  h.finishOne.runGates

/-! ### Machine/CoreMem -/

theorem Canonical.feedSig {c a : Nat} {bytes : List Byte} (h : Canonical d) :
    Canonical (feedSig d c a bytes) :=
  .ite h.onTsk h

theorem Canonical.plainLoad {c a n : Nat} (h : Canonical d) : Canonical (plainLoad img d c a n).1 :=
  .ite_fst (.ite_fst h h) h.memLoad

theorem Canonical.plainStore {c a : Nat} {bytes : List Byte} (h : Canonical d) :
    Canonical (plainStore img d c a bytes).1 := by
  unfold Machine.plainStore
  split
  · dsimp only
    exact h.onCore
  · split
    · exact h
    · exact h.memStore

theorem Canonical.raiseAccess {c a status : Nat} (h : Canonical d) :
    Canonical (raiseAccess img d c a status) := by
  unfold Machine.raiseAccess
  exact h.raiseTask.onTsk

theorem Canonical.storeFailed {c a status : Nat} (h : Canonical d) :
    Canonical (storeFailed img d c a status) :=
  .ite h.raiseAccess h.onTsk

theorem Canonical.parityFailed {c a : Nat} (h : Canonical d) : CanonicalRes (parityFailed d c a) :=
  .ite (.wait h) (.wait h.raiseTask)

theorem Canonical.loadFailed {c a status : Nat} {free : Dyn → Nat → Dyn} (h : Canonical d)
    (hfree : ∀ d1 n, Canonical d1 → Canonical (free d1 n)) : CanonicalRes (loadFailed img d c a status free) :=
  .ite h.parityFailed (.ite (.ite (.done (hfree _ _ h.raiseAccess.freshNat)) (.wait h.raiseAccess)) (.exc
    h))

theorem Canonical.issueAt {c : Nat} (h : Canonical d) : Canonical (issueAt d c) := by
  unfold Machine.issueAt
  exact h.onCore

theorem Canonical.fetch {c : Nat} (h : Canonical d) : Canonical (fetch img d c).1 := by
  unfold Machine.fetch
  dsimp only
  split
  · split
    · exact h.freshNat
    · dsimp only
      exact h.freshNat.memLoad
  · dsimp only
    split
    · exact h
    · dsimp only
      exact h.memLoad

theorem Canonical.fetchFailed {c status : Nat} (h : Canonical d) : Canonical (fetchFailed img d c status) :=
  .ite (.ite h h.raiseAccess) h.syncException

theorem Canonical.runFetched {c icls : Nat} {f : Img → Dyn → Res} (h : Canonical d)
    (hf : ∀ img1 d1, Canonical d1 → CanonicalRes (f img1 d1)) : Canonical (runFetched c icls f img d) := by
  unfold Machine.runFetched
  dsimp only
  split
  · rename_i d1 _ e
    have hd1 : Canonical d1 := .of_done e (hf _ _ h)
    exact hd1.retire
  · rename_i d1 _ e
    have hd1 : Canonical d1 := .of_exc e (hf _ _ h)
    exact hd1.syncException
  · rename_i e
    exact .of_wait e (hf _ _ h)

theorem Canonical.bronze {c : Core} {icls : Nat} {f : Img → Dyn → Res} (h : Canonical d)
    (hf : ∀ img1 d1, Canonical d1 → CanonicalRes (f img1 d1)) : Canonical (bronze c icls f img d) := by
  unfold Machine.bronze
  refine .ite ?_ h
  split
  · rename_i e
    exact h.boundaryEvent _ e
  · refine .ite h.syncException ?_
    split
    · rename_i d1 e
      have hd1 : Canonical d1 := .of_fst e h.fetch
      exact hd1.issueAt.runFetched hf
    · rename_i d1 e
      have hd1 : Canonical d1 := .of_fst e h.fetch
      exact hd1.issueAt.syncException
    · rename_i d1 _ e
      have hd1 : Canonical d1 := .of_fst e h.fetch
      exact hd1.fetchFailed

theorem Canonical.countAccess {c ev a : Nat} (h : Canonical d) : Canonical (countAccess d c ev a) :=
  h.countEv.sampleAccess

theorem Canonical.blockStore {c a : Nat} {bytes : List Byte} {part : Dyn → Nat → List Byte → Dyn}
    (h : Canonical d) (hpart : ∀ d1 n l, Canonical d1 → Canonical (part d1 n l)) :
    Canonical (blockStore img c a bytes part d) :=
  h.foldl (fun _ _ h1 => .ite (Canonical.storeFailed (Canonical.plainStore (h1.foldl (fun _ _ h2 => hpart _
    _ _ h2)))) (Canonical.plainStore (h1.foldl (fun _ _ h2 => hpart _ _ _ h2))))

theorem Canonical.countOutside {c : Nat} {b : Bool} (h : Canonical d) : Canonical (countOutside d c b) :=
  h.countEv

/-! ### Machine/Accumulator -/

theorem Canonical.putAcc {c k : Nat} {sat : Bool} {x : Int} (h : Canonical d) :
    Canonical (putAcc d c k sat x) :=
  .ite h.asat.wacc h.wacc

theorem Canonical.countSat {c icls : Nat} {b : Bool} (h : Canonical d) : Canonical (countSat d c icls b) :=
  h.countEv

theorem Canonical.macReal {c : Core} {acc : BitVec 3} {ra rb : Reg5} {frac sat : Bool} {rsv : BitVec 7}
    {f : Int → Int → Word → Word → Int} {x : Img} (h : Canonical d) :
    CanonicalRes (macReal c acc ra rb frac sat rsv f x d) :=
  h.legally (fun _ h1 => .done h1.countSat.putAcc)

theorem Canonical.macCplx {c : Core} {acc : BitVec 3} {ra rb : Reg5} {frac sat : Bool} {rsv : BitVec 7}
    {f : Int → Int → Int → Word → Word → Int × Int} {x : Img} (h : Canonical d) :
    CanonicalRes (macCplx c acc ra rb frac sat rsv f x d) :=
  h.legally (fun _ h1 => .done h1.countSat.putAcc.putAcc)

theorem Canonical.accOp {ok : Bool} {rsv : BitVec 8} {f : Dyn → Dyn} {x : Img} (h : Canonical d)
    (hf : ∀ d1, Canonical d1 → Canonical (f d1)) : CanonicalRes (accOp ok rsv f x d) :=
  h.legally (fun _ h1 => .done (hf _ h1))

/-! ### Machine/CipherSt -/

theorem Canonical.onCipher {e : Nat} {f : CipherSt → CipherSt} (h : Canonical d) :
    Canonical (d.onCipher e f) :=
  ⟨h.wf⟩

theorem Canonical.writeKey {slot key use origin : Nat} (h : Canonical d) :
    Canonical (writeKey d slot key use origin) := by
  unfold Machine.writeKey
  refine ⟨(h.foldl (fun _ _ h1 => ?_)).wf⟩
  dsimp only
  split
  · exact h1.onCipher
  · exact h1

theorem Canonical.eraseKeys (h : Canonical d) : Canonical (eraseKeys d) :=
  h.foldl (fun _ _ h1 => h1.writeKey)

theorem Canonical.forgetMessage {e : Nat} (h : Canonical d) : Canonical (forgetMessage d e) :=
  h.onCipher

theorem Canonical.lockReport {e : Nat} (h : Canonical d) : Canonical (lockReport d e) :=
  h.freshNat.event

/-! ### Machine/TimeOps -/

theorem Canonical.onTime {f : TimeSt → TimeSt} (h : Canonical d) : Canonical (d.onTime f) :=
  ⟨h.wf⟩

theorem Canonical.tickClock (h : Canonical d) : Canonical (tickClock d) :=
  h.onTime

theorem Canonical.onPulse {g : Nat} {f : PulseSt → PulseSt} (h : Canonical d) : Canonical (d.onPulse g f) :=
  h.onTime

theorem Canonical.tddEvent {g at_ : Nat} {rising : Bool} (h : Canonical d) :
    Canonical (tddEvent img d g at_ rising) :=
  h.foldl (fun _ _ h1 => h1.foldl (fun _ _ h2 => h2.onBridle))

theorem Canonical.pulseRise {g t : Nat} (h : Canonical d) : Canonical (pulseRise img d g t) :=
  h.onPulse.tddEvent

theorem Canonical.pulseEdge {g : Nat} (h : Canonical d) : Canonical (pulseEdge img d g) := by
  unfold Machine.pulseEdge
  dsimp only
  split
  · exact h
  · refine .ite h ?_
    split
    · refine .ite (Canonical.pulseRise (.ite h h.onPulse)) (.ite h.onPulse.tddEvent ?_)
      split
      · exact Canonical.pulseRise (.ite h h.onPulse)
      · exact h
    · split
      · exact Canonical.pulseRise (.ite h h.onPulse)
      · exact h

theorem Canonical.pulseDrop {g : Nat} (h : Canonical d) : Canonical (pulseDrop d g) :=
  h.onPulse.event

theorem Canonical.pulseLate {g : Nat} (h : Canonical d) : Canonical (pulseLate img d g) :=
  h.pulseDrop.pulseRise

theorem Canonical.dropPassed {g : Nat} (h : Canonical d) : Canonical (dropPassed d g) := by
  unfold Machine.dropPassed
  split
  · exact h.when_ (fun _ h1 => h1.pulseDrop)
  · exact h

theorem Canonical.pulseArm {m : Master} {g : Nat} {v : Word} (h : Canonical d) :
    Canonical (pulseArm img d m g v) := by
  unfold Machine.pulseArm
  refine .ite h.writeRefused ?_
  dsimp only
  split
  · exact h
  · exact .ite h.writeRefused (.ite (.ite h.onPulse.pulseLate h.onPulse.pulseDrop) h.onPulse)

theorem Canonical.pulseArmHi {m : Master} {g : Nat} {v : Word} (h : Canonical d) :
    Canonical (pulseArmHi img d m g v) :=
  .ite h.writeRefused h.onPulse

theorem Canonical.pulseStop {g : Nat} (h : Canonical d) : Canonical (pulseStop img d g) :=
  h.when_ (fun _ h1 => h1.onPulse.tddEvent)

theorem Canonical.pulseCtrl {m : Master} {v : Nat} (h : Canonical d) : Canonical (pulseCtrl img d m v) :=
  .ite h.writeRefused (.foldl (Canonical.onTime (h.foldl (fun _ _ h1 => h1.dropPassed))) (fun _ _ h1 =>
    Canonical.onPulse (.ite h1 h1.pulseStop)))

theorem Canonical.gridFrom (h : Canonical d) : Canonical (gridFrom img d) :=
  h.onTime.foldl (fun _ _ h1 => h1.onPulse)

theorem Canonical.moveHigh {delta : Int} (h : Canonical d) : Canonical (moveHigh delta d) :=
  h.onTime.foldl (fun _ _ h1 => h1.onPulse)

theorem Canonical.stepTime {theta : Int} (h : Canonical d) : Canonical (stepTime img d theta) := by
  unfold Machine.stepTime
  refine Canonical.foldl (Canonical.gridFrom (Canonical.moveHigh ⟨h.wf⟩)) (fun _ _ h1 => ?_)
  split
  · exact .ite h1.pulseLate h1
  · exact h1

theorem Canonical.steer {theta : Int} (h : Canonical d) : Canonical (steer d theta) :=
  h.onTime

theorem Canonical.recordRate (h : Canonical d) : Canonical (recordRate img d) :=
  h.onTime

theorem Canonical.holdover {sticky : Bool} (h : Canonical d) : Canonical (holdover img d sticky) :=
  h.recordRate.onTime

theorem Canonical.gmJump {theta : Int} (h : Canonical d) : Canonical (gmJump d theta) :=
  h.raiseUnit

theorem Canonical.acquireMeas {theta : Int} (h : Canonical d) : Canonical (acquireMeas img d theta) :=
  .ite (.ite h.onTime.onTime.gmJump (.ite h.onTime.onTime h.onTime)) (.ite h.onTime (.ite (.ite
    h.onTime.stepTime.onTime h.onTime.stepTime) (.ite (.ite h.onTime.steer.onTime h.onTime.steer)
    h.onTime.holdover.event)))

theorem Canonical.lockedMeas {theta : Int} (h : Canonical d) : Canonical (lockedMeas img d theta) :=
  .ite (.ite h.onTime.holdover.gmJump h.onTime) h.onTime.recordRate.steer

theorem Canonical.measure {port : Nat} {theta : Int} (h : Canonical d) :
    Canonical (measure img d port theta) := by
  unfold Machine.measure
  dsimp only
  split
  · exact h.countEv.onTime
  · exact h.countEv.onTime.acquireMeas
  · exact h.countEv.onTime.lockedMeas
  · exact .ite h.countEv.onTime h.countEv.onTime.acquireMeas

theorem Canonical.setMasters {masters : List (Nat × PtpMaster)} (h : Canonical d) :
    Canonical (setMasters d masters) := by
  unfold Machine.setMasters
  exact h.onTime

theorem Canonical.noMaster (h : Canonical d) : Canonical (noMaster img d) := by
  unfold Machine.noMaster
  dsimp only
  split
  · exact h.event.holdover
  · exact h.event.onTime
  · exact h.event

theorem Canonical.keepMasters {l : List (Nat × PtpMaster)} (h : Canonical d) :
    Canonical (keepMasters img d l) :=
  .ite h.setMasters.noMaster h.setMasters

theorem Canonical.masterLost (h : Canonical d) : Canonical (masterLost img d) := by
  unfold Machine.masterLost
  dsimp only
  split
  · exact h
  · exact h.keepMasters
  · exact h.freshNat.keepMasters

theorem Canonical.reacquire (h : Canonical d) : Canonical (reacquire img d) :=
  .ite h.writeRefused h.recordRate.onTime

theorem Canonical.timeCtrl {m : Master} {op : Nat} (h : Canonical d) : Canonical (timeCtrl img d m op) :=
  .ite h.writeRefused (.ite h (.ite h.reacquire h.writeRefused))

theorem Canonical.cellActive {m : Master} {k : Nat} {v : Word} (h : Canonical d) :
    Canonical (cellActive img d m k v) :=
  .ite h.writeRefused h.onTime

theorem Canonical.ppsOut (h : Canonical d) : Canonical (ppsOut img d) :=
  .ite (.ite h.onTime h) (.ite h.onTime h)

/-! ### Machine/Orders -/

theorem Canonical.countOrder {i : Nat} {o : Order} {src : Nat} (h : Canonical d) :
    Canonical (countOrder d i o src).1 :=
  ⟨h.wf⟩

theorem Canonical.returnQueued {s : Nat} (h : Canonical d) : Canonical (returnQueued img d s) := by
  unfold Machine.returnQueued
  dsimp only
  split
  · exact h
  · exact Canonical.setUnit (Canonical.setTask (.foldl (h.foldl (fun _ _ h1 => h1.setHandle)) (fun _ _ h1 =>
      h1.decReaders)))

theorem Canonical.withdrawUnit {s : Nat} (h : Canonical d) : Canonical (withdrawUnit img d s) :=
  h.foldl (fun _ _ h1 => h1.setUnit.returnQueued)

theorem Canonical.holdUnit {s : Nat} (h : Canonical d) : Canonical (holdUnit img d s) :=
  h.foldl (fun _ _ h1 => h1.setUnit.returnQueued)

theorem Canonical.fenceSilent {s : Nat} (h : Canonical d) : Canonical (fenceSilent img d s) := by
  unfold Machine.fenceSilent
  split
  · exact h
  · exact h.foldl (fun _ _ h1 => h1.setUnit.returnQueued)

theorem Canonical.orderDrive {param src : Nat} (h : Canonical d) : Canonical (orderDrive d param src) :=
  ⟨h.wf⟩

theorem Canonical.condReport {src cls cond : Nat} {task : Option Nat} {action addr order extra : Nat}
    {last : Bool} (h : Canonical d) :
    Canonical (condReport d src cls cond task action addr order extra last) :=
  h.issue

theorem Canonical.unitAction {action param src extra : Nat} (h : Canonical d) :
    Canonical (unitAction img d action param src extra) := by
  unfold Machine.unitAction
  split
  · split
    · exact h.requestChange
    · exact h
  · exact h.withdrawUnit
  · exact .ite h ⟨h.wf⟩
  · exact h.reacquire
  · exact h.orderDrive
  · exact h

theorem Canonical.actOrder {cat cond src : Nat} {task : Option Nat} {addr extra : Nat} (h : Canonical d) :
    Canonical (actOrder img d cat cond src task addr extra) := by
  unfold Machine.actOrder
  dsimp only
  split
  · exact h
  · exact .ite h.countOrder.condReport.unitAction h.countOrder

theorem Canonical.actOrders {cond src : Nat} {task : Option Nat} {addr extra : Nat} (h : Canonical d) :
    Canonical (actOrders img d cond src task addr extra) :=
  h.actOrder.actOrder

theorem Canonical.unitCondition {src cond addr extra : Nat} (h : Canonical d) :
    Canonical (unitCondition img d src cond addr extra) :=
  .ite (.foldl (.ite h.condReport.actOrders.fenceSilent h.condReport.actOrders) (fun _ _ h1 => h1.holdUnit))
    (.ite h.condReport.actOrders.fenceSilent h.condReport.actOrders)

theorem Canonical.directDone {e addr status : Nat} {out : Option (Nat × Nat)} {result : List Byte}
    (h : Canonical d) : Canonical (directDone img d e addr status out result) := by
  unfold Machine.directDone
  refine .ite (Canonical.unitCondition (Canonical.onCipher ?_)) (Canonical.onCipher ?_)
  · dsimp only
    split
    · exact .foldl_fst h (fun _ _ h1 => h1.memPacket)
    · exact .ite (Canonical.setHandle (.foldl_fst h (fun _ _ h1 => h1.memPacket))) (Canonical.commitBuffer
        (.foldl_fst h (fun _ _ h1 => h1.memPacket)))
  · dsimp only
    split
    · exact .foldl_fst h (fun _ _ h1 => h1.memPacket)
    · exact .ite (Canonical.setHandle (.foldl_fst h (fun _ _ h1 => h1.memPacket))) (Canonical.commitBuffer
        (.foldl_fst h (fun _ _ h1 => h1.memPacket)))

theorem Canonical.directEnd {e status st : Nat} {result : List Byte} (h : Canonical d) :
    Canonical (directEnd img d e status st result) := by
  unfold Machine.directEnd
  split
  · exact h
  · exact Canonical.directDone (h.foldl (fun _ _ h1 => h1.decReaders))

theorem Canonical.directError {e most : Nat} (h : Canonical d) : Canonical (directError img d e most) := by
  unfold Machine.directError
  dsimp only
  split
  · exact h
  · exact h.freshNat.directEnd

/-! ### Machine/Dispatcher -/

theorem Canonical.takeNops (h : Canonical d) : Canonical (takeNops d) :=
  .ite h ⟨h.wf⟩

theorem Canonical.nextStep (h : Canonical d) : Canonical (nextStep d) :=
  Canonical.takeNops ⟨h.wf⟩

theorem Canonical.answerCommit {c : Nat} {rdVal : Word} (h : Canonical d) :
    Canonical (answerCommit d c rdVal) := by
  unfold Machine.answerCommit
  dsimp only
  split
  · exact h
  · exact h.wd.onTsk.onStatus.onPort.retire

theorem Canonical.settleCommit {c : Nat} (h : Canonical d) : Canonical (settleCommit d c) :=
  .ite h h.answerCommit

theorem Canonical.addBusy {c : Nat} (h : Canonical d) : Canonical (addBusy d c) :=
  ⟨h.wf⟩

theorem Canonical.endBusy {c : Nat} (h : Canonical d) : Canonical (endBusy d c) :=
  .ite h.addBusy.onTsk h

theorem Canonical.endOnCore {c detail cond : Nat} (h : Canonical d) : Canonical (endOnCore d c detail cond) :=
  .ite h.endBusy (.ite h.endBusy.answerCommit (.ite h.endBusy (.ite h.endBusy h.endBusy.onTsk)))

theorem Canonical.startNext {s : Nat} (h : Canonical d) : Canonical (startNext d s) :=
  .ite h (.ite h.setUnit.forgetMessage h.setUnit)

theorem Canonical.dropJob {s n : Nat} (h : Canonical d) : Canonical (dropJob d s n) :=
  .ite h.setUnit (.ite h.setUnit h)

theorem Canonical.endOnUnits {n src detail cond : Nat} (h : Canonical d) :
    Canonical (endOnUnits d n src detail cond) :=
  .ite (h.endOnCore.foldl (fun _ _ h1 => h1.endOnCore)) h.dropJob

theorem Canonical.emptyOutputs {n : Nat} (h : Canonical d) : Canonical (emptyOutputs img d n) :=
  h.foldl (fun _ _ h1 => h1.setHandle)

theorem Canonical.unpin {n : Nat} (h : Canonical d) : Canonical (unpin img d n) :=
  h.emptyOutputs.foldl (fun _ _ h1 => h1.decReaders)

theorem Canonical.commitOutputs {outs : List HEntry} {st : Nat} (h : Canonical d) :
    Canonical (commitOutputs img d outs st) :=
  h.foldl (fun _ _ h1 => h1.enterFinal)

theorem Canonical.fallBack {n : Nat} {result : List Byte} (h : Canonical d) :
    Canonical (fallBack img d n result) :=
  h.commitOutputs.finishTask

theorem Canonical.freeDetects {units : List Nat} (h : Canonical d) : Canonical (freeDetects img units d) :=
  .foldl ⟨h.wf⟩ (fun _ _ h1 => h1.unitCondition)

theorem Canonical.leaveUnits {t : TaskEntry} {units : List Nat} (h : Canonical d) :
    Canonical (leaveUnits img t units d) :=
  .ite h.freeDetects h.freeDetects.startNext

theorem Canonical.taskOutcome {n src home cond addr extra detail : Nat} {result : List Byte}
    (h : Canonical d) : Canonical (taskOutcome img d n src home cond addr extra detail result) := by
  unfold Machine.taskOutcome
  refine .ite (.ite (Canonical.actOrders (Canonical.condReport (.ite (Canonical.fallBack (Canonical.onTask
    (.ite (Canonical.countEv (.ite h.endOnUnits.unpin (.ite h.emptyOutputs h))) (.ite h.endOnUnits.unpin
    (.ite h.emptyOutputs h))))) (Canonical.condReport (Canonical.fallBack (Canonical.onTask (.ite
    (Canonical.countEv (.ite h.endOnUnits.unpin (.ite h.emptyOutputs h))) (.ite h.endOnUnits.unpin (.ite
    h.emptyOutputs h))))))))) (.ite (Canonical.actOrders (Canonical.condReport (Canonical.finishTask
    (Canonical.onTask (.ite (Canonical.countEv (.ite h.endOnUnits.unpin (.ite h.emptyOutputs h))) (.ite
    h.endOnUnits.unpin (.ite h.emptyOutputs h))))))) (.foldl (Canonical.actOrders (Canonical.condReport
    (Canonical.finishTask (Canonical.onTask (.ite (Canonical.countEv (.ite h.endOnUnits.unpin (.ite
    h.emptyOutputs h))) (.ite h.endOnUnits.unpin (.ite h.emptyOutputs h))))))) (fun _ _ h1 =>
    h1.holdUnit)))) ?_
  dsimp only
  split
  · exact .ite (Canonical.actOrders (Canonical.condReport (Canonical.finishTask (Canonical.onTask (.ite
      (Canonical.countEv (.ite h.endOnUnits.unpin (.ite h.emptyOutputs h))) (.ite h.endOnUnits.unpin (.ite
      h.emptyOutputs h))))))) (.foldl (Canonical.actOrders (Canonical.condReport (Canonical.finishTask
      (Canonical.onTask (.ite (Canonical.countEv (.ite h.endOnUnits.unpin (.ite h.emptyOutputs h))) (.ite
      h.endOnUnits.unpin (.ite h.emptyOutputs h))))))) (fun _ _ h1 => h1.holdUnit))
  · exact .ite (Canonical.actOrders (Canonical.condReport (Canonical.countEv (Canonical.setTask
      (Canonical.onTask (.ite (Canonical.countEv (.ite h.endOnUnits.unpin (.ite h.emptyOutputs h))) (.ite
      h.endOnUnits.unpin (.ite h.emptyOutputs h)))))))) (.ite (Canonical.actOrders (Canonical.condReport
      (Canonical.fallBack (Canonical.onTask (.ite (Canonical.countEv (.ite h.endOnUnits.unpin (.ite
      h.emptyOutputs h))) (.ite h.endOnUnits.unpin (.ite h.emptyOutputs h))))))) (.ite (Canonical.actOrders
      (Canonical.condReport (Canonical.finishTask (Canonical.onTask (.ite (Canonical.countEv (.ite
      h.endOnUnits.unpin (.ite h.emptyOutputs h))) (.ite h.endOnUnits.unpin (.ite h.emptyOutputs h)))))))
      (.foldl (Canonical.actOrders (Canonical.condReport (Canonical.finishTask (Canonical.onTask (.ite
      (Canonical.countEv (.ite h.endOnUnits.unpin (.ite h.emptyOutputs h))) (.ite h.endOnUnits.unpin (.ite
      h.emptyOutputs h))))))) (fun _ _ h1 => h1.holdUnit))))

theorem Canonical.taskCondition {n src home cond addr extra detail : Nat} {result : List Byte}
    (h : Canonical d) : Canonical (taskCondition img d n src home cond addr extra detail result) :=
  .ite h.taskOutcome.leaveUnits h.taskOutcome

theorem Canonical.poisonInput {n home addr : Nat} (h : Canonical d) :
    Canonical (poisonInput img d n home addr) := by
  unfold Machine.poisonInput
  dsimp only
  split
  · exact .ite h h.poisonHandle
  · exact h

theorem Canonical.abortIdle {c cond : Nat} (h : Canonical d) : Canonical (abortIdle d c cond) :=
  .ite h.onTsk h

theorem Canonical.parityHalt {c : Nat} (h : Canonical d) : Canonical (parityHalt d c) :=
  h.haltCore

theorem Canonical.discardCommands {c : Nat} (h : Canonical d) : Canonical (discardCommands d c) :=
  h.countEv.onPort

theorem Canonical.detectOn {d0 : Dyn} {home src cond addr extra : Nat} (h : Canonical d0) :
    Canonical (detectOn img d0 home src cond addr extra) := by
  unfold Machine.detectOn
  refine .ite (Canonical.unitCondition (Canonical.directError (.ite h.discardCommands h))) (.ite
    (Canonical.parityHalt (.ite h.discardCommands h)) ?_)
  dsimp only
  split
  · exact .ite (Canonical.poisonInput (Canonical.taskCondition (.ite h.discardCommands h)))
      (Canonical.taskCondition (.ite h.discardCommands h))
  · exact .ite (Canonical.abortIdle (Canonical.unitCondition (.ite h.discardCommands h)))
      (Canonical.unitCondition (.ite h.discardCommands h))

theorem Canonical.detection {s cond addr extra : Nat} (h : Canonical d) :
    Canonical (detection img d s cond addr extra) :=
  h.foldl (fun _ _ h1 => h1.detectOn)

theorem Canonical.releaseUnit {s : Nat} (h : Canonical d) : Canonical (releaseUnit d s) :=
  h.setUnit.startNext

theorem Canonical.commitTask {n final : Nat} {keep : List Nat} {result : List Byte} (h : Canonical d) :
    Canonical (commitTask img d n final keep result) :=
  Canonical.finishTask (.foldl (h.foldl (fun _ _ h1 => h1.enterFinal)) (fun _ _ h1 => h1.decReaders))

theorem Canonical.dropDetect {r : Raised} (h : Canonical d) : Canonical (dropDetect d r) :=
  ⟨h.wf⟩

theorem Canonical.coreCompletion {n : Nat} (h : Canonical d) : Canonical (coreCompletion img d n) := by
  unfold Machine.coreCompletion
  refine .ite h ?_
  dsimp only
  split
  · exact h
  · exact .ite h.taskCondition (.ite h.taskCondition (h.commitTask.endBusy.answerCommit.foldl (fun _ _ h1 =>
      h1.endBusy.answerCommit)))

theorem Canonical.maskAlarm {s task stream band : Nat} {excess : Int} (h : Canonical d) :
    Canonical (maskAlarm d s task stream band excess) :=
  Canonical.raiseUnit (.ite ⟨h.wf⟩ (Canonical.eventTask ⟨h.wf⟩))

theorem Canonical.writeHeaders {s : Nat} {hs : List (Nat × List Byte)} (h : Canonical d) :
    Canonical (writeHeaders img s hs d) :=
  h.foldl (fun _ _ h1 => .ite h1.memStore h1.memStore.unitCondition)

theorem Canonical.engineCompletion {n s : Nat} {r : JobResult} (h : Canonical d) :
    Canonical (engineCompletion img d n s r) := by
  unfold Machine.engineCompletion
  dsimp only
  split
  · exact h.taskCondition
  · refine .ite h.taskCondition ?_
    split
    · exact h.commitTask.releaseUnit.writeHeaders.maskAlarm
    · exact h.commitTask.releaseUnit.writeHeaders

theorem Canonical.taskCommit {s : Nat} (h : Canonical d) : Canonical (taskCommit img d s) := by
  unfold Machine.taskCommit
  split
  · exact h
  · split
    · exact h.dropDetect.detection
    · refine .ite h.coreCompletion ?_
      split
      · exact h.engineCompletion
      · exact h

theorem Canonical.markParity {unit cond addr : Nat} (h : Canonical d) :
    Canonical (markParity d unit cond addr) :=
  .ite h.onCore h

theorem Canonical.keepCore {n u : Nat} (h : Canonical d) : Canonical (keepCore d n u) :=
  .ite ⟨h.wf⟩ h

theorem Canonical.completeTwait {c n : Nat} {t : TaskEntry} {shadow : Bool} (h : Canonical d) :
    Canonical (completeTwait d c n t shadow) :=
  h.wd.wd.wd.wd.wp.onStatus.onTsk.retire

theorem Canonical.sendTask {n s : Nat} {shadow : Option Nat} (h : Canonical d) :
    Canonical (sendTask img d n s shadow) := by
  unfold Machine.sendTask
  refine .ite ?_ (Canonical.setUnit (Canonical.countEv (Canonical.setTask (.foldl (.foldl ⟨h.wf⟩ (fun _ _ h1
    => h1.incReaders)) (fun _ _ h1 => h1.setHandle)))))
  dsimp only
  split
  · exact Canonical.completeTwait (Canonical.completeTwait (Canonical.countEv (Canonical.setTask (.foldl
      (.foldl ⟨h.wf⟩ (fun _ _ h1 => h1.incReaders)) (fun _ _ h1 => h1.setHandle)))))
  · exact Canonical.completeTwait (Canonical.countEv (Canonical.setTask (.foldl (.foldl ⟨h.wf⟩ (fun _ _ h1
      => h1.incReaders)) (fun _ _ h1 => h1.setHandle))))

theorem Canonical.arbitrate {l : List Nat} {first : Bool} (h : Canonical d) :
    Canonical (arbitrate img l first d) := by
  induction l generalizing first d with
  | nil => exact h
  | cons n rest ih =>
    unfold Machine.arbitrate
    refine .ite (ih h) ?_
    dsimp only
    split
    · rename_i e
      refine ih (.of_snd e (.ite_snd ?_ h))
      split
      · exact h
      · exact .ite h.keepCore h
      · exact h
    · exact .ite (ih (.ite h.finishTask h.taskCondition)) (.ite h.taskCondition h.sendTask)

theorem Canonical.taskCmdWrite {m : Master} {v : Nat} (h : Canonical d) : Canonical (taskCmdWrite img d m v) :=
  .ite h.masterRefused ⟨h.wf⟩

theorem Canonical.postTask {n base : Nat} (h : Canonical d) :
    ∀ d1, postTask img d n base = some d1 → Canonical d1 := by
  intro d' e
  unfold Machine.postTask at e
  extract_lets a at e
  split at e
  rename_i d1 r e1
  have h1 : Canonical d1 := .of_fst e1 h.memLoad
  split at e
  · cases e
    exact h1.setTask.writeComp.taskCondition
  · extract_lets t0 nin nout tooLong at e
    split at e
    rename_i d2 r2 e2
    have h2 : Canonical d2 := .of_fst e2 (.ite_fst h1 h1.memLoad)
    extract_lets hs ins outs t1 invalid _ awaited d3 done d4 at e
    split at e
    · cases e
      exact h2.setTask.writeComp.taskCondition
    · split at e
      · cases e
      · have h4 : Canonical d4 := h2.writeComp.setTask
        split at e
        · split at e
          · cases e
            exact h4.finishTask
          · cases e
            exact h4.checkReady
        · cases e
          exact h4.checkReady

theorem Canonical.cancelTask {n : Nat} {byCmd : Bool} (h : Canonical d) :
    Canonical (cancelTask img d n byCmd) := by
  unfold Machine.cancelTask
  dsimp only
  split
  · exact .ite ⟨h.wf⟩ h
  · exact .ite ⟨h.wf⟩ h
  · exact h.finishTask
  · exact h.finishTask
  · exact h.endOnUnits.unpin.finishTask.leaveUnits

theorem Canonical.headCmd {op task : Nat} {f : Dyn → Option Dyn} {d0 : Dyn} (h : Canonical d0)
    (hf : ∀ d d1, Canonical d → f d = some d1 → Canonical d1) : Canonical (headCmd op task f d0) := by
  unfold Machine.headCmd
  dsimp only
  split
  · exact h.takeNops
  · refine .ite ?_ h.takeNops
    split
    · rename_i e
      exact Canonical.nextStep (hf _ _ (Canonical.withDisp h.takeNops) e)
    · exact h.takeNops

theorem Canonical.walkHandle {x : Nat} (h : Canonical d) : Canonical (walkHandle img d x) :=
  ⟨(Canonical.foldl_fst h (fun _ _ h1 => .ite h1.taskCondition h1.setTask.checkReady)).wf⟩

theorem Canonical.boundaryLate {tb : Int} {n : Nat} (h : Canonical d) : Canonical (boundaryLate img tb d n) := by
  unfold Machine.boundaryLate
  dsimp only
  split
  · exact .ite (.ite h.finishTask h.taskCondition) h
  · exact .ite (.ite h.finishTask h.taskCondition) h
  · exact .ite h.taskCondition h
  · exact h

theorem Canonical.slotBoundary {tb : Int} (h : Canonical d) : Canonical (slotBoundary img tb d) :=
  h.foldl (fun _ _ h1 => h1.boundaryLate)

/-! ### Machine/Engine -/

theorem Canonical.readPackets {w : Sender} {l : List (Nat × Nat)} {got : List Byte} (h : Canonical d) :
    Canonical (readPackets img w l got d).1 := by
  induction l generalizing got d with
  | nil => exact h
  | cons x rest ih => exact .ite_fst (ih h.memPacket) h.memPacket

theorem Canonical.writePackets {w : Sender} {l : List (Nat × List Byte)} (h : Canonical d) :
    Canonical (writePackets img w l d).1 := by
  induction l generalizing d with
  | nil => exact h
  | cons x rest ih => exact .ite_fst (ih h.memPacket) h.memPacket

theorem Canonical.readBuf {j : Job} {w : Want} (h : Canonical d) : Canonical (readBuf img d j w).1 := by
  unfold Machine.readBuf
  refine .ite_fst h (.ite_fst (.ite_fst h h) ?_)
  split
  · rename_i e
    exact .of_fst e h.readPackets
  · rename_i e
    exact .of_fst e h.readPackets

theorem Canonical.readBufs {j : Job} {l : List Want} {got : List Got} (h : Canonical d) :
    Canonical (readBufs img j l got d).1 := by
  induction l generalizing got d with
  | nil => exact h
  | cons w rest ih =>
    unfold Machine.readBufs
    split
    · rename_i e
      exact ih (.of_fst e h.readBuf)
    · rename_i e
      exact .of_fst e h.readBuf

theorem Canonical.withBufs {j : Job} {bad : Option Nat} {wants : List Want}
    {f : List Got → Dyn → Dyn × JobEnd} (h : Canonical d)
    (hf : ∀ l d1, Canonical d1 → Canonical (f l d1).1) : Canonical (withBufs img j bad wants d f).1 := by
  unfold Machine.withBufs
  split
  · exact h
  · split
    · rename_i d1 _ e
      have hd1 : Canonical d1 := .of_fst e h.readBufs
      exact hf _ _ hd1
    · rename_i e
      exact .of_fst e h.readBufs

theorem Canonical.landWrites {j : Job} {writes : List (Nat × List Byte)} (h : Canonical d) :
    Canonical (landWrites img d j writes).1 := by
  unfold Machine.landWrites
  split
  · rename_i e
    exact .of_fst e h.writePackets
  · rename_i e
    exact .of_fst e h.writePackets

theorem Canonical.countJob {s : Nat} {r : JobResult} (h : Canonical d) : Canonical (countJob d s r) :=
  .ite h.countEv.countEv.countEv (.ite h.countEv.countEv.countEv h)

theorem Canonical.endJob {j : Job} {x : Dyn × JobEnd} (h : Canonical x.1) : Canonical (endJob img j x) := by
  unfold Machine.endJob
  dsimp only
  split
  · exact h.countJob.setUnit
  · exact h.raiseTask
  · split
    · rename_i d e
      have hd : Canonical d := .of_fst e h.landWrites
      exact hd.countJob.setUnit
    · rename_i d _ _ e
      have hd : Canonical d := .of_fst e h.landWrites
      exact hd.raiseTask

theorem Canonical.runEngine {s kind : Nat} {f : Img → Job → Dyn → Dyn × JobEnd} (h : Canonical d)
    (hf : ∀ img1 x d1, Canonical d1 → Canonical (f img1 x d1).1) : Canonical (runEngine s kind f img d) := by
  unfold Machine.runEngine
  dsimp only
  split
  · exact h
  · refine .ite h ?_
    split
    · rename_i d1 _ _ e
      have hd1 : Canonical d1 := .of_fst e h.readPackets
      exact hd1.raiseTask
    · rename_i d1 _ e
      have hd1 : Canonical d1 := .of_fst e h.readPackets
      exact .ite (Canonical.endJob (hf _ _ _ hd1)) (.ite h hd1.endJob)

/-! ### Machine/Beam -/

theorem Canonical.weightJob {j : Job} (h : Canonical d) : Canonical (weightJob img j d).1 :=
  h.withBufs (fun _ _ h1 => .ite_fst h1 h1)

theorem Canonical.mapJob {j : Job} (h : Canonical d) : Canonical (mapJob img j d).1 := by
  unfold Machine.mapJob
  refine h.withBufs (fun _ _ h1 => ?_)
  dsimp only
  split
  · exact h1
  · exact h1.withBufs (fun _ _ h1' => h1')

/-! ### Machine/Bridle -/

theorem Canonical.contWrite {n slot off : Nat} {bytes : List Byte} (h : Canonical d) :
    Canonical (contWrite img d n slot off bytes) := by
  unfold Machine.contWrite
  dsimp only
  split
  · exact h
  · split
    · exact h
    · exact .ite h (.ite h.memStore h.memStore.onBridle)

theorem Canonical.closeCont {n slot : Nat} (h : Canonical d) : Canonical (closeCont img d n slot) := by
  unfold Machine.closeCont
  dsimp only
  split
  · exact h
  · split
    · exact h.onBridle
    · exact .ite h.onBridle (.ite (Canonical.event (Canonical.onBridle (Canonical.onBridle
        (Canonical.commitBuffer (Canonical.contWrite (h.foldl (fun _ _ h1 => h1.contWrite))))))) (.ite
        (Canonical.onBridle (Canonical.onBridle (Canonical.commitBuffer (Canonical.contWrite (h.foldl (fun _
        _ h1 => h1.contWrite)))))) (Canonical.onBridle (Canonical.commitBuffer (Canonical.contWrite (h.foldl
        (fun _ _ h1 => h1.contWrite)))))))

theorem Canonical.closeAll {n : Nat} (h : Canonical d) : Canonical (closeAll img d n) :=
  h.foldl (fun _ _ h1 => h1.closeCont)

theorem Canonical.settleRx {nak : Dyn → Dyn} {n fuel : Nat} (h : Canonical d)
    (hnak : ∀ d, Canonical d → Canonical (nak d)) : Canonical (settleRx nak n fuel d) := by
  induction fuel generalizing d with
  | zero => exact h
  | succ fuel ih =>
    unfold Machine.settleRx
    split
    · exact ih (hnak _ h.onLane.countEv.protoViolation)
    · exact ih (hnak _ h.onLane)
    · exact ih (hnak _ h.onLane)
    · exact h

theorem Canonical.withUnit {nak : Dyn → Dyn} {want : Nat → Bool} {n : Nat} {f : List Nat → Nat → Dyn → Dyn}
    (h : Canonical d) (hnak : ∀ d1, Canonical d1 → Canonical (nak d1))
    (hf : ∀ l n1 d1, Canonical d1 → Canonical (f l n1 d1)) : Canonical (withUnit nak want n f d) := by
  unfold Machine.withUnit
  dsimp only
  split
  · exact .ite (Canonical.settleRx (hf _ _ _ (Canonical.onLane (h.settleRx hnak))) hnak) (h.settleRx hnak)
  · exact h.settleRx hnak

theorem Canonical.discardUnit {n kind : Nat} (h : Canonical d) : Canonical (discardUnit d n kind) :=
  h.countEv.protoViolation

theorem Canonical.openCont {n s : Nat} {i : StreamInfo} {q time : Nat} (h : Canonical d) :
    Canonical (openCont img d n s i q time) := by
  unfold Machine.openCont
  exact .ite h.onBridle.setHandle.contWrite (.ite h.onBridle.dropContainer
    (Canonical.withDisp h.onBridle.dropContainer))

theorem Canonical.fillCont {n : Nat} {i : StreamInfo} {x : Nat} {ws : List Nat} (h : Canonical d) :
    Canonical (fillCont img d n i x ws) := by
  unfold Machine.fillCont
  exact Canonical.onBridle (Canonical.contWrite (h.countEv.foldl (fun _ _ h1 => h1.protoViolation)))

theorem Canonical.iqUnit {n : Nat} {u : List Nat} {time : Nat} (h : Canonical d) :
    Canonical (iqUnit img n u time d) := by
  unfold Machine.iqUnit
  dsimp only
  split
  · exact Canonical.discardUnit (.ite h.protoViolation h)
  · split
    · exact Canonical.discardUnit (.ite h.protoViolation h)
    · refine .ite (Canonical.discardUnit (.ite h.protoViolation h)) (.ite (Canonical.discardUnit (.ite
        h.protoViolation h)) (.ite (Canonical.discardUnit ?_) (.ite (Canonical.closeCont (Canonical.fillCont
        ?_)) (Canonical.fillCont ?_))))
      · split
        · exact .ite (.ite h.protoViolation h) (Canonical.openCont (Canonical.closeCont (.ite
            h.protoViolation h)))
        · exact Canonical.openCont (.ite h.protoViolation h)
      · split
        · exact .ite (.ite h.protoViolation h) (Canonical.openCont (Canonical.closeCont (.ite
            h.protoViolation h)))
        · exact Canonical.openCont (.ite h.protoViolation h)
      · split
        · exact .ite (.ite h.protoViolation h) (Canonical.openCont (Canonical.closeCont (.ite
            h.protoViolation h)))
        · exact Canonical.openCont (.ite h.protoViolation h)

theorem Canonical.noNak (h : Canonical d) : Canonical (noNak d) :=
  h

theorem Canonical.brCtrlSend {m : Master} {n v : Nat} (h : Canonical d) : Canonical (brCtrlSend img d m n v) := by
  unfold Machine.brCtrlSend
  refine .ite h.writeRefused ?_
  dsimp only
  exact .ite h.memLoad.writeRefused h.memLoad.freshNat.onBridle

theorem Canonical.alarmUnit {n : Nat} {u : List Nat} {x : Nat} (h : Canonical d) :
    Canonical (alarmUnit n u x d) :=
  Canonical.event (Canonical.onBridle (.ite h.protoViolation h))

theorem Canonical.boardMessage {n : Nat} {u : List Nat} {x : Nat} (h : Canonical d) :
    Canonical (boardMessage n u x d) :=
  .ite (Canonical.event (.ite h.protoViolation h)) (Canonical.event (Canonical.event (.ite h.protoViolation
    h)))

theorem Canonical.delayResp {n : Nat} {u : List Nat} {time : Nat} (h : Canonical d) :
    Canonical (delayResp img n u time d) := by
  unfold Machine.delayResp
  dsimp only
  split
  · exact .ite (Canonical.onTime (.ite h.protoViolation h)) (Canonical.discardUnit (.ite h.protoViolation
      h))
  · exact Canonical.discardUnit (.ite h.protoViolation h)

/-! ### Machine/Messages -/

theorem Canonical.answerMalformed {l : List (List Byte)} (h : Canonical d) :
    Canonical (answerMalformed l d) := by
  induction l generalizing d with
  | nil => exact ⟨h.wf⟩
  | cons m rest ih =>
    unfold Machine.answerMalformed
    split
    · exact ih ⟨h.wf⟩
    · exact ⟨h.wf⟩

theorem Canonical.messageIn {m : List Byte} (h : Canonical d) : Canonical (messageIn d m) :=
  h.answerMalformed

theorem Canonical.answer {op : Nat} {tag : Half} {code : Nat} {body : List Byte} (h : Canonical d) :
    Canonical (answer d op tag code body) :=
  Canonical.answerMalformed ⟨h.wf⟩

theorem Canonical.takeCmd (h : Canonical d) : Canonical (takeCmd d) :=
  ⟨h.wf⟩

/-! ### Machine/Paretlink -/

theorem Canonical.nakNow {n : Nat} (h : Canonical d) : Canonical (nakNow n d) := by
  unfold Machine.nakNow
  exact h.onLink

theorem Canonical.endMessage {n v : Nat} {bad whole : Bool} (h : Canonical d) :
    Canonical (endMessage img d n v bad whole) := by
  unfold Machine.endMessage
  dsimp only
  split
  · exact h
  · exact .ite h.onVc (.ite (.ite (.ite h.onVc.protoViolation h.onVc) (Canonical.messageIn (.ite
      h.onVc.protoViolation h.onVc))) (Canonical.onVc (Canonical.commitBuffer (Canonical.memStore (.ite
      h.onVc.protoViolation h.onVc)))))

theorem Canonical.discardMessage {v : Nat} (h : Canonical d) : Canonical (discardMessage d v) :=
  h.onVc

theorem Canonical.startMessage {n v x time : Nat} (h : Canonical d) :
    Canonical (startMessage img d n v x time) :=
  .ite h.onVc.protoViolation.discardMessage (.ite (.ite h.onVc.protoViolation.discardMessage h.onVc.onVc)
    (.ite h.onVc.protoViolation.discardMessage (.ite h.onVc.discardMessage.event h.onVc.setHandle.onVc)))

theorem Canonical.fillMessage {d0 : Dyn} {n v : Nat} {ws : List Nat} (h : Canonical d0) :
    Canonical (fillMessage img d0 n v ws) := by
  unfold Machine.fillMessage
  dsimp only
  split
  · exact h
  · exact Canonical.onVc (.ite_fst h.countEv h.countEv.memStore)

theorem Canonical.acceptData {n : Nat} {u : List Nat} {time : Nat} (h : Canonical d) :
    Canonical (acceptData img d n u time) :=
  .ite (.ite h.discardUnit.onVc h.discardUnit) (.ite (Canonical.discardUnit (.ite (Canonical.startMessage
    (.ite h.protoViolation.endMessage h)) h)) (.ite (Canonical.endMessage (Canonical.onVc
    (Canonical.fillMessage (.ite (Canonical.startMessage (.ite h.protoViolation.endMessage h)) h))))
    (Canonical.onVc (Canonical.fillMessage (.ite (Canonical.startMessage (.ite h.protoViolation.endMessage
    h)) h)))))

theorem Canonical.checkedUnit {f : List Nat → Nat → Dyn → Dyn} {n : Nat} {u : List Nat} {time : Nat}
    (h : Canonical d) (hf : ∀ l n1 d1, Canonical d1 → Canonical (f l n1 d1)) :
    Canonical (checkedUnit f n u time d) :=
  .ite (hf _ _ _ (.ite h.protoViolation h)) h.onLane.discardUnit.nakNow

theorem Canonical.linkUnit {l : Lane} {type : Nat} {f : List Nat → Nat → Dyn → Dyn} (h : Canonical d)
    (hf : ∀ l1 n d1, Canonical d1 → Canonical (f l1 n d1)) : Canonical (linkUnit l type f d) :=
  h.when_ (fun _ h1 => h1.withUnit (fun _ h2 => h2.nakNow) (fun _ _ _ h2 => h2.checkedUnit hf))

theorem Canonical.dataUnit {n : Nat} {u : List Nat} {time : Nat} (h : Canonical d) :
    Canonical (dataUnit img n u time d) :=
  .ite h.onLink.acceptData (.ite h.countEv.onLink h.nakNow)

theorem Canonical.messageDone {n : Nat} {m : SentMsg} (h : Canonical d) :
    Canonical (messageDone img d n m) := by
  unfold Machine.messageDone
  extract_lets d1 desc
  have h1 : Canonical d1 := h.onVc
  clear_value d1 desc
  refine .ite (Canonical.withAnswers h1) ?_
  split
  rename_i e
  exact (Canonical.of_fst e h1.memLoad).memStore

theorem Canonical.acknowledge {n p : Nat} (h : Canonical d) : Canonical (acknowledge img d n p).1 :=
  .ite_fst h (h.onLink.foldl (fun _ _ h1 => h1.messageDone))

theorem Canonical.ackUnit {n : Nat} {u : List Nat} {x : Nat} (h : Canonical d) :
    Canonical (ackUnit img n u x d) :=
  .ite h.acknowledge h.protoViolation

theorem Canonical.resendAll {n : Nat} (h : Canonical d) : Canonical (resendAll d n) :=
  h.onLink

theorem Canonical.nakUnit {n : Nat} {u : List Nat} {x : Nat} (h : Canonical d) :
    Canonical (nakUnit img n u x d) :=
  .ite h.acknowledge.resendAll h.protoViolation

theorem Canonical.creditUnit {u : List Nat} {x : Nat} (h : Canonical d) : Canonical (creditUnit u x d) :=
  h.onVc

theorem Canonical.restartTx {v : Nat} (h : Canonical d) : Canonical (restartTx img d v) := by
  unfold Machine.restartTx
  refine Canonical.onVc ?_
  split
  · split
    · exact h.decReaders
    · exact h
  · exact h

theorem Canonical.resetUnit {n : Nat} {x : List Nat} {x1 : Nat} (h : Canonical d) :
    Canonical (resetUnit img n x x1 d) :=
  Canonical.event (Canonical.onLink (.foldl (h.foldl (fun _ _ h1 => h1.endMessage)) (fun _ _ h1 =>
    h1.restartTx)))

theorem Canonical.rxConsume {x : Master} {v : Nat} {x1 : Half} (h : Canonical d) :
    Canonical (rxConsume img d x v x1) :=
  .ite h (.ite h.writeRefused h.onVc)

theorem Canonical.txPost {x : Master} {v : Nat} {x1 : Half} (h : Canonical d) :
    Canonical (txPost img d x v x1) :=
  .ite h (.ite h.writeRefused h.onVc)

/-! ### Machine/Cipher -/

theorem Canonical.gcmGo {j : Job} {e : Nat} {m : Msg} {bad : Option Nat} {res : Option Suspended}
    (h : Canonical d) : Canonical (gcmGo img j e m bad res d).1 :=
  .ite_fst h (h.withBufs (fun _ _ h1 => h1.countEv))

theorem Canonical.gcmJob {e : Nat} {j : Job} (h : Canonical d) : Canonical (gcmJob e img j d).1 :=
  h.gcmGo

theorem Canonical.resumedRun {e kind : Nat} {x : Suspended} (h : Canonical d) :
    Canonical (resumedRun img d e kind x) :=
  .ite h h.gcmGo.endJob

theorem Canonical.directRead {s : Nat} {l : List Want} {got : List Got} (h : Canonical d) :
    Canonical (directRead img s l got d).1 := by
  induction l generalizing got d with
  | nil => exact h
  | cons w rest ih =>
    unfold Machine.directRead
    refine .ite_fst h ?_
    split
    · rename_i e
      exact ih (.of_fst e h.readPackets)
    · rename_i e
      exact .of_fst e h.readPackets

theorem Canonical.directRun {e kind : Nat} (h : Canonical d) : Canonical (directRun img d e kind) := by
  unfold Machine.directRun
  dsimp only
  split
  · exact h
  · refine .ite h (.ite h.directEnd ?_)
    split
    · rename_i d1 _ _ e1
      have hd1 : Canonical d1 := .of_fst e1 h.directRead
      exact hd1.directError.unitCondition
    · rename_i d1 _ e1
      have hd1 : Canonical d1 := .of_fst e1 h.directRead
      split
      · rename_i d2 _ _ e2
        have hd2 : Canonical d2 := .of_fst e2 hd1.countEv.writePackets
        exact hd2.directError.unitCondition
      · rename_i d2 e2
        have hd2 : Canonical d2 := .of_fst e2 hd1.countEv.writePackets
        exact hd2.directEnd

theorem Canonical.saveContext {j : Job} {e : Nat} {tag : Nat × Nat} {n : Nat} {res : Option Suspended}
    (h : Canonical d) : Canonical (saveContext img j e tag n res d) := by
  unfold Machine.saveContext
  refine .ite h.gcmGo.endJob ?_
  dsimp only
  split
  · rename_i d1 _ e1
    have hd1 : Canonical d1 := .of_fst e1 h.readBufs
    exact hd1.endJob
  · rename_i d1 _ e1
    have hd1 : Canonical d1 := .of_fst e1 h.readBufs
    split
    · rename_i d2 _ _ e2
      have hd2 : Canonical d2 := .of_fst e2 hd1.countEv.landWrites
      exact hd2.raiseTask
    · rename_i d2 e2
      have hd2 : Canonical d2 := .of_fst e2 hd1.countEv.landWrites
      exact hd2.onCipher

theorem Canonical.suspendMsg {e blocks : Nat} (h : Canonical d) : Canonical (suspendMsg img d e blocks) := by
  unfold Machine.suspendMsg
  dsimp only
  split
  · exact h
  · refine .ite h ?_
    split
    · exact h.saveContext
    · split
      · rename_i d1 _ _ e1
        have hd1 : Canonical d1 := .of_fst e1 h.readPackets
        exact hd1.raiseTask
      · rename_i d1 _ e1
        have hd1 : Canonical d1 := .of_fst e1 h.readPackets
        exact hd1.saveContext

theorem Canonical.acquireLock {m : Master} {e : Nat} {urgent : Option Nat} (h : Canonical d) :
    Canonical (acquireLock img d m e urgent) := by
  unfold Machine.acquireLock
  refine .ite h.writeRefused (.ite h ?_)
  dsimp only
  split
  · exact h.onCipher.suspendMsg
  · exact h.onCipher

theorem Canonical.resumeMsg {e : Nat} (h : Canonical d) : Canonical (resumeMsg img d e) := by
  unfold Machine.resumeMsg
  dsimp only
  split
  · exact h.onCipher
  · exact .ite h.onCipher h.onCipher.endJob

theorem Canonical.resumeIdle {e : Nat} (h : Canonical d) : Canonical (resumeIdle img d e) :=
  .ite h.resumeMsg h

theorem Canonical.unlock {e : Nat} (h : Canonical d) : Canonical (unlock img d e) :=
  h.onCipher.resumeIdle

theorem Canonical.releaseLock {m : Master} {e : Nat} (h : Canonical d) : Canonical (releaseLock img d m e) :=
  .ite h.writeRefused h.unlock

theorem Canonical.forceUnlock {e : Nat} (h : Canonical d) : Canonical (forceUnlock img d e) :=
  .ite h h.unlock.lockReport

theorem Canonical.gcmRun {e kind : Nat} (h : Canonical d) : Canonical (gcmRun e kind img d) := by
  unfold Machine.gcmRun
  refine .ite h.directRun.resumeIdle (.ite h.resumeIdle ?_)
  split
  · exact h.resumeIdle.resumedRun
  · exact h.resumeIdle.runEngine (fun _ _ _ h1 => h1.gcmJob)

theorem Canonical.grantLock {e : Nat} (h : Canonical d) : Canonical (grantLock d e) :=
  .ite h.onCipher h

theorem Canonical.lockWrite {m : Master} {e op blocks : Nat} (h : Canonical d) :
    Canonical (lockWrite img d m e op blocks) := by
  unfold Machine.lockWrite
  split
  · exact .ite h h.writeRefused
  · exact h.acquireLock
  · exact h.acquireLock
  · exact h.releaseLock

theorem Canonical.directInvalid {e addr kind off : Nat} (h : Canonical d) :
    Canonical (directInvalid img d e addr kind off) :=
  h.condReport.directDone

theorem Canonical.cipherGo {m : Master} {e v : Nat} (h : Canonical d) : Canonical (cipherGo img d m e v) := by
  unfold Machine.cipherGo
  refine .ite h.writeRefused ?_
  dsimp only
  split
  · rename_i d1 _ _ e1
    have hd1 : Canonical d1 := .of_fst e1 h.readPackets
    exact hd1.directDone.unitCondition
  · rename_i d1 _ e1
    have hd1 : Canonical d1 := .of_fst e1 h.readPackets
    split
    · exact hd1.directInvalid
    · exact Canonical.onCipher (Canonical.setHandle (hd1.foldl (fun _ _ h1 => h1.incReaders)))

/-! ### Machine/Flash -/

theorem Canonical.seenFlash {reached : Bool} (h : Canonical d) : Canonical (seenFlash reached d).2 :=
  .ite_snd h h.freshNat.freshNat

theorem Canonical.leftFlash {j : FlashJob} {all : FlashSt} (h : Canonical d) :
    Canonical (leftFlash j all d).2 := by
  unfold Machine.leftFlash
  dsimp only
  split
  · exact h
  · exact h
  · exact h.freshNat

/-! ### Machine/Reset -/

theorem Canonical.islandReset {cause : Nat} {ready : Bool} : Canonical (islandReset d cause ready) :=
  ⟨Canonical.reset.wf⟩

theorem Canonical.aonRelease (h : Canonical d) : Canonical (aonRelease d) :=
  .ite h ⟨h.wf⟩

theorem Canonical.restartNow {d0 : Dyn} : Canonical (restartNow d0) := by
  unfold Machine.restartNow
  extract_lets d r
  have hr : Canonical r := Canonical.islandReset
  clear_value d r
  exact ⟨hr.wf⟩

/-! ### Machine/Tether -/

theorem Canonical.dropLock {n : Nat} (h : Canonical d) : Canonical (dropLock img d n) := by
  unfold Machine.dropLock
  exact Canonical.onTeth (.ite h.closeAll h)

theorem Canonical.dropWaiting {n : Nat} (h : Canonical d) : Canonical (dropWaiting img d n) :=
  Canonical.onBridle (h.foldl (fun _ _ h1 => h1.dropContainer.decReaders))

theorem Canonical.silenceLane {n st : Nat} (h : Canonical d) : Canonical (silenceLane img d n st) := by
  unfold Machine.silenceLane
  exact h.dropWaiting.dropLock.onTeth

theorem Canonical.startAttempt {n : Nat} {fast : Bool} (h : Canonical d) :
    Canonical (startAttempt img d n fast) :=
  h.silenceLane.onTeth

theorem Canonical.failLane {n : Nat} (h : Canonical d) : Canonical (failLane img d n) :=
  h.silenceLane.event

theorem Canonical.failAttempt {n reason : Nat} (h : Canonical d) : Canonical (failAttempt img d n reason) := by
  unfold Machine.failAttempt
  refine .ite h.event.failLane ?_
  dsimp only
  split
  · exact .ite h.event.onTeth.failLane h.event.onTeth.startAttempt
  · exact h.event.onTeth.failLane

theorem Canonical.beginQuiet {n : Nat} (h : Canonical d) : Canonical (beginQuiet d n) :=
  h.onTeth

theorem Canonical.laneCommand {n op : Nat} (h : Canonical d) : Canonical (laneCommand img d n op) :=
  .ite h (.ite (Canonical.startAttempt (Canonical.onTeth (.ite h.onTeth.event h))) (.ite (.ite
    (Canonical.onTeth (.ite h.onTeth.event h)) (.ite (.ite h h.beginQuiet) (.ite (Canonical.onTeth (.ite
    h.onTeth.event h)) h))) (.ite h.onTeth.startAttempt h)))

theorem Canonical.laneCtrl {m : Master} {n op : Nat} (h : Canonical d) : Canonical (laneCtrl img d m n op) :=
  .ite h.writeRefused (.ite h (.ite h.writeRefused h.laneCommand))

theorem Canonical.toPhase {n st : Nat} (h : Canonical d) : Canonical (toPhase d n st) :=
  h.onTeth

theorem Canonical.adaptTaps {n : Nat} (h : Canonical d) : Canonical (adaptTaps d n) :=
  .ite h h.freshNat.onTeth

theorem Canonical.bothEnd {n : Nat} (h : Canonical d) : Canonical (bothEnd img d n) :=
  .ite (.ite h.toPhase.onTeth.beginQuiet h.toPhase.onTeth) h.onTeth.failAttempt

theorem Canonical.gainLock {n seq : Nat} {takeover : Bool} (h : Canonical d) :
    Canonical (gainLock d n seq takeover) :=
  .ite h.onTeth.event h.onTeth

theorem Canonical.huntMarker {n align : Nat} {valid : Bool} {seq : Nat} (h : Canonical d) :
    Canonical (huntMarker d n align valid seq) := by
  unfold Machine.huntMarker
  dsimp only
  split
  · exact h.onTeth
  · refine .ite ?_ ?_
    · split
      · exact .ite h.gainLock h.onTeth
      · exact h.onTeth
    · split
      · exact h.onTeth
      · refine .ite ?_ h
        split
        · exact .ite h.gainLock h.onTeth
        · exact h.onTeth

theorem Canonical.loseFrame {n : Nat} (h : Canonical d) : Canonical (loseFrame img d n) := by
  unfold Machine.loseFrame
  dsimp only
  split
  · exact h.onLane
  · exact .ite h.onLane.dropLock.onTeth.event h.onLane

theorem Canonical.deliverFrame {n info : Nat} (h : Canonical d) : Canonical (deliverFrame img d n info) :=
  h.countEv.onLane

theorem Canonical.notePartner {n info : Nat} (h : Canonical d) : Canonical (notePartner d n info) := by
  unfold Machine.notePartner
  exact h.onTeth

theorem Canonical.retrainAsked {n : Nat} {before : Bool} (h : Canonical d) :
    Canonical (retrainAsked img d n before) := by
  unfold Machine.retrainAsked
  refine .ite ?_ h
  split
  · exact .ite h.startAttempt (.ite h h.event)
  · exact h

theorem Canonical.goodFrame {n info fixed : Nat} (h : Canonical d) :
    Canonical (goodFrame img d n info fixed) :=
  .ite (Canonical.failAttempt (Canonical.violation (.ite h.onTeth h))) (.ite (.ite (Canonical.loseFrame
    (Canonical.violation (.ite (Canonical.violation (.ite h.onTeth h)) (.ite h.onTeth h))))
    (Canonical.failAttempt (Canonical.violation (.ite (Canonical.violation (.ite h.onTeth h)) (.ite h.onTeth
    h))))) (.ite (Canonical.loseFrame (Canonical.violation (.ite (Canonical.violation (.ite h.onTeth h))
    (.ite h.onTeth h)))) (Canonical.retrainAsked (.ite (Canonical.deliverFrame (.ite (Canonical.onTeth
    (Canonical.notePartner (.ite (Canonical.violation (.ite h.onTeth h)) (.ite h.onTeth h))))
    (Canonical.onLane (Canonical.violation (Canonical.onTeth (Canonical.notePartner (.ite
    (Canonical.violation (.ite h.onTeth h)) (.ite h.onTeth h)))))))) (.ite (Canonical.onTeth
    (Canonical.notePartner (.ite (Canonical.violation (.ite h.onTeth h)) (.ite h.onTeth h))))
    (Canonical.onLane (Canonical.violation (Canonical.onTeth (Canonical.notePartner (.ite
    (Canonical.violation (.ite h.onTeth h)) (.ite h.onTeth h)))))))))))

theorem Canonical.noteFrame {n iters ps noise : Nat} (h : Canonical d) :
    Canonical (noteFrame img d n iters ps noise) := by
  unfold Machine.noteFrame
  exact h.onTeth

theorem Canonical.frameReceived {n frame fixed iters ps noise : Nat} (h : Canonical d) :
    Canonical (frameReceived img d n frame fixed iters ps noise) :=
  .ite h.violation (.ite (.ite h.noteFrame.adaptTaps.goodFrame h.noteFrame.adaptTaps.loseFrame) h)

/-! ### Machine/Power -/

theorem Canonical.onPower {f : PowerSt → PowerSt} (h : Canonical d) : Canonical (d.onPower f) :=
  ⟨h.wf⟩

theorem Canonical.unitOff {s : Nat} (h : Canonical d) : Canonical (unitOff img s d) := by
  unfold Machine.unitOff
  split
  · exact h.setCore.foldl (fun _ _ h1 => .ite h1.forceUnlock h1)
  · exact h.onTeth
  · exact h

theorem Canonical.clearBank {s : Nat} (h : Canonical d) : Canonical (clearBank d s) :=
  .ite h ⟨h.wf⟩

theorem Canonical.unitOn {s : Nat} (h : Canonical d) : Canonical (unitOn img s d) := by
  unfold Machine.unitOn
  split
  · exact h.setCore
  · exact .ite h h.onTeth
  · exact h

theorem Canonical.domainSwitchOff {k : Nat} (h : Canonical d) : Canonical (domainSwitchOff img d k) :=
  Canonical.onPower (h.foldl (fun _ _ h1 => h1.unitOff))

theorem Canonical.domainSwitchOn {k : Nat} (h : Canonical d) : Canonical (domainSwitchOn img d k) :=
  h.foldl (fun _ _ h1 => h1.unitOn)

theorem Canonical.orderFences {k : Nat} (h : Canonical d) : Canonical (orderFences d k) :=
  h.onPower.foldl (fun _ _ h1 => h1.requestChange)

theorem Canonical.releaseFences {k : Nat} (h : Canonical d) : Canonical (releaseFences d k) :=
  h.foldl (fun _ _ h1 => .ite h1.setChanges.requestChange h1.setChanges)

theorem Canonical.enterDeepsleep : Canonical (enterDeepsleep d) :=
  ⟨Canonical.reset.wf⟩

theorem Canonical.refuseDomain {k reason : Nat} (h : Canonical d) : Canonical (refuseDomain d k reason) :=
  Canonical.event (Canonical.onPower (.ite h.releaseFences h))

theorem Canonical.raiseDomain {k : Nat} (h : Canonical d) : Canonical (raiseDomain d k) :=
  Canonical.onPower (h.foldl (fun _ _ h1 => h1.clearBank))

theorem Canonical.withdrawDomain {k : Nat} (h : Canonical d) : Canonical (withdrawDomain d k).1 := by
  unfold Machine.withdrawDomain
  split
  · exact h.refuseDomain
  · dsimp only
    exact h.onPower

theorem Canonical.settleChange (h : Canonical d) : Canonical (settleChange d) :=
  .ite h.onPower (.ite Canonical.enterDeepsleep h.onPower.event)

theorem Canonical.planChange {mode : Nat} (h : Canonical d) : Canonical (planChange img d mode) := by
  unfold Machine.planChange
  exact h.onPower

theorem Canonical.goOn {fuel : Nat} (h : Canonical d) : Canonical (goOn fuel d) := by
  induction fuel generalizing d with
  | zero => exact h
  | succ fuel ih =>
    unfold Machine.goOn
    refine .ite h ?_
    split
    · exact h.raiseDomain
    · exact .ite h.withdrawDomain (ih h.withdrawDomain)
    · exact h.settleChange

theorem Canonical.startPending (h : Canonical d) : Canonical (startPending img d) := by
  unfold Machine.startPending
  refine .ite h ?_
  dsimp only
  split
  · exact h
  · exact .ite h.onPower h.onPower.planChange.goOn

theorem Canonical.placeRequest {d0 : Dyn} {mode : Nat} (h : Canonical d0) :
    Canonical (placeRequest img d0 mode) := by
  unfold Machine.placeRequest
  refine .ite ?_ (.ite h.startPending h.startPending.planChange.goOn)
  split
  · exact h.startPending.onPower
  · exact h.startPending.onPower.event

theorem Canonical.powerRequest {m : Master} {mode : Nat} (h : Canonical d) :
    Canonical (powerRequest img d m mode) :=
  .ite h.writeRefused (.ite h.writeRefused (.ite h.refusal h.placeRequest))

theorem Canonical.leaveFenced (h : Canonical d) : Canonical (leaveFenced img d) := by
  unfold Machine.leaveFenced
  dsimp only
  split
  · exact h
  · exact .ite h.domainSwitchOff.onPower.goOn h

theorem Canonical.riseReleased (h : Canonical d) : Canonical (riseReleased img d) := by
  unfold Machine.riseReleased
  dsimp only
  split
  · exact h
  · exact .ite h.domainSwitchOn.onPower.goOn h

theorem Canonical.refusalReleased (h : Canonical d) : Canonical (refusalReleased d) := by
  unfold Machine.refusalReleased
  split
  · exact h
  · exact .ite h.onPower.goOn h

theorem Canonical.domainAgree (h : Canonical d) : Canonical (domainAgree img d) := by
  unfold Machine.domainAgree
  split
  · exact h
  · exact .ite (Canonical.leaveFenced (.ite h h.orderFences)) h

theorem Canonical.domainRefused {reason : Nat} (h : Canonical d) : Canonical (domainRefused img d reason) := by
  unfold Machine.domainRefused
  dsimp only
  split
  · exact h
  · exact .ite h.refuseDomain.goOn h

theorem Canonical.copyWord (h : Canonical d) : Canonical (copyWord img d) := by
  unfold Machine.copyWord
  split
  · exact .ite h.releaseFences.onPower.riseReleased h
  · exact h

theorem Canonical.powerGood (h : Canonical d) : Canonical (powerGood img d) := by
  unfold Machine.powerGood
  dsimp only
  split
  · exact h
  · exact .ite h h.freshNat.onPower.copyWord

theorem Canonical.powerGoodFail (h : Canonical d) : Canonical (powerGoodFail d) := by
  unfold Machine.powerGoodFail
  dsimp only
  split
  · exact h
  · exact .ite h h.onPower.event.goOn

theorem Canonical.powerTick (h : Canonical d) : Canonical (powerTick img d) :=
  h.copyWord.startPending

theorem Canonical.wakeEdge {pin : Nat} {rising : Bool} (h : Canonical d) :
    Canonical (wakeEdge img d pin rising) :=
  .ite h.placeRequest (.ite ⟨h.wf⟩ h)

theorem Canonical.avsWrite {d0 : Dyn} {target : Nat} {acked : BitVec 3} {fault : Bool} {readMv : Nat}
    (h : Canonical d0) : Canonical (avsWrite img d0 target acked fault readMv) :=
  .ite (Canonical.event (Canonical.onPower (.ite_snd h h.freshNat))) (Canonical.onPower (.ite_snd h
    h.freshNat))

theorem Canonical.avsUpdate {tj : Int} {acked : BitVec 3} {fault : Bool} {readMv : Nat} (h : Canonical d) :
    Canonical (avsUpdate img d tj acked fault readMv) :=
  .ite h h.avsWrite

/-! ### Machine/Pewter -/

theorem Canonical.setPw {c k : Nat} {m : PewterMat} (h : Canonical d) : Canonical (d.setPw c k m) :=
  h.onPort

theorem Canonical.pewterDone {t c : Nat} {cmd : PewterCmd} {r : Word} (h : Canonical d) :
    Canonical (pewterDone d t c cmd r) :=
  Canonical.settleCommit (Canonical.countEv ⟨h.wf⟩)

theorem Canonical.engineReadFailed {c a status : Nat} (h : Canonical d) :
    Canonical (engineReadFailed img d c a status) :=
  .ite h.raiseAccess h.onTsk

theorem Canonical.engineArea {c a n : Nat} (h : Canonical d) : Canonical (engineArea img c a n d).1 :=
  .foldl_fst h (fun _ _ h1 => .ite_fst h1.memPacket h1.memPacket.engineReadFailed)

theorem Canonical.engineRead {c : Nat} {l : List (Nat × Nat)} {acc : List (List Byte)} (h : Canonical d) :
    Canonical (engineRead img c l d acc).1 := by
  induction l generalizing d acc with
  | nil => exact h
  | cons x rest ih =>
    unfold Machine.engineRead
    split
    · rename_i e
      exact ih (.of_fst e h.engineArea)
    · rename_i e
      exact ih (.of_fst e h.engineArea)

theorem Canonical.engineStores {c : Nat} {l : List (Nat × List Byte)} (h : Canonical d) :
    Canonical (engineStores img c l d).1 := by
  induction l generalizing d with
  | nil => exact h
  | cons x rest ih =>
    have hstored {l : List (Nat × Nat)} {bytes : List Byte} : Canonical (Machine.plainStore img
        (l.foldl (fun d q => Machine.feedSig d c q.1 ((bytes.drop (q.1 - x.1)).take q.2)) d) c x.1 bytes).1 :=
      (h.foldl (fun _ _ h1 => h1.feedSig)).plainStore
    exact .ite_fst (ih hstored) (.ite_fst (ih hstored.storeFailed) hstored.storeFailed)

theorem Canonical.engineWrite {c : Nat} {runs : List (Nat × List Byte)} (h : Canonical d) :
    Canonical (engineWrite img d c runs).1 :=
  h.engineStores

theorem Canonical.readStored {c : Nat} {p : PCmd} (h : Canonical d) : Canonical (readStored img d c p).1 := by
  unfold Machine.readStored
  dsimp only
  split
  · exact h
  · exact h.engineRead

theorem Canonical.writeResult {c : Nat} {p : PCmd} {x : CMat} (h : Canonical d) :
    Canonical (writeResult img d c p x).1 :=
  .ite_fst h.engineWrite h.setPw

theorem Canonical.pewterStep {t : Fin 48} {op : Nat} {f : Img → Dyn → Nat → PCmd → Dyn × Option Word}
    (h : Canonical d) (hf : ∀ img1 d1 n x, Canonical d1 → Canonical (f img1 d1 n x).1) :
    Canonical (pewterStep t op f img d) := by
  unfold Machine.pewterStep
  refine .ite h ?_
  dsimp only
  split
  · exact h
  · split
    · exact h
    · exact .ite (Canonical.pewterDone (hf _ _ _ _ h)) h

theorem Canonical.finishWrite {r : Dyn × Int × Nat × Bool} {pv : Pivot} {more : Nat} (h : Canonical r.1) :
    Canonical (finishWrite r pv more).1 :=
  h

theorem Canonical.countPivot {c : Nat} {pv : Pivot} (h : Canonical d) : Canonical (countPivot d c pv) :=
  h.countEv

theorem Canonical.doLoad {c : Nat} {p : PCmd} (h : Canonical d) : Canonical (doLoad img d c p).1 := by
  unfold Machine.doLoad
  dsimp only
  split
  · rename_i e
    exact .of_fst e h.readStored
  · rename_i d1 _ e
    have hd1 : Canonical d1 := .of_fst e h.readStored
    exact hd1.setPw

theorem Canonical.doStore {c : Nat} {p : PCmd} (h : Canonical d) : Canonical (doStore img d c p).1 :=
  h.writeResult.finishWrite

theorem Canonical.doMul {c : Nat} {p : PCmd} (h : Canonical d) : Canonical (doMul img d c p).1 := by
  unfold Machine.doMul
  dsimp only
  split
  · rename_i e
    exact .of_fst e (.ite_fst h.readStored h)
  · rename_i d1 _ e
    have hd1 : Canonical d1 := .of_fst e (.ite_fst h.readStored h)
    exact hd1.writeResult.finishWrite

theorem Canonical.doChol {c : Nat} {p : PCmd} (h : Canonical d) : Canonical (doChol img d c p).1 :=
  h.countPivot.writeResult.finishWrite

theorem Canonical.doTrsm {c : Nat} {p : PCmd} (h : Canonical d) : Canonical (doTrsm img d c p).1 :=
  h.countPivot.writeResult.finishWrite

theorem Canonical.doQr {c : Nat} {p : PCmd} (h : Canonical d) : Canonical (doQr img d c p).1 := by
  unfold Machine.doQr
  dsimp only
  split
  · rename_i e
    exact .of_fst e (.ite_fst h.readStored h)
  · rename_i d1 _ e
    have hd1 : Canonical d1 := .of_fst e (.ite_fst h.readStored h)
    exact Canonical.setPw (Canonical.countPivot (.ite_fst hd1 hd1.setPw))

theorem Canonical.doDemap {c : Nat} {p : PCmd} (h : Canonical d) : Canonical (doDemap img d c p).1 := by
  unfold Machine.doDemap
  dsimp only
  split
  · rename_i e
    exact .of_fst e h.engineRead
  · rename_i d1 _ e
    have hd1 : Canonical d1 := .of_fst e h.engineRead
    exact hd1.engineWrite

theorem Canonical.contextOp {c : Core} {pn : Reg5} {rsv : BitVec 20} {f : Img → Dyn → Nat → Res}
    (h : Canonical d) (hf : ∀ img1 d1 n, Canonical d1 → CanonicalRes (f img1 d1 n)) :
    CanonicalRes (contextOp c pn rsv f img d) :=
  .ite (.exc h) (.ite (.exc h) (.ite (.exc h) (.ite (.exc h) (.ite (.exc h) (.ite (.wait h) (hf _ _ _
    h))))))

/-! ### Machine/System -/

theorem Canonical.csrRead {c i : Nat} (h : Canonical d) : Canonical (csrRead d c i).1 := by
  rw [csrRead_fst]
  exact .ite (Canonical.onCtl (Canonical.onCore ⟨h.wf⟩)) (.ite h.onCtl h)

theorem Canonical.csrWrite {c i : Nat} {w : Word} (h : Canonical d) : Canonical (csrWrite d c i w) :=
  .ite h.onStatus (.ite h.onCtl (.ite h.onCtl (.ite h.onCtl (.ite h.onCtl (.ite h.onCtl (.ite h.onCtl (.ite
    h.onCtl (.ite h.onCtl (.ite h.onCtl (.ite h.onCtl (.ite h.onCtl (.ite h.onCtl (.ite h.onVec (.ite
    h.onVec (.ite h.onVec (.ite h.onPort h))))))))))))))))

theorem Canonical.csrAccess {c : Core} {legal : Bool} {code : Byte} {read : Bool} {f : Dyn → Res} {x : Img}
    (h : Canonical d) (hf : ∀ d1, Canonical d1 → CanonicalRes (f d1)) :
    CanonicalRes (csrAccess c legal code read f x d) := by
  unfold Machine.csrAccess
  refine .ite (.exc h) ?_
  dsimp only
  split
  · exact .exc h
  · refine .ite (.ite (.exc h) (hf _ h)) ?_
    split
    · exact .done h
    · exact .ite (.exc h) (hf _ h)

theorem Canonical.eret {c : Core} {rsv : BitVec 18} {x : Img} (h : Canonical d) :
    CanonicalRes (eret c rsv x d) := by
  unfold Machine.eret
  refine .ite (.exc h) (.ite (.exc h) ?_)
  dsimp only
  split
  · exact .wait h.onCtl.wpc.takeAbort
  · exact .done h.onCtl

theorem Canonical.tcommit {c : Core} {rd ra : Reg5} {rsv : Byte} {final : Nat} {x : Img} (h : Canonical d) :
    CanonicalRes (tcommit c rd ra rsv final x d) :=
  .ite (.exc h) (.ite (.exc h) (.ite (.exc h) (.wait h.onTsk.settleCommit)))

theorem Canonical.tfault {c : Core} {rsvD ra : Reg5} {rsv : Byte} {x : Img} (h : Canonical d) :
    CanonicalRes (tfault c rsvD ra rsv x d) :=
  .ite (.exc h) (.ite (.exc h) (.ite (.exc h) (.done h.raiseTask.onTsk)))

theorem Canonical.fence {rsv : BitVec 18} {x : Img} (h : Canonical d) : CanonicalRes (fence rsv x d) :=
  .ite (.exc h) (.done h)

theorem Canonical.abortNow {c : Nat} (h : Canonical d) : Canonical (abortNow d c) := by
  unfold Machine.abortNow
  split
  · exact .ite h.takeAbort h
  · exact h

theorem Canonical.interruptNow {c : Nat} (h : Canonical d) : Canonical (interruptNow d c) := by
  unfold Machine.interruptNow
  refine .ite h ?_
  dsimp only
  split
  · rename_i e
    exact h.boundaryEvent _ e
  · split
    · exact h
    · exact .ite h.onTsk.takeException h

theorem Canonical.doorbell {m : Master} {n : Nat} {v : Word} (h : Canonical d) :
    Canonical (doorbell d m n v) :=
  .ite h.onCtl h

/-! ### Machine/Reports -/

theorem Canonical.alert {cls : Nat} (h : Canonical d) : Canonical (alert d cls) :=
  .ite (.ite (Canonical.doorbell ⟨h.wf⟩) ⟨h.wf⟩) h

theorem Canonical.acceptReport {src : Nat} (h : Canonical d) : Canonical (acceptReport d src) := by
  unfold Machine.acceptReport
  dsimp only
  split
  · exact h
  · refine Canonical.alert (Canonical.countEv ⟨?_⟩)
    split <;> exact h.wf

theorem Canonical.settleBusy (h : Canonical d) : Canonical (settleBusy d) :=
  h.foldl (fun _ _ h1 => h1.addBusy.onTsk)

theorem Canonical.skipEpoch (h : Canonical d) : Canonical (skipEpoch d) :=
  Canonical.event ⟨h.wf⟩

theorem Canonical.epochBoundary (h : Canonical d) : Canonical (epochBoundary img d) :=
  .ite (Canonical.skipEpoch ⟨(h.settleBusy.foldl (fun _ _ h1 => h1.countClocks)).wf⟩) ⟨(h.settleBusy.foldl
    (fun _ _ h1 => h1.countClocks)).wf⟩

theorem Canonical.dump {l : Latch} (h : Canonical d) : Canonical (dump img d l) := by
  have h0 : Canonical { d with perf := { d.perf with shadow := none } } := ⟨h.wf⟩
  unfold Machine.dump
  exact .ite h0.skipEpoch ⟨(h0.foldl (fun _ _ h1 => h1.memStore)).wf⟩

theorem Canonical.dumpRead {v : Word} (h : Canonical d) : Canonical (dumpRead d v) :=
  .ite h.writeRefused ⟨h.wf⟩

/-! ### Machine/Registers -/

theorem Canonical.readTime {o : Nat} (h : Canonical d) : Canonical (readTime img d o).1 := by
  unfold Machine.readTime
  dsimp only
  split
  · exact h
  · split
    · exact h.onPulse
    · exact h
    · exact h
  · exact h
  · exact h
  · split
    · exact h
    · exact h
    · dsimp only
      exact h.onTime
    · exact h
    · exact h
    · dsimp only
      exact h.onTime
    · exact h
    · exact h

theorem Canonical.onBank {s : Nat} {f : Bank → Bank} (h : Canonical d) : Canonical (d.onBank s f) :=
  ⟨h.wf⟩

theorem Canonical.readBank {d0 : Dyn} {s g : Nat} (h : Canonical d0) : Canonical (readBank d0 s g).1 := by
  unfold Machine.readBank
  dsimp only
  split
  · split
    · exact h.countClocks
    · exact h.countClocks
    · exact h.countClocks
    · exact h.countClocks
    · exact h.countClocks.onBank
    · exact h.countClocks
    · exact h.countClocks
  · split
    · exact h.countClocks
    · exact h.countClocks
    · exact h.countClocks
    · exact h.countClocks
    · exact h.countClocks
    · exact h.countClocks
    · exact h.countClocks
    · exact h.countClocks
    · exact h.countClocks

theorem Canonical.userRead {m : Master} {r : RegRead} (h : Canonical d) (hr : Canonical r.1) :
    Canonical (userRead d m r).1 := by
  unfold Machine.userRead
  dsimp only
  split
  · exact .ite_fst hr (.ite_fst h.epochMark.writeRefused h)
  · exact hr

theorem Canonical.readSupervisor {m : Master} {o : Nat} (h : Canonical d) :
    Canonical (readSupervisor img d m o).1 := by
  unfold Machine.readSupervisor
  refine .ite_fst (.ite_fst (h.userRead h.readBank) h) (.ite_fst h ?_)
  split
  · exact h
  · exact h
  · exact h
  · exact h
  · exact h
  · exact h
  · exact h
  · exact h
  · exact h
  · exact h
  · exact h
  · exact h

theorem Canonical.regRead {m : Master} {off : Nat} (h : Canonical d) : Canonical (regRead img d m off).1 := by
  unfold Machine.regRead
  dsimp only
  split
  · exact h
  · exact h
  · exact h
  · exact h
  · exact h
  · exact h
  · exact h
  · exact h
  · exact h
  · exact h
  · exact h.readTime
  · exact h
  · exact h.readSupervisor
  · exact h

theorem Canonical.writeBank {m : Master} {s g : Nat} {v : Word} (h : Canonical d) :
    Canonical (writeBank d m s g v) := by
  unfold Machine.writeBank
  dsimp only
  split
  · refine .ite h (.ite h.writeRefused ?_)
    split
    · exact h.onBank
    · exact h.onBank
    · exact h.onBank
    · exact h.onBank
    · exact h.onBank
    · exact h.onBank
    · exact h
  · refine .ite (.ite h.writeRefused ?_) h
    split
    · exact h.onBank
    · exact h.onBank
    · exact h.onBank
    · exact h.onBank

theorem Canonical.writeSupervisor {m : Master} {o : Nat} {v : Word} (h : Canonical d) :
    Canonical (writeSupervisor d m o v) := by
  unfold Machine.writeSupervisor
  refine .ite (.ite h.writeBank h) ?_
  dsimp only
  split
  · exact .ite ⟨h.wf⟩ h.writeRefused
  · exact .ite ⟨h.wf⟩ h.writeRefused
  · exact .ite ⟨h.wf⟩ h.writeRefused
  · exact h.dumpRead
  · exact h

theorem Canonical.writeMask {n v : Nat} (h : Canonical d) : Canonical (writeMask d n v) :=
  .ite ⟨h.wf⟩ h

theorem Canonical.writeLanes {m : Master} {o : Nat} {v : Word} (h : Canonical d) :
    Canonical (writeLanes img d m o v) := by
  unfold Machine.writeLanes
  split
  · exact h.laneCtrl
  · exact h.brCtrlSend
  · exact h.rxConsume.txPost
  · exact h

theorem Canonical.writeTime {m : Master} {o : Nat} {v : Word} (h : Canonical d) :
    Canonical (writeTime img d m o v) := by
  unfold Machine.writeTime
  split
  · exact h.cellActive
  · exact .ite h.pulseArm h.pulseArmHi
  · split
    · exact h.timeCtrl
    · exact h.pulseCtrl
    · exact h

theorem Canonical.writeCipher {m : Master} {o : Nat} {v : Word} (h : Canonical d) :
    Canonical (writeCipher img d m o v) := by
  unfold Machine.writeCipher
  dsimp only
  split
  · exact .ite h.freshNat.lockWrite h.lockWrite
  · exact h.cipherGo
  · exact h

theorem Canonical.regWrite {m : Master} {off : Nat} {v : Word} (h : Canonical d) :
    Canonical (regWrite img d m off v) := by
  unfold Machine.regWrite
  refine .ite (.ite h h.accessRefused) ?_
  split
  · split
    · exact h.doorbell
    · exact h
  · split
    · exact h.writeMask
    · exact h
  · exact h.writeLanes
  · split
    · exact h.portCtrl
    · exact h
  · exact .ite h.taskCmdWrite h
  · exact h.writeCipher
  · exact h.writeTime
  · exact .ite h.powerRequest (.ite h.onPower h)
  · exact h.writeSupervisor
  · exact h

theorem Canonical.regPerform {m : Master} {off n : Nat} {w : Option Word} (h : Canonical d) :
    Canonical (regPerform img d m off n w).1 := by
  unfold Machine.regPerform
  refine .ite_fst h ?_
  dsimp only
  split
  · exact h.regRead
  · exact h.regWrite

theorem Canonical.performPacket {p : Packet} (h : Canonical d) : Canonical (performPacket img d p).1 :=
  .ite_fst h.performMem (.ite_fst h h.regPerform)

theorem Canonical.regPacket {m : Master} {off n : Nat} {w : Option Word} (h : Canonical d) :
    Canonical (regPacket img d m off n w).1 := by
  unfold Machine.regPacket
  dsimp only
  split
  · exact h
  · exact .ite_fst h.regPerform (h.exchange (fun _ _ _ h1 => h1.performPacket) (fun _ h1 => h1.regPerform))

theorem Canonical.regAccess {m : Master} {off n : Nat} {w : Option Word} (h : Canonical d) :
    Canonical (regAccess img d m off n w).1 :=
  .foldl_fst h (fun _ _ h1 => h1.regPacket)

/-! ### Machine/BronzeMem -/

theorem Canonical.scalarLoad {c : Core} {a size : Nat} (h : Canonical d) :
    Canonical (scalarLoad img d c a size).1 :=
  .ite_fst h.regAccess h.plainLoad

theorem Canonical.scalarStore {c : Core} {a : Nat} {bytes : List Byte} (h : Canonical d) :
    Canonical (scalarStore img d c a bytes).1 :=
  .ite_fst (.ite_fst h h.regAccess) h.plainStore

theorem Canonical.countCirc {c : Nat} {pn : BitVec 4} {f : AddrForm} {size : Nat} (h : Canonical d) :
    Canonical (countCirc d c pn f size) :=
  h.countOutside

theorem Canonical.stepPtr {c : Nat} {pn : BitVec 4} {f : AddrForm} (h : Canonical d) :
    Canonical (stepPtr d c pn f) := by
  unfold Machine.stepPtr
  split
  · exact h.postMod
  · exact h

theorem Canonical.loadOp {c : Core} {rd : Reg5} {pn : BitVec 4} {am : BitVec 3} {sz : BitVec 2}
    {off : BitVec 12} {signed : Bool} (h : Canonical d) :
    CanonicalRes (loadOp c rd pn am sz off signed img d) := by
  unfold Machine.loadOp
  refine h.legally (fun _ h1 => ?_)
  dsimp only
  split
  · exact .exc h1
  · exact .ite (.wait h1) (.ite (h1.countAccess.countCirc.scalarLoad.loadFailed (fun _ _ h1' => h1'.wd))
      (.done h1.countAccess.countCirc.scalarLoad.stepPtr.wd))

theorem Canonical.storeOp {c : Core} {rd : Reg5} {pn : BitVec 4} {am : BitVec 3} {sz : BitVec 2}
    {off : BitVec 12} (h : Canonical d) : CanonicalRes (storeOp c rd pn am sz off img d) := by
  unfold Machine.storeOp
  refine h.legally (fun _ h1 => ?_)
  dsimp only
  split
  · exact .exc h1
  · exact .ite (.wait h1) (.done (Canonical.stepPtr (.ite
      h1.countAccess.countCirc.feedSig.scalarStore.storeFailed
      h1.countAccess.countCirc.feedSig.scalarStore)))

theorem Canonical.atomicOp {c : Core} {func : Nat} {rd ra rb : Reg5} (h : Canonical d) :
    CanonicalRes (atomicOp c func rd ra rb img d) := by
  unfold Machine.atomicOp
  refine h.legally (fun _ h1 => ?_)
  dsimp only
  split
  · exact .exc h1
  · exact .ite (h1.loadFailed (fun _ _ h1' => h1'.wd)) (.ite (h1.sampleAccess.memPacket.loadFailed (fun _ _
      h1' => h1'.wd)) (.done h1.sampleAccess.memPacket.wd))

/-! ### Machine/CodecJobs -/

theorem Canonical.readCtx {j : Job} {ctx : Nat} {f : UserCtx → Dyn → Dyn × JobEnd} (h : Canonical d)
    (hf : ∀ x d1, Canonical d1 → Canonical (f x d1).1) : Canonical (readCtx img j ctx d f).1 := by
  unfold Machine.readCtx
  split
  · rename_i d1 _ e
    have hd1 : Canonical d1 := .of_fst e h.readPackets
    exact hf _ _ hd1
  · rename_i e
    exact .of_fst e h.readPackets

theorem Canonical.readSoft {s n a : Nat} {got : List Byte} {poison : Nat} (h : Canonical d) :
    Canonical (readSoft img s n a got poison d).1 := by
  induction n generalizing a got poison d with
  | zero => exact h
  | succ n ih => exact .ite_fst (ih h.memPacket) (.ite_fst (ih h.memPacket) h.memPacket)

theorem Canonical.readOld {s : Nat} {u : SoftUse} {ncb r : Nat} (h : Canonical d) :
    Canonical (readOld img s u ncb r d).1 := by
  unfold Machine.readOld
  dsimp only
  split
  · rename_i e
    exact .of_fst e h.readSoft
  · rename_i d1 _ _ e
    have hd1 : Canonical d1 := .of_fst e h.readSoft
    refine .ite_fst hd1 ?_
    split
    · rename_i d2 _ e1
      have hd2 : Canonical d2 := .of_fst e1 hd1.readSoft
      exact hd2
    · rename_i d2 _ _ e1
      have hd2 : Canonical d2 := .of_fst e1 hd1.readSoft
      exact hd2

theorem Canonical.decodeBlock1 {s : Nat} {p : DecPlan} {u : SoftUse} {f : DecFields} {e r : Nat}
    {raw : List Int} {c : List Bool} {x : Dyn × DecAcc} (h : Canonical x.1) :
    Canonical (decodeBlock1 img s p u f e r raw c x).1 := by
  unfold Machine.decodeBlock1
  refine .ite_fst h ?_
  dsimp only
  split
  · rename_i d _ e1
    have hd : Canonical d := .of_fst e1 h.readOld
    exact hd
  · rename_i d _ e1
    have hd : Canonical d := .of_fst e1 h.readOld
    exact hd

theorem Canonical.softReports {j : Job} {ctx proc : Nat} {a : DecAcc} (h : Canonical d) :
    Canonical (softReports d j ctx proc a) := by
  unfold Machine.softReports
  dsimp only
  split
  · refine Canonical.eventTask ?_
    split
    · exact h.eventTask
    · exact h
  · split
    · exact h.eventTask
    · exact h

theorem Canonical.decodeRun {j : Job} {p : DecPlan} {u : SoftUse} {f : DecFields} {cinit : Nat}
    {sched : List Nat} {inState : Nat} {llrs : List Int} (h : Canonical d) :
    Canonical (decodeRun img j p u f cinit sched inState llrs d).1 := by
  unfold Machine.decodeRun
  extract_lets range chosen whole addr _ _ offs acc0 run d1 acc
  refine .ite_fst h ?_
  have h1 : Canonical d1 := offs.foldlRecOn _ (motive := fun y : Nat × Dyn × DecAcc => Canonical y.2.1) h
    (fun _ hy _ _ => hy.decodeBlock1)
  clear_value d1 acc
  split
  · exact h1
  · exact h1.softReports

theorem Canonical.decodeJob {j : Job} {lte : Bool} {mk : Nat → Option DecPlan} (h : Canonical d) :
    Canonical (decodeJob img j lte mk d).1 := by
  unfold Machine.decodeJob
  dsimp only
  split
  · exact h
  · exact h
  · refine h.readCtx (fun _ _ h1 => ?_)
    split
    · exact h1
    · exact h1.withBufs (fun _ _ h1' => h1'.withBufs (fun _ _ h2 => h2.decodeRun))

theorem Canonical.encodeJob {j : Job} {lte : Bool} {mk : Nat → Option EncPlan} (h : Canonical d) :
    Canonical (encodeJob img j lte mk d).1 := by
  unfold Machine.encodeJob
  dsimp only
  split
  · exact h
  · refine .ite_fst ?_ (h.readCtx (fun _ _ h1 => ?_))
    · split
      · exact h
      · exact h.withBufs (fun _ _ h1 => h1.withBufs (fun _ _ h2 => .ite_fst h2 h2))
    · split
      · exact h1
      · exact h1.withBufs (fun _ _ h1' => h1'.withBufs (fun _ _ h2 => .ite_fst h2 h2))

theorem Canonical.tbCrcJob {j : Job} (h : Canonical d) : Canonical (tbCrcJob img j d).1 :=
  h.withBufs (fun _ _ h1 => .ite_fst h1 h1)

theorem Canonical.polarDecJob {j : Job} (h : Canonical d) : Canonical (polarDecJob img j d).1 :=
  h.withBufs (fun _ _ h1 => .ite_fst h1 h1)

theorem Canonical.polarEncJob {j : Job} (h : Canonical d) : Canonical (polarEncJob img j d).1 :=
  h.withBufs (fun _ _ h1 => .ite_fst h1 h1)

/-! ### Machine/FrameBuild -/

theorem Canonical.bridleControl {n t : Nat} (h : Canonical d) : Canonical (bridleControl img d n t).2 := by
  unfold Machine.bridleControl
  dsimp only
  exact h.onBridle

theorem Canonical.dlAdvance {n : Nat} {c : DlCont} {i : StreamInfo} {count : Nat} (h : Canonical d) :
    Canonical (dlAdvance img d n c i count) :=
  .ite h.onBridle.decReaders h.onBridle

theorem Canonical.fillIq {n fuel : Nat} {ws : List Nat} (h : Canonical d) :
    Canonical (fillIq img n fuel ws d).2 := by
  induction fuel generalizing ws d with
  | zero => exact h
  | succ fuel ih =>
    unfold Machine.fillIq
    split
    · exact h
    · split
      · exact ih h.onBridle.decReaders
      · refine .ite_snd h (.ite_snd (ih h.dlAdvance) ?_)
        exact .ite_snd (ih h.memLoad.onBridle.event)
          (.ite_snd (ih h.memLoad.dlAdvance) (.ite_snd h.memLoad (ih h.memLoad.dlAdvance)))

theorem Canonical.linkControl {n : Nat} (h : Canonical d) : Canonical (linkControl img d n).2 := by
  unfold Machine.linkControl
  extract_lets k frames w1 ackAge ack w2 d1
  have h1 : Canonical d1 := h.onLink
  exact Canonical.foldl_snd (p := (w2, d1)) h1 (fun _ _ h2 => .ite_snd h2.onVc h2)

theorem Canonical.nextMessage {n v : Nat} (h : Canonical d) : Canonical (nextMessage img d n v).2 := by
  unfold Machine.nextMessage
  dsimp only
  split
  · exact h
  · split
    · split
      · exact h
      · exact h
    · split
      · exact h
      · split
        · dsimp only
          exact h.memLoad
        · split
          · dsimp only
            exact h.memLoad
          · split
            · dsimp only
              exact h.memLoad
            · dsimp only
              exact h.memLoad

theorem Canonical.messageWords {n : Nat} {t : OpenTx} {count : Nat} (h : Canonical d) :
    Canonical (messageWords img d n t count).2 := by
  unfold Machine.messageWords
  dsimp only
  split
  · exact h
  · exact .ite_snd h.memLoad h.memLoad.freshNat

theorem Canonical.postUnit {n v : Nat} {u : List Nat} {last : Bool} (h : Canonical d) :
    Canonical (postUnit d n v u last) :=
  h.onLink

theorem Canonical.sendPart {n v room : Nat} {t : OpenTx} {first : Bool} (h : Canonical d) :
    Canonical (sendPart img d n v room t first).2 := by
  unfold Machine.sendPart
  refine .ite_snd h (Canonical.onVc (Canonical.postUnit ?_))
  split
  · exact .ite h.messageWords.decReaders h.messageWords
  · exact h.messageWords

theorem Canonical.sendUnit {n v room : Nat} (h : Canonical d) : Canonical (sendUnit img d n v room).2 := by
  unfold Machine.sendUnit
  dsimp only
  split
  · exact h.sendPart
  · split
    · rename_i e
      exact .of_snd e h.nextMessage
    · rename_i d1 e
      have hd1 : Canonical d1 := .of_snd e h.nextMessage
      refine .ite_snd hd1.onVc.postUnit (.ite_snd hd1 (Canonical.sendPart (Canonical.onVc ?_)))
      split
      · exact hd1.incReaders
      · exact hd1

theorem Canonical.fillData {n fuel : Nat} {ws : List Nat} (h : Canonical d) :
    Canonical (fillData img n fuel ws d).2 := by
  induction fuel generalizing ws d with
  | zero => exact h
  | succ fuel ih =>
    unfold Machine.fillData
    refine .ite_snd h ?_
    split
    rename_i d1 e
    have hd1 : Canonical d1 := .of_snd e (.foldl_snd h (fun _ _ h1 => .ite_snd h1.sendUnit h1))
    exact .ite_snd hd1 (ih hd1)

theorem Canonical.resendUnits {n : Nat} {ws : List Nat} (h : Canonical d) : Canonical (resendUnits d n ws).2 := by
  unfold Machine.resendUnits
  dsimp only
  exact h.onLink

theorem Canonical.frameWords {n t : Nat} (h : Canonical d) : Canonical (frameWords img d n t).2 :=
  .ite_snd h.bridleControl.fillIq h.linkControl.resendUnits.fillData

theorem Canonical.frameBuild {n : Nat} (h : Canonical d) : Canonical (frameBuild img d n) :=
  .ite (.ite h.onTeth h) (Canonical.onTeth (Canonical.countEv (Canonical.countEv (.ite_snd h.frameWords
    h))))

/-! ### Machine/Integer -/

theorem Canonical.aluR {c : Core} {rd ra rb : Reg5} {f : Word → Word → Word} {x : Img} (h : Canonical d) :
    CanonicalRes (aluR c rd ra rb f x d) :=
  h.setD

theorem Canonical.aluSat {c : Core} {rd : Reg5} {x : Int} (h : Canonical d) : CanonicalRes (aluSat c rd x d) :=
  h.countEv.dsat.setD

theorem Canonical.aluU {c : Core} {rd ra rsv : Reg5} {f : Word → Word} {x : Img} (h : Canonical d) :
    CanonicalRes (aluU c rd ra rsv f x d) :=
  h.legally (fun _ h1 => h1.setD)

theorem Canonical.aluI {c : Core} {rd ra : Reg5} {imm : Half} {f : Word → Half → Word} {x : Img}
    (h : Canonical d) : CanonicalRes (aluI c rd ra imm f x d) :=
  h.setD

theorem Canonical.ptrOp {fs : List Reg5} {f : Dyn → Dyn} {x : Img} (h : Canonical d)
    (hf : ∀ d1, Canonical d1 → Canonical (f d1)) : CanonicalRes (ptrOp fs f x d) :=
  h.legally (fun _ h1 => .done (hf _ h1))

/-! ### Machine/MemoryOps -/

theorem Canonical.answered {r : Dyn × Resp} (h : Canonical r.1) : Canonical (answered r) :=
  ⟨h.wf⟩

theorem Canonical.endLap {unit : Nat} (h : Canonical d) : Canonical (endLap d unit) :=
  h.setMemUnit.event

theorem Canonical.scrubVisit {unit : Nat} (h : Canonical d) : Canonical (scrubVisit img d unit) := by
  unfold Machine.scrubVisit
  dsimp only
  split
  · exact h
  · exact .ite h.countEv.settleBlock.setMemUnit.endLap h.countEv.settleBlock.setMemUnit

/-! ### Machine/Start -/

theorem Canonical.acceptAll (h : Canonical d) : Canonical (acceptAll d) :=
  h.foldl (fun _ _ h1 => h1.acceptReport)

theorem Canonical.startReport {r : Report} (h : Canonical d) : Canonical (startReport d r) :=
  h.acceptAll.issue.acceptReport

theorem Canonical.refusalReport {copy : Nat} {r : Refuse} (h : Canonical d) :
    Canonical (refusalReport copy d r) :=
  h.startReport

theorem Canonical.copyRefused {copy : Nat} {l : List Refuse} (h : Canonical d) :
    Canonical (copyRefused copy l d) :=
  ⟨(h.foldl (fun _ _ h1 => h1.refusalReport)).wf⟩

theorem Canonical.bootLink {env : StartEnv} (h : Canonical d) : Canonical (bootLink env d) :=
  .ite h.freshNat.freshNat.freshNat.freshNat.onTeth h.onTeth

theorem Canonical.fenceOff (h : Canonical d) : Canonical (fenceOff d) :=
  h.foldl (fun _ _ h1 => .ite h1.applyMode h1)

theorem Canonical.endIdle {st : DevState} (h : Canonical d) : Canonical (endIdle st d) :=
  Canonical.fenceOff ⟨h.wf⟩

theorem Canonical.holdNow (h : Canonical d) : Canonical (holdNow d).2 := by
  unfold Machine.holdNow
  exact .snd_mk h.endIdle

theorem Canonical.deviceRefused {copy code : Nat} (h : Canonical d) :
    Canonical (deviceRefused copy code d).2 :=
  h.refusalReport.holdNow

theorem Canonical.selftestReport {s : Nat} (h : Canonical d) : Canonical (selftestReport d s) :=
  h.startReport

theorem Canonical.selfTest {env : StartEnv} {degraded : Bool} {l held : List Nat} (h : Canonical d) :
    Canonical (selfTest env img degraded l held d).2 := by
  induction l generalizing held d with
  | nil => exact h
  | cons p rest ih =>
    exact .ite_snd (ih (h.foldl (fun _ _ h1 => h1.selftestReport))) (h.foldl (fun _ _ h1 => h1.selftestReport))

theorem Canonical.loadKeys (h : Canonical d) : Canonical (loadKeys img d) := by
  unfold Machine.loadKeys
  refine h.foldl (fun _ _ h1 => ?_)
  split
  · exact h1.writeKey
  · exact h1

theorem Canonical.loadRw (h : Canonical d) : Canonical (loadRw img d) :=
  h.foldl (fun _ _ h1 => .ite h1 h1.regWrite)

theorem Canonical.startLane {n : Nat} (h : Canonical d) : Canonical (startLane img d n) := by
  unfold Machine.startLane
  split
  · exact h
  · exact .ite h.onTeth (.ite h.onTeth h.startAttempt)

theorem Canonical.applyImage {im : Image} {held : List Nat} : Canonical (applyImage im held d).2 := by
  unfold Machine.applyImage
  extract_lets cfg img d1 on _ _ _ d2 d3
  have h2 : Canonical d2 := ⟨loadMemory_wf img im⟩
  have h3 : Canonical d3 := h2.fenceOff.loadKeys.loadRw
  exact .snd_mk (Canonical.withPerf h3)

theorem Canonical.startUnits (h : Canonical d) : Canonical (startUnits img d) :=
  Canonical.gridFrom ⟨h.wf⟩

theorem Canonical.enterService {im : Image} (h : Canonical d) : Canonical (enterService im img d) := by
  unfold Machine.enterService
  extract_lets _ d1 d2 d3
  have h1 : Canonical d1 := ⟨h.wf⟩
  have h2 : Canonical d2 := h1.startUnits.foldl (fun _ _ h3 => h3.startLane)
  have h3 : Canonical d3 := h2.foldl (fun _ _ h3 => .ite h3.setCore h3)
  clear_value d1 d2 d3
  exact .ite h3 (.ite ⟨h3.wf⟩ h3.startReport)

theorem Canonical.zeroMemory (h : Canonical d) : Canonical (zeroMemory d) :=
  ⟨h.wf⟩

theorem Canonical.runImage {env : StartEnv} {im : Image} (h : Canonical d) : Canonical (runImage env im d).2 := by
  unfold Machine.runImage
  dsimp only
  split
  · rename_i d1 e
    have hd1 : Canonical d1 := .of_snd e h.selfTest
    exact Canonical.holdNow (Canonical.copyRefused (.ite hd1.zeroMemory hd1))
  · rename_i d1 e
    have hd1 : Canonical d1 := .of_snd e h.selfTest
    exact .ite_snd hd1.zeroMemory.copyRefused.holdNow Canonical.applyImage.enterService

theorem Canonical.stageCopy {f : FlashSt} {dir : BootDir} {copy : Nat} (h : Canonical d) :
    Canonical (stageCopy f dir copy d) :=
  ⟨Memory.putRun_wf _ _ _ h.wf⟩

theorem Canonical.tryCopies {env : StartEnv} {f : FlashSt} {dir : BootDir} {l : List Nat}
    (h : Canonical d) : Canonical (tryCopies env f dir l d).2 := by
  induction l generalizing d with
  | nil => exact h.holdNow
  | cons copy rest ih =>
    unfold Machine.tryCopies
    dsimp only
    split
    · exact h.stageCopy.runImage
    · exact ih h.stageCopy.copyRefused

theorem Canonical.firstTarget {env : StartEnv} {d0 : Dyn} (h : Canonical d0) :
    Canonical (firstTarget env d0) :=
  .ite h.freshNat h.freshNat.avsWrite

theorem Canonical.loadImageKey (h : Canonical d) : Canonical (loadImageKey d) :=
  .ite h h.writeKey

theorem Canonical.trainDram {env : StartEnv} {next : Dyn → Img × Dyn} (h : Canonical d)
    (hnext : ∀ d1, Canonical d1 → Canonical (next d1).2) : Canonical (trainDram env next d).2 :=
  .ite_snd (hnext _ ⟨h.wf⟩) (Canonical.deviceRefused (h.foldl (fun _ _ h1 => h1.selftestReport)))

theorem Canonical.startSequence {env : StartEnv} (h : Canonical d) : Canonical (startSequence env d).2 := by
  unfold Machine.startSequence
  extract_lets d1 d2
  have h1 : Canonical d1 := h.loadImageKey.firstTarget
  have h2 : Canonical d2 := h1.bootLink
  clear_value d1 d2
  refine .ite_snd h1.deviceRefused (.ite_snd (h2.trainDram (fun _ h3 => .snd_mk h3.endIdle)) ?_)
  split
  rename_i d3 e
  have h3 : Canonical d3 := .of_snd e h2.seenFlash
  split
  · exact h3.deviceRefused
  · split
    · exact h3.deviceRefused
    · exact h3.trainDram (fun _ h4 => h4.tryCopies)

/-! ### Machine/Mgmt -/

theorem Canonical.command {op : Nat} {tag : Half} {states : Dyn → Bool} {code : Dyn → Nat}
    {run : Dyn → Dyn × List Byte} (h : Canonical d) (hrun : ∀ d1, Canonical d1 → Canonical (run d1).1) :
    Canonical (command op tag states code run d) :=
  .ite h.takeCmd.answer (.ite h.takeCmd.answer (Canonical.answer (hrun _ h.takeCmd)))

theorem Canonical.readWord {acc : Dyn × List Byte} {off : Nat} (h : Canonical acc.1) :
    Canonical (readWord img acc off).1 := by
  unfold Machine.readWord
  dsimp only
  split
  · dsimp only
    exact h.regAccess
  · exact h.regAccess.freshNat

theorem Canonical.partAccess {a n : Nat} {data : Option (List Byte)} (h : Canonical d) :
    Canonical (partAccess img d a n data).1 := by
  unfold Machine.partAccess
  refine .ite_fst h.regAccess ?_
  split
  · exact h.memLoad
  · exact h.memStore

theorem Canonical.runParts {data : Option (List Byte)} {a : Nat} {l : List (Nat × Nat)}
    (h : Canonical d) : Canonical (runParts img data a l d).1 := by
  induction l generalizing d with
  | nil => exact h
  | cons x rest ih => exact ih h.partAccess

theorem Canonical.memCommand {op : Nat} {tag : Half} {a n : Nat} {data : Option (List Byte)}
    (h : Canonical d) : Canonical (memCommand img op tag a n data d) :=
  .ite h.takeCmd.answer (.ite h.takeCmd.answer h.takeCmd.runParts.answer)

theorem Canonical.setStream {on : Bool} {cls : Nat} (h : Canonical d) : Canonical (setStream d on cls) :=
  ⟨h.wf⟩

theorem Canonical.streamSend (h : Canonical d) : Canonical (streamSend d) :=
  .ite ⟨h.wf⟩ ⟨h.wf⟩

theorem Canonical.refuseCmd {op : Nat} {tag : Half} {code : Nat} (h : Canonical d) :
    Canonical (refuseCmd d op tag code) :=
  h.refusal.answer

theorem Canonical.soAdd {tag : Half} {r : List Byte} (h : Canonical d) : Canonical (soAdd img tag r d) :=
  .ite h.takeCmd.answer (.ite h.takeCmd.answer (.ite h.takeCmd.refuseCmd (Canonical.answer ⟨h.takeCmd.wf⟩)))

theorem Canonical.soRemove {tag : Half} {i : Nat} (h : Canonical d) : Canonical (soRemove tag i d) := by
  unfold Machine.soRemove
  refine .ite h.takeCmd.answer ?_
  dsimp only
  split
  · exact .ite h.takeCmd.refuseCmd (Canonical.answer ⟨h.takeCmd.wf⟩)
  · exact h.takeCmd.refuseCmd

theorem Canonical.reviveCore {c : Nat} (h : Canonical d) : Canonical (reviveCore d c) :=
  .ite h.setCore h

theorem Canonical.releaseSource {src : Nat} (h : Canonical d) : Canonical (releaseSource img d src) := by
  unfold Machine.releaseSource
  extract_lets d1 d2 d3 d4
  have h1 : Canonical d1 := h.foldl (fun _ _ hd => hd.setUnit)
  have h2 : Canonical d2 := by
    simp only [d2]
    split
    · rename_i e _
      have hport := h1.foldl (f := fun d u => d.setUnit u (fun x => { x with silent := false }))
        (l := unitsAt e) (fun _ _ hd => hd.setUnit)
      exact .ite hport.requestChange hport.rearm
    · exact h1
  have h3 : Canonical d3 := ⟨h2.wf⟩
  clear_value d3
  have h4 : Canonical d4 := .ite h3.forceUnlock h3
  exact .ite h4.reviveCore h4

theorem Canonical.keyUpload {tag : Half} {r : List Byte} (h : Canonical d) : Canonical (keyUpload tag r d) := by
  unfold Machine.keyUpload
  extract_lets d1 slot fail
  have h1 : Canonical d1 := h.takeCmd
  have hfail (why : Nat) : Canonical (fail why) := h1.answer
  clear_value d1 slot fail
  refine .ite h1.answer (.ite h1.answer (.ite h1.refuseCmd (.ite (hfail 3) (.ite (hfail 2) ?_))))
  split
  · exact hfail 1
  · exact h1.writeKey.event.answer

theorem Canonical.keyErase {tag : Half} {slot : Nat} (h : Canonical d) : Canonical (keyErase tag slot d) :=
  .ite h.takeCmd.answer (.ite h.takeCmd.refuseCmd (.ite h.takeCmd.answer h.takeCmd.writeKey.answer))

theorem Canonical.startFlash {op : Nat} {tag : Half} {bad prot : Dyn → Bool} {job : FlashJob}
    (h : Canonical d) : Canonical (startFlash op tag bad prot job d) :=
  .ite h.takeCmd.answer (.ite h.takeCmd.answer (.ite h.takeCmd.answer ⟨h.takeCmd.wf⟩))

theorem Canonical.finishFlash {d0 : Dyn} {j : FlashJob} (h : Canonical d0) : Canonical (finishFlash d0 j) := by
  unfold Machine.finishFlash
  dsimp only
  split
  · exact Canonical.answer ⟨h.seenFlash.leftFlash.wf⟩
  · exact Canonical.answer ⟨h.seenFlash.leftFlash.wf⟩
  · exact Canonical.answer ⟨h.seenFlash.leftFlash.wf⟩
  · exact Canonical.answer ⟨h.seenFlash.leftFlash.wf⟩

theorem Canonical.flashDone (h : Canonical d) : Canonical (flashDone img d).2 := by
  unfold Machine.flashDone
  dsimp only
  split
  · exact h
  · exact .ite_snd Canonical.restartNow h.finishFlash

theorem Canonical.fuseProgram {tag : Half} {fuse : Nat} {value : List Byte} {readBack : Nat}
    (h : Canonical d) : Canonical (fuseProgram tag fuse value readBack d) :=
  .ite h.takeCmd.answer (.ite h.takeCmd.answer (.ite h.takeCmd.answer (.ite (Canonical.answer
    ⟨h.takeCmd.wf⟩) (Canonical.answer (Canonical.freshNat (Canonical.event ⟨h.takeCmd.wf⟩))))))

theorem Canonical.restartCmd {tag : Half} (h : Canonical d) : Canonical (restartCmd img tag d).2 :=
  .ite_snd h.takeCmd.answer (.ite_snd h.takeCmd.answer (.ite_snd ⟨h.takeCmd.answer.wf⟩
    Canonical.restartNow))

theorem Canonical.recoveryCmd {tag : Half} (h : Canonical d) : Canonical (recoveryCmd img tag d) :=
  .ite h.takeCmd.answer (.ite h.takeCmd.answer h.takeCmd.eraseKeys.endIdle.answer)

/-! ### Machine/Packets -/

theorem Canonical.inject {p : Packet} (h : Canonical d) : Canonical (inject img d p) := by
  unfold Machine.inject
  split
  · exact h.deliver
  · exact .ite h.regulate h

theorem Canonical.arrive {index : Nat} {parityFails routeFails : Bool} {router : Nat} (h : Canonical d) :
    Canonical (arrive img d index parityFails routeFails router) := by
  unfold Machine.arrive
  dsimp only
  split
  · exact h
  · refine .ite h ?_
    split
    · rename_i e
      exact .of_snd e h.arbitrateFor
    · rename_i d1 e
      have hd1 : Canonical d1 := .of_snd e h.arbitrateFor
      exact .ite hd1.onFab.onFab.event (Canonical.arriveAt (.ite hd1.onFab.onFab hd1.onFab) (fun _ _ _ h1 =>
        h1.performPacket))

theorem Canonical.responseTimeout {e tag : Nat} (h : Canonical d) : Canonical (responseTimeout img d e tag) := by
  unfold Machine.responseTimeout
  dsimp only
  split
  · exact h
  · exact h.onFab.noteTimeout.deliver

theorem Canonical.tailTimeout {index : Nat} (h : Canonical d) : Canonical (tailTimeout d index) := by
  unfold Machine.tailTimeout
  split
  · exact h
  · exact .ite h.onFab h

/-! ### Machine/Pins -/

theorem Canonical.gpioExpiry {pin : Nat} (h : Canonical d) : Canonical (gpioExpiry d pin) := by
  unfold Machine.gpioExpiry
  split
  · exact .ite ⟨h.wf⟩ h
  · exact h

theorem Canonical.jtagSelect {op : Nat} {f : TapSt → TapSt} (h : Canonical d) :
    Canonical (jtagSelect op f d) :=
  h.when_ (fun _ h1 => .ite ⟨h1.wf⟩ ⟨h1.wf⟩)

theorem Canonical.regaccRun {u : Nat} (h : Canonical d) : Canonical (regaccRun img d u).1 := by
  unfold Machine.regaccRun
  dsimp only
  split
  · split
    · split
      · dsimp only
        exact h.regAccess
      · exact h.regAccess.freshNat
    · split
      · dsimp only
        exact h.regAccess
      · dsimp only
        exact h.regAccess
  · split
    · split
      · exact h.freshNat
      · exact h
    · exact h

theorem Canonical.regacc {u : Nat} (h : Canonical d) : Canonical (regacc img d u) := by
  unfold Machine.regacc
  refine .ite ?_ ?_
  · dsimp only
    exact ⟨h.freshNat.wf⟩
  · dsimp only
    refine .ite ?_ ?_
    · split
      · exact ⟨h.regaccRun.freshNat.wf⟩
      · exact ⟨h.regaccRun.wf⟩
    · split
      · exact ⟨h.regaccRun.freshNat.wf⟩
      · exact ⟨h.regaccRun.wf⟩

theorem Canonical.regaccEnd (h : Canonical d) : Canonical (regaccEnd d) := by
  unfold Machine.regaccEnd
  dsimp only
  split
  · exact ⟨h.wf⟩
  · exact h

theorem Canonical.debugRequest {c : Nat} (h : Canonical d) : Canonical (debugRequest d c) :=
  .ite h (.ite h.abortNow h.onTsk.syncException)

/-! ### Machine/Transform -/

theorem Canonical.ulJob {j : Job} (h : Canonical d) : Canonical (ulJob img j d).1 := by
  unfold Machine.ulJob
  dsimp only
  split
  · exact h.withBufs (fun _ _ h1 => .ite_fst h1 h1)
  · exact h
  · exact h

theorem Canonical.dlJob {j : Job} (h : Canonical d) : Canonical (dlJob img j d).1 := by
  unfold Machine.dlJob
  dsimp only
  split
  · exact h
  · refine h.withBufs (fun _ _ h1 => ?_)
    split
    · exact h1
    · exact h1.withBufs (fun _ _ h1' => .ite_fst h1' h1')

/-! ### Machine/Prach -/

theorem Canonical.feJob {j : Job} (h : Canonical d) : Canonical (feJob img j d).1 := by
  unfold Machine.feJob
  dsimp only
  split
  · exact h
  · exact h.withBufs (fun _ _ h1 => h1.withBufs (fun _ _ h2 => h2))

theorem Canonical.detJob {j : Job} (h : Canonical d) : Canonical (detJob img j d).1 := by
  unfold Machine.detJob
  refine h.withBufs (fun _ _ h1 => ?_)
  dsimp only
  split
  · exact h1
  · exact h1.withBufs (fun _ _ h1' => ⟨h1'.wf⟩)

/-! ### Machine/Vector -/

theorem Canonical.wq {c k : Nat} {x : BitVec 256} (h : Canonical d) : Canonical (d.wq c k x) :=
  h.onVec

theorem Canonical.wv {c k : Nat} {x : BitVec 2048} (h : Canonical d) : Canonical (d.wv c k x) :=
  h.onVec

theorem Canonical.writeVec {c : Nat} {long : Bool} {k x : Nat} (h : Canonical d) :
    Canonical (d.writeVec c long k x) :=
  .ite h.wv h.wq

theorem Canonical.vecOp {c : Core} {legal enabled : Dyn → Bool} {f : Dyn → Dyn} {x : Img} (h : Canonical d)
    (hf : ∀ d1, Canonical d1 → Canonical (f d1)) : CanonicalRes (vecOp c legal enabled f x d) :=
  .ite (.exc h) (.ite (.exc h) (.ite (.exc h) (.done (hf _ h))))

theorem Canonical.loadParts {c : Nat} {l : List (Nat × Nat)} {acc : List Byte} (h : Canonical d) :
    Canonical (loadParts img c l d acc).1 := by
  induction l generalizing d acc with
  | nil => exact h
  | cons x rest ih => exact .ite_fst (ih h.countAccess.plainLoad) h.countAccess.plainLoad

theorem Canonical.storeParts {c a : Nat} {bytes : List Byte} (h : Canonical d) :
    Canonical (storeParts img c a bytes d) :=
  h.blockStore (fun _ _ _ h1 => h1.countAccess.feedSig)

theorem Canonical.vecAccess {c : Core} {long : Bool} {pn : BitVec 4} {am et : BitVec 2} {u : Bool}
    {mn : BitVec 4} {legal : Bool} {spoil : Dyn → Nat → Nat → Dyn}
    {move : Dyn → Nat → Nat → Nat → Dyn × Option (Nat × Nat)} (h : Canonical d)
    (hspoil : ∀ d1 n n1, Canonical d1 → Canonical (spoil d1 n n1))
    (hmove : ∀ d1 n n1 n2, Canonical d1 → Canonical (move d1 n n1 n2).1) :
    CanonicalRes (vecAccess c long pn am et u mn legal spoil move img d) := by
  unfold Machine.vecAccess
  refine .ite (.exc h) (.ite (.exc h) (.ite (.exc h) (.ite (.done (.ite h h.postMod)) (.ite (.exc h.onVec)
    ?_))))
  dsimp only
  split
  · exact .ite (Canonical.loadFailed (hmove _ _ _ _ h) (fun _ _ h1 => .ite (Canonical.onVec
      (Canonical.countOutside (hspoil _ _ _ h1))) (Canonical.postMod (Canonical.onVec
      (Canonical.countOutside (hspoil _ _ _ h1)))))) (.exc (Canonical.onVec (hmove _ _ _ _ h)))
  · exact .ite (.exc (Canonical.onVec (hmove _ _ _ _ h))) (.done (.ite (Canonical.onVec
      (Canonical.countOutside (hmove _ _ _ _ h))) (Canonical.postMod (Canonical.onVec
      (Canonical.countOutside (hmove _ _ _ _ h))))))

theorem Canonical.loadElems {c : Nat} {long : Bool} {vr w : Nat} {a i k : Nat} (h : Canonical d) :
    Canonical (loadElems img c long vr w d a i k).1 :=
  h.loadParts.writeVec

theorem Canonical.storeElems {c : Nat} {long : Bool} {vr w : Nat} {a i k : Nat} (h : Canonical d) :
    Canonical (storeElems img c long vr w d a i k).1 :=
  h.storeParts

theorem Canonical.vld {c : Core} {long : Bool} {vr : Reg5} {pn : BitVec 4} {am et : BitVec 2} {u : Bool}
    {mn : BitVec 4} {rsv : Byte} (h : Canonical d) : CanonicalRes (vld c long vr pn am et u mn rsv img d) :=
  h.vecAccess (fun _ _ _ h1 => h1.writeVec) (fun _ _ _ _ h1 => h1.loadElems)

theorem Canonical.vst {c : Core} {long : Bool} {vr : Reg5} {pn : BitVec 4} {am et : BitVec 2} {u : Bool}
    {mn : BitVec 4} {rsv : Byte} (h : Canonical d) : CanonicalRes (vst c long vr pn am et u mn rsv img d) :=
  h.vecAccess (fun _ _ _ h1 => h1) (fun _ _ _ _ h1 => h1.storeElems)

theorem Canonical.putComps {c : Nat} {long : Bool} {vd w : Nat} {sat : Bool} {l : List Int}
    (h : Canonical d) : Canonical (putComps d c long vd w sat l) :=
  h.countSat.dsat.writeVec

theorem Canonical.vopComp {c : Core} {long : Bool} {vd va vb : Reg5} {et rsv : BitVec 2} {satBit : Bool}
    {ets : List Nat} {use : VbUse} {sat : Bool} {f : Nat → Int → Int → Int} {x : Img} {x1 : Dyn}
    (h : Canonical x1) : CanonicalRes (vopComp c long vd va vb et rsv satBit ets use sat f x x1) :=
  h.vecOp (fun _ h1 => h1.putComps)

theorem Canonical.vopCplx {c : Core} {long : Bool} {vd va vb : Reg5} {et rsv : BitVec 2} {satBit : Bool}
    {use : VbUse} {s : Nat} {f : Word → Word → Int × Int} {x : Img} {x1 : Dyn} (h : Canonical x1) :
    CanonicalRes (vopCplx c long vd va vb et rsv satBit use s f x x1) :=
  h.vecOp (fun _ h1 => h1.putComps)

theorem Canonical.vdot {c : Core} {long : Bool} {vd va vb : Reg5} {et rsv : BitVec 2} {sat : Bool}
    {ets : List Nat} {conj : Bool} {x : Img} {x1 : Dyn} (h : Canonical x1) :
    CanonicalRes (vdot c long vd va vb et rsv sat ets conj x x1) := by
  unfold Machine.vdot
  exact h.vecOp (fun _ h1 => .ite h1.countSat.putAcc.putAcc h1.countSat.putAcc)

end

/-! ### Commands and steps -/

/-- A command that leaves memory in its canonical form when it finds it so. -/
def KeepsCanonical (o : State → Out) : Prop :=
  ∀ s t, Canonical s.dyn → o s = .next t → Canonical t.dyn

namespace KeepsCanonical

section
variable {f : Img → Dyn → Dyn} (hf : ∀ img d, Canonical d → Canonical (f img d))
include hf

theorem act : KeepsCanonical (act f) := by
  intro s t h ht
  obtain ⟨-, -, hd⟩ := act_next ht
  rw [hd]
  exact .ite (hf _ _ h) h

theorem actIf {ok : Bool} : KeepsCanonical (actIf ok f) :=
  fun s t h ht => act hf s t h (actIf_next ht)

theorem actAon : KeepsCanonical (actAon f) := by
  intro s t h ht
  rw [actAon_next ht]
  exact hf _ _ h

theorem actPins : KeepsCanonical (actPins f) :=
  act (fun _ _ h => .ite h (hf _ _ h))

end

theorem actImg {f : Img → Dyn → Img × Dyn} (hf : ∀ img d, Canonical d → Canonical (f img d).2) :
    KeepsCanonical (actImg f) := by
  intro s t h ht
  rw [actImg_next ht]
  exact hf _ _ h

theorem boundary {op update : Nat} : KeepsCanonical (jtagBoundary op update) :=
  actAon (fun _ _ h => h.jtagSelect)

theorem pcmd {c : Core} {qs : Reg5} {tag : BitVec 6} {rsv : BitVec 15} :
    KeepsCanonical (execPcmd c qs tag rsv) := by
  refine act (fun _ _ h => h.bronze (fun _ _ h1 => ?_))
  refine .ite (.exc h1) (.ite (.exc h1) (.ite (.exc h1) ?_))
  split
  · exact .exc h1
  · split
    · exact .exc h1
    · split
      · exact .exc h1
      · exact .ite (.wait h1) (.done h1.onPort)

theorem pres {c : Core} {rd : Reg5} {tag : BitVec 6} {wait : Bool} {rsv : BitVec 14} :
    KeepsCanonical (execPres c rd tag wait rsv) := by
  refine act (fun _ _ h => h.bronze (fun _ _ h1 => .ite (.exc h1) (.ite (.exc h1) ?_)))
  split
  · exact h1.onPort.setD
  · exact .ite (.exc h1) (.ite (.wait h1) h1.setD)

theorem cprest {c : Core} {pn : Reg5} {rsv : BitVec 20} : KeepsCanonical (execCprest c pn rsv) := by
  refine act (fun _ _ h => h.bronze (fun _ _ h1 => h1.contextOp (fun _ _ _ h2 => ?_)))
  split
  · rename_i d1 e
    have hd1 : Canonical d1 := .of_fst e h2.sampleAccess.engineArea
    exact .ite (.wait hd1) (.done hd1)
  · rename_i d1 l e
    have hd1 : Canonical d1 := .of_fst e h2.sampleAccess.engineArea
    exact .ite (.exc hd1) (.done hd1.onPort)

theorem post {task : BitVec 15} : KeepsCanonical (execPost task) := by
  refine act (fun _ _ h => h.headCmd (fun _ _ h1 e => ?_))
  split at e
  · exact h1.postTask _ e
  · cases e
    exact h1
  · cases e
    exact h1.writeRefused

theorem cancel {task : BitVec 15} : KeepsCanonical (execCancel task) := by
  refine act (fun _ _ h => h.headCmd (fun _ _ h1 e => ?_))
  cases e
  exact h1.cancelTask

theorem free {task : BitVec 15} : KeepsCanonical (execFree task) := by
  refine act (fun _ _ h => h.headCmd (fun _ _ h1 e => ?_))
  split at e
  · cases e
    exact h1.onTask
  · cases e
    exact h1.writeRefused

theorem cascade : KeepsCanonical execCascade := by
  refine act (fun _ _ h => ?_)
  split
  · exact h
  · exact .ite h (Canonical.nextStep (Canonical.cancelTask ⟨h.wf⟩))

theorem handleWalk : KeepsCanonical execHandleWalk := by
  refine act (fun _ _ h => ?_)
  split
  · exact h
  · exact .ite h (Canonical.walkHandle ⟨h.wf⟩)

theorem relockExpiry {l : Lane} : KeepsCanonical (execRelockExpiry l) := by
  refine act (fun _ _ h => ?_)
  dsimp only
  split
  · exact h
  · exact h.when_ (fun _ h1 => h1.startAttempt)

theorem containerTimeout {l : Lane} {slot : BitVec 4} : KeepsCanonical (execContainerTimeout l slot) := by
  refine act (fun _ _ h => ?_)
  split
  · exact h
  · split
    · exact h
    · exact h.when_ (fun _ h1 => h1.closeCont)

theorem quiesceRetry {r : BitVec 6} : KeepsCanonical (execQuiesceRetry r) := by
  refine act (fun _ _ h => ?_)
  dsimp only
  split
  · exact h
  · exact h.setChanges

theorem dump : KeepsCanonical execDump := by
  refine act (fun _ _ h => ?_)
  split
  · exact h.when_ (fun _ h1 => h1.dump)
  · exact h

end KeepsCanonical

theorem exec_keepsCanonical (c : Instr) : KeepsCanonical (exec c) := by
  cases c <;> unfold exec
  case aonResetRelease => exact .actAon (fun _ _ h1 => h1.aonRelease)
  case resetN | vcoreTrip => exact .actImg (fun _ _ h1 => .ite_snd Canonical.islandReset h1)
  case resetNRelease => exact .actAon (fun _ _ h1 => h1.when_ (fun _ h2 => ⟨h2.wf⟩))
  case startSequence => exact .actImg (fun _ _ h1 => .ite_snd h1.startSequence h1)
  case vcoreWarning => exact .act (fun _ _ h1 => h1.onPower.event)
  case vaonTrip => exact .actImg (fun _ _ h1 => .ite_snd ⟨Canonical.reset.wf⟩ h1)
  case regRead =>
    exact .act (fun _ _ h1 => h1.command (fun _ h2 => .foldl_fst h2 (fun _ _ h3 => h3.readWord)))
  case regWrite => exact .act (fun _ _ h1 => h1.command (fun _ h2 => h2.foldl (fun _ _ h3 => h3.regAccess)))
  case memRead | memWrite => exact .act (fun _ _ h1 => h1.memCommand)
  case reportStream => exact .act (fun _ _ h1 => h1.command (fun _ h2 => h2.setStream))
  case reportStreamSend => exact .act (fun _ _ h1 => h1.when_ (fun _ h2 => h2.streamSend))
  case soAdd => exact .act (fun _ _ h1 => h1.soAdd)
  case soRemove => exact .act (fun _ _ h1 => h1.soRemove)
  case soRelease => exact .act (fun _ _ h1 => h1.command (fun _ h2 => .ite h2.releaseSource ⟨h2.wf⟩))
  case keyUpload => exact .act (fun _ _ h1 => h1.keyUpload)
  case keyErase => exact .act (fun _ _ h1 => h1.keyErase)
  case flashRead => exact .act (fun _ _ h1 => h1.command (fun _ h2 => h2.seenFlash))
  case flashErase | flashProgram | flashVerify | flashCommit => exact .act (fun _ _ h1 => h1.startFlash)
  case flashCommandDone => exact .actImg (fun _ _ h1 => .ite_snd h1.flashDone h1)
  case fuseProgram => exact .act (fun _ _ h1 => h1.fuseProgram)
  case timeQuery => exact .act (fun _ _ h1 => h1.command (fun _ h2 => h2))
  case restart => exact .actImg (fun _ _ h1 => .ite_snd h1.restartCmd h1)
  case enterRecovery => exact .act (fun _ _ h1 => h1.recoveryCmd)
  case add | sub | and | or | xor | andn | sll | srl | sra | mul | mulh | mulhu | slt | sltu | min | max =>
    exact .act (fun _ _ h1 => h1.bronze (fun _ _ h2 => h2.aluR))
  case adds | subs => exact .act (fun _ _ h1 => h1.bronze (fun _ _ h2 => h2.aluSat))
  case abs => exact .act (fun _ _ h1 => h1.bronze (fun _ _ h2 => h2.legally (fun _ h3 => h3.aluSat)))
  case clz | cls | sexth | zexth => exact .act (fun _ _ h1 => h1.bronze (fun _ _ h2 => h2.aluU))
  case addi | slti | andi | ori | xori | movhi => exact .act (fun _ _ h1 => h1.bronze (fun _ _ h2 => h2.aluI))
  case movi | shi => exact .act (fun _ _ h1 => h1.bronze (fun _ _ h2 => h2.legally (fun _ h3 => h3.setD)))
  case movp | addp => exact .act (fun _ _ h1 => h1.bronze (fun _ _ h2 => h2.ptrOp (fun _ h3 => h3.wp)))
  case rdpl | rdph | rdl | rdm =>
    exact .act (fun _ _ h1 => h1.bronze (fun _ _ h2 => h2.legally (fun _ h3 => h3.ptrOp (fun _ h4 =>
      h4.wd))))
  case subp => exact .act (fun _ _ h1 => h1.bronze (fun _ _ h2 => h2.ptrOp (fun _ h3 => h3.wd)))
  case movb =>
    exact .act (fun _ _ h1 => h1.bronze (fun _ _ h2 => h2.legally (fun _ h3 => h3.ptrOp (fun _ h4 =>
      h4.wb))))
  case rdb | movpp =>
    exact .act (fun _ _ h1 => h1.bronze (fun _ _ h2 => h2.legally (fun _ h3 => h3.ptrOp (fun _ h4 =>
      h4.wp))))
  case movl =>
    exact .act (fun _ _ h1 => h1.bronze (fun _ _ h2 => h2.legally (fun _ h3 => h3.ptrOp (fun _ h4 =>
      h4.wl))))
  case movm =>
    exact .act (fun _ _ h1 => h1.bronze (fun _ _ h2 => h2.legally (fun _ h3 => h3.ptrOp (fun _ h4 =>
      h4.wm))))
  case jr | br => exact .act (fun _ _ h1 => h1.bronze (fun _ _ h2 => h2.legally (fun _ h3 => .done h3)))
  case jalr | adr => exact .act (fun _ _ h1 => h1.bronze (fun _ _ h2 => h2.legally (fun _ h3 => .done h3.wp)))
  case j => exact .act (fun _ _ h1 => h1.bronze (fun _ _ h2 => .done h2))
  case jal => exact .act (fun _ _ h1 => h1.bronze (fun _ _ h2 => .done h2.wp))
  case ld | ldu => exact .act (fun _ _ h1 => h1.bronze (fun _ _ h2 => h2.loadOp))
  case st => exact .act (fun _ _ h1 => h1.bronze (fun _ _ h2 => h2.storeOp))
  case atomicSwap | atomicAdd | cas | atomicAnd | atomicOr =>
    exact .act (fun _ _ h1 => h1.bronze (fun _ _ h2 => h2.atomicOp))
  case fenceS | fenceA => exact .act (fun _ _ h1 => h1.bronze (fun _ _ h2 => h2.fence))
  case fenceI => exact .act (fun _ _ h1 => h1.bronze (fun _ _ h2 => Canonical.fence (.ite h2.onCore h2)))
  case rep =>
    exact .act (fun _ _ h1 => h1.bronze (fun _ _ h2 => h2.legally (fun _ h3 => .ite (.done h3) (.done
      h3.onCtl))))
  case mpyW | macW | msuW | macH2 => exact .act (fun _ _ h1 => h1.bronze (fun _ _ h2 => h2.macReal))
  case cmpy | cmac | cmacj | cmsu => exact .act (fun _ _ h1 => h1.bronze (fun _ _ h2 => h2.macCplx))
  case ardW | ardH | ardC =>
    exact .act (fun _ _ h1 => h1.bronze (fun _ _ h2 => h2.accOp (fun _ h3 => h3.countSat.dsat.wd)))
  case awr | aclr | ashr | ains =>
    exact .act (fun _ _ h1 => h1.bronze (fun _ _ h2 => h2.accOp (fun _ h3 => h3.wacc)))
  case ardl | ardm | ardx => exact .act (fun _ _ h1 => h1.bronze (fun _ _ h2 => h2.accOp (fun _ h3 => h3.wd)))
  case csrr => exact .act (fun _ _ h1 => h1.bronze (fun _ _ h2 => h2.csrAccess (fun _ h3 => h3.csrRead.setD)))
  case csrw | csrs | csrc =>
    exact .act (fun _ _ h1 => h1.bronze (fun _ _ h2 => h2.csrAccess (fun _ h3 => .done h3.csrWrite)))
  case eret => exact .act (fun _ _ h1 => h1.bronze (fun _ _ h2 => h2.eret))
  case trap | brk => exact .act (fun _ _ h1 => h1.bronze (fun _ _ h2 => .ite (.exc h2) (.exc h2)))
  case twait =>
    exact .act (fun _ _ h1 => h1.bronze (fun _ _ h2 => .ite (.exc h2) (.ite (.exc h2) (.ite (.exc h2) (.wait
      h2.onTsk)))))
  case tcommit | tcommitE | tcommitB => exact .act (fun _ _ h1 => h1.bronze (fun _ _ h2 => h2.tcommit))
  case tfault => exact .act (fun _ _ h1 => h1.bronze (fun _ _ h2 => h2.tfault))
  case interrupt => exact .act (fun _ _ h1 => h1.interruptNow)
  case abort => exact .act (fun _ _ h1 => h1.abortNow)
  case storeDataError => exact .act (fun _ _ h1 => .ite h1.takeStoreErr h1)
  case doorbell => exact .act (fun _ _ h1 => h1.doorbell)
  case vldQ | vldV => exact .act (fun _ _ h1 => h1.bronze (fun _ _ h2 => h2.vld))
  case vstQ | vstV => exact .act (fun _ _ h1 => h1.bronze (fun _ _ h2 => h2.vst))
  case vadd | vsub | vadds | vsubs | vand | vor | vxor | vmin | vmax | vabs | vavgr | vsrar | vslls | vmulr
      =>
    exact .act (fun _ _ h1 => h1.bronze (fun _ _ h2 => h2.vopComp))
  case vcmulr | vcmuljr | vconj => exact .act (fun _ _ h1 => h1.bronze (fun _ _ h2 => h2.vopCplx))
  case vdot | vdotj => exact .act (fun _ _ h1 => h1.bronze (fun _ _ h2 => h2.vdot))
  case vnr =>
    exact .act (fun _ _ h1 => h1.bronze (fun _ _ h2 => h2.vecOp (fun _ h3 => h3.countSat.dsat.writeVec)))
  case vwid | vperm | vsplat | vins | vqtov | vvtoq =>
    exact .act (fun _ _ h1 => h1.bronze (fun _ _ h2 => h2.vecOp (fun _ h3 => h3.writeVec)))
  case vext => exact .act (fun _ _ h1 => h1.bronze (fun _ _ h2 => h2.vecOp (fun _ h3 => h3.wd)))
  case vsetvl => exact .act (fun _ _ h1 => h1.bronze (fun _ _ h2 => h2.vecOp (fun _ h3 => h3.onVec.wd)))
  case pcmd => exact .pcmd
  case pres => exact .pres
  case cpsave =>
    exact .act (fun _ _ h1 => h1.bronze (fun _ _ h2 => h2.contextOp (fun _ _ _ h3 => .done
      (h3.sampleAccess.blockStore (fun _ _ _ h4 => h4.feedSig)))))
  case cprest => exact .cprest
  case psync =>
    exact .act (fun _ _ h1 => h1.bronze (fun _ _ h2 => .ite (.exc h2) (.ite (.exc h2) (.ite (.done h2)
      (.wait h2)))))
  case pewterLoad => exact .act (fun _ _ h1 => h1.pewterStep (fun _ _ _ _ h2 => h2.doLoad))
  case pewterStore => exact .act (fun _ _ h1 => h1.pewterStep (fun _ _ _ _ h2 => h2.doStore))
  case pewterMul => exact .act (fun _ _ h1 => h1.pewterStep (fun _ _ _ _ h2 => h2.doMul))
  case chol => exact .act (fun _ _ h1 => h1.pewterStep (fun _ _ _ _ h2 => h2.doChol))
  case trsm => exact .act (fun _ _ h1 => h1.pewterStep (fun _ _ _ _ h2 => h2.doTrsm))
  case qr => exact .act (fun _ _ h1 => h1.pewterStep (fun _ _ _ _ h2 => h2.doQr))
  case demap => exact .act (fun _ _ h1 => h1.pewterStep (fun _ _ _ _ h2 => h2.doDemap))
  case post => exact .post
  case cancel => exact .cancel
  case free => exact .free
  case cascade => exact .cascade
  case handleWalk => exact .handleWalk
  case dispatch => exact .act (fun _ _ h1 => .ite h1 h1.arbitrate.nextStep)
  case taskCommit => exact .act (fun _ _ h1 => .ite h1 h1.taskCommit.nextStep)
  case taskDetection => exact .act (fun _ _ h1 => .ite h1 h1.dropDetect.markParity.detection.nextStep)
  case unitCondition =>
    exact .act (fun _ _ h1 => .ite (Canonical.nextStep (Canonical.unitCondition ⟨h1.wf⟩)) h1)
  case setGpioExpiry => exact .act (fun _ _ h1 => h1.gpioExpiry)
  case slotBoundary => exact .act (fun _ _ h1 => .ite h1 (.ite h1.onTime h1.onTime.slotBoundary.nextStep))
  case dispatcherHalted => exact .act (fun _ _ h1 => .ite h1 (Canonical.event ⟨h1.wf⟩))
  case ulSymbol => exact .act (fun _ _ h1 => h1.runEngine (fun _ _ _ h2 => h2.ulJob))
  case dlSymbol => exact .act (fun _ _ h1 => h1.runEngine (fun _ _ _ h2 => h2.dlJob))
  case prachFe => exact .act (fun _ _ h1 => h1.runEngine (fun _ _ _ h2 => h2.feJob))
  case prachDet => exact .act (fun _ _ h1 => h1.runEngine (fun _ _ _ h2 => h2.detJob))
  case weight => exact .act (fun _ _ h1 => h1.runEngine (fun _ _ _ h2 => h2.weightJob))
  case map => exact .act (fun _ _ h1 => h1.runEngine (fun _ _ _ h2 => h2.mapJob))
  case ldpcDec | turboDec => exact .act (fun _ _ h1 => h1.runEngine (fun _ _ _ h2 => h2.decodeJob))
  case ldpcEnc | turboEnc => exact .act (fun _ _ h1 => h1.runEngine (fun _ _ _ h2 => h2.encodeJob))
  case tbCrc => exact .act (fun _ _ h1 => h1.runEngine (fun _ _ _ h2 => h2.tbCrcJob))
  case polarDec => exact .act (fun _ _ h1 => h1.runEngine (fun _ _ _ h2 => h2.polarDecJob))
  case polarEnc => exact .act (fun _ _ h1 => h1.runEngine (fun _ _ _ h2 => h2.polarEncJob))
  case gcmEnc | gcmDec => exact .act (fun _ _ h1 => h1.gcmRun)
  case acquire | acquireUrgent => exact .act (fun _ _ h1 => h1.acquireLock)
  case release => exact .act (fun _ _ h1 => h1.releaseLock)
  case lockGrant => exact .act (fun _ _ h1 => h1.grantLock)
  case cipherGo => exact .act (fun _ _ h1 => h1.cipherGo)
  case retrain | quiet | wake => exact .act (fun _ _ h1 => h1.laneCtrl)
  case quietCountdownEnd => exact .act (fun _ _ h1 => h1.when_ (fun _ h2 => h2.silenceLane.onTeth))
  case silenceEnd => exact .act (fun _ _ h1 => h1.when_ (fun _ h2 => h2.toPhase))
  case echoWindowPlacement => exact .act (fun _ _ h1 => h1.when_ (fun _ h2 => h2.onTeth.adaptTaps))
  case leadAloneEnd => exact .act (fun _ _ h1 => h1.when_ (fun _ h2 => h2.freshNat.adaptTaps.onTeth.toPhase))
  case followAloneEnd => exact .act (fun _ _ h1 => h1.when_ (fun _ h2 => .ite h2.toPhase h2.failAttempt))
  case goDecision => exact .act (fun _ _ h1 => h1.when_ (fun _ h2 => h2.onTeth))
  case bothEnd => exact .act (fun _ _ h1 => h1.when_ (fun _ h2 => h2.bothEnd))
  case signalInSilence => exact .actPins (fun _ _ h1 => .ite h1.violation.failAttempt (.ite h1.violation h1))
  case markerDetected =>
    exact .actPins (fun _ _ h1 => .ite (.ite h1.violation.failAttempt h1) (.ite (Canonical.huntMarker (.ite
      h1.onTeth h1)) h1))
  case frameReceived => exact .act (fun _ _ h1 => h1.frameReceived)
  case relockExpiry => exact .relockExpiry
  case frameBuild => exact .act (fun _ _ h1 => h1.frameBuild)
  case iqUnit =>
    exact .act (fun _ _ h1 => h1.when_ (fun _ h2 => h2.withUnit (fun _ h3 => h3.noNak) (fun _ _ _ h3 =>
      h3.iqUnit)))
  case containerTimeout => exact .containerTimeout
  case brCtrlSend => exact .act (fun _ _ h1 => h1.when_ (fun _ h2 => h2.brCtrlSend))
  case delayReq | timeMark => exact .act (fun _ _ h1 => h1.when_ (fun _ h2 => h2.onBridle))
  case delayResp =>
    exact .act (fun _ _ h1 => h1.when_ (fun _ h2 => h2.withUnit (fun _ h3 => h3.noNak) (fun _ _ _ h3 =>
      h3.delayResp)))
  case alarm =>
    exact .act (fun _ _ h1 => h1.when_ (fun _ h2 => h2.withUnit (fun _ h3 => h3.noNak) (fun _ _ _ h3 =>
      h3.alarmUnit)))
  case boardMessage =>
    exact .act (fun _ _ h1 => h1.when_ (fun _ h2 => h2.withUnit (fun _ h3 => h3.noNak) (fun _ _ _ h3 =>
      h3.boardMessage)))
  case data => exact .act (fun _ _ h1 => h1.linkUnit (fun _ _ _ h2 => h2.dataUnit))
  case ack => exact .act (fun _ _ h1 => h1.linkUnit (fun _ _ _ h2 => h2.ackUnit))
  case nak => exact .act (fun _ _ h1 => h1.linkUnit (fun _ _ _ h2 => h2.nakUnit))
  case credit => exact .act (fun _ _ h1 => h1.linkUnit (fun _ _ _ h2 => h2.creditUnit))
  case reset => exact .act (fun _ _ h1 => h1.linkUnit (fun _ _ _ h2 => h2.resetUnit))
  case retryTimeout => exact .act (fun _ _ h1 => h1.when_ (fun _ h2 => h2.resendAll.onLink))
  case txPosted => exact .act (fun _ _ h1 => h1.txPost)
  case rxConsumed => exact .act (fun _ _ h1 => h1.rxConsume)
  case packetArrival => exact .act (fun _ _ h1 => h1.arrive)
  case packetInjection => exact .actIf (fun _ _ h1 => h1.inject)
  case responseTimeout => exact .act (fun _ _ h1 => h1.responseTimeout)
  case portIsolate | portRelease => exact .act (fun _ _ h1 => h1.portCtrl)
  case quiesce => exact .act (fun _ _ h1 => h1.acceptAgain.leaveFenced.riseReleased.refusalReleased)
  case quiesceLimit => exact .act (fun _ _ h1 => h1.quiesceLimit)
  case quiesceRetry => exact .quiesceRetry
  case isolationTailTimeout => exact .act (fun _ _ h1 => h1.tailTimeout)
  case memoryRead => exact .act (fun _ _ h1 => h1.memLoad.answered)
  case memoryWrite => exact .act (fun _ _ h1 => h1.memStore.answered)
  case memoryAtomic => exact .act (fun _ _ h1 => .ite h1.answered h1.memPacket.answered)
  case handleTableWrite => exact .act (fun _ _ h1 => h1.when_ (fun _ h2 => h2.memStore.answered))
  case scrubVisit => exact .act (fun _ _ h1 => h1.when_ (fun _ h2 => h2.scrubVisit))
  case lapLimit => exact .act (fun _ _ h1 => h1.when_ (fun _ h2 => h2.setMemUnit.event))
  case bucketLeak => exact .act (fun _ _ h1 => h1.bucketLeak)
  case ptpMeasurement => exact .actPins (fun _ _ h1 => h1.when_ (fun _ h2 => h2.onTime.measure))
  case masterLost => exact .act (fun _ _ h1 => h1.masterLost)
  case synceLost => exact .act (fun _ _ h1 => h1.when_ (fun _ h2 => h2.onTime.event))
  case reacquire => exact .act (fun _ _ h1 => h1.timeCtrl)
  case cellActive => exact .act (fun _ _ h1 => h1.cellActive)
  case pulseCtrl => exact .act (fun _ _ h1 => h1.pulseCtrl)
  case pulseArm => exact .act (fun _ _ h1 => h1.pulseArm)
  case pulseEdge => exact .act (fun _ _ h1 => h1.pulseEdge)
  case ppsOut => exact .act (fun _ _ h1 => h1.ppsOut)
  case ppsIn => exact .actPins (fun _ _ h1 => h1.onTime)
  case powerReqFull | trim | nap | deepsleep => exact .act (fun _ _ h1 => h1.powerRequest)
  case domainAgree => exact .act (fun _ _ h1 => h1.domainAgree)
  case domainRefused => exact .act (fun _ _ h1 => h1.domainRefused)
  case powerGood => exact .act (fun _ _ h1 => h1.powerGood)
  case powerGoodFail => exact .act (fun _ _ h1 => h1.powerGoodFail)
  case wakeEdge => exact .actAon (fun _ _ h1 => .ite h1 h1.wakeEdge)
  case deepsleepWakeCheck =>
    exact .actImg (fun _ _ h1 => .ite_snd (.ite_snd Canonical.islandReset ⟨h1.freshNat.wf⟩) h1)
  case avsUpdate => exact .act (fun _ _ h1 => h1.avsUpdate)
  case reportAccept => exact .act (fun _ _ h1 => h1.acceptReport)
  case counterOverflow => exact .act (fun _ _ h1 => h1.when_ (fun _ h2 => ⟨h2.freshNat.wf⟩))
  case epochBoundary => exact .act (fun _ _ h1 => h1.when_ (fun _ h2 => h2.epochBoundary))
  case dump => exact .dump
  case dumpRd => exact .act (fun _ _ h1 => h1.dumpRead)
  case registerWrite => exact .act (fun _ _ h1 => .ite h1 ⟨h1.regAccess.wf⟩)
  case extest | samplePreload | extestPulse | extestTrain => exact .boundary
  case idcode | highz | clamp | bypass => exact .actAon (fun _ _ h1 => h1.jtagSelect)
  case regacc => exact .actAon (fun _ _ h1 => h1.when_ (fun _ h2 => h2.jtagSelect.regacc))
  case jtagDebugRequest => exact .act (fun _ _ h1 => h1.debugRequest)
  case synceLinkUp | arpRequest => exact .actPins (fun _ _ h1 => h1.when_ (fun _ h2 => h2.onTime))
  case announce => exact .actPins (fun _ _ h1 => h1.when_ (fun _ h2 => h2.setMasters))
  case ptpDelayReq => exact .act (fun _ _ h1 => h1.when_ (fun _ h2 => h2.onTime))
  case armedTimePassed => exact .act (fun _ _ h1 => h1.dropPassed)

theorem step_keepsCanonical : KeepsCanonical step := by
  intro s t h ht
  unfold step at ht
  split at ht
  · exact KeepsCanonical.act (fun _ _ h1 => h1.tickClock.powerTick.regaccEnd) s t h ht
  · rename_i c rest _
    exact exec_keepsCanonical c { s with pending := rest } t h ht

end Sys2Proof.Machine
end

section
open Sys2Proof Sys2Proof.Machine

/-- Settles O46: every function of the model that gives a machine keeps memory canonical, so every command's effect
and every step does. -/
theorem memoryStaysCanonical : Obligations.MemoryStaysCanonical :=
  ⟨fun c s t ht h => (exec_keepsCanonical c s t ⟨h⟩ ht).wf, fun s t ht h => (step_keepsCanonical s t ⟨h⟩ ht).wf⟩

end

section
/-! PROOF. What a start keeps on its way through its phases, and where it ends (R37, R45, R46, R409, R442). `f_dst`
says that `f` leaves the device's state, its reset pins and its rails alone; `startView` is what the phases up to 0x04
leave for the later ones to read. -/

namespace Sys2Proof.Machine

/-- Steps that each keep a part `π` of the machine keep it together. -/
theorem foldl_keeps {α β : Type} (π : Dyn → β) {f : Dyn → α → Dyn} (hf : ∀ d a, π (f d a) = π d) (l : List α)
    (d : Dyn) : π (l.foldl f d) = π d :=
  l.foldlRecOn f (motive := fun e => π e = π d) rfl (fun e he a _ => (hf e a).trans he)

theorem OnlyAccess.dst {d e : Dyn} (h : OnlyAccess d e) : e.dst = d.dst := by
  have hdst := congrArg Dyn.dst h
  exact hdst

/-! ### Handles, containers and lanes leave the device state alone -/

@[simp] theorem event_dst (d : Dyn) (src cls code : Nat) (detail : List Byte) :
    (event d src cls code detail).dst = d.dst :=
  issue_dst ..

@[simp] theorem memStore_dst (img : Img) (d : Dyn) (w : Sender) (a : Nat) (l : List Byte) :
    (memStore img d w a l).1.dst = d.dst :=
  (memStore_only img d w a l).dst

@[simp] theorem putHandle_dst (img : Img) (d : Dyn) (h : Nat) (b : Buf) (x : HandleSt) :
    (putHandle img d h b x).dst = d.dst := by
  unfold putHandle
  cases handleTable img <;> simp

@[simp] theorem setHandle_dst (img : Img) (d : Dyn) (h : Nat) (f : HandleSt → HandleSt) :
    (setHandle img d h f).dst = d.dst := by
  unfold setHandle
  split
  · rfl
  · dsimp only
    split
    · split <;> simp
    · simp

@[simp] theorem Dyn.onBridle_dst (d : Dyn) (n : Nat) (f : BridleSt → BridleSt) : (d.onBridle n f).dst = d.dst := rfl
@[simp] theorem Dyn.onTeth_dst (d : Dyn) (n : Nat) (f : TetherSt → TetherSt) : (d.onTeth n f).dst = d.dst := rfl
@[simp] theorem dropContainer_dst (d : Dyn) (n : Nat) : (dropContainer d n).dst = d.dst := rfl

theorem ringFinal_dst (img : Img) (h st : Nat) {hold : Dyn → Dyn} (hh : ∀ d, (hold d).dst = d.dst) (d : Dyn) :
    (ringFinal img h st hold d).dst = d.dst := by
  refine foldl_keeps Dyn.dst (fun d e => ?_) _ d
  dsimp only
  split
  · rfl
  · split
    · rfl
    · exact hh d

@[simp] theorem commitBuffer_dst (img : Img) (d : Dyn) (h st : Nat) : (commitBuffer img d h st).dst = d.dst := by
  unfold commitBuffer enterFinal
  split
  · rfl
  · split
    · rfl
    · exact (ringFinal_dst img h st (fun d => setHandle_dst ..) _).trans (setHandle_dst ..)

@[simp] theorem contWrite_dst (img : Img) (d : Dyn) (n slot off : Nat) (bytes : List Byte) :
    (contWrite img d n slot off bytes).dst = d.dst := by
  unfold contWrite
  split
  · rfl
  · split
    · rfl
    · split
      · rfl
      · dsimp only
        split <;> simp

@[simp] theorem closeCont_dst (img : Img) (d : Dyn) (n slot : Nat) : (closeCont img d n slot).dst = d.dst := by
  unfold closeCont
  split
  · rfl
  · dsimp only
    split
    · rfl
    · have hfill (l : List Nat) (g : Nat → Nat) (b : List Byte) :
          (l.foldl (fun d k => contWrite img d n slot (g k) b) d).dst = d.dst :=
        foldl_keeps Dyn.dst (fun d k => contWrite_dst ..) l d
      split
      · rfl
      · split
        · simp [hfill]
        · split <;> simp [hfill]

@[simp] theorem closeAll_dst (img : Img) (d : Dyn) (n : Nat) : (closeAll img d n).dst = d.dst :=
  foldl_keeps Dyn.dst (fun _ _ => closeCont_dst ..) _ d

@[simp] theorem dropLock_dst (img : Img) (d : Dyn) (n : Nat) : (dropLock img d n).dst = d.dst := by
  unfold dropLock
  dsimp only
  split <;> simp

@[simp] theorem dropWaiting_dst (img : Img) (d : Dyn) (n : Nat) : (dropWaiting img d n).dst = d.dst := by
  unfold dropWaiting
  rw [Dyn.onBridle_dst]
  exact foldl_keeps Dyn.dst (fun _ _ => (setHandle_dst ..).trans (dropContainer_dst ..)) _ d

@[simp] theorem startAttempt_dst (img : Img) (d : Dyn) (n : Nat) (fast : Bool) :
    (startAttempt img d n fast).dst = d.dst := by
  simp [startAttempt, silenceLane]

@[simp] theorem startLane_dst (img : Img) (d : Dyn) (n : Nat) : (startLane img d n).dst = d.dst := by
  unfold startLane
  split
  · rfl
  · split
    · rfl
    · split
      · rfl
      · exact startAttempt_dst ..

/-! ### Reports, and the units that a start sets going -/

@[simp] theorem alert_dst (d : Dyn) (cls : Nat) : (alert d cls).dst = d.dst := by
  unfold alert
  dsimp only
  split
  · split
    · rfl
    · rfl
  · rfl

@[simp] theorem acceptReport_dst (d : Dyn) (src : Nat) : (acceptReport d src).dst = d.dst := by
  unfold acceptReport
  split
  · rfl
  · dsimp only
    rw [alert_dst, countEv_dst]
    split <;> rfl

@[simp] theorem acceptAll_dst (d : Dyn) : (acceptAll d).dst = d.dst :=
  foldl_keeps Dyn.dst (fun _ _ => acceptReport_dst ..) _ d

@[simp] theorem startReport_dst (d : Dyn) (r : Report) : (startReport d r).dst = d.dst := by
  simp [startReport]

@[simp] theorem startUnits_dst (img : Img) (d : Dyn) : (startUnits img d).dst = d.dst := by
  unfold startUnits gridFrom
  refine (foldl_keeps Dyn.dst (fun e g => ?_) _ _).trans ?_
  · exact Dyn.onTime_dst ..
  · exact Dyn.onTime_dst ..

/-- Step 12 (R37): the device's state is SERVICE, whatever starts with it. -/
theorem enterService_dst (im : Image) (img : Img) (d : Dyn) :
    (enterService im img d).dst = { d.dst with state := .service, phase := 0x20, startReady := false } := by
  unfold enterService
  extract_lets _ d1 d2 d3
  have h2 : d2.dst = d1.dst :=
    (foldl_keeps Dyn.dst (fun _ _ => startLane_dst ..) _ _).trans (startUnits_dst ..)
  have h3 : d3.dst = d2.dst := foldl_keeps Dyn.dst (fun d c => by split <;> rfl) _ _
  change _ = d1.dst
  rw [← h2, ← h3]
  split
  · rfl
  · split
    · rfl
    · exact startReport_dst ..

/-! ### A start that ends without a running image (R45, R46) -/

theorem onlyAccess_fenceOff (d : Dyn) : OnlyAccess d (fenceOff d) :=
  OnlyAccess.foldl (fun d e => by
    split
    · exact onlyAccess_applyMode d e 1
    · exact OnlyAccess.refl d) _ d

theorem endIdle_dst (st : DevState) (d : Dyn) :
    (endIdle st d).dst = { d.dst with state := st, phase := 0, startReady := false } :=
  (onlyAccess_fenceOff _).dst

theorem endIdle_cores (st : DevState) (d : Dyn) : (endIdle st d).cores = [] :=
  (onlyAccess_fenceOff _).cores

theorem endIdle_ends (st : DevState) (d : Dyn) :
    (endIdle st d).dst.state = st ∧ (endIdle st d).dst.dramUp = d.dst.dramUp ∧ (endIdle st d).cores = [] := by
  rw [endIdle_dst]
  exact ⟨rfl, rfl, endIdle_cores st d⟩

theorem deviceRefused_holds (copy code : Nat) (d : Dyn) :
    (deviceRefused copy code d).1 = Img.reset ∧ (deviceRefused copy code d).2.dst.state = .hold
    ∧ (deviceRefused copy code d).2.cores = [] := by
  obtain ⟨hstate, -, hcores⟩ := endIdle_ends .hold (refusalReport copy d (refuseAll code))
  unfold deviceRefused holdNow
  dsimp only
  exact ⟨rfl, hstate, hcores⟩

/-! ### Phases 0x01 to 0x04 -/

/-- What the later phases of a start read of the machine that the first ones leave. -/
def startView (d : Dyn) : DeviceSt × FuseSt × FlashSt × TapSt × Map KeySlot :=
  (d.dst, d.fuse, d.flash, d.tap, d.keys)

theorem startView_event (d : Dyn) (src cls code : Nat) (detail : List Byte) :
    startView (event d src cls code detail) = startView d := by
  simp [startView, event]

theorem startView_eventIf {c : Bool} {d e : Dyn} {src cls code : Nat} {detail : List Byte}
    (h : startView d = startView e) : startView (if c then event d src cls code detail else d) = startView e := by
  cases c
  · exact h
  · exact (startView_event ..).trans h

theorem startView_avsWrite (img : Img) (d0 : Dyn) (target : Nat) (acked : BitVec 3) (fault : Bool) (readMv : Nat) :
    startView (avsWrite img d0 target acked fault readMv) = startView d0 := by
  unfold avsWrite
  split
  rename_i hrail
  refine startView_eventIf (e := d0) ?_
  split at hrail <;> (cases hrail; rfl)

theorem startView_firstTarget (env : StartEnv) (d : Dyn) : startView (firstTarget env d) = startView d := by
  unfold firstTarget
  dsimp only
  split
  · rfl
  · exact startView_avsWrite ..

theorem startView_bootLink (env : StartEnv) (d : Dyn) : startView (bootLink env d) = startView d := by
  unfold bootLink
  split <;> rfl

/-- An engine that runs a message may keep a copy of the slot that is written; nothing else but the slots changes
(R386, R389). -/
theorem writeKey_eq (d : Dyn) (slot key use origin : Nat) : ∃ x, writeKey d slot key use origin = { d with
    cipher := x, keys := Map.set d.keys slot { key, use, origin, gen := ((d.key slot).gen + 1) % 65536 } } := by
  unfold writeKey
  extract_lets old d1
  have hd1 : ∃ x, d1 = { d with cipher := x } := by
    refine List.foldlRecOn _ _ (motive := fun e : Dyn => ∃ x, e = { d with cipher := x }) ⟨d.cipher, rfl⟩ ?_
    rintro e ⟨x, rfl⟩ k -
    split
    · exact ⟨_, rfl⟩
    · exact ⟨x, rfl⟩
  obtain ⟨x, hx⟩ := hd1
  exact ⟨x, by rw [hx]⟩

/-- The machine as phase 0x03 leaves it. -/
def linkTrained (env : StartEnv) (d : Dyn) : Dyn := bootLink env (firstTarget env (loadImageKey d))

/-- The machine as phase 0x04 leaves it, every channel of DRAM trained. -/
def dramTrained (d : Dyn) : Dyn :=
  { d with dst := { d.dst with dramUp := true, slotUp := true }, mem := { d.mem with staged := true } }

theorem startView_linkTrained (env : StartEnv) (d : Dyn) :
    startView (linkTrained env d) = (d.dst, d.fuse, d.flash, d.tap, (loadImageKey d).keys) := by
  refine (startView_bootLink ..).trans ((startView_firstTarget ..).trans ?_)
  unfold loadImageKey
  split
  · rfl
  · obtain ⟨x, hx⟩ := writeKey_eq d 63 d.fuse.imageKey 0 3
    rw [hx]
    rfl

theorem linkTrained_keeps (env : StartEnv) (d : Dyn) :
    (linkTrained env d).dst = d.dst ∧ (linkTrained env d).fuse = d.fuse ∧ (linkTrained env d).flash = d.flash
    ∧ (linkTrained env d).tap = d.tap ∧ (linkTrained env d).keys = (loadImageKey d).keys := by
  simpa only [startView, Prod.mk.injEq] using startView_linkTrained env d

theorem trainDram_trained {env : StartEnv} (h : env.dramFail = []) (next : Dyn → Img × Dyn) (d : Dyn) :
    trainDram env next d = next (dramTrained d) :=
  if_pos (by rw [h]; rfl)

/-! ### A copy that is accepted, with every test passed -/

theorem tryCopies_accepted {env : StartEnv} {f : FlashSt} {dir : BootDir} {copy : Nat} {d : Dyn} {im : Image}
    (h : checkCopy f d.fuse (d.key 63) dir copy = ([], some im)) (rest : List Nat) :
    tryCopies env f dir (copy :: rest) d = runImage env im (stageCopy f dir copy d) := by
  have hstaged : checkCopy f (stageCopy f dir copy d).fuse ((stageCopy f dir copy d).key 63) dir copy
      = ([], some im) := h
  unfold tryCopies
  dsimp only
  rw [hstaged]

theorem loopFails_false {env : StartEnv} (h : ∀ x ∈ env.loops, x.lost = 0 ∧ 80 ≤ x.margin) (img : Img) (s : Nat) :
    loopFails env img s = false := by
  have hloops : env.loops.any (fun x => x.lane.val == srcInst s && (x.lost != 0 || decide (x.margin < 80)))
      = false := by
    rw [List.any_eq_false]
    intro x hx
    obtain ⟨hlost, hmargin⟩ := h x hx
    simp [hlost, hmargin]
  rw [loopFails, hloops, Bool.and_false]

section
variable {env : StartEnv} (hfailing : env.failing = []) (hloops : ∀ x ∈ env.loops, x.lost = 0 ∧ 80 ≤ x.margin)
include hfailing hloops

theorem failsIn_nil (img : Img) (phase : Nat) : failsIn env img phase = [] := by
  unfold failsIn
  rw [List.filter_eq_nil_iff]
  intro s _
  simp [hfailing, loopFails_false hloops]

theorem selfTest_passes (img : Img) (degraded : Bool) (l held : List Nat) (d : Dyn) :
    selfTest env img degraded l held d = (some held, d) := by
  induction l generalizing held with
  | nil => rfl
  | cons p rest ih => simp [selfTest, failsIn_nil hfailing hloops, ih]

theorem runImage_passes (happly : env.applyError = false) (im : Image) (d : Dyn) :
    runImage env im d = ((applyImage im [] d).1, enterService im (applyImage im [] d).1 (applyImage im [] d).2) := by
  unfold runImage
  dsimp only
  rw [selfTest_passes hfailing hloops]
  exact if_neg (by rw [happly]; decide)

end

/-! ### Where a start ends -/

theorem startSequence_badClocks {env : StartEnv} (h : clocksBad env = true) (d : Dyn) :
    startSequence env d = deviceRefused 0 0x0105 (firstTarget env (loadImageKey d)) :=
  if_pos h

section
variable {env : StartEnv} {d : Dyn} (hclocks : clocksBad env = false) (hdram : env.dramFail = [])
include hclocks hdram

theorem startSequence_bootsel (h : d.dst.bootsel = true) :
    startSequence env d = (Img.reset, endIdle .recovery (dramTrained (linkTrained env d))) := by
  obtain ⟨hdst, -⟩ := linkTrained_keeps env d
  have hsel : (linkTrained env d).dst.bootsel = true := hdst ▸ h
  refine (if_neg (by rw [hclocks]; decide)).trans ?_
  exact (if_pos hsel).trans (trainDram_trained hdram _ _)

theorem startSequence_directory {b : BootDir × Nat} (h : d.dst.bootsel = false) (hpins : pinsTaken d = false)
    (hflash : flashRefused d.flash = none) (hdir : bootDir d.flash = some b) :
    startSequence env d = tryCopies env d.flash b.1 (copyOrder b.1) (dramTrained (linkTrained env d)) := by
  obtain ⟨hdst, -, hfl, htap, -⟩ := linkTrained_keeps env d
  have hsel : ¬ (linkTrained env d).dst.bootsel = true := by rw [hdst, h]; decide
  have hseen : seenFlash (!pinsTaken (linkTrained env d)) (linkTrained env d) = (d.flash, linkTrained env d) := by
    have htaken : pinsTaken (linkTrained env d) = false := by
      rw [← hpins]
      unfold pinsTaken
      rw [htap]
    rw [htaken, ← hfl]
    rfl
  unfold startSequence
  extract_lets d1 d2
  rw [if_neg (by rw [hclocks]; decide), if_neg (show ¬ d2.dst.bootsel = true from hsel),
    show seenFlash (!pinsTaken d2) d2 = (d.flash, d2) from hseen]
  dsimp only
  rw [hflash]
  dsimp only
  rw [hdir]
  exact trainDram_trained hdram _ _

end

/-- A copy that the checks accept is applied and its service starts, with every unit passing its test: what phases
0x01 to 0x04 leave is what the checks were made on. -/
theorem tryCopies_applies {env : StartEnv} {d : Dyn} {dir : BootDir} {im : Image} {k : Nat}
    (hcheck : checkCopy d.flash d.fuse ((loadImageKey d).key 63) dir k = ([], some im)) (hfailing : env.failing = [])
    (hloops : ∀ x ∈ env.loops, x.lost = 0 ∧ 80 ≤ x.margin) (happly : env.applyError = false) (rest : List Nat) :
    ∃ e, e.fuse = d.fuse ∧ tryCopies env d.flash dir (k :: rest) (dramTrained (linkTrained env d))
      = ((applyImage im [] e).1, enterService im (applyImage im [] e).1 (applyImage im [] e).2) := by
  obtain ⟨-, hfuse, -, -, hkeys⟩ := linkTrained_keeps env d
  have haccepted : checkCopy d.flash (dramTrained (linkTrained env d)).fuse ((dramTrained (linkTrained env d)).key 63)
      dir k = ([], some im) := by
    have hkey : (dramTrained (linkTrained env d)).key 63 = (loadImageKey d).key 63 :=
      congrArg (fun l => Map.get KeySlot.empty l 63) hkeys
    rw [hkey, show (dramTrained (linkTrained env d)).fuse = d.fuse from hfuse, hcheck]
  exact ⟨stageCopy d.flash dir k (dramTrained (linkTrained env d)), hfuse,
    (tryCopies_accepted haccepted rest).trans (runImage_passes hfailing hloops happly im _)⟩

/-! ### Resets -/

theorem cutFlash_fuse (d : Dyn) : (cutFlash d).fuse = d.fuse := by
  unfold cutFlash
  split <;> rfl

/-! ### The commands -/

theorem aonResetRelease_down {s : State} (h : s.dyn.dst.aonUp = false) :
    Becomes (exec .aonResetRelease s) s
      { s.dyn with dst := { s.dyn.dst with aonUp := true, mainEn := true, vioUp := true } } := by
  change execAonResetRelease s = _
  simp [execAonResetRelease, actAon, aonRelease, h]

theorem aonResetRelease_up {s : State} (h : s.dyn.dst.aonUp = true) :
    Becomes (exec .aonResetRelease s) s s.dyn := by
  change execAonResetRelease s = _
  simp [execAonResetRelease, actAon, aonRelease, h]

theorem resetN_resets {low : Nat} {s : State} (h : s.dyn.dst.aonUp = true) (hlow : 1000 ≤ low) :
    exec (.resetN low) s = .next { s with img := Img.reset, dyn := islandReset s.dyn 1 false } := by
  change execResetN low s = _
  simp [execResetN, actImg, h, hlow]

theorem resetN_stands {low : Nat} {s : State} (h : s.dyn.dst.aonUp = false ∨ low < 1000) :
    Becomes (exec (.resetN low) s) s s.dyn := by
  change execResetN low s = _
  rcases h with h | h
  · simp [execResetN, actImg, h]
  · simp [execResetN, actImg, Nat.not_le.mpr h]

theorem resetNRelease_samples {b : Bool} {s : State} (h : s.dyn.dst.aonUp = true) (hboot : s.dyn.dst.state = .boot)
    (hready : s.dyn.dst.startReady = false) :
    Becomes (exec (.resetNRelease b) s) s { s.dyn with dst := { s.dyn.dst with bootsel := b, startReady := true } } := by
  change execResetNRelease b s = _
  simp [execResetNRelease, actAon, when_, h, hboot, hready]

theorem resetNRelease_stands {b : Bool} {s : State} (h : s.dyn.dst.state ≠ .boot) :
    Becomes (exec (.resetNRelease b) s) s s.dyn := by
  change execResetNRelease b s = _
  simp [execResetNRelease, actAon, when_, h]

theorem vcoreTrip_resets {s : State} (h : islandUp s.dyn = true) :
    exec .vcoreTrip s = .next { s with img := Img.reset, dyn := islandReset s.dyn 2 true } := by
  change execVcoreTrip s = _
  simp [execVcoreTrip, actImg, h]

/-- VAON_TRIP leaves the fuses, the flash and the model's own count of free values; all else is at reset (R409). -/
theorem vaonTrip_resets {s : State} (h : s.dyn.dst.aonUp = true) :
    exec .vaonTrip s = .next { s with img := Img.reset, dyn := { Dyn.reset with
      fuse := s.dyn.fuse, flash := (cutFlash s.dyn).flash, free := (cutFlash s.dyn).free } } := by
  change execVaonTrip s = _
  simp [execVaonTrip, actImg, h, cutFlash_fuse]

theorem vaonTrip_stands {s : State} (h : s.dyn.dst.aonUp = false) : Becomes (exec .vaonTrip s) s s.dyn := by
  change execVaonTrip s = _
  simp [execVaonTrip, actImg, h]

theorem startSequence_stands {env : StartEnv} {s : State} (h : s.dyn.dst.aonUp = false) :
    Becomes (exec (.startSequence env) s) s s.dyn := by
  change execStartSequence env s = _
  simp [execStartSequence, actImg, mayStart, h]

theorem startSequence_answers {env : StartEnv} {s : State} {P : State → Prop} (hup : s.dyn.dst.aonUp = true)
    (hready : s.dyn.dst.startReady = true) (hheld : env.vcoreHeld = true) {x : Img × Dyn}
    (hx : startSequence env s.dyn = x) (h : P { s with img := x.1, dyn := x.2 }) :
    Answers (exec (.startSequence env) s) P := by
  refine ⟨_, ?_, h⟩
  change execStartSequence env s = _
  simp [execStartSequence, actImg, mayStart, hup, hready, hheld, hx]

end Sys2Proof.Machine
end

section
open Sys2Proof Sys2Proof.Machine

/-- Settles O56: each reset and trip by its own command's cases; a start by the phases that it passes, which keep what
the next one reads, and by the fields that its last step leaves. -/
theorem startsAndResets : Obligations.StartsAndResets := by
  unfold Obligations.StartsAndResets
  intro low bootsel env s d goes does
  refine ⟨?down, ?up, fun hup => vcoreTrip_resets hup, ?reset, ?start⟩
  case down =>
    exact fun hdown => ⟨aonResetRelease_down hdown, resetN_stands (.inl hdown), vaonTrip_stands hdown,
      startSequence_stands hdown⟩
  case up =>
    exact fun hup => ⟨aonResetRelease_up hup, fun hlow => resetN_resets hup hlow,
      fun hlow => resetN_stands (.inr hlow), ⟨_, vaonTrip_resets hup, rfl, rfl, rfl, rfl, rfl, rfl, rfl⟩,
      fun hboot hready => resetNRelease_samples hup hboot hready, fun hboot => resetNRelease_stands hboot⟩
  case reset => exact fun cause ready => ⟨rfl, rfl, cutFlash_fuse d, rfl, rfl, rfl, rfl, rfl, rfl⟩
  case start =>
    intro hup hready hheld hdram
    refine ⟨fun hbad => ?hold, fun hgood hsel => ?recovery, ?service⟩
    case hold =>
      refine startSequence_answers hup hready hheld (startSequence_badClocks hbad s.dyn) ?_
      dsimp only
      exact deviceRefused_holds 0 0x0105 (firstTarget env (loadImageKey s.dyn))
    case recovery =>
      obtain ⟨hstate, hdramUp, hcores⟩ := endIdle_ends .recovery (dramTrained (linkTrained env s.dyn))
      refine startSequence_answers hup hready hheld (startSequence_bootsel hgood hdram hsel) ?_
      dsimp only
      exact ⟨rfl, hstate, hdramUp, hcores⟩
    case service =>
      intro hgood hsel hpins hflash b im k rest hdir horder hcheck hfailing hloops happly
      have hstart := startSequence_directory hgood hdram hsel hpins hflash hdir
      obtain ⟨e, hfuse, happlied⟩ := tryCopies_applies hcheck hfailing hloops happly rest
      refine startSequence_answers hup hready hheld (hstart.trans (horder ▸ happlied)) ?_
      rw [← hfuse]
      exact ⟨congrArg DeviceSt.state (enterService_dst ..), congrArg DeviceSt.phase (enterService_dst ..),
        rfl, rfl, rfl, rfl⟩

end

section
/-! PROOF. Management commands on flash, keys, fuses and the device's state (R46, R47, R51 to R54, R309, R310, R392,
R395), about the machine whose supervisor has taken the message (`takeCmd`). -/

namespace Sys2Proof.Machine

/-! ### Answers (R309, R310) -/

theorem answerMalformed_eq (l : List (List Byte)) (d : Dyn) :
    ∃ a b n, answerMalformed l d = { d with answers := a, inbox := b, taken := n } := by
  induction l generalizing d with
  | nil => exact ⟨d.answers, [], d.taken, rfl⟩
  | cons m rest ih =>
    unfold answerMalformed
    split
    · exact ih _
    · exact ⟨d.answers, m :: rest, d.taken, rfl⟩

/-- An answer changes the answers that wait for the host and the messages that wait for the supervisor, and nothing
else. -/
theorem answer_eq (d : Dyn) (op : Nat) (tag : Half) (code : Nat) (body : List Byte) :
    ∃ a b n, answer d op tag code body = { d with answers := a, inbox := b, taken := n } :=
  answerMalformed_eq ..

@[simp] theorem answer_flash (d : Dyn) (op : Nat) (tag : Half) (code : Nat) (body : List Byte) :
    (answer d op tag code body).flash = d.flash := by
  obtain ⟨a, b, n, h⟩ := answer_eq d op tag code body
  rw [h]

@[simp] theorem answer_mem (d : Dyn) (op : Nat) (tag : Half) (code : Nat) (body : List Byte) :
    (answer d op tag code body).mem = d.mem := by
  obtain ⟨a, b, n, h⟩ := answer_eq d op tag code body
  rw [h]

/-! ### Commands that are answered at once -/

theorem command_runs {op : Nat} {tag : Half} {states : Dyn → Bool} {code : Dyn → Nat} {run : Dyn → Dyn × List Byte}
    {d : Dyn} (hs : states (takeCmd d) = true) (hc : code (takeCmd d) = 0) :
    command op tag states code run d = answer (run (takeCmd d)).1 op tag 0 (run (takeCmd d)).2 := by
  simp [command, hs, hc]

/-! ### Flash commands (R51 to R54) -/

theorem flashBusy_idle {d : Dyn} (h : d.flash.job = none ∧ d.flash.responds = true) : flashBusy d = 0 := by
  obtain ⟨hjob, hresponds⟩ := h
  simp [flashBusy, hjob, hresponds]

theorem flashBusy_job {d : Dyn} {j : FlashJob} (h : d.flash.job = some j) : flashBusy d = 0x0C02 := by
  simp [flashBusy, h]

theorem inFlash_fits {d : Dyn} {off n : Nat} (h : off + n ≤ d.flash.density) : inFlash d off n = true :=
  decide_eq_true h

/-- The machine after a command has started on its flash: whether it has the SPI pins counts from now (R452; log 78). -/
def flashStarted (d : Dyn) (job : FlashJob) : Dyn :=
  { d with
    flash := { d.flash with job := some job }
    tap := { d.tap with spi := if pinsTaken d then .lost else .clear } }

section
variable {op : Nat} {tag : Half} {bad prot : Dyn → Bool} {job : FlashJob} {d : Dyn}

theorem startFlash_starts (hbad : bad (takeCmd d) = false) (hidle : flashBusy (takeCmd d) = 0)
    (hprot : prot (takeCmd d) = false) :
    startFlash op tag bad prot job d = flashStarted (takeCmd d) job := by
  simp [startFlash, flashStarted, hbad, hidle, hprot]

theorem startFlash_protected (hbad : bad (takeCmd d) = false) (hidle : flashBusy (takeCmd d) = 0)
    (hprot : prot (takeCmd d) = true) : startFlash op tag bad prot job d = answer (takeCmd d) op tag 0x0C01 [] := by
  simp [startFlash, hbad, hidle, hprot]

theorem startFlash_busy {j : FlashJob} (hbad : bad (takeCmd d) = false) (hjob : (takeCmd d).flash.job = some j) :
    startFlash op tag bad prot job d = answer (takeCmd d) op tag 0x0C02 [] := by
  simp [startFlash, hbad, flashBusy_job hjob]

end

theorem flashDone_idle {img : Img} {d : Dyn} (h : d.flash.job = none) : flashDone img d = (img, d) := by
  simp [flashDone, h]

theorem flashDone_stays {img : Img} {d : Dyn} {j : FlashJob} (h : d.flash.job = some j)
    (hrestart : (finishFlash d j).flash.restart = none) : flashDone img d = (img, finishFlash d j) := by
  simp [flashDone, h, hrestart]

theorem finishFlash_erase_clear {d : Dyn} {tag : Half} {off n : Nat} (h : d.tap.spi = .clear) :
    finishFlash d (.erase tag off n)
      = answer { d with flash := { d.flash.erase off n with job := none } } 0x0041 tag 0 [] := by
  simp [finishFlash, seenFlash, leftFlash, h]

/-- While JTAG held the SPI pins all the time the erase has done nothing (log 78). -/
theorem finishFlash_erase_lost {d : Dyn} {tag : Half} {off n : Nat} (h : d.tap.spi = .lost) :
    finishFlash d (.erase tag off n)
      = answer { d with flash := { d.flash with job := none }, free := d.free + 2 } 0x0041 tag 0 [] := by
  simp [finishFlash, seenFlash, leftFlash, freshNat, h]

/-! ### Keys (R386, R392) -/

theorem key_writeKey (d : Dyn) (slot key use origin k : Nat) : (writeKey d slot key use origin).key k
    = if k = slot then { key, use, origin, gen := ((d.key slot).gen + 1) % 65536 } else d.key k := by
  obtain ⟨x, hx⟩ := writeKey_eq d slot key use origin
  rw [hx]
  exact Map.get_set ..

section
variable {tag : Half} {d : Dyn} (hstate : (takeCmd d).dst.state = .service)
include hstate

theorem keyErase_erases {slot : Nat} (hslot : slot < 63) (horigin : ((takeCmd d).key slot).origin ≠ 1) :
    keyErase tag slot d = answer (writeKey (takeCmd d) slot 0 0 0) 0x31 tag 0
      (leBytes 2 ((writeKey (takeCmd d) slot 0 0 0).key slot).gen ++ zeros 2) := by
  have h63 : ¬ (slot = 63 ∨ ((takeCmd d).key slot).origin = 1) := by omega
  simp [keyErase, inStates, hstate, h63, Nat.not_lt.mpr (Nat.le_of_lt hslot)]

theorem keyErase_refused {slot : Nat} (h : slot = 63 ∨ ((takeCmd d).key slot).origin = 1) :
    keyErase tag slot d = answer (refusal (takeCmd d) 0x0C00 0x0506 []) 0x31 tag 0x0506 [] := by
  simp [keyErase, inStates, hstate, h, refuseCmd]

theorem keyUpload_writes {r k : List Byte} (hlen : r.length = 48) (hslot : fld r 0 1 < 63)
    (horigin : ((takeCmd d).key (fld r 0 1)).origin ≠ 1) (huse : 1 ≤ fld r 1 1 ∧ fld r 1 1 ≤ 3)
    (hkek : ((takeCmd d).key 63).origin ≠ 0)
    (hk : keyUnwrap ((takeCmd d).key 63).key ((r.drop 8).take 40) = some k) :
    let u := event (writeKey (takeCmd d) (fld r 0 1) (leNat k) (fld r 1 1) 2) keyStoreSrc 0 0x0981 []
    keyUpload tag r d = answer u 0x30 tag 0 (leBytes 2 (u.key (fld r 0 1)).gen ++ zeros 1 ++ keyCheck (leNat k)) := by
  have hrefused : ¬ (fld r 0 1 = 63 ∨ ((takeCmd d).key (fld r 0 1)).origin = 1) := by omega
  have hbad : ¬ (63 < fld r 0 1 ∨ fld r 1 1 = 0 ∨ 3 < fld r 1 1) := by omega
  simp [keyUpload, inStates, hstate, hlen, hrefused, hbad, hkek, hk]

end

/-! ### Fuses (R395) -/

theorem fuseProgram_minSecver {tag : Half} {value : List Byte} {d : Dyn} (hstate : (takeCmd d).dst.state = .hold)
    (hlen : value.length = 1) (hmax : leNat value ≤ 64) (hmin : (takeCmd d).fuse.minSecver ≤ leNat value) :
    fuseProgram tag 3 value (leNat value) d
      = answer { takeCmd d with fuse := { (takeCmd d).fuse with minSecver := leNat value } } 0x50 tag 0 (zeros 4) := by
  have hresult : fuseResult (takeCmd d).fuse 3 (leNat value) = 0 := if_neg (by omega)
  have hset : setFuse (takeCmd d).fuse 3 (leNat value) = { (takeCmd d).fuse with minSecver := leNat value } := by
    simp only [setFuse, Nat.min_eq_left hmax, Nat.max_eq_right hmin]
  simp [fuseProgram, inStates, fuseLength, hstate, hlen, hresult, hset]
  rfl

theorem fuseProgram_wrongState {tag : Half} {fuse : Nat} {value : List Byte} {back : Nat} {d : Dyn}
    (h : (takeCmd d).dst.state ≠ .hold) :
    fuseProgram tag fuse value back d = answer (takeCmd d) 0x50 tag 0xF003 [] := by
  simp [fuseProgram, inStates, h, wrongState]

/-! ### RESTART and ENTER_RECOVERY (R46, R47, R54) -/

theorem restartCmd_restarts {img : Img} {tag : Half} {d : Dyn} (hjob : (takeCmd d).flash.job = none)
    (h : (takeCmd d).dst.state = .hold ∨ (takeCmd d).dst.state = .recovery
      ∨ ((takeCmd d).dst.state = .service ∧ allQuiet img (takeCmd d) = true)) :
    restartCmd img tag d = (Img.reset, restartNow (answer (takeCmd d) 0x70 tag 0 [])) := by
  rcases h with h | h | ⟨h, hquiet⟩
  · simp [restartCmd, inStates, memStates, h, hjob]
  · simp [restartCmd, inStates, memStates, h, hjob]
  · simp [restartCmd, inStates, memStates, h, hquiet, hjob]

theorem recoveryCmd_enters {img : Img} {tag : Half} {d : Dyn}
    (h : (takeCmd d).dst.state = .hold
      ∨ ((takeCmd d).dst.state = .service ∧ allQuiet img (takeCmd d) = true)) :
    recoveryCmd img tag d = answer (endIdle .recovery (eraseKeys (takeCmd d))) 0x71 tag 0 [] := by
  rcases h with h | ⟨h, hquiet⟩
  · simp [recoveryCmd, inStates, h]
  · simp [recoveryCmd, inStates, h, hquiet]

section
variable {img : Img} {tag : Half} {d : Dyn} (hstate : (takeCmd d).dst.state = .service)
  (hactive : allQuiet img (takeCmd d) = false)
include hstate hactive

theorem restartCmd_active : restartCmd img tag d = (img, answer (takeCmd d) 0x70 tag 0x0C03 []) := by
  simp [restartCmd, inStates, memStates, hstate, hactive]

theorem recoveryCmd_active : recoveryCmd img tag d = answer (takeCmd d) 0x71 tag 0x0C03 [] := by
  simp [recoveryCmd, inStates, hstate, hactive]

end

/-! ### The commands -/

/-- While the main island runs, a command to it that gives `d` goes on to `d`. -/
theorem act_becomes {f : Img → Dyn → Dyn} {s : State} {d : Dyn} (hup : islandUp s.dyn = true)
    (h : f s.img s.dyn = d) : Becomes (act f s) s d := by
  rw [Becomes, act_up hup, h]

theorem actImg_becomes {f : Img → Dyn → Img × Dyn} {s : State} {d : Dyn} (h : f s.img s.dyn = (s.img, d)) :
    Becomes (actImg f s) s d := by
  rw [Becomes, actImg, h]

section
variable {s : State} {tag : Half} (hup : islandUp s.dyn = true)
include hup

section
variable (hidle : (takeCmd s.dyn).flash.job = none ∧ (takeCmd s.dyn).flash.responds = true)
include hidle

theorem flashRead_reads {a n : Word} (hmin : 1 ≤ n.toNat) (hmax : n.toNat ≤ 65536)
    (hfits : a.toNat + n.toNat ≤ (takeCmd s.dyn).flash.density) (hpins : pinsTaken (takeCmd s.dyn) = false) :
    Becomes (exec (.flashRead tag a n) s) s
      (answer (takeCmd s.dyn) 0x40 tag 0 ((takeCmd s.dyn).flash.readN a.toNat n.toNat)) := by
  change Becomes (execFlashRead tag a n s) s _
  refine act_becomes hup ((command_runs rfl ?_).trans ?_)
  · have hrange : ¬ (n.toNat = 0 ∨ 65536 < n.toNat) := by omega
    simp [hrange, inFlash_fits hfits, flashBusy_idle hidle]
  · simp [seenFlash, hpins]

section
variable {a n : Word} (ha : a.toNat % 4096 = 0) (hn : n.toNat % 4096 = 0)
  (hfits : a.toNat + n.toNat ≤ (takeCmd s.dyn).flash.density)
include ha hn hfits

theorem flashErase_starts (hprot : flashProtected s.img (takeCmd s.dyn) a.toNat n.toNat = false) :
    Becomes (exec (.flashErase tag a n) s) s (flashStarted (takeCmd s.dyn) (.erase tag a.toNat n.toNat)) := by
  change Becomes (execFlashErase tag a n s) s _
  exact act_becomes hup (startFlash_starts (by simp [ha, hn, inFlash_fits hfits]) (flashBusy_idle hidle) hprot)

theorem flashErase_protected (hprot : flashProtected s.img (takeCmd s.dyn) a.toNat n.toNat = true) :
    Becomes (exec (.flashErase tag a n) s) s (answer (takeCmd s.dyn) 0x41 tag 0x0C01 []) := by
  change Becomes (execFlashErase tag a n s) s _
  exact act_becomes hup (startFlash_protected (by simp [ha, hn, inFlash_fits hfits]) (flashBusy_idle hidle) hprot)

end

theorem flashProgram_starts {a : Word} {data : List Byte} (hmin : 1 ≤ data.length) (hmax : data.length ≤ 65536)
    (hpages : pagesBad a.toNat data.length = false) (hfits : a.toNat + data.length ≤ (takeCmd s.dyn).flash.density)
    (hprot : flashProtected s.img (takeCmd s.dyn) a.toNat data.length = false) :
    Becomes (exec (.flashProgram tag a data) s) s (flashStarted (takeCmd s.dyn) (.program tag a.toNat data)) := by
  change Becomes (execFlashProgram tag a data s) s _
  have hbad : (decide (data.length = 0) || decide (65536 < data.length) || pagesBad a.toNat data.length
      || !inFlash (takeCmd s.dyn) a.toNat data.length) = false := by
    simp only [hpages, inFlash_fits hfits, Bool.not_true, Bool.or_false, Bool.or_eq_false_iff, decide_eq_false_iff_not]
    omega
  exact act_becomes hup (startFlash_starts hbad (flashBusy_idle hidle) hprot)

theorem flashVerify_starts {copy : Byte} (hcopy : copy = 1 ∨ copy = 2) :
    Becomes (exec (.flashVerify tag copy) s) s (flashStarted (takeCmd s.dyn) (.verify tag copy.toNat)) := by
  change Becomes (execFlashVerify tag copy s) s _
  have hbad : (!([1, 2]).contains copy.toNat) = false := by
    rcases hcopy with rfl | rfl <;> rfl
  exact act_becomes hup (startFlash_starts hbad (flashBusy_idle hidle) rfl)

theorem flashCommit_starts {flags : Half} {ao al bo bl : Word} :
    Becomes (exec (.flashCommit tag flags ao al bo bl) s) s (flashStarted (takeCmd s.dyn)
      (.commit tag flags.toNat ao.toNat al.toNat bo.toNat bl.toNat)) := by
  change Becomes (execFlashCommit tag flags ao al bo bl s) s _
  exact act_becomes hup (startFlash_starts rfl (flashBusy_idle hidle) rfl)

end

theorem flashCommit_busy {flags : Half} {ao al bo bl : Word} {j : FlashJob}
    (hjob : (takeCmd s.dyn).flash.job = some j) :
    Becomes (exec (.flashCommit tag flags ao al bo bl) s) s (answer (takeCmd s.dyn) 0x44 tag 0x0C02 []) := by
  change Becomes (execFlashCommit tag flags ao al bo bl s) s _
  exact act_becomes hup (startFlash_busy rfl hjob)

theorem flashCommandDone_stands (hjob : s.dyn.flash.job = none) :
    Becomes (exec .flashCommandDone s) s s.dyn := by
  change Becomes (execFlashCommandDone s) s _
  exact actImg_becomes ((if_pos hup).trans (flashDone_idle hjob))

/-- No RESTART waits: the command under way ends, and the device goes on (R54). -/
theorem flashCommandDone_finishes {j : FlashJob} (hjob : s.dyn.flash.job = some j)
    (hrestart : (finishFlash s.dyn j).flash.restart = none) :
    Becomes (exec .flashCommandDone s) s (finishFlash s.dyn j) := by
  change Becomes (execFlashCommandDone s) s _
  exact actImg_becomes ((if_pos hup).trans (flashDone_stays hjob hrestart))

theorem restart_restarts (hjob : (takeCmd s.dyn).flash.job = none)
    (h : (takeCmd s.dyn).dst.state = .hold ∨ (takeCmd s.dyn).dst.state = .recovery
      ∨ ((takeCmd s.dyn).dst.state = .service ∧ allQuiet s.img (takeCmd s.dyn) = true)) :
    exec (.restart tag) s = .next { s with
      img := Img.reset, dyn := restartNow (answer (takeCmd s.dyn) 0x70 tag 0 []) } := by
  change execRestart tag s = _
  simp only [execRestart, actImg, hup, if_true, restartCmd_restarts hjob h]

end

end Sys2Proof.Machine
end

section
open Sys2Proof Sys2Proof.Machine

/-- Settles O55: each command's case is what its meaning does with the message taken; what ends a flash command is the
erase as the SPI pins let it be. -/
theorem managementControl : Obligations.ManagementControl := by
  unfold Obligations.ManagementControl
  intro tag flags a n ao al bo bl data copy slot fuse back s hup d does st starts idle fits
  refine ⟨?read, ?erase, ?program, ?verify, ?commit, ?busy, ?eraseDone, ?noJob, ?keyErase, ?keyRefused, ?keyUpload,
    ?fuse, ?fuseState, ?time, ?restart, ?recovery, ?active⟩
  case read => exact fun hmin hmax hfits hidle hpins => flashRead_reads hup hidle hmin hmax hfits hpins
  case erase =>
    exact fun ha hn hfits hidle =>
      ⟨fun hprot => flashErase_starts hup hidle ha hn hfits hprot,
        fun hprot => flashErase_protected hup hidle ha hn hfits hprot⟩
  case program =>
    exact fun hmin hmax hpages hfits hidle hprot => flashProgram_starts hup hidle hmin hmax hpages hfits hprot
  case verify => exact fun hcopy hidle => flashVerify_starts hup hidle hcopy
  case commit => exact fun hidle => flashCommit_starts hup hidle
  case busy => exact fun j hjob => flashCommit_busy hup hjob
  case eraseDone =>
    intro t off k hjob hrestart
    constructor
    · intro hclear
      have hdone := finishFlash_erase_clear (tag := t) (off := off) (n := k) hclear
      have hout := flashCommandDone_finishes hup hjob (by rw [hdone, answer_flash]; exact hrestart)
      rwa [hdone] at hout
    · intro hlost
      have hdone := finishFlash_erase_lost (tag := t) (off := off) (n := k) hlost
      have hout := flashCommandDone_finishes hup hjob (by rw [hdone, answer_flash]; exact hrestart)
      rw [hdone] at hout
      exact ⟨_, hout, answer_flash .., answer_mem .., rfl⟩
  case noJob => exact fun hjob => flashCommandDone_stands hup hjob
  case keyErase =>
    intro hstate hslot horigin u
    change Becomes (execKeyErase tag slot s) s _ ∧ _
    refine ⟨act_becomes hup (keyErase_erases hstate hslot horigin), ?_⟩
    have hself := (key_writeKey d slot.toNat 0 0 0 slot.toNat).trans (if_pos rfl)
    exact ⟨congrArg KeySlot.key hself, congrArg KeySlot.origin hself, congrArg KeySlot.gen hself,
      fun k hk => (key_writeKey d slot.toNat 0 0 0 k).trans (if_neg hk)⟩
  case keyRefused =>
    intro hstate h
    change Becomes (execKeyErase tag slot s) s _
    exact act_becomes hup (keyErase_refused hstate h)
  case keyUpload =>
    intro k hstate hlen hslot horigin hmin hmax hkek hk
    change Becomes (execKeyUpload tag data s) s _
    exact act_becomes hup (keyUpload_writes hstate hlen hslot horigin ⟨hmin, hmax⟩ hkek hk)
  case fuse =>
    rintro hstate rfl rfl hlen hmax hmin
    change Becomes (execFuseProgram tag 3 data (leNat data) s) s _
    exact act_becomes hup (fuseProgram_minSecver hstate hlen hmax hmin)
  case fuseState =>
    intro hstate
    change Becomes (execFuseProgram tag fuse data back s) s _
    exact act_becomes hup (fuseProgram_wrongState hstate)
  case time =>
    change Becomes (execTimeQuery tag s) s _
    exact act_becomes hup (command_runs rfl rfl)
  case restart => exact fun hstate hjob => restart_restarts hup hjob hstate
  case recovery =>
    intro hstate
    change Becomes (execEnterRecovery tag s) s _
    exact act_becomes hup (recoveryCmd_enters hstate)
  case active =>
    intro hstate hactive
    constructor
    · change Becomes (execRestart tag s) s _
      exact actImg_becomes ((if_pos hup).trans (restartCmd_active hstate hactive))
    · change Becomes (execEnterRecovery tag s) s _
      exact act_becomes hup (recoveryCmd_active hstate hactive)

end

section
/-! PROOF. Jobs of the engines: transform and beam (R87), codec (R118) and cipher (R379). -/

namespace Sys2Proof.Machine

/-! ### The job that an engine takes up -/

/-- Unit `u` has task `n` running with nothing finished or detected, and reads its job block as `blk`, which leaves the
machine at `d1`. -/
def ReadsJob (img : Img) (d : Dyn) (u n : Nat) (d1 : Dyn) (blk : List Byte) : Prop :=
  (d.unit u).running = some n ∧ (d.unit u).finished = none ∧ pendingDetect d n = none
    ∧ readPackets img (engineSender u) (packetsOf (d.task n).work 64) [] d = (d1, .inl blk)

/-- The job of task `n` at unit `u`, with block `blk`. -/
def dispatchedJob (d : Dyn) (u n : Nat) (blk : List Byte) : Job :=
  { unit := u, task := n, base := (d.task n).work, blk }

theorem zero_notMem_kindsOf (c : Nat) : 0 ∉ kindsOf c := by
  unfold kindsOf
  split <;> decide

section
variable {img : Img} {d d1 : Dyn} {u n kind : Nat} {blk : List Byte} {f : Img → Job → Dyn → Dyn × JobEnd}

theorem runEngine_ofKind (h : ReadsJob img d u n d1 blk) (hkind : fld blk 0 1 = kind) :
    runEngine u kind f img d
      = endJob img (dispatchedJob d u n blk) (f img (dispatchedJob d u n blk) d1) := by
  obtain ⟨hrunning, hfinished, hdetect, hread⟩ := h
  simp [runEngine, dispatchedJob, Job.f, hrunning, hfinished, hdetect, hread, hkind]

/-- A job of any KIND that the class does not have, not of KIND 0 alone, is INVALID at offset 0 (R87, R118, R379). -/
theorem runEngine_ofNoKind (h : ReadsJob img d u n d1 blk) (hkind : fld blk 0 1 ≠ kind)
    (hclass : ∀ c, classOf u = some c → fld blk 0 1 ∉ kindsOf c) :
    runEngine u kind f img d
      = endJob img (dispatchedJob d u n blk) (d1, .invalid (d.task n).work 0) := by
  obtain ⟨hrunning, hfinished, hdetect, hread⟩ := h
  have hnone : fld blk 0 1 ∉ ((classOf u).map kindsOf).getD [] := by
    cases hu : classOf u with
    | none => exact List.not_mem_nil
    | some c => exact hclass c hu
  simp [runEngine, dispatchedJob, Job.f, Job.bad, hrunning, hfinished, hdetect, hread, hkind, hnone]

end

/-- With no direct message, no lock and nothing suspended or resumed, a cipher engine runs its dispatched job as every
engine does. -/
theorem gcmRun_dispatched {img : Img} {d : Dyn} {e kind : Nat} (hdirect : (d.cipherEng e).direct = none)
    (howner : (d.cipherEng e).owner = 0) (hsusp : (d.cipherEng e).susp = none)
    (hresumed : (d.cipherEng e).resumed = none) :
    gcmRun e kind img d = runEngine (0x0900 + e) kind (gcmJob e) img d := by
  have hidle : resumeIdle img d e = d := by simp [resumeIdle, hsusp]
  have hmay : mayRun d e = true := by simp [mayRun, suspended, hsusp, howner]
  have hmsg : resumedMsg d e = none := by simp [resumedMsg, hresumed]
  simp [gcmRun, hdirect, hidle, hmay, hmsg, cipherSrc]

/-- A command that runs the engine of unit `u` for `kind` ends a job of that KIND by `f`, and one of KIND 0, which no
class has, INVALID. -/
theorem becomes_endJob {o : Out} {s : State} {d : Dyn} {u n kind : Nat} {blk : List Byte}
    {f : Img → Job → Dyn → Dyn × JobEnd} (hkind : kind ≠ 0)
    (hrun : Becomes o s (runEngine u kind f s.img s.dyn)) (h : ReadsJob s.img s.dyn u n d blk) :
    let j := dispatchedJob s.dyn u n blk
    (fld blk 0 1 = kind → Becomes o s (endJob s.img j (f s.img j d)))
      ∧ (fld blk 0 1 = 0 → Becomes o s (endJob s.img j (d, .invalid j.base 0))) := by
  constructor
  · intro hblk
    rwa [runEngine_ofKind h hblk] at hrun
  · intro hblk
    have hclass : ∀ c, classOf u = some c → fld blk 0 1 ∉ kindsOf c := by
      intro c _
      rw [hblk]
      exact zero_notMem_kindsOf c
    rwa [runEngine_ofNoKind h (ne_of_eq_of_ne hblk hkind.symm) hclass] at hrun

end Sys2Proof.Machine
end

section
open Sys2Proof Sys2Proof.Machine

/-- Settles O29: every command of an engine runs `runEngine` with its own KIND and job, the ciphers' once their engine
is free; what that answers is `becomes_endJob`. -/
theorem engineJobs : Obligations.EngineJobs := by
  unfold Obligations.EngineJobs
  intro s n d blk hup idle job runs
  have run {i : Instr} {u kind : Nat} {f : Img → Job → Dyn → Dyn × JobEnd}
      (hexec : exec i s = act (runEngine u kind f) s) (hkind : kind ≠ 0) : runs i u kind f :=
    becomes_endJob hkind (hexec ▸ act_becomes hup rfl)
  have runCipher {i : Instr} {e kind : Nat} (hdirect : (s.dyn.cipherEng e).direct = none)
      (howner : (s.dyn.cipherEng e).owner = 0) (hsusp : (s.dyn.cipherEng e).susp = none)
      (hresumed : (s.dyn.cipherEng e).resumed = none) (hexec : exec i s = act (gcmRun e kind) s) (hkind : kind ≠ 0) :
      runs i (0x0900 + e) kind (gcmJob e) :=
    becomes_endJob hkind (hexec ▸ act_becomes hup (gcmRun_dispatched hdirect howner hsusp hresumed))
  -- From here on `runs` is only unified with, argument by argument.
  clear_value runs
  refine ⟨?radio, ?codec, ?codecAndCipher⟩
  case radio =>
    exact fun e => ⟨run rfl (by decide), run rfl (by decide), run rfl (by decide), run rfl (by decide),
      run rfl (by decide), run rfl (by decide)⟩
  case codec => exact fun e => ⟨run rfl (by decide), run rfl (by decide), run rfl (by decide)⟩
  case codecAndCipher =>
    exact fun e => ⟨run rfl (by decide), run rfl (by decide), run rfl (by decide), run rfl (by decide),
      fun hdirect howner hsusp hresumed => ⟨runCipher hdirect howner hsusp hresumed rfl (by decide),
        runCipher hdirect howner hsusp hresumed rfl (by decide)⟩⟩

end

section
/-! PROOF. The dispatcher: a task that goes to a core (R129, R162, R163, R193), and the completion signal of a unit
(R130, R131, R166, R194). -/

namespace Sys2Proof.Machine

theorem OnlyCoreDyn.disp {c : Nat} {d e : Dyn} (h : OnlyCoreDyn c d e) : e.disp = d.disp := by
  have hrest := congrArg Dyn.disp h.1
  exact hrest

theorem OnlyCoreDyn.mem {c : Nat} {d e : Dyn} (h : OnlyCoreDyn c d e) : e.mem = d.mem := by
  have hrest := congrArg Dyn.mem h.1
  exact hrest

theorem OnlyCoreDyn.task {c : Nat} {d e : Dyn} (h : OnlyCoreDyn c d e) (n : Nat) : e.task n = d.task n := by
  rw [Dyn.task, h.disp]
  rfl

@[simp] theorem Dyn.task_setTask (d : Dyn) (n k : Nat) (t : TaskEntry) :
    (d.setTask n t).task k = if k = n then t else d.task k := Map.get_set ..

/-! ### The end of an arbiter step -/

/-- The end of an arbiter step changes the step counter and the queue of TASK_CMD. -/
theorem nextStep_eq (d : Dyn) :
    ∃ q, nextStep d = { d with disp := { d.disp with step := d.disp.step + 1, cmdQ := q } } := by
  unfold nextStep takeNops
  split
  · exact ⟨d.disp.cmdQ, rfl⟩
  · exact ⟨d.disp.cmdQ.dropWhile (·.op == 0), rfl⟩

section
variable (d : Dyn)

@[simp] theorem nextStep_core (k : Nat) : (nextStep d).core k = d.core k := by
  obtain ⟨q, hq⟩ := nextStep_eq d
  rw [hq]; rfl

@[simp] theorem nextStep_rd (k : Nat) (r : Reg5) : (nextStep d).rd k r = d.rd k r := by simp [Dyn.rd]

@[simp] theorem nextStep_rp (k i : Nat) : (nextStep d).rp k i = d.rp k i := by simp [Dyn.rp]

@[simp] theorem nextStep_status (k : Nat) : (nextStep d).status k = d.status k := by simp [Dyn.status]

@[simp] theorem nextStep_mem : (nextStep d).mem = d.mem := by
  obtain ⟨q, hq⟩ := nextStep_eq d
  rw [hq]

@[simp] theorem nextStep_task (n : Nat) : (nextStep d).task n = d.task n := by
  obtain ⟨q, hq⟩ := nextStep_eq d
  rw [hq]; rfl

@[simp] theorem nextStep_handles : (nextStep d).disp.handles = d.disp.handles := by
  obtain ⟨q, hq⟩ := nextStep_eq d
  rw [hq]

end

/-! ### TWAIT completes (R193) -/

/-- The registers that a task brings its core (R193). -/
def CoreSt.withTask (x : CoreSt) (n : Nat) (t : TaskEntry) (shadow : Bool) : CoreSt :=
  ((((x.withD 28 (BitVec.ofNat 32 t.arg)).withD 29 (BitVec.ofNat 32 (t.arg / 2 ^ 32))).withD 30
    (BitVec.ofNat 32 n)).withD 31
      (BitVec.ofNat 32 (t.attempts + 256 * b2n t.lockstep + 512 * b2n shadow))).withP 14 (BitVec.ofNat 48 t.work)

/-- An instruction that retires outside a REP, with no branch, moves the PC to the next one. -/
theorem retire_core_next (c icls : Nat) (d : Dyn) (pl : Priv) : (retire d c icls pl false none).core c
    = { d.core c with regs := { (d.core c).regs with pc := d.pc c + 4 } } := by
  obtain ⟨pc, rc, n, b, hcore, hnext⟩ := retire_core c icls d pl false none
  obtain ⟨rfl, rfl, rfl, rfl⟩ := hnext rfl
  exact hcore

section
variable (d : Dyn) (c n : Nat) (t : TaskEntry) (shadow : Bool)

theorem completeTwait_core : (completeTwait d c n t shadow).core c =
    let x := ((d.core c).withTask n t shadow).withStatus (fun s => { s with task := true, shadow := shadow })
    { x with
      regs := { x.regs with pc := d.pc c + 4 }
      tsk := { (d.core c).tsk with
        waiting := false, task := some n, since := d.dispNow, busy := true, sig := 0xFFFFFFFFFFFFFFFF
        abort := none } } := by
  rw [completeTwait, retire_core_next]
  simp only [Dyn.core_onTsk, Dyn.core_onStatus, Dyn.core_wp, Dyn.core_wd, if_true, Dyn.pc]
  rfl

/-- The task's ARG, its number, its attempts with the flags of a pair, and its work area (R193). -/
theorem completeTwait_registers : let e := completeTwait d c n t shadow
    e.rd c 28 = BitVec.ofNat 32 t.arg ∧ e.rd c 29 = BitVec.ofNat 32 (t.arg / 2 ^ 32)
    ∧ e.rd c 30 = BitVec.ofNat 32 n
    ∧ e.rd c 31 = BitVec.ofNat 32 (t.attempts + 256 * b2n t.lockstep + 512 * b2n shadow)
    ∧ e.rp c 14 = BitVec.ofNat 48 t.work := by
  simp [Dyn.rd, Dyn.rp, completeTwait_core, CoreSt.withTask, CoreSt.withD, CoreSt.withP, CoreSt.withStatus]

theorem completeTwait_flags : let e := completeTwait d c n t shadow
    (e.status c).task = true ∧ (e.status c).shadow = shadow ∧ (e.core c).tsk.task = some n
    ∧ (e.core c).tsk.waiting = false := by
  simp [Dyn.status, completeTwait_core, CoreSt.withStatus]

theorem completeTwait_only : OnlyCoreDyn c d (completeTwait d c n t shadow) :=
  ((((((((OnlyCoreDyn.onRegs c d _).andRegs _).andRegs _).andRegs _).andRegs _).trans
    (OnlyCoreDyn.onStatus c _ _)).trans (OnlyCoreDyn.setCore c _ _)).trans (OnlyCoreDyn.retire c _ _ _ _ _))

end

/-! ### A dispatch (R129, R162, R163) -/

theorem pickUnit_mem {d : Dyn} {n u : Nat} (h : pickUnit d n = some u) : u ∈ classUnits (d.task n).cls := by
  have hopen : u ∈ openTo d n := by
    unfold pickUnit at h
    rcases Option.or_eq_some_iff.mp h with hfree | ⟨-, hhead⟩
    · exact List.mem_of_find?_eq_some hfree
    · exact List.mem_of_mem_head? hhead
  exact List.mem_of_mem_filter hopen

/-- The entry of a task that goes to unit `u` alone (R129). -/
def TaskEntry.sentTo (t : TaskEntry) (u now : Nat) : TaskEntry :=
  { t with
    state := .running
    attempts := t.attempts + 1
    units := t.units ++ [u]
    unit := u
    shadow := none
    dispatchTick := now }

/-- The time that a task waited in its ready list, counted for its class (R172). -/
def countWait (d : Dyn) (t : TaskEntry) : Dyn :=
  { d with perf := { d.perf with
      waitRun := Map.upd 0 d.perf.waitRun t.cls (fun w => min 0xFFFFFFFF (max w (d.dispNow - t.readySince))) } }

/-- Task `n`, with no handles to take, RUNNING on unit `u` and counted, before the unit has it. -/
def dispatched (d : Dyn) (n u : Nat) : Dyn :=
  countEv ((countWait d (d.task n)).setTask n ((d.task n).sentTo u d.dispNow)) 0x0800 0x0800 1 EvInfo.plain

theorem dispatched_only (d : Dyn) (n u : Nat) :
    OnlyCounts (d.setTask n ((d.task n).sentTo u d.dispNow)) (dispatched d n u) :=
  OnlyCounts.trans (e := (countWait d (d.task n)).setTask n ((d.task n).sentTo u d.dispNow)) rfl (countEv_only ..)

section
variable {img : Img} {d : Dyn} {n u : Nat} (hin : (d.task n).inputs = []) (hout : (d.task n).outputs = [])
include hin hout

theorem sendTask_core (hcls : (d.task n).cls = 0) : sendTask img d n u none
    = completeTwait (dispatched d n u) (srcInst u) n ((d.task n).sentTo u d.dispNow) false := by
  simp [sendTask, dispatched, countWait, TaskEntry.sentTo, hin, hout, hcls]

theorem arbitrate_sends {rest : List Nat} {first : Bool} (hready : (d.task n).state = .ready)
    (hsingle : (d.task n).lockstep = false) (hpick : pickUnit d n = some u)
    (htime : startOn d u + (d.task n).est ≤ (d.task n).deadline) :
    arbitrate img (n :: rest) first d = sendTask img d n u none := by
  have hfinal : inputsFinal img d (d.task n) = true := by simp [inputsFinal, hin]
  have hfree : outputBusy img d (d.task n) = false := by simp [outputBusy, hout]
  simp [arbitrate, hready, hfinal, hfree, hsingle, hpick, Nat.not_lt.mpr htime, hin]

end

theorem startOn_core (d : Dyn) {u : Nat} (hu : srcSub u = 1) : startOn d u = d.dispNow := by
  unfold startOn
  split
  · exact if_pos hu
  · rfl

section
variable {s : State} {n u : Nat} {rest : List Nat} (hup : islandUp s.dyn = true)
  (hlive : s.dyn.disp.halted = false)
include hup hlive

/-- The dispatch of the core class sends its first task, where that has no handles, to the core picked. -/
theorem dispatch_sends (hlist : readyList s.dyn 0 = n :: rest) (hready : (s.dyn.task n).state = .ready)
    (hcls : (s.dyn.task n).cls = 0) (hsingle : (s.dyn.task n).lockstep = false) (hin : (s.dyn.task n).inputs = [])
    (hout : (s.dyn.task n).outputs = []) (hpick : pickUnit s.dyn n = some u)
    (htime : s.dyn.dispNow + (s.dyn.task n).est ≤ (s.dyn.task n).deadline) :
    Becomes (exec (.dispatch 0) s) s (nextStep (completeTwait (dispatched s.dyn n u) (u - 0x0100) n
      ((s.dyn.task n).sentTo u s.dyn.dispNow) false)) := by
  obtain ⟨k, hk, rfl⟩ : ∃ k < 192, 0x0100 + k = u := by
    have hmem := pickUnit_mem hpick
    rw [hcls] at hmem
    simpa [classUnits] using hmem
  have hsub : srcSub (0x0100 + k) = 1 := by unfold srcSub; omega
  have hinst : srcInst (0x0100 + k) = 0x0100 + k - 0x0100 := by unfold srcInst; omega
  change Becomes (execDispatch 0 s) s _
  refine act_becomes hup ((if_neg (Bool.eq_false_iff.mp hlive)).trans (congrArg nextStep ?_))
  change arbitrate s.img (readyList s.dyn 0) true s.dyn = _
  rw [hlist, ← hinst, ← sendTask_core hin hout hcls]
  exact arbitrate_sends hin hout hready hsingle hpick ((startOn_core s.dyn hsub).symm ▸ htime)

/-! ### Completion signals (R130, R131, R140, R166, R194) -/

theorem taskCommit_becomes {u : Half} {d : Dyn} (h : taskCommit s.img s.dyn u.toNat = d) :
    Becomes (exec (.taskCommit u) s) s (nextStep d) := by
  change Becomes (execTaskCommit u s) s _
  exact act_becomes hup ((if_neg (Bool.eq_false_iff.mp hlive)).trans (congrArg nextStep h))

end

section
variable {img : Img} {d : Dyn} {u n : Nat} (hon : taskOn d u = some n)
include hon

/-- A detection that the unit has raised already is taken before its completion signal (R131). -/
theorem taskCommit_detection {r : Raised} (h : pendingDetect d n = some r) :
    taskCommit img d u = detection img (dropDetect d r) r.unit r.cond r.addr.toNat r.extra.toNat := by
  simp [taskCommit, hon, h]

section
variable (hnone : pendingDetect d n = none)
include hnone

theorem taskCommit_ofCore (hu : srcSub u = 1) : taskCommit img d u = coreCompletion img d n := by
  simp [taskCommit, hon, hnone, hu]

theorem taskCommit_ofEngine {r : JobResult} (hu : srcSub u ≠ 1) (hr : (d.unit u).finished = some r) :
    taskCommit img d u = engineCompletion img d n u r := by
  simp [taskCommit, hon, hnone, hu, hr]

end
end

theorem signalled_eq {d : Dyn} {c : Nat} {k : Commit} (h : (d.core c).tsk.commit = some k) :
    signalled d c = (d.core c).port.queue.isEmpty := by
  simp [signalled, commitWaits, h]

section
variable {img : Img} {d : Dyn} {n c : Nat} {k : Commit} (hc : srcInst (d.task n).unit = c)
  (hcommit : (d.core c).tsk.commit = some k)
include hc hcommit

/-- A TCOMMIT waits for the core's coprocessor commands (R194 step 2). -/
theorem coreCompletion_waits (hqueue : (d.core c).port.queue ≠ []) : coreCompletion img d n = d := by
  have hsignal : signalled d c = false := by simp [signalled_eq hcommit, hqueue]
  simp [coreCompletion, hc, hsignal]

section
variable (hshadow : (d.task n).shadow = none) (hqueue : (d.core c).port.queue = [])
include hshadow hqueue

theorem coreCompletion_late (hlate : (d.task n).deadline < d.dispNow) :
    coreCompletion img d n = taskCondition img d n 0x0800 0x0800 0x0801 0 0 2 [] := by
  have hsignal : signalled d c = true := by simp [signalled_eq hcommit, hqueue]
  simp [coreCompletion, hshadow, hc, hcommit, hsignal, hlate]

theorem coreCompletion_commits (htime : d.dispNow ≤ (d.task n).deadline) : coreCompletion img d n
    = answerCommit (endBusy (commitTask img d n k.final [] k.result) c) c 0 := by
  have hsignal : signalled d c = true := by simp [signalled_eq hcommit, hqueue]
  simp [coreCompletion, hshadow, hc, hcommit, hsignal, Nat.not_lt.mpr htime]

end
end

section
variable {img : Img} {d : Dyn} {n u : Nat} {r : JobResult} (hvalid : r.invalid = none)
include hvalid

theorem engineCompletion_late (hlate : (d.task n).deadline < d.dispNow) :
    engineCompletion img d n u r = taskCondition img d n 0x0800 0x0800 0x0801 0 0 2 [] := by
  simp [engineCompletion, hvalid, hlate]

theorem engineCompletion_commits (htime : d.dispNow ≤ (d.task n).deadline) (hmask : r.mask = none) :
    engineCompletion img d n u r
      = writeHeaders img u r.headers (releaseUnit (commitTask img d n r.final r.keep r.result) u) := by
  simp [engineCompletion, hvalid, Nat.not_lt.mpr htime, hmask]

end

end Sys2Proof.Machine
end

section
open Sys2Proof Sys2Proof.Machine

/-- Settles O27: the arbiter's first choice is sent at once, as the TWAIT of its core; a completion signal has an
outcome for each of its cases: detected, waiting, late and in time. -/
theorem dispatchSteps : Obligations.DispatchSteps := by
  unfold Obligations.DispatchSteps
  refine ⟨?dispatch, ?completion⟩
  case dispatch =>
    intro s n u rest hup hlive hlist t hready hcls hsingle hin hout hpick htime c
    have hsends := dispatch_sends hup hlive hlist hready hcls hsingle hin hout hpick htime
    let t' := t.sentTo u s.dyn.dispNow
    let v := completeTwait (dispatched s.dyn n u) c n t' false
    obtain ⟨harg, hargHigh, hnumber, hattempts, hwork⟩ :=
      completeTwait_registers (dispatched s.dyn n u) c n t' false
    obtain ⟨htask, hshadow, hrunning, hwaiting⟩ := completeTwait_flags (dispatched s.dyn n u) c n t' false
    have hrest : OnlyCoreDyn c (s.dyn.setTask n t') v :=
      ((dispatched_only s.dyn n u).onlyCoreDyn c).trans (completeTwait_only ..)
    have hsolo : t'.attempts + 256 * b2n t'.lockstep + 512 * b2n false = t.attempts + 1 := by
      rw [show t'.lockstep = false from hsingle]; rfl
    have hself : v.task n = t' := (hrest.task n).trans (by simp)
    have hothers (m : Nat) (hm : m ≠ n) : v.task m = s.dyn.task m := (hrest.task m).trans (by simp [hm])
    have hhandles : v.disp.handles = s.dyn.disp.handles := by rw [hrest.disp]; rfl
    refine ⟨_, hsends, ?_⟩
    simp only [nextStep_rd, nextStep_rp, nextStep_status, nextStep_core, nextStep_task, nextStep_mem,
      nextStep_handles]
    exact ⟨harg, hargHigh, hnumber, hsolo ▸ hattempts, hwork, htask, hshadow, hrunning, hwaiting, hself, hothers,
      hrest.2, hrest.mem, hhandles⟩
  case completion =>
    intro u s n hup hlive hon t d acts
    refine ⟨?detected, fun hnone => ⟨?core, ?engine⟩⟩
    case detected => exact fun r hr => taskCommit_becomes hup hlive (taskCommit_detection hon hr)
    case core =>
      intro k hlo hhi hunit hshadow c hcommit
      have hcore := taskCommit_ofCore (img := s.img) hon hnone (show srcSub u.toNat = 1 by unfold srcSub; omega)
      have hinst : srcInst t.unit = c := by rw [hunit]; unfold srcInst; omega
      exact ⟨fun hqueue => taskCommit_becomes hup hlive
          (hcore.trans (coreCompletion_waits hinst hcommit hqueue)),
        fun hqueue hlate => taskCommit_becomes hup hlive
          (hcore.trans (coreCompletion_late hinst hcommit hshadow hqueue hlate)),
        fun hqueue htime => taskCommit_becomes hup hlive
          (hcore.trans (coreCompletion_commits hinst hcommit hshadow hqueue htime))⟩
    case engine =>
      intro r hlo hfinished hvalid
      have hengine := taskCommit_ofEngine (img := s.img) hon hnone
        (show srcSub u.toNat ≠ 1 by unfold srcSub; omega) hfinished
      exact ⟨fun hlate => taskCommit_becomes hup hlive (hengine.trans (engineCompletion_late hvalid hlate)),
        fun htime hmask => taskCommit_becomes hup hlive (hengine.trans (engineCompletion_commits hvalid htime hmask))⟩

end

section
/-! PROOF. Detections and unit conditions as the arbiter takes them (R131, R132, R145), the end of a SET_GPIO drive
(R144) and the halt of the dispatcher (R154). -/

namespace Sys2Proof.Machine

/-- A unit condition taken out of those that wait. -/
def dropUnitCond (d : Dyn) (r : Raised) : Dyn :=
  { d with disp := { d.disp with unitConds := dropFirst (· == r) d.disp.unitConds } }

theorem isUnitCond_true {cond : Nat} (h : cond ∈ [0x0311, 0x0611, 0x0711, 0x0712, 0x0A01]) :
    isUnitCond cond = true := List.contains_iff_mem.mpr h

theorem isUnitCond_false {cond : Nat} (h : cond ∉ [0x0311, 0x0611, 0x0711, 0x0712, 0x0A01]) :
    isUnitCond cond = false := Bool.eq_false_iff.mpr fun hc => h (List.contains_iff_mem.mp hc)

section
variable {u cond : Half} {addr : Addr} {extra : Word} {s : State} (hup : islandUp s.dyn = true)
include hup

theorem taskDetection_detects (hlive : s.dyn.disp.halted = false) (hunit : isUnitCond cond.toNat = false)
    (hallowed : allowedActions cond.toNat ≠ []) :
    Becomes (exec (.taskDetection u cond addr extra) s) s
      (nextStep (detection s.img
        (markParity (dropDetect s.dyn { unit := u.toNat, cond := cond.toNat, addr, extra }) u.toNat cond.toNat
          addr.toNat)
        u.toNat cond.toNat addr.toNat extra.toNat)) := by
  change Becomes (execTaskDetection u cond addr extra s) s _
  refine act_becomes hup (if_neg ?_)
  simp [hlive, hunit, hallowed]

theorem taskDetection_ofUnit (hunit : isUnitCond cond.toNat = true) :
    Becomes (exec (.taskDetection u cond addr extra) s) s s.dyn := by
  change Becomes (execTaskDetection u cond addr extra s) s _
  refine act_becomes hup (if_pos ?_)
  simp [hunit]

theorem unitCondition_taken (hunit : isUnitCond cond.toNat = true) :
    Becomes (exec (.unitCondition u cond addr extra) s) s
      (nextStep (unitCondition s.img (dropUnitCond s.dyn { unit := u.toNat, cond := cond.toNat, addr, extra })
        u.toNat cond.toNat addr.toNat extra.toNat)) := by
  change Becomes (execUnitCondition u cond addr extra s) s _
  exact act_becomes hup (if_pos hunit)

end

/-! ### Conditions that no order covers -/

section
variable {d : Dyn} (horders : d.disp.orders = [])
include horders

theorem firstOrder_none (cond src cat : Nat) : firstOrder d cond src cat = none := by
  simp [firstOrder, horders]

theorem actingOrder_none (cond src : Nat) : actingOrder d cond src = 0xFFFF := by
  simp [actingOrder, firstOrder_none horders]

theorem anyOrder_false (cond src : Nat) : anyOrder d cond src = false := by
  simp [anyOrder, horders]

theorem actOrders_none (img : Img) (cond src : Nat) (task : Option Nat) (addr extra : Nat) :
    actOrders img d cond src task addr extra = d := by
  simp [actOrders, actOrder, firstOrder_none horders]

/-- A condition that no order covers, that holds no unit and fences none is reported, and that is all (R145). -/
theorem unitCondition_reports (img : Img) (src : Nat) {cond : Nat} (addr extra : Nat)
    (hholds : holdsOf cond src none = []) (hfence : cond ≠ 0x0611) :
    unitCondition img d src cond addr extra
      = condReport d src (unitCondClass cond) cond none 0 addr 0xFFFF extra false := by
  have hreported (r : Report) : (issue d r).disp.orders = [] := by rw [issue_disp, horders]
  simp [unitCondition, anyOrder_false horders, hholds, hfence, actingOrder_none horders, condReport,
    actOrders_none (hreported _)]

end

/-! ### The end of a drive -/

section
variable {d : Dyn} {pin until_ : Nat} {level : Bool}
  (hdrive : (Map.get PinSt.reset d.gpio pin).order = some (until_, level)) (hends : until_ ≠ 0)
  (hnow : until_ ≤ d.now)
include hdrive hends hnow

theorem gpioExpiry_ends : gpioExpiry d pin = { d with gpio := Map.set d.gpio pin PinSt.reset } := by
  simp [gpioExpiry, hdrive, hends, hnow]

theorem gpioExpiry_order : (Map.get PinSt.reset (gpioExpiry d pin).gpio pin).order = none := by
  rw [gpioExpiry_ends hdrive hends hnow]
  exact congrArg PinSt.order (Map.get_set_same ..)

end

/-! ### The halt -/

section
variable {s : State} (hup : islandUp s.dyn = true)
include hup

theorem dispatcherHalted_says (h : s.dyn.disp.halted = false) : Becomes (exec .dispatcherHalted s) s
    (event { s.dyn with disp := { s.dyn.disp with halted := true } } 0x0800 7 0x0881 []) := by
  change Becomes (execDispatcherHalted s) s _
  exact act_becomes hup (if_neg (Bool.eq_false_iff.mp h))

theorem dispatcherHalted_stands (h : s.dyn.disp.halted = true) : Becomes (exec .dispatcherHalted s) s s.dyn := by
  change Becomes (execDispatcherHalted s) s _
  exact act_becomes hup (if_pos h)

end

end Sys2Proof.Machine
end

section
open Sys2Proof Sys2Proof.Machine

/-- Settles O28: a condition goes the way of its kind, of a task or of a unit; with no order in the table only the
report of ERROR_RATE is left of acting on it. -/
theorem detections : Obligations.Detections := by
  unfold Obligations.Detections
  refine ⟨?conditions, ?drivesAndHalt⟩
  case conditions =>
    intro u cond addr extra s hup r unitConds
    refine ⟨?task, ?unit, ?uncovered⟩
    case task => exact fun hlive hunit hallowed => taskDetection_detects hup hlive (isUnitCond_false hunit) hallowed
    case unit =>
      exact fun hunit => ⟨taskDetection_ofUnit hup (isUnitCond_true hunit),
        unitCondition_taken hup (isUnitCond_true hunit)⟩
    case uncovered =>
      rintro horders rfl
      have htaken := unitCondition_taken (u := u) (cond := 0x0712) (addr := addr) (extra := extra) hup rfl
      rwa [unitCondition_reports (d := dropUnitCond s.dyn _) horders s.img u.toNat addr.toNat extra.toNat rfl
        (by decide)] at htaken
  case drivesAndHalt =>
    intro pin s hup
    refine ⟨?drive, dispatcherHalted_says hup, dispatcherHalted_stands hup⟩
    case drive =>
      intro until_ level hdrive hends hnow
      change Becomes (execSetGpioExpiry pin s) s _ ∧ _
      exact ⟨act_becomes hup rfl, gpioExpiry_order hdrive hends hnow⟩

end

section
/-! PROOF. The commands on memory and on the scrubber (R127, R343 to R345, R348, R349, R351). -/

namespace Sys2Proof.Machine

theorem when_true {c : Bool} {f : Dyn → Dyn} {d : Dyn} (h : c = true) : when_ c f d = f d := if_pos h

theorem when_false {c : Bool} {f : Dyn → Dyn} {d : Dyn} (h : c = false) : when_ c f d = d := by
  simp [when_, h]

theorem bits_eq_div_mod (x hi lo : Nat) : bits x hi lo = x / 2 ^ lo % 2 ^ (hi + 1 - lo) := by
  rw [bits, Nat.shiftRight_eq_div_pow]

section
variable {s : State} (hup : islandUp s.dyn = true)
include hup

/-! ### Accesses of a master -/

section
variable {m : Master} {a : Addr} {f : BitVec 3} {x y : Word} {data : List Byte}

theorem memoryAtomic_aligned (ha : a.toNat % 4 = 0) : Becomes (exec (.memoryAtomic m a f x y) s) s
    (answered (memPacket s.img s.dyn (senderOf m) a.toNat (.atomic f.toNat x.toNat y.toNat))) := by
  change Becomes (execMemoryAtomic m a f x y s) s _
  exact act_becomes hup (if_neg (not_not.mpr ha))

theorem memoryAtomic_misaligned (ha : a.toNat % 4 ≠ 0) : Becomes (exec (.memoryAtomic m a f x y) s) s
    (answered (s.dyn, { status := 5, reason := 3, data := [] })) := by
  change Becomes (execMemoryAtomic m a f x y s) s _
  exact act_becomes hup (if_pos ha)

theorem handleTableWrite_hits (h : hitsHandleTable s.img a.toNat data.length = true) :
    Becomes (exec (.handleTableWrite m a data) s) s (answered (memStore s.img s.dyn (senderOf m) a.toNat data)) := by
  change Becomes (execHandleTableWrite m a data s) s _
  exact act_becomes hup (when_true h)

theorem handleTableWrite_misses (h : hitsHandleTable s.img a.toNat data.length = false) :
    Becomes (exec (.handleTableWrite m a data) s) s s.dyn := by
  change Becomes (execHandleTableWrite m a data s) s _
  exact act_becomes hup (when_false h)

end

/-! ### The scrubber and the leaky bucket -/

section
variable {k : Fin 48}

theorem scrubVisit_due (h : (s.dyn.memUnit (0x0700 + k.val)).nextVisit ≤ s.dyn.now) :
    Becomes (exec (.scrubVisit k) s) s (scrubVisit s.img s.dyn (0x0700 + k.val)) := by
  change Becomes (execScrubVisit k s) s _
  exact act_becomes hup (when_true (decide_eq_true h))

theorem scrubVisit_early (h : s.dyn.now < (s.dyn.memUnit (0x0700 + k.val)).nextVisit) :
    Becomes (exec (.scrubVisit k) s) s s.dyn := by
  change Becomes (execScrubVisit k s) s _
  exact act_becomes hup (when_false (decide_eq_false (Nat.not_le.mpr h)))

end

end

/-- A unit that makes laps has been in this one for longer than LAP_LIMIT seconds, and has not said so (R349). -/
def lapLate (img : Img) (d : Dyn) (unit : Nat) : Prop :=
  img.reg 0x07000000 / 2 ^ 16 % 65536 ≠ 0 ∧ (d.memUnit unit).limitSaid = false
    ∧ (nextBlock img d unit 0).isSome = true
    ∧ img.reg 0x07000000 / 2 ^ 16 % 65536 * 1966080000 < d.nowAt unit - (d.memUnit unit).lapStart

/-- The check that the command makes. -/
theorem lapLate_iff {img : Img} {d : Dyn} {unit : Nat} :
    (decide (bits (img.reg 0x07000000) 31 16 ≠ 0) && !(d.memUnit unit).limitSaid && (nextBlock img d unit 0).isSome
      && decide (bits (img.reg 0x07000000) 31 16 * 1000 * 1966080 < d.nowAt unit - (d.memUnit unit).lapStart)) = true
    ↔ lapLate img d unit := by
  simp [lapLate, bits_eq_div_mod, Nat.mul_assoc, and_assoc]

section
variable {s : State} (hup : islandUp s.dyn = true) {k : Fin 48}
include hup

theorem lapLimit_late (h : lapLate s.img s.dyn (0x0700 + k.val)) :
    let unit := 0x0700 + k.val
    Becomes (exec (.lapLimit k) s) s
      (event (s.dyn.setMemUnit unit (fun y => { y with limitSaid := true })) unit 7 0x0784 []) := by
  change Becomes (execLapLimit k s) s _
  exact act_becomes hup (when_true (lapLate_iff.mpr h))

theorem lapLimit_stands (h : ¬ lapLate s.img s.dyn (0x0700 + k.val)) : Becomes (exec (.lapLimit k) s) s s.dyn := by
  change Becomes (execLapLimit k s) s _
  exact act_becomes hup (when_false (Bool.eq_false_iff.mpr fun hlate => h (lapLate_iff.mp hlate)))

end

theorem bucketReg_memUnit (img : Img) (k : Fin 48) :
    bucketReg img (0x0700 + k.val) = img.reg (if k.val < 16 then 0x07000004 else 0x07000008) := by
  have hinst : srcInst (0x0700 + k.val) = k.val := by unfold srcInst; omega
  rw [bucketReg, hinst, apply_ite img.reg]

theorem bucketLeak_memUnit (img : Img) (d : Dyn) (k : Fin 48) :
    bucketLeak img d (0x0700 + k.val) = d.setMemUnit (0x0700 + k.val)
      (MemUnit.leak (img.reg (if k.val < 16 then 0x07000004 else 0x07000008) / 2 ^ 12 % 4096)
        (d.nowAt (0x0700 + k.val))) := by
  rw [bucketLeak, bucketReg_memUnit, bits_eq_div_mod]
  rfl

end Sys2Proof.Machine
end

section
open Sys2Proof Sys2Proof.Machine

/-- Settles O45: each command is its meaning where its condition holds, and leaves the machine where it does not. -/
theorem memoryCommands : Obligations.MemoryCommands := by
  unfold Obligations.MemoryCommands
  refine ⟨?accesses, ?scrubber⟩
  case accesses =>
    intro m a n data f x y s hup w ends
    refine ⟨?read, ?write, memoryAtomic_aligned hup, memoryAtomic_misaligned hup, handleTableWrite_hits hup,
      handleTableWrite_misses hup⟩
    case read =>
      change Becomes (execMemoryRead m a n s) s _
      exact act_becomes hup rfl
    case write =>
      change Becomes (execMemoryWrite m a data s) s _
      exact act_becomes hup rfl
  case scrubber =>
    intro k s hup unit x limit leak does
    refine ⟨scrubVisit_due hup, scrubVisit_early hup, ?late, ?stands, ?leaks⟩
    case late => exact fun hlimit hsaid hblock hlate => lapLimit_late hup ⟨hlimit, hsaid, hblock, hlate⟩
    case stands =>
      intro h
      refine lapLimit_stands hup fun ⟨hlimit, hsaid, hblock, hlate⟩ => ?_
      rcases h with h | h | h | h
      · exact hlimit h
      · exact Bool.false_ne_true (hsaid.symm.trans h)
      · exact Option.isSome_iff_ne_none.mp hblock h
      · exact absurd hlate (Nat.not_lt.mpr h)
    case leaks =>
      change Becomes (execBucketLeak k s) s _
      exact act_becomes hup (bucketLeak_memUnit ..)

end

section
/-! PROOF. Management commands on registers, memory, reports and standing orders (R146, R153, R309 to R313), about
the machine whose supervisor has taken the message (`takeCmd`). -/

namespace Sys2Proof.Machine

theorem command_refuses {op : Nat} {tag : Half} {states : Dyn → Bool} {code : Dyn → Nat}
    {run : Dyn → Dyn × List Byte} {d : Dyn} {k : Nat} (hs : states (takeCmd d) = true)
    (hc : code (takeCmd d) = k) (hk : k ≠ 0) :
    command op tag states code run d = answer (takeCmd d) op tag k [] := by
  subst hc
  simp [command, hs, hk]

/-! ### Registers and memory (R153, R311, R312) -/

theorem regRange_iff {a k : Nat} :
    regRange a k = true ↔ 1 ≤ k ∧ k ≤ 256 ∧ a % 4 = 0 ∧ a + 4 * k ≤ 0x0D000000 := by
  simp [regRange, and_assoc]

theorem inStates_service {d : Dyn} (h : d.dst.state = .service) : inStates d [.service] = true := by
  rw [inStates, h]; rfl

theorem inStates_memStates {d : Dyn}
    (h : d.dst.state = .hold ∨ d.dst.state = .service ∨ d.dst.state = .recovery) :
    inStates d memStates = true := by
  rcases h with h | h | h <;> rw [inStates, h] <;> rfl

section
variable {img : Img} {op : Nat} {tag : Half} {a n : Nat} {data : Option (List Byte)} {d : Dyn}

section
variable (hstate : (takeCmd d).dst.state = .hold ∨ (takeCmd d).dst.state = .service
  ∨ (takeCmd d).dst.state = .recovery)
include hstate

theorem memCommand_runs (hmin : 1 ≤ n) (hmax : n ≤ 65536) :
    let r := runParts img data a (partsOf a n) (takeCmd d)
    memCommand img op tag a n data d = answer r.1 op tag 0
      (completion (r.2.1.foldl max 0) r.2.1 ++ (if data.isNone then r.2.2 else [])) := by
  have hrange : ¬ (n = 0 ∨ 65536 < n) := by omega
  simp [memCommand, inStates_memStates hstate, hrange]

theorem memCommand_empty :
    memCommand img op tag a 0 data d = answer (takeCmd d) op tag 0xF002 (completion 5 []) := by
  simp [memCommand, inStates_memStates hstate, badOperand]

end

theorem memCommand_wrongState (h : (takeCmd d).dst.state = .boot ∨ (takeCmd d).dst.state = .selftest) :
    memCommand img op tag a n data d = answer (takeCmd d) op tag 0xF003 (completion 5 []) := by
  have hout : inStates (takeCmd d) memStates = false := by
    rcases h with h | h <;> rw [inStates, h] <;> rfl
  simp [memCommand, hout, wrongState]

end

/-! ### The report stream (R313) -/

theorem setStream_off {d : Dyn} (h : d.rep.streamOn = false) (on : Bool) (cls : Nat) :
    setStream d on cls = { d with rep := { d.rep with
      streamOn := on, streamMin := cls, streamNext := d.rep.logWr, streamLost := 0 } } := by
  simp [setStream, h]

/-! ### Standing orders (R146) -/

section
variable {img : Img} {tag : Half} {r : List Byte} {d : Dyn}

theorem soAdd_wrongState (h : (takeCmd d).dst.state ≠ .service) :
    soAdd img tag r d = answer (takeCmd d) 0x20 tag 0xF003 [] := by
  simp [soAdd, inStates, h, wrongState]

section
variable (hstate : (takeCmd d).dst.state = .service)
include hstate

theorem soAdd_adds {i : Nat} (hlen : r.length = 32) (hgood : orderBad r = false) (hpin : fld r 6 1 ≠ 8)
    (hfree : freeEntry (takeCmd d) = some i) :
    soAdd img tag r d = answer { takeCmd d with disp := { (takeCmd d).disp with
      orders := Map.set (takeCmd d).disp.orders i { record := r, image := false, counts := [] } } }
      0x20 tag 0 (leBytes 2 i) := by
  have hcode : orderCode img (takeCmd d) r = 0 := by simp [orderCode, hgood, hpin, hfree]
  simp [soAdd, inStates, hstate, hlen, hcode, hfree]

theorem soAdd_refuses (hlen : r.length = 32) (hbad : orderBad r = true) :
    soAdd img tag r d = answer (refusal (takeCmd d) 0x0C00 0x0704 []) 0x20 tag 0x0704 [] := by
  have hcode : orderCode img (takeCmd d) r = 0x0704 := by simp [orderCode, hbad]
  simp [soAdd, inStates, hstate, hlen, hcode, refuseCmd]

section
variable {i k : Nat} {o : Order} (hfind : (takeCmd d).disp.orders.find? (fun e => e.1 == i) = some (k, o))
include hfind

theorem soRemove_removes (himage : o.image = false) :
    soRemove tag i d = answer { takeCmd d with disp := { (takeCmd d).disp with
      orders := Map.del (takeCmd d).disp.orders i } } 0x21 tag 0 [] := by
  simp [soRemove, inStates, hstate, hfind, himage]

theorem soRemove_refuses (himage : o.image = true) :
    soRemove tag i d = answer (refusal (takeCmd d) 0x0C00 0x0704 []) 0x21 tag 0x0704 [] := by
  simp [soRemove, inStates, hstate, hfind, himage, refuseCmd]

end
end
end

/-! ### The commands -/

section
variable {s : State} {tag : Half} (hup : islandUp s.dyn = true)
include hup

theorem regRead_reads {a n : Word} (h : regRange a.toNat n.toNat = true) :
    let r := (List.range n.toNat).foldl (fun acc k => readWord s.img acc (a.toNat + 4 * k)) (takeCmd s.dyn, [])
    Becomes (exec (.regRead tag a n) s) s (answer r.1 1 tag 0 r.2) := by
  change Becomes (execRegRead tag a n s) s _
  exact act_becomes hup (command_runs rfl (if_pos h))

theorem regRead_refused {a n : Word} (h : ¬ regRange a.toNat n.toNat = true) :
    Becomes (exec (.regRead tag a n) s) s (answer (takeCmd s.dyn) 1 tag 0xF002 []) := by
  change Becomes (execRegRead tag a n s) s _
  exact act_becomes hup (command_refuses rfl (if_neg h) (by decide))

theorem regWrite_writes {a : Word} {ws : List Word} (h : regRange a.toNat ws.length = true) :
    Becomes (exec (.regWrite tag a ws) s) s (answer
      (((List.range ws.length).zip ws).foldl (fun d e =>
        (regAccess s.img d .management (a.toNat + 4 * e.1) 4 (some e.2)).1) (takeCmd s.dyn)) 2 tag 0 []) := by
  change Becomes (execRegWrite tag a ws s) s _
  exact act_becomes hup (command_runs rfl (if_pos h))

theorem regWrite_refused {a : Word} {ws : List Word} (h : ¬ regRange a.toNat ws.length = true) :
    Becomes (exec (.regWrite tag a ws) s) s (answer (takeCmd s.dyn) 2 tag 0xF002 []) := by
  change Becomes (execRegWrite tag a ws s) s _
  exact act_becomes hup (command_refuses rfl (if_neg h) (by decide))

theorem reportStream_refused {on cls : Byte} (h : 7 < cls.toNat) :
    Becomes (exec (.reportStream tag on cls) s) s (answer (takeCmd s.dyn) 0x10 tag 0xF002 []) := by
  change Becomes (execReportStream tag on cls s) s _
  exact act_becomes hup (command_refuses rfl (if_neg (Nat.not_le.mpr h)) (by decide))

theorem reportStream_sets {on cls : Byte} (h : cls.toNat ≤ 7) :
    Becomes (exec (.reportStream tag on cls) s) s
      (answer (setStream (takeCmd s.dyn) (decide (on ≠ 0)) cls.toNat) 0x10 tag 0 []) := by
  change Becomes (execReportStream tag on cls s) s _
  exact act_becomes hup (command_runs rfl (if_pos h))

theorem reportStreamSend_sends (hon : s.dyn.rep.streamOn = true) (hcredit : creditLeft s.dyn = true) :
    Becomes (exec .reportStreamSend s) s (streamSend s.dyn) := by
  change Becomes (execReportStreamSend s) s _
  refine act_becomes hup (when_true ?_)
  rw [hon, hcredit, Bool.and_self]

theorem reportStreamSend_stands (h : (s.dyn.rep.streamOn && creditLeft s.dyn) = false) :
    Becomes (exec .reportStreamSend s) s s.dyn := by
  change Becomes (execReportStreamSend s) s _
  exact act_becomes hup (when_false h)

section
variable (hstate : (takeCmd s.dyn).dst.state = .service) {kind : Byte} {id : Half}
include hstate

theorem soRelease_releases (hkind : kind = 0) (hid : id.toNat ∈ allSources) :
    Becomes (exec (.soRelease tag kind id) s) s
      (answer (releaseSource s.img (takeCmd s.dyn) id.toNat) 0x22 tag 0 []) := by
  change Becomes (execSoRelease tag kind id s) s _
  subst hkind
  have hsource : (allSources ++ [keyStoreSrc]).contains id.toNat = true :=
    List.contains_iff_mem.mpr (List.mem_append_left _ hid)
  exact act_becomes hup (command_runs (inStates_service hstate) (if_pos hsource))

theorem soRelease_unblanks (hkind : kind = 1) (hid : id.toNat < 256) :
    Becomes (exec (.soRelease tag kind id) s) s
      (answer { takeCmd s.dyn with blanked := (takeCmd s.dyn).blanked.filter (fun y => y != id.toNat) }
        0x22 tag 0 []) := by
  change Becomes (execSoRelease tag kind id s) s _
  subst hkind
  refine act_becomes hup (command_runs (inStates_service hstate) ?_)
  rw [if_neg (by decide), if_pos ⟨rfl, hid⟩]

theorem soRelease_refused (hkind : 2 ≤ kind.toNat) :
    Becomes (exec (.soRelease tag kind id) s) s (answer (takeCmd s.dyn) 0x22 tag 0xF002 []) := by
  change Becomes (execSoRelease tag kind id s) s _
  refine act_becomes hup (command_refuses (inStates_service hstate) ?_ (by decide))
  rw [if_neg (by omega), if_neg (by omega)]
  rfl

end
end

end Sys2Proof.Machine
end

section
open Sys2Proof Sys2Proof.Machine

/-- Settles O54: each command's case is what its meaning does with the message taken. -/
theorem managementAccesses : Obligations.ManagementAccesses := by
  unfold Obligations.ManagementAccesses
  intro tag entry id a n x ws data on cls kind s hup d does range st addr
  refine ⟨?read, ?readRefused, ?write, ?writeRefused, ?memory, ?noMemory, ?streamRefused, ?stream, ?silent, ?sends,
    ?noCredit, ?service⟩
  case read => exact fun h => regRead_reads hup (regRange_iff.mpr h)
  case readRefused => exact fun h => regRead_refused hup fun hr => h (regRange_iff.mp hr)
  case write => exact fun h => regWrite_writes hup (regRange_iff.mpr h)
  case writeRefused => exact fun h => regWrite_refused hup fun hr => h (regRange_iff.mp hr)
  case memory =>
    intro hstate
    refine ⟨?memRead, ?memWrite, ?empty⟩
    case memRead =>
      intro hmin hmax
      change Becomes (execMemRead tag x n s) s _
      exact act_becomes hup (memCommand_runs hstate hmin hmax)
    case memWrite =>
      intro hmin hmax r
      change Becomes (execMemWrite tag x data s) s _
      refine act_becomes hup ((memCommand_runs hstate hmin hmax).trans ?_)
      exact congrArg (answer r.1 4 tag 0) (List.append_nil _)
    case empty =>
      rintro rfl
      change Becomes (execMemRead tag x 0 s) s _
      exact act_becomes hup (memCommand_empty hstate)
  case noMemory =>
    intro hstate
    have hservice : d.dst.state ≠ .service := by
      rcases hstate with h | h <;> exact fun hs => nomatch h.symm.trans hs
    refine ⟨?_, ?_, ?_⟩
    · change Becomes (execMemRead tag x n s) s _
      exact act_becomes hup (memCommand_wrongState hstate)
    · change Becomes (execMemWrite tag x data s) s _
      exact act_becomes hup (memCommand_wrongState hstate)
    · change Becomes (execSoAdd tag data s) s _
      exact act_becomes hup (soAdd_wrongState hservice)
  case streamRefused => exact fun h => reportStream_refused hup h
  case stream =>
    intro hcls hoff
    have hsets := reportStream_sets (tag := tag) (on := on) hup hcls
    rwa [setStream_off (d := takeCmd s.dyn) hoff] at hsets
  case silent => exact fun hoff => reportStreamSend_stands hup (by rw [hoff, Bool.false_and])
  case sends => exact fun hon hcredit => reportStreamSend_sends hup hon hcredit
  case noCredit => exact fun hcredit => reportStreamSend_stands hup (by rw [hcredit, Bool.and_false])
  case service =>
    intro hstate
    refine ⟨?add, ?addRefused, ?remove, soRelease_releases hup hstate, soRelease_unblanks hup hstate,
      soRelease_refused hup hstate⟩
    case add =>
      intro hlen hgood hpin i hfree
      change Becomes (execSoAdd tag data s) s _
      exact act_becomes hup (soAdd_adds hstate hlen hgood hpin hfree)
    case addRefused =>
      intro hlen hbad
      change Becomes (execSoAdd tag data s) s _
      exact act_becomes hup (soAdd_refuses hstate hlen hbad)
    case remove =>
      intro k o hfind
      change (_ → Becomes (execSoRemove tag entry s) s _) ∧ (_ → Becomes (execSoRemove tag entry s) s _)
      exact ⟨fun himage => act_becomes hup (soRemove_removes hstate hfind himage),
        fun himage => act_becomes hup (soRemove_refuses hstate hfind himage)⟩

end

section
/-! PROOF. The commands of TASK_CMD as the dispatcher takes them (R157 to R160, R168, R170). -/

namespace Sys2Proof.Machine

/-! ### The head of the queue -/

/-- The dispatcher with the commands `l` in its queue. -/
def withCmds (d : Dyn) (l : List TaskCmd) : Dyn := { d with disp := { d.disp with cmdQ := l } }

theorem headCmd_halted {op task : Nat} {f : Dyn → Option Dyn} {d : Dyn} (h : d.disp.halted = true) :
    headCmd op task f d = d := by
  have hnops : takeNops d = d := if_pos h
  unfold headCmd
  rw [hnops]
  dsimp only
  split
  · rfl
  · exact if_neg fun ⟨_, _, hlive⟩ => Bool.false_ne_true (hlive.symm.trans h)

section
variable {d : Dyn} {q : TaskCmd} {rest : List TaskCmd} (hq : d.disp.cmdQ = q :: rest)
include hq

/-- A command that has an effect stands at the head. -/
theorem takeNops_command (hop : q.op ≠ 0) : takeNops d = d := by
  unfold takeNops
  split
  · rfl
  · rw [hq, List.dropWhile_cons_of_neg (by simpa using hop), ← hq]

theorem headCmd_takes {op task : Nat} {f : Dyn → Option Dyn} {d' : Dyn} (hop : op ≠ 0) (hqop : q.op = op)
    (htask : q.task = task) (hlive : d.disp.halted = false) (hf : f (withCmds d rest) = some d') :
    headCmd op task f d = nextStep d' := by
  unfold headCmd
  rw [takeNops_command hq (hqop ▸ hop)]
  dsimp only [withCmds] at hf ⊢
  rw [hq]
  dsimp only
  rw [if_pos ⟨hqop, htask, hlive⟩, hf]

end

/-! ### POST of a task with no handles and no condition (R158 to R160) -/

/-- A task that awaits nothing any more goes to its ready list (R160). -/
theorem checkReady_setTask {d : Dyn} {n step : Nat} {t : TaskEntry} (hstate : t.state = .waiting)
    (hawaited : t.awaited = []) (hgate : t.gated = false) :
    checkReady (d.setTask n t) n step
      = d.setTask n { t with state := .ready, enterStep := step, readySince := d.dispNow } := by
  have hself : (d.setTask n t).task n = t := by simp
  unfold checkReady
  rw [hself]
  simp only [hstate, hawaited, hgate]
  exact congrArg (fun m => { d with disp := { d.disp with tasks := m } }) (Map.set_set ..)

theorem postTask_bare {img : Img} {d d1 : Dyn} {n base : Nat} {r : Resp}
    (hload : memLoad img d dispSender (base + 64 * n) 64 = (d1, r)) (hgood : r.status < 2)
    (hin : fld r.data 4 2 = 0) (hout : fld r.data 6 2 = 0) (hfields : descBad r.data (parseTask r.data) = false)
    (hpair : (parseTask r.data).lockstep = true → (parseTask r.data).cls = 0)
    (hcond : (parseTask r.data).condTask = none) (hlinks : linksUsed d1 ≤ 131072) :
    let d' := writeComp img d1 n (zeros 32)
    postTask img d n base = some (d'.setTask n
      { parseTask r.data with state := .ready, enterStep := d'.disp.step, readySince := d'.dispNow }) := by
  intro d'
  have hvalid : ¬ (2 ≤ Resp.ok.status
      ∨ (parseTask r.data).lockstep = true ∧ ¬ (parseTask r.data).cls = 0) := by
    rintro (hstatus | ⟨hlockstep, hcls⟩)
    · exact absurd hstatus (by decide)
    · exact hcls (hpair hlockstep)
  unfold postTask
  simp only [hload, Nat.not_le.mpr hgood, hin, hout, hfields, hcond]
  simp only [↓reduceIte, not_lt_zero, decide_false, Bool.or_self, decide_true, Bool.or_true, Bool.or_false,
    List.take_zero, List.drop_zero, List.append_nil, List.any_nil, add_zero, ne_eq, not_true_eq_false, Bool.and_false,
    decide_not, Bool.or_eq_true, decide_eq_true_eq, Bool.and_eq_true, Bool.not_eq_eq_eq_not, Bool.not_true,
    decide_eq_false_iff_not, hvalid, List.filter_nil, List.length_nil, Nat.not_lt.mpr hlinks, Option.isSome_none,
    Bool.not_false, Bool.and_true, Option.some.injEq]
  exact checkReady_setTask rfl rfl rfl

/-! ### CANCEL (R168) -/

section
variable {img : Img} {d : Dyn} {n : Nat} {byCmd : Bool}

theorem cancelTask_stray (h : (d.task n).state = .free ∨ (d.task n).state = .done) :
    cancelTask img d n true = { d with disp := { d.disp with stray := min 1023 (d.disp.stray + 1) } } := by
  rcases h with h | h <;> simp [cancelTask, h, satAdd]

theorem cancelTask_unsent (h : (d.task n).state = .waiting ∨ (d.task n).state = .ready) :
    cancelTask img d n byCmd = finishTask img d n 5 [] := by
  rcases h with h | h <;> simp [cancelTask, h]

theorem cancelTask_running (h : (d.task n).state = .running) : cancelTask img d n byCmd
    = leaveUnits img (d.task n) (runsOn d n)
        (finishTask img (unpin img (endOnUnits d n 0x0800 3 0) n) n 6 []) := by
  simp [cancelTask, h]

end

/-! ### The commands -/

section
variable {n : BitVec 15} {s : State} (hup : islandUp s.dyn = true)
include hup

theorem taskCmd_halted (h : s.dyn.disp.halted = true) : Becomes (exec (.post n) s) s s.dyn
    ∧ Becomes (exec (.cancel n) s) s s.dyn ∧ Becomes (exec (.free n) s) s s.dyn := by
  change Becomes (execPost n s) s _ ∧ Becomes (execCancel n s) s _ ∧ Becomes (execFree n s) s _
  exact ⟨act_becomes hup (headCmd_halted h), act_becomes hup (headCmd_halted h), act_becomes hup (headCmd_halted h)⟩

section
variable {q : TaskCmd} {rest : List TaskCmd} (hq : s.dyn.disp.cmdQ = q :: rest) (htask : q.task = n.toNat)
  (hlive : s.dyn.disp.halted = false)
include hq htask hlive

theorem post_free {base : Nat} {d' : Dyn} (hop : q.op = 1) (hfree : (s.dyn.task n.toNat).state = .free)
    (htable : taskTable s.img = some base) (hpost : postTask s.img (withCmds s.dyn rest) n.toNat base = some d') :
    Becomes (exec (.post n) s) s (nextStep d') := by
  have hstate : ((withCmds s.dyn rest).task n.toNat).state = .free := hfree
  change Becomes (execPost n s) s _
  refine act_becomes hup (headCmd_takes hq (by decide) hop htask hlive ?_)
  simp only [hstate, htable, hpost]

theorem post_used (hop : q.op = 1) (hused : (s.dyn.task n.toNat).state ≠ .free) :
    Becomes (exec (.post n) s) s (nextStep (writeRefused (withCmds s.dyn rest) 0x0800)) := by
  change Becomes (execPost n s) s _
  refine act_becomes hup (headCmd_takes hq (by decide) hop htask hlive ?_)
  split
  · exact absurd ‹_› hused
  · exact absurd ‹_› hused
  · rfl

theorem cancel_takes (hop : q.op = 2) :
    Becomes (exec (.cancel n) s) s (nextStep (cancelTask s.img (withCmds s.dyn rest) n.toNat true)) := by
  change Becomes (execCancel n s) s _
  exact act_becomes hup (headCmd_takes hq (by decide) hop htask hlive rfl)

theorem free_done (hop : q.op = 3) (hdone : (s.dyn.task n.toNat).state = .done) :
    Becomes (exec (.free n) s) s (nextStep
      ((withCmds s.dyn rest).setTask n.toNat { s.dyn.task n.toNat with state := .free })) := by
  change Becomes (execFree n s) s _
  exact act_becomes hup (headCmd_takes hq (by decide) hop htask hlive (if_pos hdone))

theorem free_notDone (hop : q.op = 3) (hnot : (s.dyn.task n.toNat).state ≠ .done) :
    Becomes (exec (.free n) s) s (nextStep (writeRefused (withCmds s.dyn rest) 0x0800)) := by
  change Becomes (execFree n s) s _
  exact act_becomes hup (headCmd_takes hq (by decide) hop htask hlive (if_neg hnot))

end
end

end Sys2Proof.Machine
end

section
open Sys2Proof Sys2Proof.Machine

/-- Settles O25: the command leaves the head of the queue and has the meaning that its task's state gives it; with no
handle and no condition nothing of a POST is left to wait for. -/
theorem taskCommands : Obligations.TaskCommands := by
  unfold Obligations.TaskCommands
  intro n s q rest hup hq htask k d t ends
  refine ⟨taskCmd_halted hup, ?post, ?postUsed, ?postBare, ?cancelUnsent, ?cancelRunning, ?cancelStray, ?free,
    ?freeNotDone⟩
  case post =>
    exact fun base d' hfree htable hpost hop hlive => post_free hup hq htask hlive hop hfree htable hpost
  case postUsed => exact fun hused hop hlive => post_used hup hq htask hlive hop hused
  case postBare =>
    intro base hfree htable m w d' hgood hin hout hfields hpair hcond hlinks hop hlive
    exact post_free hup hq htask hlive hop hfree htable
      (postTask_bare rfl hgood hin hout hfields hpair hcond hlinks)
  case cancelUnsent =>
    exact fun hstate hop hlive => cancelTask_unsent (d := d) hstate ▸ cancel_takes hup hq htask hlive hop
  case cancelRunning =>
    exact fun hstate hop hlive => cancelTask_running (d := d) hstate ▸ cancel_takes hup hq htask hlive hop
  case cancelStray =>
    exact fun hstate hop hlive => cancelTask_stray (d := d) hstate ▸ cancel_takes hup hq htask hlive hop
  case free => exact fun hdone hop hlive => free_done hup hq htask hlive hop hdone
  case freeNotDone => exact fun hnot hop hlive => free_notDone hup hq htask hlive hop hnot

end

section
/-! PROOF. Steps of the arbiter: a propagated cancel (R169), a class's dispatch (R161, R162), the boundary of a slot
(R167), and the walk of a handle that became final (R160). -/

namespace Sys2Proof.Machine

section
variable {s : State} (hup : islandUp s.dyn = true)
include hup

section
variable (hlive : s.dyn.disp.halted = false)
include hlive

theorem cascade_takes {n : Nat} {rest : List Nat} (h : s.dyn.disp.cascades = n :: rest) :
    Becomes (exec .cascade s) s (nextStep
      (cancelTask s.img { s.dyn with disp := { s.dyn.disp with cascades := rest } } n false)) := by
  change Becomes (execCascade s) s _
  refine act_becomes hup ?_
  dsimp only
  rw [h]
  exact if_neg (Bool.eq_false_iff.mp hlive)

theorem handleWalk_takes {h : Nat} {rest : List Nat} (hwalks : s.dyn.disp.walks = h :: rest) :
    Becomes (exec .handleWalk s) s
      (walkHandle s.img { s.dyn with disp := { s.dyn.disp with walks := rest } } h) := by
  change Becomes (execHandleWalk s) s _
  refine act_becomes hup ?_
  dsimp only
  rw [hwalks]
  exact if_neg (Bool.eq_false_iff.mp hlive)

theorem dispatch_arbitrates (cls : Fin 7) :
    Becomes (exec (.dispatch cls) s) s (nextStep (arbitrate s.img (readyList s.dyn cls.val) true s.dyn)) := by
  change Becomes (execDispatch cls s) s _
  exact act_becomes hup (if_neg (Bool.eq_false_iff.mp hlive))

theorem slotBoundary_walks (h : s.dyn.time.boundary ≠ some (gridBefore s.img (boundaryPeriod s.img) s.dyn.now)) :
    let tb := gridBefore s.img (boundaryPeriod s.img) s.dyn.now
    Becomes (exec .slotBoundary s) s
      (nextStep (slotBoundary s.img tb (s.dyn.onTime (fun t => { t with boundary := some tb })))) := by
  change Becomes (execSlotBoundary s) s _
  exact act_becomes hup ((if_neg h).trans (if_neg (Bool.eq_false_iff.mp hlive)))

end

theorem slotBoundary_sent (h : s.dyn.time.boundary = some (gridBefore s.img (boundaryPeriod s.img) s.dyn.now)) :
    Becomes (exec .slotBoundary s) s s.dyn := by
  change Becomes (execSlotBoundary s) s _
  exact act_becomes hup (if_pos h)

end

/-! ### The walk of a handle that one task awaits (R160) -/

/-- An input of a final handle at the awaited generation, or at any, is satisfied (R159). -/
theorem inputNow_final {img : Img} {d : Dyn} {e : HEntry} (hfinal : isFinal (handleOf img d e.handle).state = true)
    (hgen : e.mode = 1 ∨ e.gen = (handleOf img d e.handle).gen) : inputNow img d e = .satisfied := by
  by_cases hmode : e.mode = 1
  · simp [inputNow, hmode, hfinal]
  · simp [inputNow, hmode, hfinal, hgen.resolve_left hmode]

/-- What the walk of handle `h` does with one of the tasks that wait for it, `acc.2` links having been walked. -/
def walkTask (img : Img) (h : Nat) (acc : Dyn × Nat) (n : Nat) : Dyn × Nat :=
  let t := acc.1.task n
  let links := (t.awaited.filter (fun w => w.handle == h)).length
  let lapsed := t.awaited.any (fun w => w.handle == h && decide (inputNow img acc.1 w = .lapsed))
  let left := t.awaited.filter (fun w => !(w.handle == h && decide (inputNow img acc.1 w = .satisfied)))
  (if lapsed then taskCondition img acc.1 n 0x0800 0x0800 0x0802 0 0 2 []
    else checkReady (acc.1.setTask n { t with awaited := left }) n (acc.1.disp.step + (acc.2 + links - 1) / 4),
    acc.2 + links)

/-- The tasks that wait for handle `h`. -/
def waitingFor (d : Dyn) (h : Nat) : List Nat :=
  (d.disp.tasks.filter (fun e => e.2.state = .waiting && e.2.awaited.any (fun w => w.handle == h))).map (·.1)

theorem walkHandle_eq (img : Img) (d : Dyn) (h : Nat) :
    let r := (waitingFor d h).foldl (walkTask img h) (d, 0)
    walkHandle img d h = { r.1 with disp := { r.1.disp with step := r.1.disp.step + max 1 ((r.2 + 3) / 4) } } := rfl

section
variable {img : Img} {d : Dyn} {n : Nat} {t : TaskEntry} {w : HEntry} (htasks : d.disp.tasks = [(n, t)])
  (hstate : t.state = .waiting) (hawaited : t.awaited = [w])
include htasks hstate hawaited

theorem waitingFor_one : waitingFor d w.handle = [n] := by
  simp [waitingFor, htasks, hstate, hawaited]

section
variable (hgate : t.gated = false) (hnow : inputNow img d w = .satisfied)
include hgate hnow

theorem walkTask_readies : walkTask img w.handle (d, 0) n = (d.setTask n
    { t with awaited := [], state := .ready, enterStep := d.disp.step, readySince := d.dispNow }, 1) := by
  have htask : d.task n = t := by simp [Dyn.task, htasks, Map.get]
  have hready := checkReady_setTask (d := d) (n := n) (step := d.disp.step) (t := { t with awaited := [] })
    hstate rfl hgate
  simp [walkTask, htask, hawaited, hnow, hready]

theorem walkHandle_readies :
    let e := d.setTask n
      { t with awaited := [], state := .ready, enterStep := d.disp.step, readySince := d.dispNow }
    walkHandle img d w.handle = { e with disp := { e.disp with step := d.disp.step + 1 } } := by
  rw [walkHandle_eq, waitingFor_one htasks hstate hawaited, List.foldl_cons, List.foldl_nil,
    walkTask_readies htasks hstate hawaited hgate hnow]
  dsimp only
  rw [show max 1 ((1 + 3) / 4) = 1 by decide]
  rfl

end
end

end Sys2Proof.Machine
end

section
open Sys2Proof Sys2Proof.Machine

/-- Settles O26: each step is taken from the head of its list; the walk finds the one awaited input satisfied, so its
task is ready and one link was walked. -/
theorem arbiterSteps : Obligations.ArbiterSteps := by
  unfold Obligations.ArbiterSteps
  refine ⟨?steps, ?walk⟩
  case steps =>
    intro s hup hlive
    exact ⟨fun n rest => cascade_takes hup hlive, fun h rest => handleWalk_takes hup hlive,
      dispatch_arbitrates hup hlive, slotBoundary_sent hup, slotBoundary_walks hup hlive⟩
  case walk =>
    rintro s h n rest w hup hlive hwalks t htasks hstate hgate hawaited rfl hfinal hgen
    let d : Dyn := { s.dyn with disp := { s.dyn.disp with walks := rest } }
    have htakes := handleWalk_takes hup hlive hwalks
    rw [walkHandle_readies (d := d) htasks hstate hawaited hgate (inputNow_final (d := d) hfinal hgen)] at htakes
    exact ⟨_, htakes, Map.get_set_same .., rfl, rfl, rfl, rfl, rfl, rfl⟩

end

section
/-! PROOF. How a packet arrives (R157, R321, R325, R329, R332), what an output sends next (R323), and what the
fabric does with a request that nobody answers and with the data of an isolated sender (R327, R330). -/

namespace Sys2Proof.Machine

/-! ### Arrival -/

/-- Packet `k` has left the fabric, its outputs' arbiters being `arbs` (R323). -/
def landed (d : Dyn) (k : Nat) (arbs : Map Arbiter) : Dyn :=
  d.onFab (fun f => { f with inflight := f.inflight.eraseIdx k, arbiters := arbs })

/-- Nothing keeps the packet from its outputs. -/
theorem arrive_goes {d : Dyn} {k router : Nat} {parity route : Bool} {p : Packet}
    (hfirst : (d.fab.inflight.take k).all (fun q => !sameFlow p q) = true) (hfree : holdsBack d p = false)
    (hroute : (parity = false ∧ route = false) ∨ router ∈ routeOf p.src.toNat p.dest.toNat) :
    ((d.fab.inflight.take k).any (sameFlow p)
      || ((parity || route) && !(routeOf p.src.toNat p.dest.toNat).contains router) || holdsBack d p) = false := by
  have hflow : (d.fab.inflight.take k).any (sameFlow p) = false := by
    rw [← Bool.not_eq_true', List.not_any_eq_all_not]
    exact hfirst
  rcases hroute with ⟨rfl, rfl⟩ | hmem
  · rw [hflow, hfree]; rfl
  · rw [hflow, hfree, List.contains_iff_mem.mpr hmem, Bool.not_true, Bool.and_false]; rfl

section
variable {s : State} {k : Nat} {parity route : Bool} {router : BitVec 6} {p : Packet} (hup : islandUp s.dyn = true)
  (hp : s.dyn.fab.inflight[k]? = some p)
include hup hp

/-- A write of TASK_CMD waits in the fabric while the command queue is full (R157). -/
theorem packetArrival_heldBack (h : holdsBack s.dyn p = true) :
    Becomes (exec (.packetArrival k parity route router) s) s s.dyn := by
  change Becomes (execPacketArrival k parity route router s) s _
  exact act_becomes hup (by simp [arrive, hp, h])

section
variable (hfirst : (s.dyn.fab.inflight.take k).all (fun q => !sameFlow p q) = true)
  (hfree : holdsBack s.dyn p = false)
include hfirst hfree

theorem packetArrival_waits {d0 : Dyn}
    (hroute : (parity = false ∧ route = false) ∨ router.toNat ∈ routeOf p.src.toNat p.dest.toNat)
    (harb : arbitrateFor s.dyn k p = (none, d0)) :
    Becomes (exec (.packetArrival k parity route router) s) s d0 := by
  change Becomes (execPacketArrival k parity route router s) s _
  refine act_becomes hup ?_
  unfold arrive
  simp only [hp, arrive_goes hfirst hfree hroute, harb]
  rfl

section
variable {arbs : Map Arbiter} {d0 : Dyn} (harb : arbitrateFor s.dyn k p = (some arbs, d0))
include harb

theorem packetArrival_arrives : Becomes (exec (.packetArrival k false false router) s) s
    (arriveAt performPacket s.img (landed d0 k arbs) p) := by
  change Becomes (execPacketArrival k false false router s) s _
  refine act_becomes hup ?_
  unfold arrive
  simp only [hp, arrive_goes (router := router.toNat) hfirst hfree (.inl ⟨rfl, rfl⟩), harb]
  rfl

/-- A routing parity failure discards the packet, with a report (R325). -/
theorem packetArrival_dropped (hmem : router.toNat ∈ routeOf p.src.toNat p.dest.toNat) :
    Becomes (exec (.packetArrival k false true router) s) s
      (event ((landed d0 k arbs).onFab (fun f => { f with
          headDrop := Map.upd 0 f.headDrop router.toNat (fun x => min 0xFFFF (x + 1)) }))
        (0x0600 + router.toNat) 6 0x0681 []) := by
  change Becomes (execPacketArrival k false true router s) s _
  refine act_becomes hup ?_
  unfold arrive
  simp only [hp, arrive_goes hfirst hfree (.inr hmem), harb]
  rfl

end
end
end

theorem holdsBack_response {d : Dyn} {p : Packet} (h : p.resp = true) : holdsBack d p = false := by
  simp [holdsBack, isTaskCmd, h]

/-- A packet that waits leaves the machine as it is, but that a free choice is used up (log 130). -/
theorem arbitrateFor_only {d d0 : Dyn} {k : Nat} {p : Packet} {o : Option (Map Arbiter)}
    (h : arbitrateFor d k p = (o, d0)) : d0 = { d with free := d0.free } := by
  unfold arbitrateFor at h
  split at h <;> cases h <;> rfl

/-! ### A request at its target's router (R329, R330, R332) -/

/-- The response of status `status` and reason `reason` to `p` is under way. -/
def routerReply (p : Packet) (status reason : Nat) (d : Dyn) : Dyn :=
  d.onFab (fun f => { f with inflight := f.inflight ++ [sealPacket (replyTo p { status, reason, data := [] })] })

section
variable {img : Img} {d : Dyn} {p : Packet} (hreq : p.resp = false)
include hreq

theorem arriveAt_fenced (h : d.portMode p.dest.toNat = 1) :
    arriveAt performPacket img d p = routerReply p 2 0 (countAsleep d p.dest.toNat) := by
  simp [arriveAt, hreq, arriveRequest, h, routerReply]

theorem arriveAt_isolated (h : d.portMode p.dest.toNat = 2) : arriveAt performPacket img d p
    = routerReply p (if p.kind = 0 ∨ p.kind = 2 then 5 else 3) (if p.kind = 0 ∨ p.kind = 2 then 4 else 0)
        (countAbsorbed d p.dest.toNat) := by
  simp only [arriveAt, hreq, arriveRequest, h, routerReply, Bool.false_eq_true, if_false]
  by_cases hkind : p.kind = 0 ∨ p.kind = 2 <;> simp only [hkind, if_true, if_false]

theorem arriveAt_empty (h : d.portMode p.dest.toNat = 3) :
    arriveAt performPacket img d p = routerReply p 5 2 d := by
  simp [arriveAt, hreq, arriveRequest, h, routerReply]

theorem arriveAt_normal (h : d.portMode p.dest.toNat = 0) (hgood : packetGood p = true) :
    let r := performPacket img
      (countEv d (0x0600 + p.dest.toNat / 4) 0x0601 (packetLen p) (packetInfo p)) p
    arriveAt performPacket img d p = regulate img r.1 (replyTo p r.2) := by
  simp [arriveAt, hreq, arriveRequest, h, hgood, routerSource]

end

theorem arriveAt_response {serve : Target} {img : Img} {d : Dyn} {p : Packet} (h : p.resp = true) :
    arriveAt serve img d p = arriveResponse d p := if_pos h

/-! ### What an output sends next (R323) -/

theorem mem_fromInput {i last : Nat} (h : i < 9) : i ∈ fromInput last := by
  refine List.mem_map.mpr ⟨(i + 8 - last % 9) % 9, List.mem_range.mpr (Nat.mod_lt _ (by decide)), ?_⟩
  omega

section
variable {a : Arbiter} {l : Waiting} {c : Nat}

/-- The head of a class waits, is of the class, and is a request only where the class has no response. -/
theorem headOf_some {x : Nat × Packet} (h : headOf a l c = some x) : x ∈ l ∧ x.2.cls.toNat = c
    ∧ (x.2.resp = false → ∀ y ∈ l, y.2.cls.toNat = c → y.2.resp = false) := by
  unfold headOf at h
  obtain ⟨i, -, hfind⟩ := List.exists_of_findSome?_eq_some h
  have hx := List.mem_of_find?_eq_some hfind
  split at hx
  case isTrue hnone =>
    have hmine := List.mem_filter.mp hx
    refine ⟨hmine.1, by simpa using hmine.2, fun _ y hy hcls => Bool.eq_false_iff.mpr fun hresp => ?_⟩
    have hmem : y ∈ (l.filter (fun x => x.2.cls.toNat == c)).filter (fun x => x.2.resp) := by
      simp [hy, hcls, hresp]
    exact List.ne_nil_of_mem hmem (List.isEmpty_iff.mp hnone)
  case isFalse =>
    obtain ⟨hmine, hresp⟩ := List.mem_filter.mp hx
    have hl := List.mem_filter.mp hmine
    exact ⟨hl.1, by simpa using hl.2, fun hreq => absurd hresp (Bool.eq_false_iff.mp hreq)⟩

/-- A class with a packet at one of the nine inputs has a head. -/
theorem headOf_exists (hin : ∀ y ∈ l, y.1 < 9) {y : Nat × Packet} (hy : y ∈ l) (hcls : y.2.cls.toNat = c) :
    ∃ z, headOf a l c = some z := by
  refine Option.ne_none_iff_exists'.mp fun hnone => ?_
  unfold headOf at hnone
  have hmine : y ∈ l.filter (fun x => x.2.cls.toNat == c) := by simp [hy, hcls]
  rw [List.findSome?_eq_none_iff] at hnone
  have habsent {among : List (Nat × Packet)} {z : Nat × Packet} (hz : z ∈ among) (hzl : z ∈ l)
      (h : ∀ i ∈ fromInput a.last, among.find? (fun x => x.1 == i) = none) : False := by
    have hno := List.find?_eq_none.mp (h z.1 (mem_fromInput (hin z hzl))) z hz
    exact hno (beq_self_eq_true _)
  split at hnone
  case isTrue => exact habsent hmine hy hnone
  case isFalse hsome =>
    obtain ⟨z, hz⟩ := List.exists_mem_of_ne_nil _ (fun hnil => hsome (List.isEmpty_iff.mpr hnil))
    exact habsent hz (List.mem_of_mem_filter (List.mem_of_mem_filter hz)) hnone

/-- Deficit round robin serves the head of a class other than 0, and ends the run of class 0 (step 2). -/
theorem deficitRound_some {x : Nat × Packet} {a' : Arbiter} : ∀ (n c : Nat) (m : Map Nat), 1 ≤ c →
    deficitRound a l n c m = some (x, a') → ∃ c', 1 ≤ c' ∧ headOf a l c' = some x ∧ a'.run = 0
  | 0, _, _, _, h => nomatch h
  | n + 1, c, m, hc, h => by
    have hnext : 1 ≤ nextClass c := by unfold nextClass; split <;> omega
    unfold deficitRound at h
    dsimp only at h
    split at h
    case h_1 => exact deficitRound_some n _ _ hnext h
    case h_2 z hz =>
      split at h
      case isTrue => cases h; exact ⟨c, hc, hz, rfl⟩
      case isFalse => exact deficitRound_some n _ _ hnext h

end

/-- An output serves the head of class 0, within 3 of 4 flit slots while another class waits, or the head of
another class, where class 0 has none or its next packet is beyond that. -/
theorem outputPick_some {a a' : Arbiter} {l : Waiting} {x : Nat × Packet} (h : outputPick a l = some (x, a'))
    (hturn : 1 ≤ a.turn) :
    (headOf a l 0 = some x ∧ ((∀ y ∈ l, y.2.cls.toNat = 0)
      ∨ a.run + (1 + packetFlits x.2) ≤ 3 ∧ a'.run = a.run + (1 + packetFlits x.2)))
    ∨ ∃ c, 1 ≤ c ∧ headOf a l c = some x ∧ a'.run = 0
        ∧ ∀ z, headOf a l 0 = some z → 3 < a.run + (1 + packetFlits z.2) := by
  have hrest (h : (deficitRound a l (9 * 128) a.turn a.deficit).map
      (fun r => (r.1, { r.2 with last := r.1.1 })) = some (x, a')) :
      ∃ c, 1 ≤ c ∧ headOf a l c = some x ∧ a'.run = 0 := by
    obtain ⟨⟨y, b⟩, hround, heq⟩ := Option.map_eq_some_iff.mp h
    cases heq
    obtain ⟨c, hc, hx, hrun⟩ := deficitRound_some _ _ _ hturn hround
    exact ⟨c, hc, hx, hrun⟩
  unfold outputPick at h
  dsimp only at h
  split at h
  case h_1 hnone =>
    obtain ⟨c, hc, hx, hrun⟩ := hrest h
    exact .inr ⟨c, hc, hx, hrun, fun z hz => nomatch hnone.symm.trans hz⟩
  case h_2 z hz =>
    split at h
    case isTrue hothers =>
      cases h
      exact .inl ⟨hz, .inl (by simpa using hothers)⟩
    case isFalse hothers =>
      split at h
      case isTrue hslots => cases h; exact .inl ⟨hz, .inr ⟨hslots, rfl⟩⟩
      case isFalse hslots =>
        obtain ⟨c, hc, hx, hrun⟩ := hrest h
        refine .inr ⟨c, hc, hx, hrun, fun w hw => ?_⟩
        cases hz.symm.trans hw
        omega

/-! ### Timeouts (R327, R330) -/

theorem noteTimeout_keeps (d : Dyn) (srcEp e unit : Nat) : let u := noteTimeout d srcEp e unit
    u.fab.trackers = d.fab.trackers ∧ u.fab.delivered = d.fab.delivered ∧ u.fab.inflight = d.fab.inflight
    ∧ u.mem = d.mem ∧ u.cores = d.cores := by
  unfold noteTimeout
  dsimp only
  split <;> exact ⟨rfl, rfl, rfl, rfl, rfl⟩

/-- The one tracked request has timed out. -/
def timedOut (d : Dyn) (t : Track) : Dyn := d.onFab (fun f => { f with trackers := [{ t with timedOut := true }] })

/-- What the endpoint answers in the target's stead: ERROR, reason TIMEOUT. -/
def timeoutReply (e tag target : Nat) : Packet :=
  { dest := BitVec.ofNat 8 e, src := BitVec.ofNat 8 target, cls := 0, resp := true, kind := 0,
    tag := BitVec.ofNat 10 tag, status := 5, reason := 5, func := 0, address := 0, length := 0, master := 0,
    priv := 0, operand := 0, data := [], bad := false, crc := 0 }

theorem responseTimeout_one {img : Img} {d : Dyn} {e tag : Nat} {t : Track} (htracked : d.fab.trackers = [t])
    (hep : t.endpoint = e) (htag : t.tag = tag) (hout : t.timedOut = false)
    (hlate : usPassed (wholeUs (endpointNow d e)) t.since (img.reg 0x06000000 % 1024) = true) :
    responseTimeout img d e tag
      = deliver (timeoutReply e tag t.target) (noteTimeout (timedOut d t) e t.target t.unit) := by
  have hlimit : respTimeout img = img.reg 0x06000000 % 1024 := rfl
  simp [responseTimeout, htracked, hep, htag, hout, hlimit, hlate, timedOut, timeoutReply, Dyn.onFab]

section
variable {s : State} (hup : islandUp s.dyn = true)
include hup

section
variable {e : Byte} {tag : BitVec 10}

theorem responseTimeout_none (h : s.dyn.fab.trackers = []) :
    Becomes (exec (.responseTimeout e tag) s) s s.dyn := by
  change Becomes (execResponseTimeout e tag s) s _
  exact act_becomes hup (by simp [responseTimeout, h])

/-- The one request that is out has no response within RESP_TIMEOUT (R327). -/
theorem responseTimeout_due {t : Track} (htracked : s.dyn.fab.trackers = [t]) (hep : t.endpoint = e.toNat)
    (htag : t.tag = tag.toNat) (hout : t.timedOut = false)
    (hlate : usPassed (wholeUs (endpointNow s.dyn e.toNat)) t.since (s.img.reg 0x06000000 % 1024) = true) :
    Answers (exec (.responseTimeout e tag) s) (fun u =>
      u.dyn.fab.trackers = [{ t with timedOut := true }]
      ∧ (∃ p, u.dyn.fab.delivered = s.dyn.fab.delivered ++ [p] ∧ p.dest = e ∧ p.tag = tag ∧ p.resp = true
          ∧ p.status = 5 ∧ p.reason = 5)
      ∧ u.dyn.mem = s.dyn.mem ∧ u.dyn.cores = s.dyn.cores ∧ u.dyn.fab.inflight = s.dyn.fab.inflight) := by
  change Answers (execResponseTimeout e tag s) _
  obtain ⟨htrackers, hdelivered, hinflight, hmem, hcores⟩ :=
    noteTimeout_keeps (timedOut s.dyn t) e.toNat t.target t.unit
  refine ⟨_, act_becomes hup (responseTimeout_one htracked hep htag hout hlate), htrackers,
    ⟨_, congrArg (· ++ [_]) hdelivered, ?_, ?_, rfl, rfl, rfl⟩, hmem, hcores, hinflight⟩
  · exact BitVec.ofNat_toNat .. |>.trans (BitVec.setWidth_eq e)
  · exact BitVec.ofNat_toNat .. |>.trans (BitVec.setWidth_eq tag)

end

section
variable {k : Nat} {p : Packet} (hp : s.dyn.fab.inflight[k]? = some p)
include hp

theorem isolationTail_zeros (hport : s.dyn.portMode p.src.toNat = 2) (hdata : p.data ≠ []) :
    Becomes (exec (.isolationTailTimeout k) s) s (s.dyn.onFab (fun f => { f with
      inflight := f.inflight.set k { p with bad := true, data := zeros p.data.length } })) := by
  change Becomes (execIsolationTailTimeout k s) s _
  exact act_becomes hup (by simp [tailTimeout, hp, hport, hdata])

theorem isolationTail_stands (hport : s.dyn.portMode p.src.toNat ≠ 2) :
    Becomes (exec (.isolationTailTimeout k) s) s s.dyn := by
  change Becomes (execIsolationTailTimeout k s) s _
  exact act_becomes hup (by simp [tailTimeout, hp, hport])

end
end

end Sys2Proof.Machine
end

section
open Sys2Proof Sys2Proof.Machine

/-- Settles O43: a packet that nothing holds back leaves the fabric with its outputs' arbiters, and arrives by the
mode of its target's port; an output's choice is the head of a class (`outputPick_some`). -/
theorem packetsArrive : Obligations.PacketsArrive := by
  unfold Obligations.PacketsArrive
  refine ⟨?arrives, ?waits, ?choice, ?timeouts⟩
  case arrives =>
    intro k router p s hup hp hfirst
    refine ⟨fun hheld route => packetArrival_heldBack hup hp hheld, ?_⟩
    intro arbs d0 harb d e comes answer free
    have lands {u : Dyn} (hfree : free) (h : arriveAt performPacket s.img d p = u) : Becomes (comes false) s u :=
      h ▸ packetArrival_arrives hup hp hfirst hfree harb
    refine ⟨?fenced, ?isolated, ?empty, ?normal, ?response, ?dropped⟩
    case fenced => exact fun hfree hreq hmode => lands hfree (arriveAt_fenced hreq hmode)
    case isolated => exact fun hfree hreq hmode => lands hfree (arriveAt_isolated hreq hmode)
    case empty => exact fun hfree hreq hmode => lands hfree (arriveAt_empty hreq hmode)
    case normal => exact fun hfree hreq hmode hgood => lands hfree (arriveAt_normal hreq hmode hgood)
    case response => exact fun hresp => lands (holdsBack_response hresp) (arriveAt_response hresp)
    case dropped => exact fun hfree hmem => packetArrival_dropped hup hp hfirst hfree harb hmem
  case waits =>
    intro k parity route router p s d0 hup hp hfirst hfree hroute harb
    have honly := arbitrateFor_only harb
    exact ⟨packetArrival_waits hup hp hfirst hfree hroute harb, honly ▸ rfl, honly ▸ rfl⟩
  case choice =>
    intro a a' l x hpick hturn hin
    rcases outputPick_some hpick hturn with ⟨hhead, hslots⟩ | ⟨c, hc, hhead, hrun, hbeyond⟩
    case inl =>
      obtain ⟨hmem, hcls, hreq⟩ := headOf_some hhead
      exact ⟨hmem, fun h y hy hsame => hreq h y hy ((congrArg BitVec.toNat hsame).trans hcls),
        fun _ y hy hother => hslots.resolve_left fun hall => hother (hall y hy), fun hother => absurd hcls hother⟩
    case inr =>
      obtain ⟨hmem, hcls, hreq⟩ := headOf_some hhead
      refine ⟨hmem, fun h y hy hsame => hreq h y hy ((congrArg BitVec.toNat hsame).trans hcls),
        fun hzero => absurd (hcls.symm.trans hzero) (by omega), fun _ y hy hzero => ⟨hrun, ?_⟩⟩
      obtain ⟨z, hz⟩ := headOf_exists hin hy hzero
      exact ⟨z, hz, hbeyond z hz⟩
  case timeouts =>
    intro e tag k s hup
    exact ⟨fun t => responseTimeout_due hup, responseTimeout_none hup, fun p => isolationTail_zeros hup,
      fun p => isolationTail_stands hup⟩

end

section
/-! PROOF. Report interfaces and the log (R416 to R418), counter overflow (R420, R424), and the supervisor's side of
dumps (R428, R429). -/

namespace Sys2Proof.Machine

/-! ### Reports -/

section
variable {d : Dyn} {r : Report}

theorem issue_keeps (h : (Map.get [] d.rep.ifq r.source.toNat).length < 4) :
    Map.get [] (issue d r).rep.ifq r.source.toNat = Map.get [] d.rep.ifq r.source.toNat
        ++ [{ r with lost := Map.get false d.rep.lost r.source.toNat }]
    ∧ (issue d r).rep.dropped = d.rep.dropped := by
  unfold issue
  rw [if_pos h]
  exact ⟨Map.get_set_same .., rfl⟩

theorem issue_drops (h : 4 ≤ (Map.get [] d.rep.ifq r.source.toNat).length) :
    (issue d r).rep.ifq = d.rep.ifq ∧ (issue d r).rep.dropped = min 0xFFFF (d.rep.dropped + 1)
    ∧ Map.get false (issue d r).rep.lost r.source.toNat = true := by
  unfold issue
  rw [if_neg (Nat.not_lt.mpr h)]
  exact ⟨rfl, rfl, Map.get_set_same ..⟩

/-- What a record does to the interfaces depends on them alone. -/
theorem issue_rep_congr {e : Dyn} (h : e.rep = d.rep) : (issue e r).rep = (issue d r).rep := by
  unfold issue
  rw [h]
  dsimp only
  split <;> rfl

end

section
variable {d : Dyn} {src cls code : Nat} {l : List Byte}

theorem event_only : event d src cls code l = { d with rep := (event d src cls code l).rep } := issue_only ..

theorem event_rep_congr {e : Dyn} (hrep : e.rep = d.rep) (htime : e.time = d.time) :
    (event e src cls code l).rep = (event d src cls code l).rep := by
  have hrecord : mkReport e src cls 2 code none 0 l = mkReport d src cls 2 code none 0 l := by
    simp only [mkReport, Dyn.nowAt, Dyn.now, htime]
  unfold event
  rw [hrecord]
  exact issue_rep_congr hrep

/-- An event changes the report interfaces alone, by what they and the time are. -/
theorem event_of_same {e : Dyn} (hrep : e.rep = d.rep) (htime : e.time = d.time) :
    event e src cls code l = { e with rep := (event d src cls code l).rep } :=
  event_only.trans (congrArg (fun rep => { e with rep }) (event_rep_congr hrep htime))

end

theorem alert_off {d : Dyn} {cls : Nat} (h : d.rep.alertCfg = 0) : alert d cls = d := by
  simp [alert, h, bit]

/-- The oldest record `r` of a source has gone to the log. -/
def logged (d : Dyn) (src : Nat) (r : Report) (rest : List Report) : Dyn :=
  { d with rep := { d.rep with
      ifq := Map.set d.rep.ifq src rest
      log := Map.set d.rep.log (d.rep.logWr.toNat % 1024) r
      logWr := d.rep.logWr + 1 } }

/-- With the stream off and no alert wanted, the record is logged and counted, and that is all. -/
theorem acceptReport_logs {d : Dyn} {src : Nat} {r : Report} {rest : List Report}
    (hq : Map.get [] d.rep.ifq src = r :: rest) (halert : d.rep.alertCfg = 0) (hstream : d.rep.streamOn = false) :
    acceptReport d src = countEv (logged d src r rest) 0x0C00 0x0C00 1 EvInfo.plain := by
  have hlogs : acceptReport d src = alert (countEv (logged d src r rest) 0x0C00 0x0C00 1 EvInfo.plain) r.cls := by
    simp only [acceptReport, hq, hstream]
    rfl
  rw [hlogs]
  exact alert_off (by rw [countEv_rep]; exact halert)

section
variable {src : Half} {s : State} (hup : islandUp s.dyn = true)
include hup

theorem reportAccept_none (hq : Map.get [] s.dyn.rep.ifq src.toNat = []) :
    Becomes (exec (.reportAccept src) s) s s.dyn := by
  change Becomes (execReportAccept src s) s _
  exact act_becomes hup (by rw [acceptReport, hq])

theorem reportAccept_logs {r : Report} {rest : List Report} (hq : Map.get [] s.dyn.rep.ifq src.toNat = r :: rest)
    (halert : s.dyn.rep.alertCfg = 0) (hstream : s.dyn.rep.streamOn = false) :
    Becomes (exec (.reportAccept src) s) s
      (countEv (logged s.dyn src.toNat r rest) 0x0C00 0x0C00 1 EvInfo.plain) := by
  change Becomes (execReportAccept src s) s _
  exact act_becomes hup (acceptReport_logs hq halert hstream)

end

/-! ### Counters -/

theorem ctrAdd_wraps {b : Bank} {k n skid : Nat} {core tagging : Bool}
    (h : 2 ^ 48 ≤ (Map.get Ctr.reset b.ctrs k).value + n) :
    let c := Map.get Ctr.reset b.ctrs k
    (ctrAdd b k n core tagging skid).ctrs = Map.set b.ctrs k { c with value := (c.value + n) % 2 ^ 48 }
    ∧ (ctrAdd b k n core tagging skid).ovf = b.ovf ||| 2 ^ k := by
  unfold ctrAdd
  dsimp only
  rw [if_neg (Nat.not_lt.mpr h)]
  split
  · split <;> exact ⟨rfl, rfl⟩
  · exact ⟨rfl, rfl⟩

theorem core_mem_allSources {src : Nat} (hlo : 0x0100 ≤ src) (hhi : src < 0x01C0) :
    allSources.contains src = true := by
  have hcore : ∃ i < 192, 0x0100 + i = src := ⟨src - 0x0100, by omega, by omega⟩
  simp [allSources, hcore]

/-- Counter `k` of a unit's bank. -/
def ctrOf (d : Dyn) (unit k : Nat) : Ctr := Map.get Ctr.reset (Map.get Bank.reset d.perf.banks unit).ctrs k

/-- Counter `k` of the unit is on, counts an event of the unit, and passes 2^48 - 1 with `n` more. -/
def overflows (d : Dyn) (unit k n : Nat) : Bool :=
  let c := ctrOf d unit k
  decide (k < bankSize unit) && allSources.contains unit && d.powered unit && bit c.cfg.toNat 31
    && evListed unit (c.cfg.toNat % 65536) && privSome c.cfg.toNat (c.cfg.toNat % 65536)
    && decide (2 ^ 48 ≤ c.value + n) && decide (n < 2 ^ 48)

/-- The unit's bank after the overflow: what it armed counts from the next instruction (R425). -/
def bankOver (d : Dyn) (unit k n : Nat) : Bank :=
  let b := ctrAdd (Map.get Bank.reset d.perf.banks unit) k n (srcSub unit == 1) (decide (d.dst.state ≠ .service))
    (freshNat d).1
  { b with arms := b.arms.map (fun a => { a with fresh := false }) }

theorem bankOver_wraps {d : Dyn} {unit k n : Nat} (h : 2 ^ 48 ≤ (ctrOf d unit k).value + n) :
    let b := Map.get Bank.reset d.perf.banks unit
    (bankOver d unit k n).ctrs
        = Map.set b.ctrs k { ctrOf d unit k with value := ((ctrOf d unit k).value + n) % 2 ^ 48 }
    ∧ (bankOver d unit k n).ovf = b.ovf ||| 2 ^ k := ctrAdd_wraps h

section
variable {d : Dyn} {unit k n : Nat}

theorem overflows_core (hlo : 0x0100 ≤ unit) (hhi : unit < 0x01C0) (hk : k < 8) (hon : d.powered unit = true)
    (hen : (ctrOf d unit k).cfg.getLsbD 31 = true) (hsub : (ctrOf d unit k).cfg.toNat % 65536 / 256 = 1)
    (hev : (ctrOf d unit k).cfg.toNat % 256 ≤ 10)
    (hpriv : privSome (ctrOf d unit k).cfg.toNat ((ctrOf d unit k).cfg.toNat % 65536) = true)
    (hover : 2 ^ 48 ≤ (ctrOf d unit k).value + n) (hn : n < 2 ^ 48) : overflows d unit k n = true := by
  have hcore : srcSub unit = 1 := by unfold srcSub; omega
  have hbank : k < bankSize unit := by rw [bankSize, if_pos hcore]; exact hk
  have hlisted : evListed unit ((ctrOf d unit k).cfg.toNat % 65536) = true := by
    rw [evListed, hcore, hsub]
    exact decide_eq_true (show _ < 11 by omega)
  have hbit : bit (ctrOf d unit k).cfg.toNat 31 = true := hen
  unfold overflows
  simp only [hbank, core_mem_allSources hlo hhi, hon, hbit, hlisted, hpriv, hover, hn, decide_true, Bool.and_true]

theorem overflows_short (h : (ctrOf d unit k).value + n < 2 ^ 48
    ∨ privSome (ctrOf d unit k).cfg.toNat ((ctrOf d unit k).cfg.toNat % 65536) = false) :
    overflows d unit k n = false := by
  unfold overflows
  rcases h with hsum | hpriv
  · simp only [Nat.not_le.mpr hsum, decide_false, Bool.and_false, Bool.false_and]
  · simp only [hpriv, Bool.and_false, Bool.false_and]

end

section
variable {src : Half} {k : BitVec 3} {n : Nat} {s : State} (hup : islandUp s.dyn = true)
include hup

theorem counterOverflow_counts (h : overflows s.dyn src.toNat k.toNat n = true) :
    Becomes (exec (.counterOverflow src k n) s) s { s.dyn with
      perf := { s.dyn.perf with
        banks := Map.set s.dyn.perf.banks src.toNat (bankOver s.dyn src.toNat k.toNat n) }
      free := s.dyn.free + 1 } := by
  change Becomes (execCounterOverflow src k n s) s _
  refine act_becomes hup ?_
  dsimp only
  exact when_true h

theorem counterOverflow_stands (h : overflows s.dyn src.toNat k.toNat n = false) :
    Becomes (exec (.counterOverflow src k n) s) s s.dyn := by
  change Becomes (execCounterOverflow src k n s) s _
  refine act_becomes hup ?_
  dsimp only
  exact when_false h

end

/-! ### Dumps -/

section
variable {s : State} (hup : islandUp s.dyn = true)
include hup

theorem dump_none (h : s.dyn.perf.shadow = none) : Becomes (exec .dump s) s s.dyn := by
  change Becomes (execDump s) s _
  exact act_becomes hup (by rw [h])

section
variable {l : Latch} (hl : s.dyn.perf.shadow = some l)
include hl

theorem dump_writes (hon : dumpsOn s.img = true) (hdue : usPassed s.dyn.now l.boundary 2 = true) :
    Becomes (exec .dump s) s (dump s.img s.dyn l) := by
  change Becomes (execDump s) s _
  refine act_becomes hup ?_
  rw [hl]
  exact when_true (by rw [hon, hdue]; rfl)

theorem dump_stands (h : dumpsOn s.img = false ∨ usPassed s.dyn.now l.boundary 2 = false) :
    Becomes (exec .dump s) s s.dyn := by
  change Becomes (execDump s) s _
  refine act_becomes hup ?_
  rw [hl]
  exact when_false (Bool.and_eq_false_iff.mpr h)

end

section
variable {m : Master} {v : Word}

theorem dumpRd_sets (h : (v - s.dyn.perf.dumpWr).toInt ≤ 0) :
    Becomes (exec (.dumpRd m v) s) s { s.dyn with perf := { s.dyn.perf with dumpRd := v } } := by
  change Becomes (execDumpRd m v s) s _
  exact act_becomes hup (if_neg (by simpa using h))

theorem dumpRd_refused (h : 0 < (v - s.dyn.perf.dumpWr).toInt) :
    Becomes (exec (.dumpRd m v) s) s (writeRefused s.dyn 0x0C00) := by
  change Becomes (execDumpRd m v s) s _
  exact act_becomes hup (if_pos (by simpa using h))

end
end

end Sys2Proof.Machine
end

section
/-! PROOF. The boundary of an epoch (R172, R427, R429): what the busy times and the clock counters come to, what
latches, and what a skipped epoch keeps. -/

namespace Sys2Proof.Machine

/-! ### Busy times (R172) -/

/-- One core's busy time up to now is added up. -/
def settleCore (d : Dyn) (c : Nat) : Dyn := (addBusy d c).onTsk c (fun t => { t with since := d.dispNow })

/-- Of the machine, the cores and the busy times of the running epoch may differ. -/
def OnlyBusy (d e : Dyn) : Prop :=
  e = { d with cores := e.cores, perf := { d.perf with busyRun := e.perf.busyRun } }

theorem OnlyBusy.trans {d e f : Dyn} (h : OnlyBusy d e) (g : OnlyBusy e f) : OnlyBusy d f := by
  unfold OnlyBusy at *
  rw [g, h]

/-- Core `c` is as it was. -/
def BusyKept (d e : Dyn) (c : Nat) : Prop :=
  Map.get 0 e.perf.busyRun c = Map.get 0 d.perf.busyRun c ∧ e.core c = d.core c

/-- Core `c`'s busy time is added up to now, from where it counts on. -/
def BusySettled (d e : Dyn) (c : Nat) : Prop :=
  Map.get 0 e.perf.busyRun c
      = min 0xFFFFFFFF (Map.get 0 d.perf.busyRun c + (d.dispNow - (d.core c).tsk.since))
  ∧ e.core c = { d.core c with tsk := { (d.core c).tsk with since := d.dispNow } }

section
variable (d : Dyn) (c : Nat)

theorem settleCore_only : OnlyBusy d (settleCore d c) := rfl

theorem settleCore_self : BusySettled d (settleCore d c) c := 
  ⟨Map.get_set_same .., (Dyn.core_onTsk ..).trans (if_pos rfl)⟩

theorem settleCore_other {k : Nat} (h : k ≠ c) : BusyKept d (settleCore d c) k := 
  ⟨Map.get_set_other _ _ _ _ _ h, (Dyn.core_onTsk ..).trans (if_neg h)⟩

end

section
variable {d e f : Dyn} {c : Nat}

theorem OnlyBusy.dispNow (h : OnlyBusy d e) : e.dispNow = d.dispNow := by
  rw [h]
  rfl

theorem BusyKept.trans (h : BusyKept d e c) (g : BusyKept e f c) : BusyKept d f c :=
  ⟨g.1.trans h.1, g.2.trans h.2⟩

theorem BusySettled.kept (h : BusySettled d e c) (g : BusyKept e f c) : BusySettled d f c :=
  ⟨g.1.trans h.1, g.2.trans h.2⟩

section
variable (hnow : e.dispNow = d.dispNow)
include hnow

theorem BusyKept.settled (h : BusyKept d e c) (g : BusySettled e f c) : BusySettled d f c := by
  obtain ⟨hrun, hcore⟩ := h
  obtain ⟨grun, gcore⟩ := g
  exact ⟨by rw [grun, hrun, hcore, hnow], by rw [gcore, hcore, hnow]⟩

/-- A second sum at the same tick adds nothing. -/
theorem BusySettled.again (h : BusySettled d e c) (g : BusySettled e f c) : BusySettled d f c := by
  obtain ⟨hrun, hcore⟩ := h
  obtain ⟨grun, gcore⟩ := g
  exact ⟨by rw [grun, hrun, hcore, hnow]; simp, by rw [gcore, hcore, hnow]⟩

end
end

/-- The cores of the list, however often it names them, are settled, and no others. -/
theorem settleCores_spec : ∀ (l : List Nat) (d : Dyn), let e := l.foldl settleCore d
    OnlyBusy d e ∧ (∀ c ∈ l, BusySettled d e c) ∧ ∀ c ∉ l, BusyKept d e c
  | [], d => ⟨rfl, fun _ h => absurd h List.not_mem_nil, fun _ _ => ⟨rfl, rfl⟩⟩
  | a :: l, d => by
    obtain ⟨honly, hin, hout⟩ := settleCores_spec l (settleCore d a)
    have hnow := (settleCore_only d a).dispNow
    refine ⟨(settleCore_only d a).trans honly, fun c hc => ?_, fun c hc => ?_⟩
    · by_cases hca : c = a
      · subst hca
        by_cases hl : c ∈ l
        · exact (settleCore_self d c).again hnow (hin c hl)
        · exact (settleCore_self d c).kept (hout c hl)
      · exact (settleCore_other d a hca).settled hnow (hin c (List.mem_of_ne_of_mem hca hc))
    · obtain ⟨hca, hl⟩ := not_or.mp (mt List.mem_cons.mpr hc)
      exact (settleCore_other d a hca).trans (hout c hl)

theorem Map.get_of_not_mem {α : Type} {d : α} {k : Nat} : ∀ {m : Map α}, k ∉ m.map (·.1) → Map.get d m k = d
  | [], _ => rfl
  | (k', v) :: rest, h => by
    obtain ⟨hk, hrest⟩ := not_or.mp (mt List.mem_cons.mpr h)
    exact (if_neg (Ne.symm hk)).trans (Map.get_of_not_mem hrest)

/-- Every core that is busy with a task is settled, and no other (R172). -/
theorem settleBusy_spec (d : Dyn) : OnlyBusy d (settleBusy d) ∧ ∀ c,
    ((d.core c).tsk.busy = false → BusyKept d (settleBusy d) c)
    ∧ ((d.core c).tsk.busy = true → BusySettled d (settleBusy d) c) := by
  obtain ⟨honly, hin, hout⟩ :=
    settleCores_spec ((d.cores.map (·.1)).eraseDups.filter (fun c => (d.core c).tsk.busy)) d
  refine ⟨honly, fun c => ⟨fun hidle => hout c fun hmem => ?_, fun hbusy => hin c ?_⟩⟩
  · exact Bool.false_ne_true (hidle.symm.trans (List.mem_filter.mp hmem).2)
  · refine List.mem_filter.mpr ⟨List.mem_eraseDups.mpr (by_contra fun hnot => ?_), hbusy⟩
    have hreset : d.core c = CoreSt.reset := Map.get_of_not_mem hnot
    rw [hreset] at hbusy
    exact Bool.false_ne_true hbusy

/-! ### Clock counters (R420, R427) -/

/-- Counters may have counted clocks: those of clock events alone, and upwards. No bank joins the dump or leaves
it. -/
def BanksGrow (m m' : Map Bank) : Prop :=
  m'.any (·.2.dump) = m.any (·.2.dump)
  ∧ ∀ unit j,
    let x := Map.get Ctr.reset (Map.get Bank.reset m unit).ctrs j
    let y := Map.get Ctr.reset (Map.get Bank.reset m' unit).ctrs j
    y.cfg = x.cfg ∧ x.value ≤ y.value ∧ (clockEvent (x.cfg.toNat % 65536) = false → y = x)

theorem BanksGrow.refl (m : Map Bank) : BanksGrow m m := ⟨rfl, fun _ _ => ⟨rfl, Nat.le_refl _, fun _ => rfl⟩⟩

theorem BanksGrow.trans {m m' m'' : Map Bank} (h : BanksGrow m m') (g : BanksGrow m' m'') : BanksGrow m m'' := by
  refine ⟨g.1.trans h.1, fun unit j => ?_⟩
  obtain ⟨hcfg, hval, hstay⟩ := h.2 unit j
  obtain ⟨gcfg, gval, gstay⟩ := g.2 unit j
  exact ⟨gcfg.trans hcfg, hval.trans gval, fun hev => (gstay (by rw [hcfg]; exact hev)).trans (hstay hev)⟩

/-- Counters, and free values, are all that the clocks change. -/
def Clocked (d e : Dyn) : Prop :=
  e = { d with perf := { d.perf with banks := e.perf.banks }, free := e.free }
  ∧ BanksGrow d.perf.banks e.perf.banks

theorem Clocked.refl (d : Dyn) : Clocked d d := ⟨rfl, .refl _⟩

theorem Clocked.trans {d e f : Dyn} (h : Clocked d e) (g : Clocked e f) : Clocked d f :=
  ⟨by rw [g.1, h.1], h.2.trans g.2⟩

theorem Clocked.foldl {α : Type} {f : Dyn → α → Dyn} (h : ∀ d a, Clocked d (f d a)) (l : List α) (d : Dyn) :
    Clocked d (l.foldl f d) :=
  l.foldlRecOn f (motive := Clocked d) (.refl d) (fun e he a _ => he.trans (h e a))

section
variable {α : Type} {p : α → Bool} {d : α} (hd : p d = false)
include hd

theorem Map.any_of_get {k : Nat} : ∀ {m : Map α}, p (Map.get d m k) = true → m.any (fun e => p e.2) = true
  | [], h => absurd (hd.symm.trans h) Bool.false_ne_true
  | (k', v) :: rest, h => by
    unfold Map.get at h
    split at h
    · exact List.any_eq_true.mpr ⟨_, List.mem_cons_self .., h⟩
    · exact (Bool.or_eq_true _ _).mpr (.inr (Map.any_of_get h))

/-- A write that keeps what `p` says of a key keeps whether `p` holds of some key. -/
theorem Map.any_set {k : Nat} {v : α} : ∀ {m : Map α}, p v = p (Map.get d m k) →
    (Map.set m k v).any (fun e => p e.2) = m.any (fun e => p e.2)
  | [], h => by simp [Map.set, h, hd, Map.get]
  | (k', w) :: rest, h => by
    unfold Map.set
    unfold Map.get at h
    split
    case isTrue hk => simp [h, hk]
    case isFalse hk =>
      rw [if_neg hk] at h
      split
      · have hrest : p v = true → rest.any (fun e => p e.2) = true := fun hv => Map.any_of_get hd (h ▸ hv)
        cases hv : p v
        · simp [hv]
        · simp [hv, hrest hv]
      · exact congrArg (p w || ·) (Map.any_set h)

end

/-- One counter of a clock event goes up by `n`. -/
theorem BanksGrow.raise {m : Map Bank} {unit k : Nat} (n : Nat)
    (hclock : clockEvent ((Map.get Ctr.reset (Map.get Bank.reset m unit).ctrs k).cfg.toNat % 65536) = true) :
    let b := Map.get Bank.reset m unit
    let c := Map.get Ctr.reset b.ctrs k
    BanksGrow m (Map.set m unit { b with ctrs := Map.set b.ctrs k { c with value := c.value + n } }) := by
  intro b c
  refine ⟨Map.any_set (p := Bank.dump) (d := Bank.reset) rfl rfl, fun u j => ?_⟩
  dsimp only
  rw [Map.get_set]
  by_cases hu : u = unit
  · subst hu
    rw [if_pos rfl, Map.get_set]
    by_cases hj : j = k
    · subst hj
      rw [if_pos rfl]
      exact ⟨rfl, Nat.le_add_right .., fun hno => absurd (hclock.symm.trans hno) (by decide)⟩
    · rw [if_neg hj]
      exact ⟨rfl, Nat.le_refl _, fun _ => rfl⟩
  · rw [if_neg hu]
    exact ⟨rfl, Nat.le_refl _, fun _ => rfl⟩

theorem clockCount_clocked (unit : Nat) (d : Dyn) (k : Nat) : Clocked d (clockCount unit d k) := by
  unfold clockCount
  dsimp only
  split
  case isFalse => exact .refl d
  case isTrue h =>
    simp only [Bool.and_eq_true] at h
    obtain ⟨⟨⟨⟨-, hclock⟩, -⟩, -⟩, -⟩ := h
    exact ⟨rfl, .raise _ hclock⟩

theorem countClocks_clocked (d : Dyn) (unit : Nat) : Clocked d (countClocks d unit) :=
  .foldl (clockCount_clocked unit) _ d

/-! ### The boundary (R427, R429) -/

/-- Every unit as it latches: busy times and clocks are counted up to the boundary. -/
def latching (d : Dyn) : Dyn := (d.perf.banks.map (·.1)).foldl countClocks (settleBusy d)

/-- What latches. -/
def latchOf (img : Img) (d : Dyn) : Latch :=
  { epoch := d.perf.epoch, tick := d.now, boundary := epochStart img d, step := d.perf.stepped
    banks := d.perf.banks, off := allSources.filter (fun u => !d.powered u)
    waitMax := d.perf.waitRun, coreBusy := d.perf.busyRun }

/-- The next epoch has begun, with what the boundary leaves in the shadows, of the count of skipped epochs and in
the report interfaces. -/
def epochBegun (img : Img) (d : Dyn) (shadow : Option Latch) (skipped : Nat) (rep : ReportSt) : Dyn :=
  { d with
    rep
    perf := { d.perf with
      waitMax := d.perf.waitRun, coreBusy := d.perf.busyRun, waitRun := [], busyRun := []
      epoch := epochOf img d, stepped := false, epochMarks := [], shadow, skipped } }

/-- The shadows of an epoch before are to be dumped and are not read yet. -/
def unreadShadow (img : Img) (d : Dyn) : Prop :=
  d.perf.shadow.isSome = true ∧ dumpsOn img = true ∧ d.perf.banks.any (·.2.dump) = true

section
variable {img : Img} {d : Dyn}

/-- The check that the boundary makes. -/
theorem unreadShadow_iff : (d.perf.shadow.isSome && dumpsOn img && d.perf.banks.any (·.2.dump)) = true
    ↔ unreadShadow img d := by
  simp only [unreadShadow, Bool.and_eq_true, and_assoc]

theorem epochBoundary_latches (h : ¬ unreadShadow img (latching d)) : epochBoundary img d
    = epochBegun img (latching d) (some (latchOf img (latching d))) (latching d).perf.skipped (latching d).rep := by
  have hread := Bool.eq_false_iff.mpr fun hunread => h (unreadShadow_iff.mp hunread)
  unfold latching at hread
  unfold epochBoundary
  simp only [hread]
  rfl

theorem skipEpoch_eq (d : Dyn) : skipEpoch d = { d with
    perf := { d.perf with skipped := min 0xFFFF (d.perf.skipped + 1) }
    rep := (event d 0x0C00 0 0x0C83 []).rep } :=
  event_of_same rfl rfl

/-- With its shadows still unread, an epoch keeps them and is counted as skipped, with a report (R429). -/
theorem epochBoundary_skips (h : unreadShadow img (latching d)) : epochBoundary img d
    = epochBegun img (latching d) (latching d).perf.shadow (min 0xFFFF ((latching d).perf.skipped + 1))
        (event (latching d) 0x0C00 0 0x0C83 []).rep := by
  have hunread := unreadShadow_iff.mpr h
  unfold latching at hunread
  unfold epochBoundary
  simp only [hunread, if_true]
  rw [skipEpoch_eq]
  exact congrArg (epochBegun img (latching d) _ _) (event_rep_congr rfl rfl)

end

/-- A machine that differs in its cores, busy times, counters and free values. -/
def counted (d : Dyn) (cores : Map CoreSt) (busy : Map Nat) (banks : Map Bank) (free : Nat) : Dyn :=
  { d with cores, perf := { d.perf with busyRun := busy, banks }, free }

theorem latching_counted (d : Dyn) : ∃ cores busy banks free, latching d = counted d cores busy banks free
    ∧ BanksGrow d.perf.banks banks
    ∧ ∀ c, ((d.core c).tsk.busy = false → BusyKept d (counted d cores busy banks free) c)
      ∧ ((d.core c).tsk.busy = true → BusySettled d (counted d cores busy banks free) c) := by
  obtain ⟨honly, hbusy⟩ := settleBusy_spec d
  obtain ⟨hclocked, hgrow⟩ := Clocked.foldl countClocks_clocked (d.perf.banks.map (·.1)) (settleBusy d)
  rw [congrArg (·.perf.banks) honly] at hgrow
  exact ⟨(settleBusy d).cores, (settleBusy d).perf.busyRun, (latching d).perf.banks, (latching d).free,
    hclocked.trans (congrArg (fun e => { e with
      perf := { e.perf with banks := (latching d).perf.banks }, free := (latching d).free }) honly),
    hgrow, hbusy⟩

theorem unreadShadow_latching {img : Img} {d : Dyn} : unreadShadow img (latching d) ↔ unreadShadow img d := by
  obtain ⟨cores, busy, banks, free, heq, hgrow, -⟩ := latching_counted d
  rw [heq]
  change _ ∧ _ ∧ banks.any (·.2.dump) = true ↔ _
  rw [hgrow.1]
  rfl

/-- Whatever latches, the next epoch begins. -/
theorem epochBoundary_begins (img : Img) (d : Dyn) : ∃ shadow skipped rep,
    epochBoundary img d = epochBegun img (latching d) shadow skipped rep
    ∧ (unreadShadow img d → shadow = (latching d).perf.shadow
        ∧ skipped = min 0xFFFF ((latching d).perf.skipped + 1)
        ∧ rep = (event (latching d) 0x0C00 0 0x0C83 []).rep)
    ∧ (¬ unreadShadow img d → shadow = some (latchOf img (latching d))
        ∧ skipped = (latching d).perf.skipped ∧ rep = (latching d).rep) := by
  by_cases h : unreadShadow img d
  · exact ⟨_, _, _, epochBoundary_skips (unreadShadow_latching.mpr h), fun _ => ⟨rfl, rfl, rfl⟩,
      fun hread => absurd h hread⟩
  · exact ⟨_, _, _, epochBoundary_latches (mt unreadShadow_latching.mp h), fun hunread => absurd hunread h,
      fun _ => ⟨rfl, rfl, rfl⟩⟩

section
variable {s : State} (hup : islandUp s.dyn = true)
include hup

theorem epochBoundary_due (h : epochOf s.img s.dyn ≠ s.dyn.perf.epoch ∨ s.dyn.perf.stepped = true) :
    Becomes (exec .epochBoundary s) s (epochBoundary s.img s.dyn) := by
  change Becomes (execEpochBoundary s) s _
  exact act_becomes hup (when_true (by simpa using h))

theorem epochBoundary_stands (h : epochOf s.img s.dyn = s.dyn.perf.epoch) (hstep : s.dyn.perf.stepped = false) :
    Becomes (exec .epochBoundary s) s s.dyn := by
  change Becomes (execEpochBoundary s) s _
  exact act_becomes hup (when_false (by simp [h, hstep]))

end

end Sys2Proof.Machine
end

section
open Sys2Proof Sys2Proof.Machine

/-- Settles O52: a record is kept or dropped, then logged; a counter wraps; at the boundary only busy times and clock
counters go on before the units latch (`latching_counted`), and unread shadows stay. -/
theorem reportsAndCounters : Obligations.ReportsAndCounters := by
  unfold Obligations.ReportsAndCounters
  intro m src k n v s hup d does q bank ctr
  refine ⟨?interface, ?noRecord, ?logs, ?wraps, ?short, epochBoundary_stands hup, ?epoch, dump_none hup, ?dump,
    dumpRd_sets hup, dumpRd_refused hup⟩
  case interface =>
    rintro r rfl
    exact ⟨issue_keeps, issue_drops⟩
  case noRecord => exact fun hq => reportAccept_none hup hq
  case logs =>
    intro r rest hq halert hstream
    refine ⟨_, reportAccept_logs hup hq halert hstream, ?_, rfl, rfl⟩
    exact congrArg (fun e : Dyn => { e with perf := d.perf, free := d.free }) (countEv_only ..)
  case wraps =>
    intro hlo hhi hon hen hsub hev hpriv hover hn hvalue
    have hcounts := counterOverflow_counts hup (overflows_core hlo hhi k.isLt hon hen hsub hev hpriv hover hn)
    obtain ⟨hctrs, hovf⟩ := bankOver_wraps (d := d) hover
    refine ⟨_, hcounts, ?_⟩
    dsimp only
    rw [Map.get_set_same, hctrs]
    refine ⟨?_, hovf, fun j hj => Map.get_set_other _ _ _ _ _ hj, rfl⟩
    rw [Map.get_set_same]
    change (ctr.value + n) % 2 ^ 48 = ctr.value + n - 2 ^ 48
    omega
  case short => exact fun h => counterOverflow_stands hup (overflows_short h)
  case epoch =>
    intro hdue unread
    obtain ⟨shadow, skipped, rep, hbegins, hunread, hread⟩ := epochBoundary_begins s.img d
    obtain ⟨cores, busy, banks, free, heq, hgrow, hbusy⟩ := latching_counted d
    rw [heq] at hbegins hunread hread
    have hbecomes : Becomes (exec .epochBoundary s) s (epochBoundary s.img d) := epochBoundary_due hup hdue
    rw [hbegins] at hbecomes
    refine ⟨_, hbecomes, rfl, rfl, rfl, rfl, rfl, rfl, hbusy, ?skips, ?latches, hgrow.2⟩
    case skips =>
      intro h
      obtain ⟨hshadow, hskipped, hrep⟩ := hunread h
      exact ⟨hshadow, hskipped, hrep.trans (event_rep_congr rfl rfl)⟩
    case latches =>
      intro h
      obtain ⟨hshadow, hskipped, hrep⟩ := hread h
      exact ⟨hskipped, hrep, _, hshadow, rfl, rfl, rfl, rfl, rfl, rfl, fun hstep => if_pos hstep,
        fun hstep => if_neg (Bool.eq_false_iff.mp hstep)⟩
  case dump => exact fun l hl => ⟨dump_writes hup hl, dump_stands hup hl, _, rfl⟩

end

section
/-! PROOF. A Bronze instruction that retires, as the registers it leaves: every register write keeps the rest of the
machine, so that an instruction is the chain of its writes (R209). -/

namespace Sys2Proof.Machine

/-! ### The core that an instruction leaves -/

/-- Since core `c` issued its instruction only the core and the counters have changed, and the core has become `x`,
but for its clock and instruction cache. -/
structure CoreLeft (c : Core) (s : State) (e : Dyn) (x : CoreSt) : Prop where
  only : OnlyCoreDyn c.val (s.issue c) e
  core : e.core c.val = x.clockOf (s.dyn.core c.val).issued
  pc : x.regs.pc = s.dyn.pc c.val

namespace CoreLeft

theorem issue (c : Core) (s : State) : CoreLeft c s (s.issue c) (s.dyn.core c.val) :=
  ⟨.refl .., (State.issue_core s c c.val).trans (if_pos rfl), rfl⟩

variable {c : Core} {s : State} {e : Dyn} {x : CoreSt} (h : CoreLeft c s e x)
include h

theorem counts {d : Dyn} (hd : OnlyCounts e d) : CoreLeft c s d x :=
  ⟨h.only.trans (hd.onlyCoreDyn c.val), (hd.core c.val).trans h.core, h.pc⟩

theorem countEv (u ev n : Nat) (i : EvInfo) : CoreLeft c s (countEv e u ev n i) x := h.counts (countEv_only ..)

theorem wd (r : Reg5) {v w : Word} (hv : v = w) : CoreLeft c s (e.wd c.val r v) (x.withD r w) :=
  ⟨h.only.andRegs _, by rw [Dyn.core_wd, h.core, hv]; rfl, h.pc⟩

theorem wp (k : Nat) {v w : Addr} (hv : v = w) : CoreLeft c s (e.wp c.val k v) (x.withP k w) :=
  ⟨h.only.andRegs _, by rw [Dyn.core_wp, h.core, hv]; rfl, h.pc⟩

theorem wb (k : Nat) {v w : Addr} (hv : v = w) : CoreLeft c s (e.wb c.val k v) (x.withB k w) :=
  ⟨h.only.andRegs _, by rw [Dyn.core_wb, h.core, hv]; rfl, h.pc⟩

theorem wl (k : Nat) {v w : Word} (hv : v = w) : CoreLeft c s (e.wl c.val k v) (x.withL k w) :=
  ⟨h.only.andRegs _, by rw [Dyn.core_wl, h.core, hv]; rfl, h.pc⟩

theorem wm (k : Nat) {v w : Word} (hv : v = w) : CoreLeft c s (e.wm c.val k v) (x.withM k w) :=
  ⟨h.only.andRegs _, by rw [Dyn.core_wm, h.core, hv]; rfl, h.pc⟩

theorem wacc (k : Nat) {v w : BitVec 72} (hv : v = w) : CoreLeft c s (e.wacc c.val k v) (x.withAcc k w) :=
  ⟨h.only.andRegs _, by rw [Dyn.core_wacc, h.core, hv]; rfl, h.pc⟩

theorem dsat (b : Bool) : CoreLeft c s (e.dsat c.val b) (x.withDsat b) :=
  ⟨h.only.trans (.dsat ..), by rw [Dyn.core_dsat, h.core]; rfl, h.pc⟩

theorem asat (b : Bool) : CoreLeft c s (e.asat c.val b) (x.withAsat b) :=
  ⟨h.only.trans (.asat ..), by rw [Dyn.core_asat, h.core]; rfl, h.pc⟩

theorem onCtl (f : CoreCtl → CoreCtl) : CoreLeft c s (e.onCtl c.val f) { x with ctl := f x.ctl } :=
  ⟨h.only.trans (.onCtl ..), by rw [Dyn.core_onCtl, if_pos rfl, h.core]; rfl, h.pc⟩

/-- An instruction that is done has retired. -/
theorem retires {icls : Nat} {f : Img → Dyn → Res} {goto : Option Addr} (hready : Ready c s)
    (hf : f s.img (s.issue c) = .done e goto) : Answers (act (bronze c icls f) s) (Retires c x goto s) :=
  bronze_gives hready hf h.only h.core h.pc

end CoreLeft

end Sys2Proof.Machine
end

section
/-! PROOF. The integer instructions of Table 7.17 (R209): what each one's operation is in whole numbers. -/

namespace Sys2Proof.Machine

/-! ### Numbers and words -/

/-- Saturation to `n` bits is the range's bounds put on the number. -/
theorem satN_eq_clamp (n : Nat) (x : Int) : satN n x = max (-(2 ^ (n - 1))) (min (2 ^ (n - 1) - 1) x) := by
  have htop : (0 : Int) < 2 ^ (n - 1) := by positivity
  unfold satN
  push_cast
  generalize (2 : Int) ^ (n - 1) = top at htop
  split_ifs <;> omega

theorem clips_eq (n : Nat) (x : Int) : clips n x = (decide (x < -(2 ^ (n - 1))) || decide (2 ^ (n - 1) - 1 < x)) := by
  have htop : (0 : Int) < 2 ^ (n - 1) := by positivity
  unfold clips
  rw [satN_eq_clamp, Bool.eq_iff_iff]
  generalize (2 : Int) ^ (n - 1) = top at htop
  simp only [decide_eq_true_eq, Bool.or_eq_true]
  omega

theorem ofInt_satN_word (x : Int) : BitVec.ofInt 32 (satN 32 x) = clamp32 x := by
  rw [satN_eq_clamp]; rfl

theorem clips_word (x : Int) : clips 32 x = clip32 x := by
  rw [clips_eq]; rfl

/-- A field read as two's complement is the field's signed value. -/
theorem sx_eq_toInt {n : Nat} (hn : n ≠ 0) (x : Nat) : sx n x = (BitVec.ofNat n x).toInt := by
  have hpow : 2 ^ n = 2 * 2 ^ (n - 1) := by rw [← Nat.pow_succ']; congr 1; omega
  rw [BitVec.toInt_eq_toNat_cond, BitVec.toNat_ofNat]
  unfold sx
  rw [if_neg hn]
  split_ifs <;> omega

theorem sx_toNat {n : Nat} (hn : n ≠ 0) (x : BitVec n) : sx n x.toNat = x.toInt := by
  rw [sx_eq_toInt hn, BitVec.ofNat_toNat, BitVec.setWidth_eq]

section
variable (a b : Word)

theorem mul_eq_ofInt : a * b = BitVec.ofInt 32 (a.toInt * b.toInt) := by
  rw [BitVec.ofInt_mul, BitVec.ofInt_toInt, BitVec.ofInt_toInt]

theorem min_eq_ofInt : (if a.toInt < b.toInt then a else b) = BitVec.ofInt 32 (min a.toInt b.toInt) := by
  split_ifs with h
  · rw [min_eq_left h.le, BitVec.ofInt_toInt]
  · rw [min_eq_right (not_lt.mp h), BitVec.ofInt_toInt]

theorem max_eq_ofInt : (if a.toInt < b.toInt then b else a) = BitVec.ofInt 32 (max a.toInt b.toInt) := by
  split_ifs with h
  · rw [max_eq_right h.le, BitVec.ofInt_toInt]
  · rw [max_eq_left (not_lt.mp h), BitVec.ofInt_toInt]

theorem signExtend_low_half : (a.setWidth 16).signExtend 32 = BitVec.ofInt 32 (sx 16 a.toNat) := by
  rw [sx_eq_toInt (by decide), BitVec.ofNat_toNat]; rfl

theorem low_half_eq_ofNat : (a.setWidth 16).setWidth 32 = BitVec.ofNat 32 (a.toNat % 65536) := by
  apply BitVec.eq_of_toNat_eq
  simp

theorem add_signExtend (imm : Half) : a + imm.signExtend 32 = BitVec.ofInt 32 (a.toInt + imm.toInt) := by
  rw [BitVec.ofInt_add, BitVec.ofInt_toInt]; rfl

theorem append_low_half (imm : Half) :
    imm ++ a.setWidth 16 = BitVec.ofNat 32 (imm.toNat * 65536 + a.toNat % 65536) := by
  apply BitVec.eq_of_toNat_eq
  have hlow : a.toNat % 2 ^ 16 < 2 ^ 16 := Nat.mod_lt _ (by decide)
  rw [BitVec.toNat_append, BitVec.toNat_setWidth, ← Nat.shiftLeft_add_eq_or_of_lt hlow, Nat.shiftLeft_eq,
    BitVec.toNat_ofNat]
  omega

end

/-! ### Leading zeros and sign bits -/

/-- A word has `clz32` zeros above its highest one. -/
theorem clz32_bounds (a : Word) : clz32 a ≤ 32 ∧ a.toNat < 2 ^ (32 - clz32 a)
    ∧ (clz32 a < 32 → 2 ^ (31 - clz32 a) ≤ a.toNat) := by
  unfold clz32
  split_ifs with h
  · exact ⟨Nat.sub_le .., by simp [h], fun hlt => absurd hlt (by decide)⟩
  · have hlog : a.toNat.log2 < 32 := (Nat.log2_lt h).mpr a.isLt
    refine ⟨by omega, ?_, fun _ => ?_⟩
    · rw [show 32 - (32 - (a.toNat.log2 + 1)) = a.toNat.log2 + 1 by omega]
      exact Nat.lt_log2_self
    · rw [show 31 - (32 - (a.toNat.log2 + 1)) = a.toNat.log2 by omega]
      exact Nat.log2_self_le h

/-- The word that has `a`'s bits above its sign cleared, where `a` repeats its sign. -/
def unsigned31 (a : Word) : Word := if bit a.toNat 31 then ~~~a else a

theorem unsigned31_spec (a : Word) : (unsigned31 a).toNat < 2 ^ 31
    ∧ (a.toInt = (unsigned31 a).toNat ∨ a.toInt = -1 - (unsigned31 a).toNat) := by
  have hlt := a.isLt
  have hbit : bit a.toNat 31 = decide (2 ^ 31 ≤ a.toNat) := by
    rw [bit, Nat.testBit_eq_decide_div_mod_eq, decide_eq_decide]
    omega
  rw [unsigned31, BitVec.toInt_eq_toNat_cond, hbit]
  by_cases hneg : 2 ^ 31 ≤ a.toNat
  · rw [if_pos (decide_eq_true hneg), if_neg (by omega), BitVec.toNat_not]
    omega
  · rw [if_neg (by simpa using hneg), if_pos (by omega)]
    omega

theorem cls32_bounds (a : Word) : cls32 a ≤ 31 ∧ -(2 ^ (31 - cls32 a)) ≤ a.toInt ∧ a.toInt < 2 ^ (31 - cls32 a)
    ∧ (cls32 a < 31 → a.toInt < -(2 ^ (30 - cls32 a)) ∨ 2 ^ (30 - cls32 a) ≤ a.toInt) := by
  obtain ⟨hsmall, hval⟩ := unsigned31_spec a
  obtain ⟨hle, hlt, hge⟩ := clz32_bounds (unsigned31 a)
  have hn : cls32 a = clz32 (unsigned31 a) - 1 := rfl
  have hpos : 1 ≤ clz32 (unsigned31 a) := by
    by_contra hzero
    have hbig := hge (by omega)
    rw [show 31 - clz32 (unsigned31 a) = 31 by omega] at hbig
    omega
  have hupper : ((unsigned31 a).toNat : Int) < 2 ^ (31 - cls32 a) := by
    rw [hn, show 31 - (clz32 (unsigned31 a) - 1) = 32 - clz32 (unsigned31 a) by omega]
    exact_mod_cast hlt
  have hlower (h : cls32 a < 31) : (2 : Int) ^ (30 - cls32 a) ≤ (unsigned31 a).toNat := by
    rw [hn, show 30 - (clz32 (unsigned31 a) - 1) = 31 - clz32 (unsigned31 a) by omega]
    exact_mod_cast hge (by omega)
  refine ⟨by omega, ?_, ?_, fun h => ?_⟩
  · omega
  · omega
  · have := hlower h
    omega

/-! ### The instructions -/

section
variable {c : Core} {rd ra rb : Reg5} {s : State} {v : Word} (h : Ready c s)
include h

theorem aluR_gives {f : Word → Word → Word} (hv : f (s.dyn.rd c.val ra) (s.dyn.rd c.val rb) = v) :
    Answers (act (bronze c 0 (aluR c rd ra rb f)) s) (Retires c ((s.dyn.core c.val).withD rd v) none s) :=
  ((CoreLeft.issue c s).wd rd (by simpa using hv)).retires h rfl

theorem aluU_gives {f : Word → Word} (hv : f (s.dyn.rd c.val ra) = v) :
    Answers (act (bronze c 0 (aluU c rd ra 0 f)) s) (Retires c ((s.dyn.core c.val).withD rd v) none s) :=
  ((CoreLeft.issue c s).wd rd (by simpa using hv)).retires h rfl

theorem aluI_gives {imm : Half} {f : Word → Half → Word} (hv : f (s.dyn.rd c.val ra) imm = v) :
    Answers (act (bronze c 0 (aluI c rd ra imm f)) s) (Retires c ((s.dyn.core c.val).withD rd v) none s) :=
  ((CoreLeft.issue c s).wd rd (by simpa using hv)).retires h rfl

/-- An exact result, saturated to a word. -/
theorem aluSat_gives {f : Img → Dyn → Res} {x y : Int} (hf : f s.img (s.issue c) = aluSat c rd x (s.issue c))
    (hy : x = y) : Answers (act (bronze c 0 f) s)
      (Retires c (((s.dyn.core c.val).withDsat (clip32 y)).withD rd (clamp32 y)) none s) := by
  rw [← hy, ← clips_word]
  exact ((((CoreLeft.issue c s).countEv ..).dsat _).wd rd (ofInt_satN_word x)).retires h hf

/-- SHI with a legal immediate: its kind and its amount. -/
theorem execShi_gives {imm : Half} {kind n : Nat} (hkind : bits imm.toNat 15 14 = kind)
    (hzero : bits imm.toNat 13 5 = 0) (hn : bits imm.toNat 4 0 = n) (hlegal : kind ≠ 3)
    (hv : shiftImm kind (s.dyn.rd c.val ra) n = v) :
    Answers (exec (.shi c rd ra imm) s) (Retires c ((s.dyn.core c.val).withD rd v) none s) := by
  subst hkind hn
  refine ((CoreLeft.issue c s).wd rd hv).retires h ?_
  simp [legally, setD, hzero, hlegal]

end

theorem natAbs_eq_ite (x : Int) : (x.natAbs : Int) = if x < 0 then -x else x := by
  split_ifs <;> omega

/-- The fields of an immediate of SHI, from its kind in [15:14] and its amount. -/
theorem shiImm_fields {k n : Nat} (hk : k < 4) (hn : n < 32) : let imm := BitVec.ofNat 16 (k * 0x4000 + n)
    bits imm.toNat 15 14 = k ∧ bits imm.toNat 13 5 = 0 ∧ bits imm.toNat 4 0 = n := by
  simp only [bits, Nat.shiftRight_eq_div_pow, BitVec.toNat_ofNat]
  omega

end Sys2Proof.Machine
end

section
open Sys2Proof Sys2Proof.Machine

/-- Settles O1: an instruction is the register write that its own operation on the operands gives, or the saturated
write with its flag; the operations are the rules' in whole numbers. -/
theorem integerResults : Obligations.IntegerResults := by
  unfold Obligations.IntegerResults
  refine ⟨?register, ?immediate⟩
  case register =>
    intro c rd ra rb s h a b x gives sat
    obtain ⟨hclz, hclzLt, hclzGe⟩ := clz32_bounds a
    obtain ⟨hcls, hclsLow, hclsHigh, hclsSharp⟩ := cls32_bounds a
    exact ⟨aluR_gives h rfl, aluR_gives h rfl, aluSat_gives h rfl (by simp [a, b]),
      aluSat_gives h rfl (by simp [a, b]), aluR_gives h rfl, aluR_gives h rfl, aluR_gives h rfl, aluR_gives h rfl,
      aluR_gives h rfl, aluR_gives h rfl, aluR_gives h rfl, aluR_gives h (mul_eq_ofInt a b), aluR_gives h rfl,
      aluR_gives h rfl, aluR_gives h rfl, aluR_gives h rfl, aluR_gives h (min_eq_ofInt a b),
      aluR_gives h (max_eq_ofInt a b), aluSat_gives h rfl (by rw [natAbs_eq_ite, State.issue_rd]),
      aluU_gives h (signExtend_low_half a), aluU_gives h (low_half_eq_ofNat a),
      ⟨_, hclz, aluU_gives h rfl, hclzLt, hclzGe⟩, ⟨_, hcls, aluU_gives h rfl, hclsLow, hclsHigh, hclsSharp⟩⟩
  case immediate =>
    intro c rd ra imm s h a gives
    refine ⟨aluI_gives h (add_signExtend a imm), aluI_gives h rfl, aluI_gives h rfl, aluI_gives h rfl,
      ((CoreLeft.issue c s).wd rd rfl).retires h rfl, aluI_gives h (append_low_half a imm), aluI_gives h rfl,
      fun n hn => ?_⟩
    obtain ⟨hk0, hz0, hn0⟩ := shiImm_fields (k := 0) (by decide) hn
    obtain ⟨hk1, hz1, hn1⟩ := shiImm_fields (k := 1) (by decide) hn
    obtain ⟨hk2, hz2, hn2⟩ := shiImm_fields (k := 2) (by decide) hn
    rw [Nat.zero_mul, Nat.zero_add] at hk0 hz0 hn0
    exact ⟨execShi_gives h hk0 hz0 hn0 (by decide) rfl, execShi_gives h hk1 hz1 hn1 (by decide) rfl,
      execShi_gives h hk2 hz2 hn2 (by decide) rfl⟩

end

section
/-! PROOF. The pointer file, branches, jumps and REP (R188, R192, R209). -/

namespace Sys2Proof.Machine

/-! ### Words and addresses -/

theorem isFile16_of_lt {r : Reg5} (h : r.toNat < 16) : isFile16 r = true := decide_eq_true h

theorem append_eq_ofNat (a b : Word) :
    b.setWidth 16 ++ a = BitVec.ofNat 48 (b.toNat % 65536 * 2 ^ 32 + a.toNat) := by
  apply BitVec.eq_of_toNat_eq
  have ha := a.isLt
  rw [BitVec.toNat_append, BitVec.toNat_setWidth, ← Nat.shiftLeft_add_eq_or_of_lt ha, Nat.shiftLeft_eq,
    BitVec.toNat_ofNat]
  omega

theorem low_word_eq_ofNat (p : Addr) : p.setWidth 32 = BitVec.ofNat 32 (p.toNat % 2 ^ 32) := by
  apply BitVec.eq_of_toNat_eq
  simp

theorem high_word_eq_ofNat (p : Addr) : (p >>> 32).setWidth 32 = BitVec.ofNat 32 (p.toNat / 2 ^ 32) := by
  apply BitVec.eq_of_toNat_eq
  simp [Nat.shiftRight_eq_div_pow]

theorem sub_setWidth_eq_ofInt (p q : Addr) :
    (p - q).setWidth 32 = BitVec.ofInt 32 ((p.toNat : Int) - q.toNat) := by
  apply BitVec.eq_of_toNat_eq
  have hq := q.isLt
  rw [BitVec.toNat_setWidth, BitVec.toNat_sub, BitVec.toNat_ofInt]
  omega

theorem alignPc_eq_and (p : Addr) : alignPc p = p &&& ~~~3 := by
  have hshift : alignPc p = p >>> 2 <<< 2 := by
    apply BitVec.eq_of_toNat_eq
    simp [alignPc, Nat.shiftLeft_eq, Nat.shiftRight_eq_div_pow]
  rw [hshift]
  apply BitVec.eq_of_getLsbD_eq
  intro i hi
  have hbit : (3 : Addr).getLsbD i = decide (i < 2) := Nat.testBit_two_pow_sub_one 2 i
  rw [BitVec.getLsbD_and, BitVec.getLsbD_not, hbit, BitVec.getLsbD_shiftLeft, BitVec.getLsbD_ushiftRight]
  by_cases hlow : i < 2
  · simp [hlow]
  · simp [hlow, hi, Nat.le_of_not_lt hlow]

/-! ### Moves of the pointer file -/

section
variable {c : Core} {s : State} {fs : List Reg5} {g : Dyn → Dyn} {y : CoreSt} (h : Ready c s)
  (hfs : fs.all isFile16 = true) (hleft : CoreLeft c s (g (s.issue c)) y)
include h hfs hleft

theorem ptrOp_gives : Answers (act (bronze c 0 (ptrOp fs g)) s) (Retires c y none s) :=
  hleft.retires h (if_pos hfs)

/-- The same, with a reserved field of zero. -/
theorem ptrOp_gives_reserved :
    Answers (act (bronze c 0 (fun img d => legally (decide ((0 : Reg5) = 0)) d (ptrOp fs g img))) s)
      (Retires c y none s) :=
  hleft.retires h (if_pos hfs)

end

/-! ### Branches and jumps -/

section
variable {c : Core} {s : State}

theorem pcRel_issue (off : Int) : pcRel (s.issue c) c.val off = s.dyn.pc c.val + BitVec.ofInt 48 (4 * off) := by
  rw [pcRel, State.issue_pc]

/-- An instruction that leaves the core as `x` and goes to `v`. -/
theorem CoreLeft.jumps {e : Dyn} {x : CoreSt} {icls : Nat} {f : Img → Dyn → Res} {v w : Addr}
    (hleft : CoreLeft c s e x) (h : Ready c s) (hf : f s.img (s.issue c) = .done e (some v)) (hv : v = w) :
    Answers (act (bronze c icls f) s) (Retires c x (some w) s) :=
  hv ▸ hleft.retires h hf

/-- JALR writes P15 before it reads its pointer (log 111). -/
theorem rp_return_address (k : Nat) :
    ((s.issue c).wp c.val 15 (s.dyn.pc c.val + 4)).rp c.val k
      = if k = 15 then s.dyn.pc c.val + 4 else s.dyn.rp c.val k := by
  simp [Dyn.rp, CoreSt.withP]

variable (h : Ready c s)
include h

section
variable {ra : Reg5} {cond : BitVec 3} {off : BitVec 18}

/-- A branch whose condition has a test goes where the test says. -/
theorem execBr_goes (hcond : cond.toNat < 6 ∨ cond.toNat = 6 ∧ ra = 0) :
    Answers (exec (.br c ra cond off) s) (Retires c (s.dyn.core c.val)
      (if brTaken cond.toNat (s.dyn.rd c.val ra)
        then some (s.dyn.pc c.val + BitVec.ofInt 48 (4 * off.toInt)) else none) s) := by
  have hlegal : (decide (cond.toNat ≠ 7) && (decide (cond.toNat ≠ 6) || decide (ra = 0))) = true := by
    simp only [Bool.and_eq_true, Bool.or_eq_true, decide_eq_true_eq]
    rcases hcond with hlt | ⟨heq, hra⟩
    · exact ⟨by omega, .inl (by omega)⟩
    · exact ⟨by omega, .inr hra⟩
  rw [← State.issue_rd s c, ← sx_toNat (by decide), ← pcRel_issue]
  exact (CoreLeft.issue c s).retires h (if_pos hlegal)

theorem execBr_branches {p : Prop} [Decidable p] (hcond : cond.toNat < 6)
    (hp : brTaken cond.toNat (s.dyn.rd c.val ra) = decide p) :
    (p → Answers (exec (.br c ra cond off) s) (Retires c (s.dyn.core c.val)
      (some (s.dyn.pc c.val + BitVec.ofInt 48 (4 * off.toInt))) s))
    ∧ (¬ p → Answers (exec (.br c ra cond off) s) (Retires c (s.dyn.core c.val) none s)) := by
  have hgoes := execBr_goes (ra := ra) (off := off) h (.inl hcond)
  rw [hp] at hgoes
  constructor
  · intro htaken
    rwa [if_pos (decide_eq_true htaken)] at hgoes
  · intro hnot
    rwa [if_neg (by simpa using hnot)] at hgoes

end

end

/-! ### REP -/

/-- REP of `n` iterations starts (R192). -/
def repStart (n : Nat) (x : CoreCtl) : CoreCtl :=
  { x with rc := BitVec.ofNat 17 n, repDone := 0, status := { x.status with inrep := true } }

/-- What REP does, with its count in its field or in a register. -/
def repOp (c : Core) (ra : Reg5) (imm : Bool) (rsv : BitVec 4) (count : Half) (body : Word) (d : Dyn) : Res :=
  let n := if imm then count.toNat + 1 else (d.rd c.val ra).toNat
  legally (decide (rsv = 0) && (if imm then decide (ra = 0) else decide (count = 0))
      && decide (n ≤ 65536) && !repBodyIllegal body) d
    (fun d => if n = 0 then .done d (some (d.pc c.val + 8)) else .done (d.onCtl c.val (repStart n)) none)

theorem execRep_eq (c : Core) (ra : Reg5) (imm : Bool) (rsv : BitVec 4) (count : Half) (body : Word) (s : State) :
    exec (.rep c ra imm rsv count body) s = act (bronze c 4 (fun _ => repOp c ra imm rsv count body)) s := rfl

section
variable {c : Core} {ra : Reg5} {imm : Bool} {rsv : BitVec 4} {count : Half} {body : Word} {d : Dyn}

theorem repOp_bad_body (h : repBodyIllegal body = true) : repOp c ra imm rsv count body d = .exc d excIllegal := by
  simp [repOp, legally, h]

theorem repOp_long (h : 65536 < (d.rd c.val ra).toNat) : repOp c ra false 0 0 body d = .exc d excIllegal := by
  simp [repOp, legally, h]

variable (hbody : repBodyIllegal body = false)
include hbody

theorem repOp_immediate :
    repOp c 0 true 0 count body d = .done (d.onCtl c.val (repStart (count.toNat + 1))) none := by
  have hcount : count.toNat + 1 ≤ 65536 := count.isLt
  simp [repOp, legally, hbody, hcount]

theorem repOp_skips (h : (d.rd c.val ra).toNat = 0) :
    repOp c ra false 0 0 body d = .done d (some (d.pc c.val + 8)) := by
  simp [repOp, legally, hbody, h]

theorem repOp_register (hpos : 0 < (d.rd c.val ra).toNat) (hle : (d.rd c.val ra).toNat ≤ 65536) :
    repOp c ra false 0 0 body d = .done (d.onCtl c.val (repStart (d.rd c.val ra).toNat)) none := by
  simp [repOp, legally, hbody, hle, hpos.ne']

end

/-- An instruction that starts a REP and is done. -/
theorem repStart_retires {c : Core} {s : State} {icls n : Nat} {f : Img → Dyn → Res} (h : Ready c s)
    (hf : f s.img (s.issue c) = .done ((s.issue c).onCtl c.val (repStart n)) none) :
    Answers (act (bronze c icls f) s)
      (Retires c { s.dyn.core c.val with ctl := repStart n (s.dyn.core c.val).ctl } none s) :=
  ((CoreLeft.issue c s).onCtl _).retires h hf

/-- The core after an instruction retires inside a REP with no jump: one iteration fewer is left, and the next
instruction is the body again, or what follows when none is left (R192). -/
theorem retire_core_inrep (d : Dyn) (c icls : Nat) (pl : Priv) : (retire d c icls pl true none).core c =
    let x := d.core c
    let ctl := { x.ctl with rc := BitVec.ofNat 17 (x.ctl.rc.toNat - 1), repDone := x.ctl.repDone + 1 }
    if x.ctl.rc.toNat ≤ 1 then
      { x with regs := { x.regs with pc := x.regs.pc + 4 }, ctl := { ctl with status := { ctl.status with inrep := false } } }
    else { x with ctl := ctl } := by
  unfold retire nextPc
  by_cases hlast : (d.core c).ctl.rc.toNat ≤ 1
  · simp [hlast, Nat.sub_eq_zero_of_le hlast, Dyn.wpc, Dyn.onStatus, Dyn.pc]
  · simp [hlast, show (d.core c).ctl.rc.toNat - 1 ≠ 0 by omega]

theorem retire_inrep (d : Dyn) (c icls : Nat) (pl : Priv) :
    let x := (d.core c).ctl
    let t := retire d c icls pl true none
    let y := (t.core c).ctl
    y.rc = BitVec.ofNat 17 (x.rc.toNat - 1) ∧ y.repDone = x.repDone + 1
    ∧ (x.rc.toNat ≤ 1 → t.pc c = d.pc c + 4 ∧ y.status.inrep = false)
    ∧ (1 < x.rc.toNat → t.pc c = d.pc c ∧ y.status.inrep = x.status.inrep)
    ∧ (t.core c).regs.d = (d.core c).regs.d ∧ (t.core c).regs.p = (d.core c).regs.p := by
  dsimp only
  rw [Dyn.pc, Dyn.pc, retire_core_inrep]
  by_cases hlast : (d.core c).ctl.rc.toNat ≤ 1
  · simp [hlast, Nat.not_lt.mpr hlast]
  · simp [hlast]

/-- Every instruction of a core runs at its boundary, with its own class and meaning. -/
theorem onCore_bronze {i : Instr} {c : Core} (h : onCore i = some c) :
    ∃ (icls : Nat) (f : Img → Dyn → Res), ∀ s, exec i s = act (bronze c icls f) s := by
  cases i <;> cases h <;> exact ⟨_, _, fun _ => rfl⟩

end Sys2Proof.Machine
end

section
open Sys2Proof Sys2Proof.Machine

/-- Settles O2: each move is one register write, of a value that the operands give. -/
theorem pointerFileResults : Obligations.PointerFileResults := by
  unfold Obligations.PointerFileResults
  intro c rd ra rb s h x gives
  have hleft := CoreLeft.issue c s
  have hone {r : Reg5} (hr : r.toNat < 16) : [r].all isFile16 = true := by simp [isFile16_of_lt hr]
  have htwo {p q : Reg5} (hp : p.toNat < 16) (hq : q.toNat < 16) : [p, q].all isFile16 = true := by
    simp [isFile16_of_lt hp, isFile16_of_lt hq]
  refine ⟨fun hd => ?toFile, fun ha => ?fromFile, fun hd ha => ?within, fun ha hb => ?difference⟩
  case toFile =>
    exact ⟨ptrOp_gives h (hone hd) (hleft.wp _ (by simp [append_eq_ofNat])),
      ptrOp_gives_reserved h (hone hd) (hleft.wl _ (by simp)),
      ptrOp_gives_reserved h (hone hd) (hleft.wm _ (by simp))⟩
  case fromFile =>
    exact ⟨ptrOp_gives_reserved h (hone ha) (hleft.wd _ (by simp [low_word_eq_ofNat])),
      ptrOp_gives_reserved h (hone ha) (hleft.wd _ (by simp [high_word_eq_ofNat])),
      ptrOp_gives_reserved h (hone ha) (hleft.wd _ (by simp)),
      ptrOp_gives_reserved h (hone ha) (hleft.wd _ (by simp))⟩
  case within =>
    exact ⟨ptrOp_gives h (htwo hd ha) (hleft.wp _ (by simp [BitVec.signExtend])),
      ptrOp_gives_reserved h (htwo hd ha) (hleft.wb _ (by simp)),
      ptrOp_gives_reserved h (htwo hd ha) (hleft.wp _ (by simp)),
      ptrOp_gives_reserved h (htwo hd ha) (hleft.wp _ (by simp))⟩
  case difference =>
    exact ptrOp_gives h (htwo ha hb) (hleft.wd _ (by simp [sub_setWidth_eq_ofInt]))

/-- Settles O3: a jump leaves the core as it is, or P15 the return address, and goes where its target says; a branch
goes where the test of its condition says. -/
theorem jumpResults : Obligations.JumpResults := by
  unfold Obligations.JumpResults
  intro c ra s h x pc at4 low goes v branch
  have hleft := CoreLeft.issue c s
  have htarget {n : Nat} (hn : n ≠ 0) (off : BitVec n) : pcRel (s.issue c) c.val (sx n off.toNat) = at4 off.toInt := by
    rw [pcRel_issue, sx_toNat hn]
  have hreturn : CoreLeft c s ((s.issue c).wp c.val 15 ((s.issue c).pc c.val + 4)) (x.withP 15 (pc + 4)) :=
    hleft.wp 15 (by simp [pc])
  refine ⟨fun off => ?jumps, fun off => ?branches, fun hra => ?pointers⟩
  case jumps =>
    exact ⟨hleft.jumps h rfl (htarget (by decide) off), hreturn.jumps h rfl (htarget (by decide) off)⟩
  case branches =>
    refine ⟨fun hra => (hleft.wp ra.toNat (htarget (by decide) off)).retires h (if_pos ?_),
      execBr_branches h (by decide) rfl, execBr_branches h (by decide) rfl, execBr_branches h (by decide) rfl,
      execBr_branches h (by decide) rfl, execBr_branches h (by decide) rfl, execBr_branches h (by decide) rfl,
      execBr_goes h (.inr ⟨rfl, rfl⟩)⟩
    simp [isFile16_of_lt hra]
  case pointers =>
    have hlegal : (decide ((0 : Reg5) = 0) && decide ((0 : Reg5) = 0) && isFile16 ra) = true := by
      simp [isFile16_of_lt hra]
    refine ⟨hleft.jumps h (if_pos hlegal) ?_, hreturn.jumps h (if_pos hlegal) ?_⟩
    · rw [alignPc_eq_and, State.issue_rp]
    · rw [alignPc_eq_and, State.issue_pc, rp_return_address]

/-- Settles O4: REP starts, skips or is refused by its count and its body; a retirement inside one is `retire`'s own
effect on RC and the PC; every instruction runs through `bronze`. -/
theorem repInstructions : Obligations.RepInstructions := by
  unfold Obligations.RepInstructions
  refine ⟨?starts, ?refused, ?retirement, fun i c => onCore_bronze, ?done⟩
  case starts =>
    intro c body s h hbody x started
    have hleft := CoreLeft.issue c s
    refine ⟨fun count => repStart_retires h (f := fun _ => repOp c 0 true 0 count body) (repOp_immediate hbody),
      fun ra => ?_⟩
    dsimp only
    rw [← State.issue_rd s c c.val ra]
    exact ⟨fun hzero => hleft.jumps h (repOp_skips hbody hzero) (by simp),
      fun hpos hle => repStart_retires h (f := fun _ => repOp c ra false 0 0 body) (repOp_register hbody hpos hle),
      fun hlong => bronze_raises h (repOp_long hlong)⟩
  case refused => exact fun c ra imm rsv count body s h hbody => bronze_raises h (repOp_bad_body hbody)
  case retirement =>
    intro d c icls pl hinrep
    obtain ⟨hrc, hdone, hlast, hmore, hd, hp⟩ := retire_inrep d c icls pl
    have hothers := (OnlyCoreDyn.retire c icls d pl true none).2
    exact ⟨hrc, hdone, hlast, fun h => ⟨(hmore h).1, (hmore h).2.trans hinrep⟩, hd, hp, hothers⟩
  case done =>
    intro c icls f s e goto h hf
    rw [State.issue_status]
    exact bronze_done h hf

end

section
/-! PROOF. Multiply-accumulate and accumulator instructions (R189 to R191). -/

namespace Sys2Proof.Machine

/-! ### An exact sum into an accumulator (R190) -/

/-- Saturation to 72 bits, with the numbers of the rule. -/
theorem satN_acc (v : Int) :
    satN 72 v = max (-2361183241434822606848) (min 2361183241434822606847 v) := satN_eq_clamp 72 v

theorem clips_acc (v : Int) : clips 72 v
    = (decide (v < -2361183241434822606848) || decide (2361183241434822606847 < v)) := clips_eq 72 v

theorem CoreLeft.putAcc {c : Core} {s : State} {e : Dyn} {x : CoreSt} (h : CoreLeft c s e x) (k : Nat) (sat : Bool)
    {v w : Int} (hv : v = w) : CoreLeft c s (putAcc e c.val k sat v) (x.sumInto k sat w) := by
  cases sat
  · exact h.wacc k (congrArg _ hv)
  · unfold CoreSt.sumInto
    rw [if_pos rfl, ← clips_acc, ← satN_acc, ← hv]
    exact (h.asat _).wacc k rfl

section
variable {c : Core} {s : State} (h : Ready c s)
include h

section
variable {acc : BitVec 3} {ra rb : Reg5} {frac sat : Bool}

/-- A real operation puts its exact sum into its accumulator. -/
theorem macReal_gives {f : Int → Int → Word → Word → Int} {v : Int}
    (hv : f (s.dyn.racc c.val acc.toNat).toInt (if frac then 2 else 1) (s.dyn.rd c.val ra) (s.dyn.rd c.val rb) = v) :
    Answers (act (bronze c 1 (macReal c acc ra rb frac sat 0 f)) s)
      (Retires c ((s.dyn.core c.val).sumInto acc.toNat sat v) none s) :=
  (((CoreLeft.issue c s).countEv ..).putAcc acc.toNat sat (by simpa using hv)).retires h rfl

/-- A complex operation puts its two exact sums into an even pair. -/
theorem macCplx_gives {f : Int → Int → Int → Word → Word → Int × Int} {re im : Int} (hpair : acc.toNat % 2 = 0)
    (hv : f (s.dyn.racc c.val acc.toNat).toInt (s.dyn.racc c.val (acc.toNat + 1)).toInt (if frac then 2 else 1)
      (s.dyn.rd c.val ra) (s.dyn.rd c.val rb) = (re, im)) :
    Answers (act (bronze c 1 (macCplx c acc ra rb frac sat 0 f)) s)
      (Retires c (((s.dyn.core c.val).sumInto acc.toNat sat re).sumInto (acc.toNat + 1) sat im) none s) := by
  have hv' : f ((s.issue c).racc c.val acc.toNat).toInt ((s.issue c).racc c.val (acc.toNat + 1)).toInt
      (if frac then 2 else 1) ((s.issue c).rd c.val ra) ((s.issue c).rd c.val rb) = (re, im) := by simpa using hv
  have hlegal : (decide ((0 : BitVec 7) = 0) && decide (acc.toNat % 2 = 0)) = true := by simp [hpair]
  exact ((((CoreLeft.issue c s).countEv ..).putAcc _ _ (congrArg Prod.fst hv')).putAcc _ _
    (congrArg Prod.snd hv')).retires h (if_pos hlegal)

end

/-! ### Reading and writing accumulators (R191) -/

theorem accOp_gives {ok : Bool} {g : Dyn → Dyn} {y : CoreSt} (hok : ok = true)
    (hleft : CoreLeft c s (g (s.issue c)) y) :
    Answers (act (bronze c 1 (accOp ok 0 g)) s) (Retires c y none s) :=
  hleft.retires h (if_pos (by simp [hok]))

end

/-- A result that may have clipped: it counts, DSAT is set, and the register is written (R191). -/
theorem CoreLeft.narrowed {c : Core} {s : State} {e : Dyn} {x : CoreSt} (h : CoreLeft c s e x) (icls : Nat) (rd : Reg5)
    {clip clip' : Bool} {v w : Word} (hclip : clip = clip') (hv : v = w) :
    CoreLeft c s (((countSat e c.val icls clip).dsat c.val clip).wd c.val rd v) ((x.withDsat clip').withD rd w) :=
  ((h.countEv ..).dsat _ |>.wd rd hv) |> (hclip ▸ ·)

/-- Half rounded up, by a shift of a field. -/
theorem roundShift_field (a : Int) (sh : BitVec 6) : roundShift a sh.toNat
    = if sh = 0 then a else (a + 2 ^ (sh.toNat - 1)) / 2 ^ sh.toNat := by
  have hzero : sh.toNat = 0 ↔ sh = 0 := by simp [BitVec.toNat_eq]
  simp [roundShift, hzero]

end Sys2Proof.Machine
end

section
open Sys2Proof Sys2Proof.Machine

/-- Settles O5: a multiply-accumulate is its exact sums put into the accumulators (`CoreLeft.putAcc`); a narrowing is
the rounded value within its bounds. -/
theorem accumulatorResults : Obligations.AccumulatorResults := by
  unfold Obligations.AccumulatorResults
  refine ⟨?multiply, ?accumulator⟩
  case multiply =>
    intro c acc ra rb frac sat s h a b k x n old old' i q gives pair
    exact ⟨macReal_gives h rfl, macReal_gives h rfl, macReal_gives h rfl, macReal_gives h rfl, fun hn =>
      ⟨macCplx_gives h hn rfl, macCplx_gives h hn rfl, macCplx_gives h hn rfl, macCplx_gives h hn rfl⟩⟩
  case accumulator =>
    intro c acc rd sh s h x n v w round clips' clamp gives
    have hleft := CoreLeft.issue c s
    have hround (k : Nat) : roundShift ((s.issue c).racc c.val k).toInt sh.toNat = round (s.dyn.racc c.val k) := by
      rw [State.issue_racc]; exact roundShift_field ..
    have hclip (bits k : Nat) : clips bits (roundShift ((s.issue c).racc c.val k).toInt sh.toNat)
        = clips' bits (round (s.dyn.racc c.val k)) := by rw [hround]; exact clips_eq ..
    have hsat (bits k : Nat) : satN bits (roundShift ((s.issue c).racc c.val k).toInt sh.toNat)
        = clamp bits (round (s.dyn.racc c.val k)) := by rw [hround]; exact satN_eq_clamp ..
    have hacc : (s.issue c).racc c.val n = v := State.issue_racc ..
    have hword : (s.issue c).rd c.val rd = w := State.issue_rd ..
    refine ⟨accOp_gives h rfl (hleft.narrowed 1 rd (hclip 32 n) (congrArg _ (hsat 32 n))),
      accOp_gives h rfl (hleft.narrowed 1 rd (hclip 16 n) (congrArg _ (hsat 16 n))),
      fun hn => accOp_gives h (decide_eq_true hn) (hleft.narrowed 1 rd
        (congrArg₂ or (hclip 16 n) (hclip 16 (n + 1)))
        (congrArg₂ (fun p q => BitVec.ofInt 16 p ++ BitVec.ofInt 16 q) (hsat 16 (n + 1)) (hsat 16 n))),
      accOp_gives h rfl (hleft.wacc n ?_), accOp_gives h rfl (hleft.wacc n rfl),
      accOp_gives h rfl (hleft.wacc n (congrArg _ (hround n))),
      accOp_gives h rfl (hleft.wd rd (congrArg (·.extractLsb' 0 32) hacc)),
      accOp_gives h rfl (hleft.wd rd (congrArg (·.extractLsb' 32 32) hacc)),
      accOp_gives h rfl (hleft.wd rd (congrArg (fun a => (a.extractLsb' 64 8).signExtend 32) hacc)),
      accOp_gives h rfl (hleft.wacc n (congrArg₂ (insAcc · · 0) hacc hword)),
      accOp_gives h rfl (hleft.wacc n (congrArg₂ (insAcc · · 1) hacc hword)),
      accOp_gives h rfl (hleft.wacc n (congrArg₂ (insAcc · · 2) hacc hword))⟩
    rw [hword]
    push_cast
    rfl

end

section
/-! PROOF. Scalar loads, stores and atomics of a core, and its local memory (R177, R183 to R186, R201, R208). -/

namespace Sys2Proof.Machine

/-! ### Issuing an instruction leaves what an access reads -/

theorem OnlyAccess.tasks {d e : Dyn} (h : OnlyAccess d e) : e.disp.tasks = d.disp.tasks := by
  have hdisp := congrArg (fun d : Dyn => d.disp.tasks) h
  exact hdisp

section
variable (s : State) (c : Core)

@[simp] theorem State.fetched_tasks : (s.fetched c).dyn.disp.tasks = s.dyn.disp.tasks := (fetch_only ..).tasks

@[simp] theorem State.issue_tasks : (s.issue c).disp.tasks = s.dyn.disp.tasks := State.fetched_tasks s c

@[simp] theorem State.issue_task (n : Nat) : (s.issue c).task n = s.dyn.task n := by
  rw [Dyn.task, State.issue_tasks]; rfl

@[simp] theorem State.issue_lockstepTask (k : Nat) : lockstepTask (s.issue c) k = lockstepTask s.dyn k := by
  unfold lockstepTask
  rw [State.issue_tasks, State.issue_core]
  by_cases hk : k = c.val
  · rw [if_pos hk, CoreSt.issued_tsk, hk]
  · rw [if_neg hk]

@[simp] theorem State.issue_addrForm (k : Nat) (pn : BitVec 4) (am : BitVec 3) (sz : BitVec 2) (off : BitVec 12) :
    (s.issue c).addrForm k pn am sz off = s.dyn.addrForm k pn am sz off := by
  simp [Dyn.addrForm]

@[simp] theorem State.issue_checkAccess (a : Addr) (n : Nat) :
    checkAccess (s.issue c) c.val a n = checkAccess s.dyn c.val a n := by
  have hbase (j : Nat) : (s.issue c).pwinBase c.val j = s.dyn.pwinBase c.val j := by simp [Dyn.pwinBase]
  have hlimit (j : Nat) : (s.issue c).pwinLimit c.val j = s.dyn.pwinLimit c.val j := by simp [Dyn.pwinLimit]
  simp only [checkAccess, accessDenied, Dyn.windows, hbase, hlimit, State.issue_status]

end

/-! ### A load or store in a legal form -/

section
variable (img : Img) (d : Dyn) (c : Core) (rd : Reg5) (pn : BitVec 4) (am : BitVec 3) (sz : BitVec 2) (off : BitVec 12)

/-- The machine as a load reads, counted. -/
def loadCounted : Dyn :=
  let f := d.addrForm c.val pn am sz off
  countCirc (countAccess d c.val 0x0105 f.addr.toNat) c.val pn f (2 ^ sz.toNat)

/-- What a load reads. -/
def loadRead : Dyn × Resp :=
  scalarLoad img (loadCounted d c pn am sz off) c (d.addrForm c.val pn am sz off).addr.toNat (2 ^ sz.toNat)

/-- The bytes of a store. -/
def storeBytes : List Byte := leBytes (2 ^ sz.toNat) (d.rd c.val rd).toNat

/-- The machine as a store writes, counted and signed. -/
def storeCounted : Dyn :=
  let f := d.addrForm c.val pn am sz off
  feedSig (countCirc (countAccess d c.val 0x0106 f.addr.toNat) c.val pn f (2 ^ sz.toNat)) c.val f.addr.toNat
    (storeBytes d c rd sz)

/-- What a store writes. -/
def storeWritten : Dyn × Resp :=
  scalarStore img (storeCounted d c rd pn am sz off) c (d.addrForm c.val pn am sz off).addr.toNat
    (storeBytes d c rd sz)

end

section
variable {img : Img} {d : Dyn} {c : Core} {rd : Reg5} {pn : BitVec 4} {am : BitVec 3} {sz : BitVec 2}
  {off : BitVec 12} (hlegal : (d.addrForm c.val pn am sz off).legal = true)
  (hcheck : checkAccess d c.val (d.addrForm c.val pn am sz off).addr (2 ^ sz.toNat) = none)
include hlegal hcheck

section
variable (hwaits : readWaits d c (d.addrForm c.val pn am sz off).addr.toNat = false)
include hwaits

/-- A load that is answered gives its register the bytes read. -/
theorem loadOp_done (signed : Bool) (h : (loadRead img d c pn am sz off).2.status < 2) :
    let m := loadRead img d c pn am sz off
    loadOp c rd pn am sz off signed img d
      = .done ((stepPtr m.1 c.val pn (d.addrForm c.val pn am sz off)).wd c.val rd
          (if signed then BitVec.ofInt 32 (sx (8 * 2 ^ sz.toNat) (leNat m.2.data))
            else BitVec.ofNat 32 (leNat m.2.data))) none := by
  unfold loadRead loadCounted at *
  simp [loadOp, legally, hlegal, hcheck, hwaits, Nat.not_le.mpr h]

/-- A load that is answered with an error fails. -/
theorem loadOp_failed (signed : Bool) (h : 2 ≤ (loadRead img d c pn am sz off).2.status) :
    let m := loadRead img d c pn am sz off
    loadOp c rd pn am sz off signed img d
      = loadFailed img m.1 c.val (d.addrForm c.val pn am sz off).addr.toNat m.2.status
          (fun d v => d.wd c.val rd (BitVec.ofNat 32 v)) := by
  unfold loadRead loadCounted at *
  simp [loadOp, legally, hlegal, hcheck, hwaits, h]

end

/-- A store is done whatever it is answered: an error is asynchronous (R199, R222). -/
theorem storeOp_done (hwaits : (d.addrForm c.val pn am sz off).addr.toNat < regBase
      ∨ regWaits d (.core c (d.status c.val).pl) ((d.addrForm c.val pn am sz off).addr.toNat - regBase) true = false) :
    let m := storeWritten img d c rd pn am sz off
    let f := d.addrForm c.val pn am sz off
    storeOp c rd pn am sz off img d
      = .done (stepPtr (if m.2.status < 2 then m.1 else storeFailed img m.1 c.val f.addr.toNat m.2.status)
          c.val pn f) none := by
  have hgoes : (decide (regBase ≤ (d.addrForm c.val pn am sz off).addr.toNat)
      && regWaits d (.core c (d.status c.val).pl) ((d.addrForm c.val pn am sz off).addr.toNat - regBase) true
      && !isShadow d c.val) = false := by
    rcases hwaits with hlow | hfree
    · simp [Nat.not_le.mpr hlow]
    · simp [hfree]
  unfold storeWritten storeCounted storeBytes
  dsimp only
  simp only [storeOp, legally, hlegal, hcheck, hgoes, if_true, Bool.false_eq_true, if_false]
  split
  · rw [if_neg (by omega)]
  · rw [if_pos (by omega)]

end

/-! ### The pointer after an access (R186) -/

section
variable {p b : Addr} {n : Nat} {step : Int}

theorem postModify_plain : postModify p b 0 step = p + BitVec.ofInt 48 step := rfl

/-- Inside a buffer that ends below 2^48 the pointer is the base plus the difference modulo the length. -/
theorem postModify_circular (hn : n ≠ 0) (hend : b.toNat + n ≤ 2 ^ 48) :
    ((postModify p b n step).toNat : Int) = b.toNat + ((p.toNat : Int) - b.toNat + step) % n := by
  have hlow : 0 ≤ ((p.toNat : Int) - b.toNat + step) % n := Int.emod_nonneg _ (by omega)
  have hhigh : ((p.toNat : Int) - b.toNat + step) % n < n := Int.emod_lt_of_pos _ (by omega)
  rw [postModify, if_neg hn, BitVec.toNat_add, BitVec.toNat_ofInt, ptrDiff]
  omega

end

/-- The pointer's move leaves the core, but for the one pointer register. -/
theorem CoreLeft.stepPtr {c : Core} {s : State} {e : Dyn} {x : CoreSt} (h : CoreLeft c s e x) (pn : BitVec 4)
    (f : AddrForm) :
    ∃ p, CoreLeft c s (stepPtr e c.val pn f) { x with regs := { x.regs with p := p } }
      ∧ ∀ k, k ≠ pn.toNat → Map.get 0 p k = Map.get 0 x.regs.p k := by
  unfold Machine.stepPtr
  split
  · exact ⟨_, h.wp pn.toNat rfl, fun k hk => Map.get_set_other _ _ _ _ _ hk⟩
  · exact ⟨x.regs.p, h, fun _ _ => rfl⟩

/-! ### Local memory (R177, R183) -/

theorem countAccess_counts (d : Dyn) (c ev a : Nat) : OnlyCounts d (countAccess d c ev a) :=
  OnlyCounts.trans (countEv_only ..) (sampleAccess_only ..)

theorem countCirc_counts (d : Dyn) (c : Nat) (pn : BitVec 4) (f : AddrForm) (n : Nat) :
    OnlyCounts d (countCirc d c pn f n) := countEv_only ..

theorem inLocal_lt {a : Nat} (h : inLocal a = true) : a < regBase := by
  simp only [inLocal, Bool.and_eq_true, decide_eq_true_eq] at h
  unfold regBase
  omega

theorem readWaits_low {d : Dyn} {c : Core} {a : Nat} (h : a < regBase) : readWaits d c a = false := by
  rw [readWaits, decide_eq_false (Nat.not_le.mpr h), Bool.false_and]

/-- The core after a store to its local memory: a word that is written whole has good parity again. -/
def CoreSt.storedLocal (a : Nat) (bytes : List Byte) (x : CoreSt) : CoreSt :=
  { x with
    local_ := Memory.writeN x.local_ a bytes
    parity := x.parity.filter (fun w => decide (4 * w < a) || decide (a + bytes.length < 4 * w + 4)) }

section
variable {img : Img} {d : Dyn} {c : Core} {a : Nat} (h : inLocal a = true)
include h

theorem scalarLoad_local {n : Nat} (hgood : ∀ w ∈ localWords a n, ¬ w ∈ (d.core c.val).parity) :
    scalarLoad img d c a n = (d, { status := 0, reason := 0, data := Memory.readN (d.core c.val).local_ a n }) := by
  have hnone : (localWords a n).any (fun w => (d.core c.val).parity.contains w) = false := by
    simpa using hgood
  rw [scalarLoad, if_neg (Nat.not_le.mpr (inLocal_lt h)), plainLoad, if_pos h,
    if_neg (Bool.eq_false_iff.mp hnone)]

theorem scalarLoad_parity {n : Nat} (hbad : ∃ w ∈ localWords a n, w ∈ (d.core c.val).parity) :
    scalarLoad img d c a n = (d, { status := parityStatus, reason := 0, data := [] }) := by
  have hsome : (localWords a n).any (fun w => (d.core c.val).parity.contains w) = true := by
    simpa using hbad
  rw [scalarLoad, if_neg (Nat.not_le.mpr (inLocal_lt h)), plainLoad, if_pos h, if_pos hsome]

theorem scalarStore_local (bytes : List Byte) :
    scalarStore img d c a bytes = (d.onCore c.val (CoreSt.storedLocal a bytes), Resp.ok) := by
  rw [scalarStore, if_neg (Nat.not_le.mpr (inLocal_lt h)), plainStore, if_pos h]
  rfl

end

theorem leBytes_length (n x : Nat) : (leBytes n x).length = n := by
  induction n generalizing x with
  | zero => rfl
  | succ n ih => simp [leBytes, ih]

section
variable {c : Core} {s : State} {e : Dyn} {x : CoreSt} (h : CoreLeft c s e x)
include h

theorem CoreLeft.storedLocal (a : Nat) (bytes : List Byte) :
    CoreLeft c s (e.onCore c.val (CoreSt.storedLocal a bytes)) (x.storedLocal a bytes) :=
  ⟨h.only.trans (.setCore ..), by rw [Dyn.onCore, Dyn.core_setCore, if_pos rfl, h.core]; rfl, h.pc⟩

theorem CoreLeft.onTsk (f : CoreTask → CoreTask) : CoreLeft c s (e.onTsk c.val f) { x with tsk := f x.tsk } :=
  ⟨h.only.trans (.setCore ..), by rw [Dyn.core_onTsk, if_pos rfl, h.core]; rfl, h.pc⟩

/-- Signing a store changes the core's signature at most (R140). -/
theorem CoreLeft.feedSig (a : Nat) (bytes : List Byte) :
    ∃ tsk, CoreLeft c s (feedSig e c.val a bytes) { x with tsk := tsk } := by
  unfold Machine.feedSig
  split
  · exact ⟨_, h.onTsk _⟩
  · exact ⟨x.tsk, h⟩

end

/-- A load of a word with bad parity waits, with CORE_PARITY raised on the core (log 138). -/
theorem parityFailed_waits (d : Dyn) (c a : Nat) : ∃ e, parityFailed d c a = .wait e ∧ e.cores = d.cores
    ∧ ∃ r ∈ e.disp.detects, r.unit = 0x0100 + c ∧ r.cond = 0x0101 := by
  unfold parityFailed
  split
  · next hraised =>
    obtain ⟨r, hr, hmatch⟩ := List.any_eq_true.mp hraised
    simp only [Bool.and_eq_true, beq_iff_eq] at hmatch
    exact ⟨d, rfl, rfl, r, hr, hmatch⟩
  · exact ⟨_, rfl, rfl, _, List.mem_append_right _ (List.mem_singleton_self _), rfl, rfl⟩

theorem srcSub_core (c : Core) : srcSub (0x0100 + c.val) = 1 := by
  have hc := c.isLt
  unfold srcSub
  omega

theorem srcInst_core (c : Core) : srcInst (0x0100 + c.val) = c.val := by
  have hc := c.isLt
  unfold srcInst
  omega

theorem parityStatus_error : 2 ≤ parityStatus := by decide

theorem loadFailed_parity (img : Img) (d : Dyn) (c a : Nat) (free : Dyn → Nat → Dyn) :
    loadFailed img d c a parityStatus free = parityFailed d c a := if_pos rfl

/-- CORE_PARITY on a core whose HACT is 1 halts it, wherever the failure lies (R201). -/
theorem detection_halts {img : Img} {d : Dyn} {c : Core} {a x : Nat} (hhact : (d.status c.val).hact = true)
    (hrun : (d.core c.val).tsk.run = .active) :
    detection img d (0x0100 + c.val) 0x0101 a x = parityHalt d c.val := by
  simp [detection, conditionHomes, conditionSource, detectOn, srcSub_core, srcInst_core, hhact, hrun]

/-- A core that halts keeps its registers and its local memory (R201). -/
theorem haltCore_core (d : Dyn) (c : Nat) (e : Exc) : ((haltCore d c e).core c).tsk.run = .halted
    ∧ ((haltCore d c e).core c).regs = (d.core c).regs ∧ ((haltCore d c e).core c).local_ = (d.core c).local_
    ∧ ∀ k, k ≠ c → (haltCore d c e).core k = d.core k := by
  unfold haltCore
  dsimp only
  have hevent (t : Option Nat) (l : List Byte) (k : Nat) : (eventTask d (coreSrc c) 6 0x0181 t l).core k = d.core k := by
    simp [eventTask, Dyn.core]
  have hraise (d : Dyn) (u cond a x k : Nat) : (raiseTask d u cond a x).core k = d.core k := rfl
  split
  · refine ⟨by simp, by simp [hevent, hraise], by simp [hevent, hraise], fun k hk => by simp [hevent, hraise, hk]⟩
  · refine ⟨by simp, by simp [hevent], by simp [hevent], fun k hk => by simp [hevent, hk]⟩

/-- A parity failure changes the parity marks of its core alone. -/
theorem markParity_core (d : Dyn) (u cond a k : Nat) :
    ∃ p, (markParity d u cond a).core k = { d.core k with parity := p } ∧ (k ≠ srcInst u → p = (d.core k).parity) := by
  unfold markParity
  split
  · by_cases hk : k = srcInst u
    · subst hk
      exact ⟨_, (Dyn.core_setCore ..).trans (if_pos rfl), fun hne => absurd rfl hne⟩
    · exact ⟨_, (Dyn.core_setCore ..).trans (if_neg hk), fun _ => rfl⟩
  · exact ⟨_, rfl, fun _ => rfl⟩

/-- The detection of CORE_PARITY on a core in its handler halts the core, and no other core changes (R201). -/
theorem parityDetection_halts {c : Core} {addr : Addr} {extra : Word} {s : State} (hup : islandUp s.dyn = true)
    (hlive : s.dyn.disp.halted = false) (hhact : (s.dyn.status c.val).hact = true)
    (hrun : (s.dyn.core c.val).tsk.run = .active) :
    Answers (exec (.taskDetection (BitVec.ofNat 16 (0x0100 + c.val)) 0x0101 addr extra) s) (fun t =>
      (t.dyn.core c.val).tsk.run = .halted ∧ t.dyn.issues c.val = false
      ∧ (t.dyn.core c.val).regs = (s.dyn.core c.val).regs ∧ (t.dyn.core c.val).local_ = (s.dyn.core c.val).local_
      ∧ ∀ k, k ≠ c.val → t.dyn.core k = s.dyn.core k) := by
  have hunit : (BitVec.ofNat 16 (0x0100 + c.val)).toNat = 0x0100 + c.val :=
    Nat.mod_eq_of_lt (by have := c.isLt; omega)
  have htakes := taskDetection_detects (u := BitVec.ofNat 16 (0x0100 + c.val)) (cond := 0x0101) (addr := addr)
    (extra := extra) hup hlive rfl (by decide)
  rw [hunit, show (0x0101 : Half).toNat = 0x0101 from rfl] at htakes
  have hmarks := markParity_core (dropDetect s.dyn { unit := 0x0100 + c.val, cond := 0x0101, addr, extra })
    (0x0100 + c.val) 0x0101 addr.toNat
  rw [srcInst_core] at hmarks
  generalize markParity _ (0x0100 + c.val) 0x0101 addr.toNat = d at htakes hmarks
  have hothers (k : Nat) (hk : k ≠ c.val) : d.core k = s.dyn.core k := by
    obtain ⟨marks, hmarked, hsame⟩ := hmarks k
    rw [hmarked, hsame hk]
    rfl
  obtain ⟨marks, hmarked, -⟩ := hmarks c.val
  rw [detection_halts (by rw [Dyn.status, hmarked]; exact hhact) (by rw [hmarked]; exact hrun)] at htakes
  obtain ⟨hhalted, hregs, hlocal, hrest⟩ := haltCore_core d c.val { code := 0, detail := 0, cond := 0x0101, addr := none }
  refine ⟨_, htakes, ?_, ?_, ?_, ?_, fun k hk => ?_⟩
  · rw [nextStep_core]; exact hhalted
  · simp [Dyn.issues, parityHalt, hhalted]
  · rw [nextStep_core]; exact hregs.trans (by rw [hmarked]; rfl)
  · rw [nextStep_core]; exact hlocal.trans (by rw [hmarked]; rfl)
  · rw [nextStep_core]; exact (hrest k hk).trans (hothers k hk)

/-- A core that issues runs and waits for nothing. -/
theorem issues_spec {d : Dyn} {c : Nat} (h : d.issues c = true) : (d.core c).tsk.run = .active
    ∧ (d.core c).tsk.waiting = false ∧ (d.core c).tsk.commit = none ∧ d.powered (coreSrc c) = true := by
  simpa [Dyn.issues, and_assoc] using h

/-! ### An instruction that reads or writes local memory -/

section
variable {c : Core} {rd : Reg5} {pn : BitVec 4} {am : BitVec 3} {sz : BitVec 2} {off : BitVec 12} {s : State}

/-- The form of a legal access to local memory that the checks allow. -/
structure LocalForm (c : Core) (pn : BitVec 4) (am : BitVec 3) (sz : BitVec 2) (off : BitVec 12) (s : State)
    (f : AddrForm) : Prop where
  form : (s.issue c).addrForm c.val pn am sz off = f
  legal : f.legal = true
  check : checkAccess (s.issue c) c.val f.addr (2 ^ sz.toNat) = none
  inLocal : inLocal f.addr.toNat = true

theorem loadCounted_left : CoreLeft c s (loadCounted (s.issue c) c pn am sz off) (s.dyn.core c.val) :=
  ((CoreLeft.issue c s).counts (countAccess_counts ..)).counts (countCirc_counts ..)

theorem loadCounted_core (c : Core) (pn : BitVec 4) (am : BitVec 3) (sz : BitVec 2) (off : BitVec 12) (s : State) :
    (loadCounted (s.issue c) c pn am sz off).core c.val = (s.dyn.core c.val).issued :=
  loadCounted_left.core

variable {f : AddrForm} (hform : LocalForm c pn am sz off s f) (h : Ready c s)
include hform

theorem LocalForm.legal_issue : ((s.issue c).addrForm c.val pn am sz off).legal = true := by
  rw [hform.form]; exact hform.legal

theorem LocalForm.check_issue :
    checkAccess (s.issue c) c.val ((s.issue c).addrForm c.val pn am sz off).addr (2 ^ sz.toNat) = none := by
  rw [hform.form]; exact hform.check

theorem LocalForm.lt : ((s.issue c).addrForm c.val pn am sz off).addr.toNat < regBase := by
  rw [hform.form]; exact inLocal_lt hform.inLocal

/-- What a load of local memory reads. -/
theorem LocalForm.reads {d : Dyn} {r : Resp}
    (hr : scalarLoad s.img (loadCounted (s.issue c) c pn am sz off) c f.addr.toNat (2 ^ sz.toNat) = (d, r)) :
    loadRead s.img (s.issue c) c pn am sz off = (d, r) := by
  rw [loadRead, hform.form]; exact hr

include h

/-- A load of a word whose parity failed does not complete: CORE_PARITY is raised, and the core keeps its registers. -/
theorem ldu_parity (hbad : ∃ w ∈ localWords f.addr.toNat (2 ^ sz.toNat), w ∈ (s.dyn.core c.val).parity) :
    Answers (exec (.ldu c rd pn am sz off) s) (fun t =>
      (∃ r ∈ t.dyn.disp.detects, r.unit = 0x0100 + c.val ∧ r.cond = 0x0101)
      ∧ (t.dyn.core c.val).regs = (s.dyn.core c.val).regs ∧ (t.dyn.core c.val).local_ = (s.dyn.core c.val).local_) := by
  have hread := hform.reads (scalarLoad_parity hform.inLocal (by rwa [loadCounted_core]))
  have hstatus : 2 ≤ (loadRead s.img (s.issue c) c pn am sz off).2.status := by
    rw [hread]
    exact parityStatus_error
  have hop := loadOp_failed (rd := rd) hform.legal_issue hform.check_issue (readWaits_low hform.lt) false hstatus
  simp only [hread, loadFailed_parity] at hop
  obtain ⟨e, hwait, hcores, hraised⟩ := parityFailed_waits (loadCounted (s.issue c) c pn am sz off) c.val
    ((s.issue c).addrForm c.val pn am sz off).addr.toNat
  have hcore : e.core c.val = (s.dyn.core c.val).issued := by
    rw [Dyn.core, hcores]; exact loadCounted_core ..
  refine ⟨_, bronze_waits h (hop.trans hwait), hraised, ?_, ?_⟩
  · rw [hcore]; rfl
  · rw [hcore]; rfl

/-- A load of good words gives the register the bytes, and moves the pointer at most. -/
theorem ldu_reads (hgood : ∀ w ∈ localWords f.addr.toNat (2 ^ sz.toNat), ¬ w ∈ (s.dyn.core c.val).parity) :
    ∃ p, Answers (exec (.ldu c rd pn am sz off) s) (Retires c
        (CoreSt.withD { s.dyn.core c.val with regs := { (s.dyn.core c.val).regs with p := p } } rd (BitVec.ofNat 32
          (leNat (Memory.readN (s.dyn.core c.val).local_ f.addr.toNat (2 ^ sz.toNat))))) none s)
      ∧ ∀ k, k ≠ pn.toNat → Map.get 0 p k = Map.get 0 (s.dyn.core c.val).regs.p k := by
  have hread := hform.reads (scalarLoad_local hform.inLocal (by rwa [loadCounted_core]))
  have hstatus : (loadRead s.img (s.issue c) c pn am sz off).2.status < 2 := by
    rw [hread]
    exact Nat.zero_lt_two
  have hop := loadOp_done (rd := rd) hform.legal_issue hform.check_issue (readWaits_low hform.lt) false hstatus
  simp only [hread, loadCounted_core] at hop
  obtain ⟨p, hstep, hp⟩ := (loadCounted_left (pn := pn) (am := am) (sz := sz) (off := off)).stepPtr pn
    ((s.issue c).addrForm c.val pn am sz off)
  exact ⟨p, (hstep.wd rd rfl).retires h hop, hp⟩

/-- A store writes the low bytes of its register, and moves the pointer at most. -/
theorem st_writes : ∃ tsk p, Answers (exec (.st c rd pn am sz off) s) (Retires c
      (CoreSt.storedLocal f.addr.toNat (leBytes (2 ^ sz.toNat) (s.dyn.rd c.val rd).toNat)
        { s.dyn.core c.val with tsk := tsk, regs := { (s.dyn.core c.val).regs with p := p } }) none s)
    ∧ ∀ k, k ≠ pn.toNat → Map.get 0 p k = Map.get 0 (s.dyn.core c.val).regs.p k := by
  obtain ⟨tsk, hsigned⟩ := (((CoreLeft.issue c s).counts (countAccess_counts _ c.val 0x0106 f.addr.toNat)).counts
    (countCirc_counts _ c.val pn f (2 ^ sz.toNat))).feedSig f.addr.toNat (storeBytes (s.issue c) c rd sz)
  have hop := storeOp_done (img := s.img) (rd := rd) hform.legal_issue hform.check_issue (.inl hform.lt)
  simp only [storeWritten, hform.form, scalarStore_local hform.inLocal, storeCounted] at hop
  obtain ⟨p, hstep, hp⟩ := (hsigned.storedLocal f.addr.toNat (storeBytes (s.issue c) c rd sz)).stepPtr pn f
  rw [storeBytes, State.issue_rd] at hop hstep
  exact ⟨tsk, p, hstep.retires h hop, hp⟩

end

/-! ### Atomics and fences (R206, R208) -/

/-- FENCE.I retires and leaves no block in the instruction cache. -/
theorem fenceI_empties {c : Core} {s : State} (h : Ready c s) : Answers (exec (.fenceI c 0) s) (fun t =>
    Retires c (s.dyn.core c.val) none s t ∧ (t.dyn.core c.val).lines = []) := by
  let e := (s.issue c).onCore c.val (fun x => { x with lines := [] })
  have hcore : e.core c.val = { (s.dyn.core c.val).issued with lines := [] } := by
    simp only [e, Dyn.onCore, Dyn.core_setCore, State.issue_core, if_true]
  let f : Img → Dyn → Res :=
    fun img d => fence 0 img (if (0 : BitVec 18) = 0 then d.onCore c.val (fun x => { x with lines := [] }) else d)
  have hf : f s.img (s.issue c) = .done e none := rfl
  obtain ⟨t, ht, hret⟩ := bronze_retires (icls := 7) h hf (.setCore ..) (by rw [hcore]; rfl)
    (by rw [hcore]; exact Nat.lt_succ_self _) (by rw [hcore]; exact fun k hk => absurd hk List.not_mem_nil)
  have hdone := bronze_done (icls := 7) h hf
  rw [Becomes, ht] at hdone
  cases hdone
  rw [hcore] at hret
  obtain ⟨pc, rc, n, b, hleft, -⟩ :=
    retire_core c.val 7 e (s.dyn.status c.val).pl (s.dyn.status c.val).inrep none
  exact ⟨_, ht, hret, by rw [hleft, hcore]⟩

theorem atomicOp_done {img : Img} {d : Dyn} {c : Core} {func : Nat} {rd ra rb : Reg5} (hra : ra.toNat < 16)
    (hsingle : lockstepTask d c.val = false) (hcheck : checkAccess d c.val (d.rp c.val ra.toNat) 4 = none)
    (hlocal : inLocal (d.rp c.val ra.toNat).toNat = false) (hmem : (d.rp c.val ra.toNat).toNat < regBase) :
    let m := memPacket img (sampleAccess d c.val (d.rp c.val ra.toNat).toNat) (coreSender d c.val)
      (d.rp c.val ra.toNat).toNat (.atomic func (d.rd c.val rb).toNat (d.rd c.val rd).toNat)
    m.2.status < 2 → atomicOp c func rd ra rb img d
      = .done (m.1.wd c.val rd (BitVec.ofNat 32 (leNat m.2.data))) none := by
  intro m hstatus
  simp [atomicOp, legally, isFile16_of_lt hra, hsingle, hcheck, hlocal, Nat.not_le.mpr hmem, Nat.not_le.mpr hstatus, m]

end Sys2Proof.Machine
end

section
open Sys2Proof Sys2Proof.Machine

/-- Settles O6: a load and a store are done with what the memory operation gives (`loadOp_done`, `storeOp_done`); inside
a circular buffer the pointer stays within its bounds. -/
theorem loadStoreResults : Obligations.LoadStoreResults := by
  unfold Obligations.LoadStoreResults
  refine ⟨?accesses, ?pointer⟩
  case accesses =>
    intro c rd pn am sz off s h d f size a st hlegal hcheck
    have hdone {icls : Nat} {g : Img → Dyn → Res} {e : Dyn} (hg : g s.img d = .done e none) :
        Becomes (act (bronze c icls g) s) s (retire e c.val icls st.pl st.inrep none) := by
      have hst : st = s.dyn.status c.val := State.issue_status ..
      rw [hst]
      exact bronze_done h hg
    refine ⟨fun hwaits hstatus => ?load, fun hwaits => ?store⟩
    case load =>
      have hsigned := loadOp_done (rd := rd) hlegal hcheck hwaits true hstatus
      have hunsigned := loadOp_done (rd := rd) hlegal hcheck hwaits false hstatus
      exact ⟨hdone hsigned, hdone hunsigned⟩
    case store =>
      have hstored := storeOp_done (img := s.img) (rd := rd) hlegal hcheck hwaits
      exact hdone hstored
  case pointer =>
    intro p b len step
    refine ⟨fun hlen => ?_, fun hlen hend => ?_⟩
    · subst hlen
      exact postModify_plain
    · have hn : len.toNat ≠ 0 := fun hzero => hlen (BitVec.eq_of_toNat_eq hzero)
      have hpos := postModify_circular (p := p) (step := step) hn hend
      have hlow : 0 ≤ ((p.toNat : Int) - b.toNat + step) % len.toNat := Int.emod_nonneg _ (by omega)
      have hhigh : ((p.toNat : Int) - b.toNat + step) % len.toNat < len.toNat := Int.emod_lt_of_pos _ (by omega)
      exact ⟨by omega, by omega, by omega⟩

/-- Settles O7: an access to local memory is the core's own bytes, read or written, and the rest of the core is as
before; a parity failure is raised and the load waits; the detection halts a core in its handler. -/
theorem localMemoryAccess : Obligations.LocalMemoryAccess := by
  unfold Obligations.LocalMemoryAccess
  intro c rd pn am sz off s h f size a x bad hlegal hcheck hlocal
  have hform : LocalForm c pn am sz off s f :=
    ⟨State.issue_addrForm .., hlegal, (State.issue_checkAccess ..).trans hcheck, hlocal⟩
  refine ⟨fun hbad => ldu_parity hform h hbad, fun hgood => ?load, ?store, fun addr extra hhact hlive => ?halt⟩
  case load =>
    obtain ⟨p, hreads, hp⟩ := ldu_reads (rd := rd) hform h hgood
    exact ⟨_, hreads, rfl, rfl, rfl, rfl, rfl, rfl, hp, rfl, rfl, rfl, rfl, rfl, rfl⟩
  case store =>
    obtain ⟨tsk, p, ⟨t, ht, honly, -, -, hcore, -⟩, hp⟩ := st_writes (rd := rd) hform h
    refine ⟨t, ht, honly, ?local_, fun b hb => ?bytes, ?d, ?acc, ?vec, ?port, fun k hk => ?pointers⟩
    case bytes =>
      rw [hcore]
      exact Memory.read_writeN_out _ _ _ _ (by rwa [leBytes_length])
    case pointers =>
      rw [Dyn.rp, hcore]
      exact hp k hk
    all_goals rw [hcore]; rfl
  case halt => exact parityDetection_halts h.1 hlive hhact (issues_spec h.2.1).1

/-- Settles O8: an atomic that is answered gives its register the answer's word; a fence is done as it is. -/
theorem atomicsAndFences : Obligations.AtomicsAndFences := by
  unfold Obligations.AtomicsAndFences
  refine ⟨?atomics, ?fences⟩
  case atomics =>
    intro c rd ra rb s h hra hsingle d p st hcheck hlocal hmem gives
    have hgives {i : Instr} {func : Nat} (hi : exec i s = act (bronze c 7 (atomicOp c func rd ra rb)) s) : gives i func := by
      intro hstatus
      have hst : st = s.dyn.status c.val := State.issue_status ..
      rw [hi, hst]
      exact bronze_done h (atomicOp_done hra (by rwa [State.issue_lockstepTask]) hcheck hlocal hmem hstatus)
    exact ⟨hgives rfl, hgives rfl, hgives rfl, hgives rfl, hgives rfl⟩
  case fences =>
    intro c s h
    have hleft := CoreLeft.issue c s
    exact ⟨hleft.retires h rfl, hleft.retires h rfl, fenceI_empties h⟩

end

section
/-! PROOF. Exceptions, ABORT and interrupts (R197 to R202): where each one takes the core. -/

namespace Sys2Proof.Machine

/-! ### What an instruction that does not retire leaves -/

theorem OnlyCoreDyn.raiseTask {c : Nat} {d e : Dyn} (h : OnlyCoreDyn c d e) (u cond a x : Nat) :
    OnlyCoreDyn c (raiseTask d u cond a x) (raiseTask e u cond a x) :=
  ⟨congrArg (Machine.raiseTask · u cond a x) h.1, h.2⟩

theorem OnlyCoreDyn.eq_with {c : Nat} {d e : Dyn} (h : OnlyCoreDyn c d e) :
    e = { d with cores := e.cores, perf := e.perf, free := e.free } := by
  have hrest := congrArg (fun x : Dyn => { x with cores := e.cores, perf := e.perf, free := e.free }) h.1
  exact hrest

section
variable {c : Core} {s : State} {e : Dyn} {x : CoreSt} (hleft : CoreLeft c s e x)
include hleft

theorem CoreLeft.issues {d : Dyn} (hd : OnlyCoreDyn c.val e d) {y : CoreSt}
    (hy : d.core c.val = y.clockOf (s.dyn.core c.val).issued) : CoreIssues c y s { s with dyn := d } :=
  ⟨.of_dyn (s := s.fetched c) (((OnlyCoreDyn.issueAt c.val _).trans hleft.only).trans hd), hy⟩

/-- An instruction that retires outside a REP leaves the core where it says. -/
theorem CoreLeft.issues_retired {icls : Nat} {f : Img → Dyn → Res} {goto : Option Addr} (h : Ready c s)
    (hf : f s.img (s.issue c) = .done e goto) (hrep : (s.dyn.status c.val).inrep = false) :
    Answers (act (bronze c icls f) s)
      (CoreIssues c { x with regs := { x.regs with pc := goto.getD (s.dyn.pc c.val + 4) } } s) := by
  refine ⟨_, bronze_done h hf, hleft.issues (.retire ..) ?_⟩
  obtain ⟨pc, rc, n, b, hcore, hnext⟩ :=
    retire_core c.val icls e (s.dyn.status c.val).pl (s.dyn.status c.val).inrep goto
  obtain ⟨rfl, rfl, rfl, rfl⟩ := hnext hrep
  have hpc : e.pc c.val = s.dyn.pc c.val := by rw [Dyn.pc, hleft.core]; exact hleft.pc
  rw [hcore, hpc, hleft.core]
  rfl

end

/-! ### Synchronous exceptions -/

@[simp] theorem sampleExc_status (d : Dyn) (c k : Nat) : (sampleExc d c).status k = d.status k := by
  rw [Dyn.status, sampleExc_core]; rfl

@[simp] theorem sampleExc_pc (d : Dyn) (c k : Nat) : (sampleExc d c).pc k = d.pc k := by
  rw [Dyn.pc, sampleExc_core]; rfl

section
variable {d : Dyn} {c : Nat} {e : Exc}

theorem syncException_enters (hhact : (d.status c).hact = false)
    (h : (d.status c).pl = .exec ∨ (d.core c).ctl.exmask.getLsbD e.code = true) :
    syncException d c e = takeException (sampleExc d c) c e (d.pc c) := by
  have hselected : ¬ ((d.status c).pl ≠ .exec && !bit (d.core c).ctl.exmask.toNat e.code) = true := by
    rcases h with hpl | hbit
    · simp [hpl]
    · simp [show bit (d.core c).ctl.exmask.toNat e.code = true from hbit]
  simp only [syncException, sampleExc_status, sampleExc_core, sampleExc_pc]
  rw [if_neg (Bool.eq_false_iff.mp hhact), if_neg hselected]

theorem syncException_aborts {n : Nat} (hhact : (d.status c).hact = false) (hpl : (d.status c).pl ≠ .exec)
    (hmask : (d.core c).ctl.exmask.getLsbD e.code = false) (htask : (d.core c).tsk.task = some n) :
    syncException d c e
      = takeAbort (raiseTask (sampleExc d c) (coreSrc c) 0x0104 (e.addr.getD 0).toNat 0) c 6 0x0104 := by
  have hunselected : ((d.status c).pl ≠ .exec && !bit (d.core c).ctl.exmask.toNat e.code) = true := by
    simp [hpl, show bit (d.core c).ctl.exmask.toNat e.code = false from hmask]
  simp only [syncException, sampleExc_status, sampleExc_core]
  rw [if_neg (Bool.eq_false_iff.mp hhact), if_pos hunselected, htask]

theorem syncException_halts (hhact : (d.status c).hact = true) :
    syncException d c e = haltCore (sampleExc d c) c e := by
  simp only [syncException, sampleExc_status]
  exact if_pos hhact

/-- With no task present a halt reports its cause, and that is all. -/
theorem haltCore_idle (htask : (d.core c).tsk.task = none) : haltCore d c e
    = (event d (coreSrc c) 6 0x0181 (leBytes 4 (causeWord e.code e.detail e.cond).toNat)).onTsk c
        (fun t => { t with run := .halted, waiting := false }) := by
  unfold haltCore
  rw [htask]
  rfl

end

section
variable {c : Core} {s : State}

/-- The machine as core `c` has issued, with the sample of an instruction that raises an exception. -/
theorem sampleExc_left : CoreLeft c s (sampleExc (s.issue c) c.val) (s.dyn.core c.val) :=
  (CoreLeft.issue c s).counts (sampleExc_only ..)

variable (h : Ready c s) {icls : Nat} {f : Img → Dyn → Res} {e : Exc} (hf : f s.img (s.issue c) = .exc (s.issue c) e)
include h hf

section
variable (hhact : (s.dyn.status c.val).hact = false)
include hhact

/-- An exception that is taken: at EXEC, or selected by EXMASK (R197). -/
theorem exception_enters (hsel : (s.dyn.status c.val).pl = .exec ∨ (s.dyn.core c.val).ctl.exmask.getLsbD e.code = true) :
    Answers (act (bronze c icls f) s) (CoreIssues c
      ((s.dyn.core c.val).entered e.code e.detail e.cond (s.dyn.core c.val).regs.pc e.addr) s) := by
  have hraises := bronze_raises (icls := icls) h hf
  rw [Raises, syncException_enters (by simpa using hhact) (by simpa using hsel)] at hraises
  refine ⟨_, hraises, sampleExc_left.issues (.takeException ..) ?_⟩
  rw [takeException_core, sampleExc_left.core, State.issue_pc]
  rfl

/-- An exception that EXMASK does not select, below EXEC with a task present (R199). -/
theorem exception_aborts {n : Nat} (hpl : (s.dyn.status c.val).pl ≠ .exec)
    (hmask : (s.dyn.core c.val).ctl.exmask.getLsbD e.code = false) (htask : (s.dyn.core c.val).tsk.task = some n) :
    Answers (act (bronze c icls f) s) (IssuesFrom
      { s with dyn := raiseTask (s.fetched c).dyn (0x0100 + c.val) 0x0104 (e.addr.getD 0).toNat 0 } c
      ((s.dyn.core c.val).aborted.entered 0x20 6 0x0104 (s.dyn.core c.val).regs.pc none) s) := by
  have hraises := bronze_raises (icls := icls) h hf
  rw [Raises, syncException_aborts (by simpa using hhact) (by simpa using hpl) (by simpa using hmask)
    (by simpa using htask)] at hraises
  have honly := ((OnlyCoreDyn.issueAt c.val (s.fetched c).dyn).trans sampleExc_left.only).raiseTask (coreSrc c.val) 0x0104
    (e.addr.getD 0).toNat 0
  refine ⟨_, hraises, ⟨rfl, rfl, (honly.trans (.takeAbort ..)).1, (honly.trans (.takeAbort ..)).2⟩, ?_⟩
  have hcore : (raiseTask (sampleExc (s.issue c) c.val) (coreSrc c.val) 0x0104 (e.addr.getD 0).toNat 0).core c.val
      = (s.dyn.core c.val).issued := sampleExc_left.core
  rw [takeAbort_core, Dyn.pc, hcore]
  rfl

end

/-- An exception in a handler halts the core (R201): it reports the cause, and nothing else where no task is
present. -/
theorem exception_halts (hhact : (s.dyn.status c.val).hact = true) : Answers (act (bronze c icls f) s) (fun t =>
    (t.dyn.core c.val).tsk.run = .halted ∧ t.dyn.issues c.val = false
    ∧ (t.dyn.core c.val).regs = (s.dyn.core c.val).regs
    ∧ ((s.dyn.core c.val).tsk.task = none → t.dyn.disp = (s.fetched c).dyn.disp
        ∧ t.dyn = { event (s.fetched c).dyn (0x0100 + c.val) 6 0x0181
              (leBytes 4 (causeWord e.code e.detail e.cond).toNat) with
            cores := t.dyn.cores, perf := t.dyn.perf, free := t.dyn.free })) := by
  have hraises := bronze_raises (icls := icls) h hf
  rw [Raises, syncException_halts (by simpa using hhact)] at hraises
  obtain ⟨hhalted, hregs, -, -⟩ := haltCore_core (sampleExc (s.issue c) c.val) c.val e
  refine ⟨_, hraises, hhalted, by simp [Dyn.issues, hhalted], hregs.trans ?regs, fun htask => ?report⟩
  case regs => rw [sampleExc_left.core]; rfl
  case report =>
    have heq := ((OnlyCoreDyn.issueAt c.val (s.fetched c).dyn).trans sampleExc_left.only).eq_with
    have hnone : ((sampleExc (s.issue c) c.val).core c.val).tsk.task = none := by
      rw [sampleExc_left.core]; exact htask
    rw [haltCore_idle hnone]
    generalize sampleExc (s.issue c) c.val = d at heq
    generalize leBytes 4 (causeWord e.code e.detail e.cond).toNat = l
    generalize (s.fetched c).dyn = g at heq
    rw [event_only (d := g), event_of_same (d := g) (e := d) (by rw [heq]) (by rw [heq]), heq]
    exact ⟨rfl, rfl⟩

end

/-! ### ERET (R197) -/

/-- No iteration of the REP that ERET goes back to is left (log 134). -/
def CoreCtl.repOver (x : CoreCtl) : Bool := x.status.pinrep && decide (x.rc = 0)

/-- The control registers that ERET leaves. -/
def CoreCtl.returned (x : CoreCtl) : CoreCtl :=
  { x with
    repDone := if x.status.pinrep then x.repSaved else x.repDone
    status := { x.status with pl := x.status.ppl, inrep := x.status.pinrep && !x.repOver, hact := false } }

/-- Where ERET goes. -/
def CoreCtl.returnPc (x : CoreCtl) : Addr := if x.repOver then x.epc + 4 else x.epc

theorem eret_done {img : Img} {d : Dyn} {c : Core} (hpl : (d.status c.val).pl = .exec)
    (habort : (d.core c.val).tsk.abort = none) :
    eret c 0 img d = .done (d.onCtl c.val CoreCtl.returned) (some (d.core c.val).ctl.returnPc) := by
  simp only [eret, hpl, habort]
  rfl

theorem eret_privilege {img : Img} {d : Dyn} {c : Core} (hpl : (d.status c.val).pl ≠ .exec) :
    eret c 0 img d = .exc d excPrivilege := by
  rw [eret, if_neg (not_not_intro rfl), if_pos hpl]

theorem causeWord_toNat (code : Byte) : (causeWord 7 code.toNat 0).toNat = code.toNat * 256 + 7 := by
  have hlt := code.isLt
  rw [causeWord, BitVec.toNat_ofNat]
  omega

end Sys2Proof.Machine
end

section
open Sys2Proof Sys2Proof.Machine

/-- Settles O10: TRAP and BREAK raise their exceptions, which enter, abort or halt the core by its level, its mask and
HACT; ERET retires to what was saved. -/
theorem exceptions : Obligations.Exceptions := by
  unfold Obligations.Exceptions
  refine ⟨?enters, ?aborts, ?halts, ?returns⟩
  case enters =>
    intro c code s h hhact x
    exact ⟨exception_enters h (e := excTrap code.toNat) rfl hhact, exception_enters h (e := excBreak) rfl hhact⟩
  case aborts =>
    intro c code s n h hhact x hpl hmask htask
    exact exception_aborts h (e := excTrap code.toNat) rfl hhact hpl hmask htask
  case halts =>
    intro c code s h hhact
    have hanswers : Answers (exec (.trap c 0 code) s) _ := exception_halts h (e := excTrap code.toNat) rfl hhact
    obtain ⟨t, ht, hhalted, hissues, hregs, hreport⟩ := hanswers
    refine ⟨t, ht, hhalted, hissues, hregs, fun htask => ?_⟩
    rw [← causeWord_toNat]
    exact hreport htask
  case returns =>
    intro c s h hpl habort hrep x atEnd
    have hop : eret c 0 s.img (s.issue c)
        = .done ((s.issue c).onCtl c.val CoreCtl.returned) (some x.ctl.returnPc) := by
      rw [eret_done (by rwa [State.issue_status]) (by simpa using habort), State.issue_core, if_pos rfl]
      rfl
    exact ((CoreLeft.issue c s).onCtl CoreCtl.returned).issues_retired h (f := eret c 0) hop hrep

end

section
/-! PROOF. What a core takes at an instruction boundary (R192, R199, R200, R202), and doorbells (R210). -/

namespace Sys2Proof.Machine

/-! ### The boundary's order -/

theorem bit_land (a b k : Nat) : bit (Nat.land a b) k = (bit a k && bit b k) := Nat.testBit_and ..

/-- Bit 1 of IPEND is DOORBELL, bit 2 COUNTER. -/
theorem ipend_bits (d : Dyn) (c : Nat) :
    bit (ipend d c) 1 = decide ((d.core c).ctl.dbell ≠ 0) ∧ bit (ipend d c) 2 = counterPending d c := by
  have hbits : ∀ bell counter : Bool, bit ((if bell then 2 else 0) + (if counter then 4 else 0)) 1 = bell
      ∧ bit ((if bell then 2 else 0) + (if counter then 4 else 0)) 2 = counter := by decide
  simpa [ipend] using hbits (decide ((d.core c).ctl.dbell ≠ 0)) (counterPending d c)

section
variable {d : Dyn} {c : Nat}

theorem atBoundary_iff : atBoundary d c = true
    ↔ (d.core c).tsk.run = .active ∧ (d.core c).tsk.commit = none ∧ d.powered (coreSrc c) = true := by
  simp [atBoundary, and_assoc]

section
variable (hhact : (d.status c).hact = false)
include hhact

theorem hact_clear : ¬ (d.core c).ctl.status.hact = true := Bool.eq_false_iff.mp hhact

theorem boundaryEvent_abort {detail : Nat} {cond : Half} (h : (d.core c).tsk.abort = some (detail, cond)) :
    boundaryEvent d c = some (takeAbort d c detail cond.toNat) := by
  rw [boundaryEvent, if_neg (hact_clear hhact), h]

theorem boundaryEvent_storeErr (h : (d.core c).tsk.abort = none) {e : StoreErr} {rest : List StoreErr}
    (herrs : (d.core c).tsk.storeErrs = e :: rest) : boundaryEvent d c = some (takeStoreErr d c) := by
  rw [boundaryEvent, if_neg (hact_clear hhact), h, herrs]
  rfl

theorem boundaryEvent_none (h : (d.core c).tsk.abort = none) (herrs : (d.core c).tsk.storeErrs = []) :
    boundaryEvent d c = none := by
  rw [boundaryEvent, if_neg (hact_clear hhact), h, herrs]
  rfl

section
variable (hat : atBoundary d c = true)
include hat

theorem abortNow_takes {detail : Nat} {cond : Half} (h : (d.core c).tsk.abort = some (detail, cond)) :
    abortNow d c = takeAbort d c detail cond.toNat := by
  simp [abortNow, h, hat, hhact]

omit hhact in
/-- What the boundary has to take comes before an interrupt. -/
theorem interruptNow_boundary {e : Dyn} (h : boundaryEvent d c = some e) : interruptNow d c = e := by
  simp [interruptNow, hat, h]

/-- An enabled interrupt is taken where nothing comes before it, at the end of a group of iterations. -/
theorem interruptNow_takes (h : (d.core c).tsk.abort = none) (herrs : (d.core c).tsk.storeErrs = []) {code : Nat}
    (htake : takable d c = some code) (hrep : repBoundary d c = true) : interruptNow d c
      = takeException (d.onTsk c (fun t => { t with waiting := false })) c
          { code, detail := 0, cond := 0, addr := none } (d.pc c) := by
  simp [interruptNow, hat, boundaryEvent_none hhact h herrs, htake, hrep, Dyn.pc]

end

section
variable (hie : (d.status c).ie = true) (hsingle : lockstepTask d c = false)
include hie hsingle

/-- DOORBELL comes before COUNTER (R202). -/
theorem takable_eq : takable d c = if (d.core c).ctl.dbell ≠ 0 ∧ (d.core c).ctl.imask.getLsbD 1 = true then some 0x21
    else if counterPending d c = true ∧ (d.core c).ctl.imask.getLsbD 2 = true then some 0x22 else none := by
  have hfree : ((d.core c).ctl.status.ie && !(d.core c).ctl.status.hact && !lockstepTask d c) = true := by
    simp only [Dyn.status] at hie hhact
    simp [hie, hhact, hsingle]
  obtain ⟨hbell, hcounter⟩ := ipend_bits d c
  have hmask (k : Nat) : bit (d.core c).ctl.imask.toNat k = (d.core c).ctl.imask.getLsbD k := rfl
  rw [takable, if_pos hfree]
  simp only [bit_land, hbell, hcounter, hmask, Bool.and_eq_true, decide_eq_true_eq]

end
end

/-- An interrupt may be taken outside a REP, and inside one at the end of a group of 16 iterations (R192). -/
theorem repBoundary_group (h : (d.core c).ctl.status.inrep = true →
    (d.core c).ctl.repDone ≠ 0 ∧ (d.core c).ctl.repDone % 16 = 0) : repBoundary d c = true := by
  cases hrep : (d.core c).ctl.status.inrep
  · simp [repBoundary, hrep]
  · simp [repBoundary, hrep, h hrep]

/-- The core that a store error leaves (R199). -/
theorem takeStoreErr_core {e : StoreErr} {rest : List StoreErr} (h : (d.core c).tsk.storeErrs = e :: rest) :
    (takeStoreErr d c).core c
      = CoreSt.entered { d.core c with tsk := { (d.core c).tsk with storeErrs := rest, waiting := false } } 5
          (b2n e.store + 4 * e.kind) 0 (d.pc c) (some e.addr) := by
  rw [takeStoreErr, h]
  simp [takeException_core, excData, Dyn.pc]

theorem OnlyCoreDyn.takeStoreErr : OnlyCoreDyn c d (takeStoreErr d c) := by
  unfold Machine.takeStoreErr
  split
  · exact .refl ..
  · exact (OnlyCoreDyn.setCore ..).trans (.takeException ..)

end

/-! ### The commands -/

section
variable {c : Core} {s : State} (hup : islandUp s.dyn = true)
include hup

theorem CoreBecomes.of_act {f : Img → Dyn → Dyn} {x : CoreSt} (honly : OnlyCoreDyn c.val s.dyn (f s.img s.dyn))
    (hx : (f s.img s.dyn).core c.val = x) : Answers (act f s) (CoreBecomes c x s) :=
  ⟨_, act_up hup, .of_dyn honly, hx⟩

section
variable (hat : atBoundary s.dyn c.val = true) (hhact : (s.dyn.status c.val).hact = false)
include hat hhact

/-- ABORT is taken, by its own command and in place of an interrupt (R200). -/
theorem abort_taken {detail : Nat} {cond : Half} (h : (s.dyn.core c.val).tsk.abort = some (detail, cond)) :
    Answers (exec (.abort c) s) (CoreBecomes c
      ((s.dyn.core c.val).aborted.entered 0x20 detail cond.toNat (s.dyn.core c.val).regs.pc none) s)
    ∧ exec (.interrupt c) s = exec (.abort c) s := by
  have htakes := abortNow_takes hhact hat h
  refine ⟨CoreBecomes.of_act (f := fun _ d => abortNow d c.val) hup ?only ?core, ?same⟩
  case only => exact htakes ▸ OnlyCoreDyn.takeAbort ..
  case core => exact htakes ▸ takeAbort_core ..
  case same =>
    change act (fun _ d => interruptNow d c.val) s = act (fun _ d => abortNow d c.val) s
    rw [act_up hup, act_up hup, htakes, interruptNow_boundary hat (boundaryEvent_abort hhact h)]

section
variable (habort : (s.dyn.core c.val).tsk.abort = none)
include habort

/-- A store error is taken, by its own command and in place of an interrupt (R199). -/
theorem storeErr_taken {e : StoreErr} {rest : List StoreErr} (h : (s.dyn.core c.val).tsk.storeErrs = e :: rest) :
    Answers (exec (.storeDataError c) s) (CoreBecomes c
      (CoreSt.entered { s.dyn.core c.val with tsk := { (s.dyn.core c.val).tsk with storeErrs := rest, waiting := false } }
        5 (b2n e.store + 4 * e.kind) 0 (s.dyn.core c.val).regs.pc (some e.addr)) s)
    ∧ exec (.interrupt c) s = exec (.storeDataError c) s := by
  let f : Img → Dyn → Dyn := fun _ d =>
    if atBoundary d c.val && !(d.status c.val).hact && (d.core c.val).tsk.abort.isNone then takeStoreErr d c.val else d
  have htakes : f s.img s.dyn = takeStoreErr s.dyn c.val := by simp [f, hat, hhact, habort]
  refine ⟨CoreBecomes.of_act (f := f) hup ?only ?core, ?same⟩
  case only => exact htakes ▸ OnlyCoreDyn.takeStoreErr
  case core => exact htakes ▸ takeStoreErr_core h
  case same =>
    change act (fun _ d => interruptNow d c.val) s = act f s
    rw [act_up hup, act_up hup, htakes, interruptNow_boundary hat (boundaryEvent_storeErr hhact habort h)]

/-- An enabled interrupt is taken (R202). -/
theorem interrupt_taken (herrs : (s.dyn.core c.val).tsk.storeErrs = []) {code : Nat}
    (htake : takable s.dyn c.val = some code) (hrep : repBoundary s.dyn c.val = true) :
    Answers (exec (.interrupt c) s) (CoreBecomes c
      (CoreSt.entered { s.dyn.core c.val with tsk := { (s.dyn.core c.val).tsk with waiting := false } } code 0 0
        (s.dyn.core c.val).regs.pc none) s) := by
  have htakes := interruptNow_takes hhact hat habort herrs htake hrep
  refine CoreBecomes.of_act (f := fun _ d => interruptNow d c.val) hup ?only ?core
  case only => exact htakes ▸ (OnlyCoreDyn.setCore ..).trans (.takeException ..)
  case core =>
    refine (congrArg (Dyn.core · c.val) htakes).trans ?_
    simp [takeException_core, Dyn.pc]

end
end

/-- A doorbell write of a core at EXEC or TASK or of a host sets bits (R210). -/
theorem doorbell_sets {m : Master} {v : Word} (hm : m.isTaskOrHost = true) :
    Answers (exec (.doorbell m c v) s) (CoreBecomes c { s.dyn.core c.val with
      ctl := { (s.dyn.core c.val).ctl with dbell := (s.dyn.core c.val).ctl.dbell ||| v } } s) := by
  have hsets : doorbell s.dyn m c.val v = s.dyn.onCtl c.val (fun y => { y with dbell := y.dbell ||| v }) := if_pos hm
  refine CoreBecomes.of_act (f := fun _ d => doorbell d m c.val v) hup ?only ?core
  case only => exact hsets ▸ OnlyCoreDyn.onCtl ..
  case core => exact hsets ▸ (Dyn.core_onCtl ..).trans (if_pos rfl)

theorem doorbell_ignored {m : Master} {v : Word} (hm : m.isTaskOrHost = false) :
    exec (.doorbell m c v) s = .next s := by
  have hsame : doorbell s.dyn m c.val v = s.dyn := if_neg (Bool.eq_false_iff.mp hm)
  exact act_becomes (f := fun _ d => doorbell d m c.val v) hup hsame

end

/-! ### An entry, by what its handler sees -/

/-- What an asynchronous entry with cause code `code` shows of the core `x` that it interrupted, when it saved
INREP as `rep` (R197). -/
def EntersFrom (o : Out) (c : Core) (x : CoreSt) (code : Nat) (rep : Bool) (s : State) : Prop := ∃ t, o = .next t
  ∧ t.dyn.pc c.val = x.ctl.vbase + BitVec.ofNat 48 (64 * code)
  ∧ (t.dyn.core c.val).ctl.epc = x.regs.pc ∧ (t.dyn.core c.val).ctl.cause.toNat % 256 = code
  ∧ (t.dyn.status c.val).pl = .exec ∧ (t.dyn.status c.val).ppl = x.ctl.status.pl
  ∧ (t.dyn.status c.val).hact = true ∧ (t.dyn.status c.val).pinrep = rep
  ∧ (t.dyn.core c.val).regs.d = x.regs.d ∧ (∀ k, k ≠ c.val → t.dyn.core k = s.dyn.core k)

theorem causeWord_code {code : Nat} (h : code < 256) (detail cond : Nat) :
    (causeWord code detail cond).toNat % 256 = code := by
  rw [causeWord, BitVec.toNat_ofNat]
  omega

theorem CoreBecomes.enters {o : Out} {c : Core} {y : CoreSt} {code detail cond : Nat} {eaddr : Option Addr} {s : State}
    (h : Answers o (CoreBecomes c (y.entered code detail cond y.regs.pc eaddr) s)) (hcode : code < 256)
    {rep : Bool} (hrep : y.ctl.status.inrep = rep) : EntersFrom o c y code rep s := by
  obtain ⟨t, ht, ⟨-, -, -, hothers⟩, hcore⟩ := h
  subst hrep
  refine ⟨t, ht, ?pc, ?epc, ?cause, ?pl, ?ppl, ?hact, ?pinrep, ?d, hothers⟩
  case cause => rw [hcore]; exact causeWord_code hcode detail cond
  all_goals simp only [Dyn.pc, Dyn.status, hcore]; rfl

end Sys2Proof.Machine
end

section
open Sys2Proof Sys2Proof.Machine

/-- Settles O13: the boundary takes ABORT, then a store error, then an enabled interrupt, by their own commands; a
doorbell write sets bits. -/
theorem boundaryEvents : Obligations.BoundaryEvents := by
  unfold Obligations.BoundaryEvents
  intro c s hup x free
  refine ⟨?abort, ?storeErr, ?interrupts, fun m v hm => doorbell_sets hup hm⟩
  case abort => exact fun detail cond ⟨hat, hhact⟩ habort => abort_taken hup hat hhact habort
  case storeErr => exact fun e rest ⟨hat, hhact⟩ habort herrs => storeErr_taken hup hat hhact habort herrs
  case interrupts =>
    intro ⟨hat, hhact⟩ habort herrs hie hsingle hrep y
    have htake := takable_eq hhact hie hsingle
    have hbound := repBoundary_group (fun h => absurd h (Bool.eq_false_iff.mp hrep))
    refine ⟨fun hbell hmask => interrupt_taken hup hat hhact habort herrs (htake.trans (if_pos ⟨hbell, hmask⟩)) hbound,
      fun hbell hcounter hmask => interrupt_taken hup hat hhact habort herrs ?_ hbound⟩
    rw [htake, if_neg (fun h => h.1 hbell), if_pos ⟨hcounter, hmask⟩]

/-- Settles O14: each entry is one of the boundary's (`abort_taken`, `storeErr_taken`, `interrupt_taken`), by what its
handler sees of it. -/
theorem asynchronousEntries : Obligations.AsynchronousEntries := by
  unfold Obligations.AsynchronousEntries
  intro c s hup x enters boundary
  refine ⟨?abort, ?storeErr, ?interrupt, fun m v hm => ?doorbell, fun m v hm => doorbell_ignored hup hm⟩
  case abort =>
    rintro ⟨hrun, hcommit, hpower, hhact⟩ habort
    obtain ⟨⟨detail, cond⟩, habort⟩ := Option.ne_none_iff_exists'.mp habort
    have htaken := (abort_taken hup (atBoundary_iff.mpr ⟨hrun, hcommit, hpower⟩) hhact habort).1
    exact CoreBecomes.enters (y := x.aborted) htaken (by decide) (Bool.and_false _).symm
  case storeErr =>
    rintro ⟨hrun, hcommit, hpower, hhact⟩ habort herrs
    obtain ⟨e, rest, herrs⟩ := List.exists_cons_of_ne_nil herrs
    obtain ⟨htaken, hsame⟩ := storeErr_taken hup (atBoundary_iff.mpr ⟨hrun, hcommit, hpower⟩) hhact habort herrs
    have henters := CoreBecomes.enters htaken (by decide) (Bool.and_true _).symm
    refine ⟨henters, ?_⟩
    rw [← hsame] at henters
    exact henters
  case interrupt =>
    rintro ⟨hrun, hcommit, hpower, hhact⟩ habort herrs hie hsingle hrep hbell hmask
    have htake := (takable_eq hhact hie hsingle).trans (if_pos ⟨hbell, hmask⟩)
    have htaken := interrupt_taken hup (atBoundary_iff.mpr ⟨hrun, hcommit, hpower⟩) hhact habort herrs htake
      (repBoundary_group hrep)
    exact CoreBecomes.enters htaken (by decide) (Bool.and_true _).symm
  case doorbell =>
    obtain ⟨t, ht, ⟨-, -, -, hothers⟩, hcore⟩ := doorbell_sets (c := c) (v := v) hup hm
    exact ⟨t, ht, by rw [hcore], by rw [hcore], hothers⟩

end

section
/-! PROOF. The task instructions (R193 to R195): their checks, TWAIT, TCOMMIT and TFAULT. -/

namespace Sys2Proof.Machine

/-! ### TCOMMIT (R194) -/

/-- The result words of TCOMMIT, from the four registers at `ra`. -/
def commitResult (d : Dyn) (c : Nat) (ra : Reg5) : List Byte :=
  leBytes 4 (d.rd c ra).toNat ++ leBytes 4 (d.rd c (ra + 1)).toNat ++ leBytes 4 (d.rd c (ra + 2)).toNat
    ++ leBytes 4 (d.rd c (ra + 3)).toNat

theorem commitResult_eq (d : Dyn) (c : Nat) (ra : Reg5) :
    ((List.range 4).map (fun k => leBytes 4 (d.rd c (BitVec.ofNat 5 (ra.toNat + k))).toNat)).flatten
      = commitResult d c ra := by
  have hreg (k : Nat) : BitVec.ofNat 5 (ra.toNat + k) = ra + BitVec.ofNat 5 k := by
    rw [BitVec.ofNat_add, BitVec.ofNat_toNat, BitVec.setWidth_eq]
  simp [hreg, commitResult, List.range_succ]

@[simp] theorem State.issue_commitResult (s : State) (c : Core) (ra : Reg5) :
    commitResult (s.issue c) c.val ra = commitResult s.dyn c.val ra := by
  simp [commitResult]

/-- A TCOMMIT is recorded with the core's task. -/
def CoreTask.committing (k : Commit) (t : CoreTask) : CoreTask := { t with commit := some k }
def CoreSt.committing (k : Commit) (x : CoreSt) : CoreSt := { x with tsk := x.tsk.committing k }

/-- What TCOMMIT records: the final state, its RD and the four result words. -/
def commitOf (d : Dyn) (c : Nat) (rd ra : Reg5) (final : Nat) : Commit :=
  { final, rd := rd.toNat, result := commitResult d c ra }

@[simp] theorem State.issue_commitOf (s : State) (c : Core) (rd ra : Reg5) (final : Nat) :
    commitOf (s.issue c) c.val rd ra final = commitOf s.dyn c.val rd ra final := by
  simp [commitOf]

section
variable {img : Img} {d : Dyn} {c : Core} {rd ra : Reg5} {final : Nat} (hra : ra.toNat ≤ 28)
include hra

theorem tcommit_privilege (hpl : (d.status c.val).pl = .plugin) :
    tcommit c rd ra 0 final img d = .exc d excPrivilege := by
  simp [tcommit, Nat.not_lt.mpr hra, hpl]

section
variable (hpl : (d.status c.val).pl ≠ .plugin)
include hpl

theorem tcommit_taskOp (htask : (d.core c.val).tsk.task = none) :
    tcommit c rd ra 0 final img d = .exc d excTaskOp := by
  simp [tcommit, Nat.not_lt.mpr hra, hpl, htask]

theorem tcommit_waits (htask : (d.core c.val).tsk.task ≠ none) : tcommit c rd ra 0 final img d
    = .wait (settleCommit (d.onTsk c.val (CoreTask.committing (commitOf d c.val rd ra final))) c.val) := by
  simp [tcommit, Nat.not_lt.mpr hra, hpl, htask, commitResult_eq]
  rfl

end
end

/-- The commitment's effect on the core's task part. -/
theorem settleCommit_waits {d : Dyn} {c : Nat} (h : commitWaits d c = true ∨ taskLive d c = true) :
    settleCommit d c = d := if_pos (by simpa using h)

theorem settleCommit_answers {d : Dyn} {c : Nat} (hqueue : commitWaits d c = false) (hlive : taskLive d c = false) :
    settleCommit d c = answerCommit d c 1 := if_neg (by simp [hqueue, hlive])

/-- A TCOMMIT that is answered: RD has the answer, and the core has no task any more (R194). -/
theorem answerCommit_spec {d : Dyn} {c : Nat} {k : Commit} {v : Word} {rd : Reg5}
    (h : (d.core c).tsk.commit = some k) (hrd : k.rd = rd.toNat) : let e := answerCommit d c v
    e.rd c rd = v ∧ (e.core c).tsk.task = none ∧ (e.core c).tsk.commit = none ∧ (e.core c).tsk.abort = none
    ∧ (e.status c).task = false := by
  have hreg : BitVec.ofNat 5 k.rd = rd := by rw [hrd, BitVec.ofNat_toNat, BitVec.setWidth_eq]
  simp only [answerCommit, h, hreg, Dyn.rd, Dyn.status, retire_core_next]
  simp [CoreSt.withStatus, CoreSt.withD]

section
variable {c : Core} {s : State} (h : Ready c s)
include h

/-- TWAIT outside a task, at EXEC, waits (R193). -/
theorem twait_waits (hpl : (s.dyn.status c.val).pl = .exec) (htask : (s.dyn.core c.val).tsk.task = none) :
    Answers (exec (.twait c 0) s) (CoreIssues c
      { s.dyn.core c.val with tsk := { (s.dyn.core c.val).tsk with waiting := true } } s) := by
  have hleft := (CoreLeft.issue c s).onTsk (fun t => { t with waiting := true })
  refine ⟨_, bronze_waits h ?_, hleft.issues (.refl ..) hleft.core⟩
  simp [hpl, htask]

theorem twait_privilege (hpl : (s.dyn.status c.val).pl ≠ .exec) : Raises (exec (.twait c 0) s) c excPrivilege s := by
  refine bronze_raises h ?_
  simp [hpl]

theorem twait_taskOp (hpl : (s.dyn.status c.val).pl = .exec) (htask : (s.dyn.core c.val).tsk.task ≠ none) :
    Raises (exec (.twait c 0) s) c excTaskOp s := by
  refine bronze_raises h ?_
  simp [hpl, htask]

section
variable {rd ra : Reg5} {final : Nat} (hra : ra.toNat ≤ 28)
include hra

theorem tcommit_raises_privilege (hpl : (s.dyn.status c.val).pl = .plugin) :
    Raises (act (bronze c 7 (tcommit c rd ra 0 final)) s) c excPrivilege s :=
  bronze_raises h (tcommit_privilege hra (by simpa using hpl))

variable (hpl : (s.dyn.status c.val).pl ≠ .plugin)
include hpl

theorem tcommit_raises_taskOp (htask : (s.dyn.core c.val).tsk.task = none) :
    Raises (act (bronze c 7 (tcommit c rd ra 0 final)) s) c excTaskOp s :=
  bronze_raises h (tcommit_taskOp hra (by simpa using hpl) (by simpa using htask))

variable (htask : (s.dyn.core c.val).tsk.task ≠ none)
include htask

/-- The core with its commitment recorded, which settles. -/
theorem tcommit_settles : ∃ e, CoreLeft c s e ((s.dyn.core c.val).committing (commitOf s.dyn c.val rd ra final))
    ∧ commitWaits e c.val = !(s.dyn.core c.val).port.queue.isEmpty ∧ taskLive e c.val = taskLive s.dyn c.val
    ∧ Becomes (act (bronze c 7 (tcommit c rd ra 0 final)) s) s (settleCommit e c.val) := by
  have hleft := (CoreLeft.issue c s).onTsk (CoreTask.committing (commitOf s.dyn c.val rd ra final))
  have hwaits := tcommit_waits (img := s.img) (d := s.issue c) (rd := rd) (final := final) hra (by simpa using hpl)
    (by simpa using htask)
  rw [State.issue_commitOf] at hwaits
  refine ⟨_, hleft, ?queue, ?live, bronze_waits h hwaits⟩
  case queue => rw [commitWaits, hleft.core]; rfl
  case live =>
    rw [taskLive, hleft.core]
    simp only [taskLive, CoreTask.committing, CoreSt.clockOf_tsk, Dyn.task, Dyn.onTsk, Dyn.onCore, Dyn.setCore_disp,
      State.issue_tasks]
    rfl

/-- While its task is live, or the port has commands, a TCOMMIT waits with its final state and result. -/
theorem tcommit_commits (hwait : taskLive s.dyn c.val = true ∨ (s.dyn.core c.val).port.queue ≠ []) :
    Answers (act (bronze c 7 (tcommit c rd ra 0 final)) s) (CoreIssues c
      ((s.dyn.core c.val).committing (commitOf s.dyn c.val rd ra final)) s) := by
  obtain ⟨e, hleft, hqueue, hlive, hbecomes⟩ := tcommit_settles (rd := rd) (final := final) h hra hpl htask
  rw [settleCommit_waits (by rw [hqueue, hlive]; simpa [or_comm] using hwait)] at hbecomes
  exact ⟨_, hbecomes, hleft.issues (.refl ..) hleft.core⟩

/-- For a task that has ended, with no command left, it is answered with 1. -/
theorem tcommit_gone (hended : taskLive s.dyn c.val = false) (hempty : (s.dyn.core c.val).port.queue = []) :
    Answers (act (bronze c 7 (tcommit c rd ra 0 final)) s) (fun t =>
      t.dyn.rd c.val rd = 1 ∧ (t.dyn.core c.val).tsk.task = none ∧ (t.dyn.core c.val).tsk.commit = none
      ∧ (t.dyn.core c.val).tsk.abort = none ∧ (t.dyn.status c.val).task = false) := by
  obtain ⟨e, hleft, hqueue, hlive, hbecomes⟩ := tcommit_settles (rd := rd) (final := final) h hra hpl htask
  rw [settleCommit_answers (by rw [hqueue, hempty]; rfl) (hlive.trans hended)] at hbecomes
  exact ⟨_, hbecomes, answerCommit_spec (by rw [hleft.core]; rfl) rfl⟩

end
end

/-! ### TFAULT (R195) -/

section
variable {img : Img} {d : Dyn} {c : Core} {ra : Reg5}

theorem tfault_privilege (hpl : (d.status c.val).pl = .plugin) : tfault c 0 ra 0 img d = .exc d excPrivilege := by
  simp [tfault, hpl]

theorem tfault_taskOp (hpl : (d.status c.val).pl ≠ .plugin) (htask : (d.core c.val).tsk.task = none) :
    tfault c 0 ra 0 img d = .exc d excTaskOp := by
  simp [tfault, hpl, htask]

theorem tfault_done (hpl : (d.status c.val).pl ≠ .plugin) (htask : (d.core c.val).tsk.task ≠ none) :
    tfault c 0 ra 0 img d = .done ((raiseTask d (coreSrc c.val) 0x0103 0 (d.rd c.val ra).toNat).onTsk c.val
      (fun t => { t with abort := t.abort.or (some (1, 0x0103)) })) none := by
  simp [tfault, hpl, htask]

end

end Sys2Proof.Machine
end

section
open Sys2Proof Sys2Proof.Machine

/-- Settles O11: each check raises its exception before anything else is done; TWAIT and a TCOMMIT whose task is live
wait, and one whose task has ended is answered. -/
theorem taskInstructions : Obligations.TaskInstructions := by
  unfold Obligations.TaskInstructions
  refine ⟨?checks, ?effects⟩
  case checks =>
    intro c rd ra s h hra pl task
    refine ⟨fun hpl => ⟨bronze_raises h (eret_privilege (by rwa [State.issue_status])), twait_privilege h hpl⟩,
      fun hpl => ?_, fun hpl htask => ?_, fun hpl htask => twait_taskOp h hpl htask⟩
    · exact ⟨tcommit_raises_privilege h hra hpl, tcommit_raises_privilege h hra hpl, tcommit_raises_privilege h hra hpl⟩
    · exact ⟨tcommit_raises_taskOp h hra hpl htask, tcommit_raises_taskOp h hra hpl htask,
        tcommit_raises_taskOp h hra hpl htask⟩
  case effects =>
    intro c rd ra s h x pl result commits gone
    refine ⟨fun hpl htask => twait_waits h hpl htask, fun hpl htask hra => ⟨fun hwait => ?_, fun hended hempty => ?_⟩⟩
    · exact ⟨tcommit_commits h hra hpl htask hwait, tcommit_commits h hra hpl htask hwait,
        tcommit_commits h hra hpl htask hwait⟩
    · exact ⟨tcommit_gone h hra hpl htask hended hempty, tcommit_gone h hra hpl htask hended hempty,
        tcommit_gone h hra hpl htask hended hempty⟩

end

section
/-! PROOF. What an access over the fabric leaves of the units (R329): it may isolate some, and withholds none. So
TFAULT (R195) leaves its core powered, and ABORT can be taken. -/

namespace Sys2Proof.Machine

/-! ### The units through an access -/

/-- The start withheld the same units (R49). -/
structure KeepsWithheld (d e : Dyn) : Prop where
  withheld (u : Nat) : (e.unit u).withheld = (d.unit u).withheld

namespace KeepsWithheld

variable {d e f : Dyn}

theorem refl (d : Dyn) : KeepsWithheld d d := ⟨fun _ => rfl⟩

theorem trans (h : KeepsWithheld d e) (g : KeepsWithheld e f) : KeepsWithheld d f :=
  ⟨fun u => (g.withheld u).trans (h.withheld u)⟩

theorem of_units (h : e.units = d.units) : KeepsWithheld d e :=
  ⟨fun u => by rw [Dyn.unit, Dyn.unit, h]⟩

theorem foldl {α : Type} {f : Dyn → α → Dyn} (h : ∀ d x, KeepsWithheld d (f d x)) (l : List α) (d : Dyn) :
    KeepsWithheld d (l.foldl f d) := by
  induction l generalizing d with
  | nil => exact refl d
  | cons x l ih => exact (h d x).trans (ih _)

theorem foldl_fst {α β : Type} {f : Dyn × β → α → Dyn × β} (h : ∀ a x, KeepsWithheld a.1 (f a x).1) (l : List α)
    (a : Dyn × β) : KeepsWithheld a.1 (l.foldl f a).1 := by
  induction l generalizing a with
  | nil => exact refl a.1
  | cons x l ih => exact (h a x).trans (ih _)

theorem setUnit (d : Dyn) (u : Nat) {f : UnitSt → UnitSt} (hf : ∀ x, (f x).withheld = x.withheld) :
    KeepsWithheld d (d.setUnit u f) := by
  refine ⟨fun k => ?_⟩
  simp only [Dyn.unit, Dyn.setUnit, Map.get_upd]
  split
  next hk => rw [hk, hf]
  next => rfl

theorem powered (h : KeepsWithheld d e) (hpower : e.power = d.power) (u : Nat) : e.powered u = d.powered u := by
  simp only [Dyn.powered, hpower, h.withheld u]

end KeepsWithheld

theorem units_foldl {α β : Type} {f : Dyn × β → α → Dyn × β} (h : ∀ a x, (f a x).1.units = a.1.units) (l : List α)
    (a : Dyn × β) : (l.foldl f a).1.units = a.1.units := by
  induction l generalizing a with
  | nil => rfl
  | cons x l ih => exact (ih _).trans (h a x)

/-! ### A memory unit changes no unit's state -/

@[simp] theorem event_units (d : Dyn) (src cls code : Nat) (l : List Byte) : (event d src cls code l).units = d.units :=
  issue_units ..

@[simp] theorem bucketAdd_units (img : Img) (d : Dyn) (u n : Nat) : (bucketAdd img d u n).units = d.units := by
  unfold bucketAdd
  dsimp only
  split <;> rfl

@[simp] theorem noteCorrected_units (img : Img) (d : Dyn) (u b r : Nat) : (noteCorrected img d u b r).units = d.units := by
  unfold noteCorrected
  rw [bucketAdd_units]
  split
  · exact event_units ..
  · rfl

@[simp] theorem poisonBlock_units (img : Img) (d : Dyn) (u b r f : Nat) : (poisonBlock img d u b r f).units = d.units := by
  unfold poisonBlock
  rw [bucketAdd_units]
  split
  · rfl
  · exact event_units ..

@[simp] theorem settleBlock_units (img : Img) (d : Dyn) (u b f : Nat) (r : RegionInfo) :
    (settleBlock img d u b f r).1.units = d.units := by
  unfold settleBlock
  dsimp only
  split
  · split
    · rfl
    · exact poisonBlock_units ..
  · split
    all_goals
      split
      · simp
      · split <;> simp

@[simp] theorem unitRead_units (img : Img) (d : Dyn) (u a n : Nat) (i : EvInfo) :
    (unitRead img d u a n i).1.units = d.units := by
  unfold unitRead
  split
  · rfl
  · change (List.foldl _ ((d, 0) : Dyn × Nat) _).1.units = d.units
    refine units_foldl ?_ _ _
    exact fun x b => (settleBlock_units ..).trans (countEv_units ..)

@[simp] theorem blockWrite_units (img : Img) (d : Dyn) (u b a : Nat) (l : List Byte) (r : RegionInfo) (i : EvInfo) :
    (blockWrite img d u b a l r i).1.units = d.units := by
  unfold blockWrite
  dsimp only
  split
  · exact countEv_units ..
  · split
    · rfl
    · split <;> simp

@[simp] theorem unitWrite_units (img : Img) (d : Dyn) (u a : Nat) (l : List Byte) (i : EvInfo) :
    (unitWrite img d u a l i).1.units = d.units := by
  unfold unitWrite
  split
  · rfl
  · change (List.foldl _ ((d, 0, 0) : Dyn × Nat × Nat) _).1.units = d.units
    refine units_foldl ?_ _ _
    exact fun x b => blockWrite_units img x.1 u b a l _ i

@[simp] theorem unitAtomic_units (img : Img) (d : Dyn) (u a f o c : Nat) (i : EvInfo) :
    (unitAtomic img d u a f o c i).1.units = d.units := by
  unfold unitAtomic
  split
  · rfl
  · dsimp only
    split
    · rfl
    · split
      · simp
      · split <;> simp

@[simp] theorem perform_units (img : Img) (d : Dyn) (w : Sender) (u a : Nat) (op : MemOp) :
    (perform img d w u a op).1.units = d.units := by
  unfold perform
  cases op with
  | read n => exact unitRead_units ..
  | write b =>
    dsimp only
    split
    · exact event_units ..
    · exact unitWrite_units ..
  | atomic f o c =>
    dsimp only
    split
    · exact event_units ..
    · exact unitAtomic_units ..

@[simp] theorem performMem_units (img : Img) (d : Dyn) (p : Packet) : (performMem img d p).1.units = d.units := by
  unfold performMem
  dsimp only
  split
  · rfl
  · split
    · rfl
    · exact perform_units ..

/-! ### Packets -/

@[simp] theorem spend_units (img : Img) (d : Dyn) (e c n : Nat) : (spend img d e c n).units = d.units := by
  unfold spend
  split <;> rfl

@[simp] theorem launch_units (p : Packet) (d : Dyn) : (launch p d).units = d.units := by
  unfold launch
  dsimp only
  split
  · rfl
  · exact countEv_units ..

@[simp] theorem track_units (p : Packet) (d : Dyn) : (track p d).units = d.units := by
  unfold track
  split <;> rfl

@[simp] theorem regulate_units (img : Img) (d : Dyn) (p : Packet) : (regulate img d p).units = d.units := by
  unfold regulate
  dsimp only
  split
  · simp
  · split <;> rfl

@[simp] theorem noteTimeout_units (d : Dyn) (s e u : Nat) : (noteTimeout d s e u).units = d.units := by
  unfold noteTimeout
  dsimp only
  split <;> rfl

@[simp] theorem arriveRequest_units (img : Img) (d : Dyn) (p : Packet) :
    (arriveRequest performMem img d p).units = d.units := by
  unfold arriveRequest
  dsimp only
  split
  · rfl
  · rfl
  · rfl
  · rw [regulate_units]
    split
    · exact (performMem_units ..).trans (countEv_units ..)
    · exact countEv_units ..

@[simp] theorem arriveResponse_units (d : Dyn) (p : Packet) : (arriveResponse d p).units = d.units := by
  unfold arriveResponse
  dsimp only
  split
  · rfl
  · refine .trans ?_ (countEv_units d (routerSource p.dest.toNat) 0x0601 (packetLen p) (packetInfo p))
    generalize countEv d (routerSource p.dest.toNat) 0x0601 (packetLen p) (packetInfo p) = d1
    split
    · rfl
    · split
      · rfl
      · split <;> split <;> rfl

theorem landFirst_units (img : Img) (p : Packet) (d : Dyn) : (landFirst performMem img p d).units = d.units := by
  unfold landFirst
  split
  · rfl
  · split
    · rfl
    · unfold arriveAt
      split
      · exact arriveResponse_units ..
      · exact arriveRequest_units ..

theorem enter_keepsWithheld (img : Img) (d : Dyn) (p : Packet) : KeepsWithheld d (enter performMem img d p) := by
  refine .trans (e := sendWaiting img d p) (.foldl (fun d q => .of_units ?_) _ _)
    (.trans (.foldl (fun d q => .of_units (landFirst_units img p d)) _ _) (.of_units (spend_units ..)))
  simp

/-! ### A port's change (R333) and an exchange -/

theorem applyMode_keepsWithheld (d : Dyn) (e mode : Nat) : KeepsWithheld d (applyMode d e mode) := by
  have hisolate (b : Bool) (g : Dyn) :
      KeepsWithheld g ((unitsAt e).foldl (fun d u => d.setUnit u (fun x => { x with isolated := b })) g) :=
    .foldl (fun d u => .setUnit d u (f := fun x => { x with isolated := b }) (fun _ => rfl)) _ _
  unfold applyMode
  dsimp only
  split
  · exact .refl d
  · split
    · refine .trans (.of_units ?_) (hisolate true _)
      rfl
    · split
      · refine .trans (.trans (.of_units ?_) (hisolate false _)) (.of_units rfl)
        split <;> rfl
      · split <;> exact .of_units rfl

theorem acceptAgain_keepsWithheld (img : Img) (d : Dyn) (r : Nat) : KeepsWithheld d (acceptAgain img d r) := by
  unfold acceptAgain
  split
  · exact .refl d
  · split
    · unfold quiesceLimit
      split
      · exact .refl d
      · split
        · exact .of_units (event_units ..)
        · exact .refl d
    · unfold quiesce
      split
      · exact .refl d
      · exact .trans (applyMode_keepsWithheld _ _ _) (.of_units rfl)

theorem eject_units (d : Dyn) (p : Packet) : (eject d p).units = d.units := countEv_units ..
theorem cross_units (d : Dyn) (p : Packet) : (cross d p).units = d.units := countEv_units ..
theorem routerAnswers_units (d : Dyn) (q : Packet) (r : Resp) : (routerAnswers d q r).1.units = d.units := countEv_units ..

theorem exchange_keepsWithheld (img : Img) (d : Dyn) (q : Packet) (act : Dyn → Dyn × Resp)
    (hact : ∀ d, (act d).1.units = d.units) : KeepsWithheld d (exchange performMem img d q act).1 := by
  unfold exchange
  dsimp only
  have henter : KeepsWithheld d (enter performMem img ((routeOf q.src.toNat q.dest.toNat
      ++ routeOf q.dest.toNat q.src.toNat).foldl (acceptAgain img) d) q) :=
    (KeepsWithheld.foldl (fun d r => acceptAgain_keepsWithheld img d r) _ d).trans (enter_keepsWithheld img _ q)
  refine henter.trans ?_
  generalize enter performMem img _ q = d1
  split
  · exact .of_units (noteTimeout_units ..)
  · refine .trans (.of_units (cross_units d1 q)) ?_
    generalize cross d1 q = d2
    split
    · exact .trans (.of_units ((hact _).trans (eject_units d2 q)))
        ((enter_keepsWithheld img _ _).trans (.of_units ((eject_units ..).trans (cross_units ..))))
    · exact .of_units (routerAnswers_units ..)
    · exact .of_units (routerAnswers_units ..)
    · exact .of_units (routerAnswers_units ..)

theorem memLoad_keepsWithheld (img : Img) (d : Dyn) (w : Sender) (a n : Nat) : KeepsWithheld d (memLoad img d w a n).1 := by
  refine KeepsWithheld.foldl_fst (fun x p => ?_) (packetsOf a n) (d, Resp.ok)
  change KeepsWithheld x.1 (memPacket img x.1 w p.1 (.read p.2)).1
  unfold memPacket
  split
  · exact .refl x.1
  · exact exchange_keepsWithheld img x.1 _ _ (fun d => perform_units ..)

theorem fetch_keepsWithheld (img : Img) (d : Dyn) (c : Nat) : KeepsWithheld d (fetch img d c).1 := by
  have hfree : KeepsWithheld d (if maybeCached d c then freshNat d else (0, d)).2 := by
    cases maybeCached d c <;> exact .of_units rfl
  unfold fetch
  generalize (if maybeCached d c then freshNat d else (0, d)) = x at hfree
  dsimp only
  split
  · exact hfree
  · exact hfree.trans (memLoad_keepsWithheld img x.2 (coreSender x.2 c) (x.2.pc c).toNat 4)

theorem OnlyAccess.power {d e : Dyn} (h : OnlyAccess d e) : e.power = d.power := by
  have hpower := congrArg Dyn.power h
  exact hpower

theorem State.fetched_powered (s : State) (c : Core) (u : Nat) : (s.fetched c).dyn.powered u = s.dyn.powered u :=
  (fetch_keepsWithheld s.img s.dyn c.val).powered (fetch_only s.img s.dyn c.val).power u

/-! ### TFAULT (R195) -/

/-- An ABORT with its detail and condition is pending. -/
def CoreTask.withAbort (detail : Nat) (cond : Half) (t : CoreTask) : CoreTask := { t with abort := some (detail, cond) }
def CoreSt.withAbort (detail : Nat) (cond : Half) (x : CoreSt) : CoreSt := { x with tsk := x.tsk.withAbort detail cond }

/-- The machine in which TFAULT has raised TASK_DECLARED, but for its core. -/
def State.declared (s : State) (c : Core) (ra : Reg5) : State :=
  { s with dyn := raiseTask (s.fetched c).dyn (0x0100 + c.val) 0x0103 0 (s.dyn.rd c.val ra).toNat }

theorem OnlyCoreDyn.powered {c : Nat} {d e : Dyn} (h : OnlyCoreDyn c d e) (u : Nat) : e.powered u = d.powered u := by
  rw [h.eq_with]; rfl

theorem OnlyCoreDyn.dst {c : Nat} {d e : Dyn} (h : OnlyCoreDyn c d e) : e.dst = d.dst := by rw [h.eq_with]

/-- `bronze_gives` for an instruction that changes more of the machine than its core: the rest is `b`'s. -/
theorem bronze_retiresFrom {b : State} {c : Core} {icls : Nat} {f : Img → Dyn → Res} {s : State} {e : Dyn}
    {goto : Option Addr} {x : CoreSt} (h : Ready c s) (hf : f s.img (s.issue c) = .done e goto)
    (hpending : s.pending = b.pending) (himg : s.img = b.img) (honly : OnlyCoreDyn c.val b.dyn e)
    (hx : e.core c.val = x.clockOf (s.dyn.core c.val).issued) (hpc : x.regs.pc = s.dyn.pc c.val) :
    Answers (act (bronze c icls f) s) (RetiresFrom b c x goto s) := by
  have hall := honly.trans (.retire c.val icls e (s.dyn.status c.val).pl (s.dyn.status c.val).inrep goto)
  obtain ⟨pc, rc, n, inrep, hcore, hnext⟩ :=
    retire_core c.val icls e (s.dyn.status c.val).pl (s.dyn.status c.val).inrep goto
  refine ⟨_, bronze_done h hf, ⟨hpending, himg, hall.1, hall.2⟩, ?_⟩
  generalize retire e c.val icls (s.dyn.status c.val).pl (s.dyn.status c.val).inrep goto = r at hcore ⊢
  rw [hx] at hcore
  simp only [Dyn.pc, Dyn.status, hcore]
  refine ⟨Nat.lt_succ_self _, fun k hk => hk, rfl, fun hrep => ?_⟩
  obtain ⟨hpc', hrc, hdone, hinrep⟩ := hnext hrep
  have hepc : e.pc c.val = s.dyn.pc c.val := by rw [Dyn.pc, hx]; exact hpc
  rw [hx] at hrc hdone hinrep
  exact ⟨by rw [hpc', hepc]; rfl, hrc, hdone, hinrep⟩

section
variable {c : Core} {ra : Reg5} {s : State} (hpl : (s.dyn.status c.val).pl ≠ .plugin)
  (htask : (s.dyn.core c.val).tsk.task ≠ none) (habort : (s.dyn.core c.val).tsk.abort = none)
include hpl htask habort

/-- TFAULT completes, with TASK_DECLARED raised and the ABORT pending. -/
theorem tfault_completes : ∃ e, OnlyCoreDyn c.val (s.declared c ra).dyn e
    ∧ e.core c.val = ((s.dyn.core c.val).withAbort 1 0x0103).clockOf (s.dyn.core c.val).issued
    ∧ tfault c 0 ra 0 s.img (s.issue c) = .done e none := by
  have hdone := tfault_done (img := s.img) (d := s.issue c) (ra := ra) (by simpa using hpl) (by simpa using htask)
  rw [State.issue_rd] at hdone
  refine ⟨_, ?only, ?core, hdone⟩
  case only => exact ((OnlyCoreDyn.issueAt c.val (s.fetched c).dyn).raiseTask ..).trans (.setCore ..)
  case core =>
    have hcore : (raiseTask (s.issue c) (coreSrc c.val) 0x0103 0 (s.dyn.rd c.val ra).toNat).core c.val
        = (s.dyn.core c.val).issued := (State.issue_core s c c.val).trans (if_pos rfl)
    rw [Dyn.core_onTsk, hcore]
    simp only [if_pos, CoreSt.issued, habort, Option.none_or]
    rfl

variable (h : Ready c s)
include h

/-- It retires so. -/
theorem tfault_retires : Answers (exec (.tfault c 0 ra 0) s)
    (RetiresFrom (s.declared c ra) c ((s.dyn.core c.val).withAbort 1 0x0103) none s) := by
  obtain ⟨e, honly, hcore, hdone⟩ := tfault_completes (ra := ra) hpl htask habort
  exact bronze_retiresFrom (b := s.declared c ra) h hdone rfl rfl honly hcore rfl

/-- At the next boundary the core can take the ABORT. -/
theorem tfault_boundary {t : State} (ht : exec (.tfault c 0 ra 0) s = .next t) : islandUp t.dyn = true
    ∧ atBoundary t.dyn c.val = true ∧ (t.dyn.status c.val).hact = (s.dyn.status c.val).hact
    ∧ (t.dyn.core c.val).tsk.abort = some (1, 0x0103) := by
  obtain ⟨t', ht', honly, -, -, hcore, -⟩ := tfault_retires (ra := ra) hpl htask habort h
  obtain rfl : t' = t := by simpa using ht'.symm.trans ht
  obtain ⟨hrun, -, hcommit, hpower⟩ := issues_spec h.2.1
  have hdyn : OnlyCoreDyn c.val (s.declared c ra).dyn t'.dyn := ⟨honly.2.2.1, honly.2.2.2⟩
  refine ⟨?up, atBoundary_iff.mpr ⟨?run, ?commit, ?power⟩, ?hact, ?abort⟩
  case up =>
    have hdst : t'.dyn.dst = s.dyn.dst := hdyn.dst.trans (fetch_only s.img s.dyn c.val).dst
    have hup := h.1
    unfold islandUp at hup ⊢
    rwa [hdst]
  case power => exact ((hdyn.powered _).trans (s.fetched_powered c _)).trans hpower
  case hact => rw [Dyn.status, hcore]; rfl
  all_goals rw [hcore]
  case run => exact hrun
  case commit => exact hcommit
  case abort => rfl

end

end Sys2Proof.Machine
end

section
open Sys2Proof Sys2Proof.Machine

/-- Settles O12: TFAULT's checks raise; where they pass it retires with the ABORT pending, and at the next boundary the
core takes it. -/
theorem declaredFault : Obligations.DeclaredFault := by
  unfold Obligations.DeclaredFault
  intro c ra s h x st i raised
  refine ⟨fun hpl => bronze_raises h (tfault_privilege (by simpa using hpl)),
    fun hpl htask => bronze_raises h (tfault_taskOp (by simpa using hpl) (by simpa using htask)),
    fun hpl htask habort => ⟨tfault_retires hpl htask habort h, fun hhact t ht => ?_⟩⟩
  obtain ⟨hup, hat, hkept, hpending⟩ := tfault_boundary hpl htask habort h ht
  exact (abort_taken hup hat (hkept.trans hhact) hpending).1

end

section
/-! PROOF. Encodings that raise ILLEGAL (R181, R182): a word that is no instruction, reserved fields and fields out of
range. -/

namespace Sys2Proof.Machine

/-! ### A word that is no instruction -/

theorem decodeBronze_none (c : Core) (w next : Word) (h : (w.extractLsb' 26 6).toNat ∈
    [0x00, 0x0A, 0x0B, 0x0C, 0x0D, 0x0E, 0x0F, 0x16, 0x17, 0x1A, 0x1B, 0x27, 0x28, 0x29, 0x2A, 0x2B]
      ++ (List.range 14).map (0x30 + ·)) : decodeBronze c w next = none := by
  unfold decodeBronze fieldOf
  generalize (w.extractLsb' 26 6).toNat = major at h
  fin_cases h <;> rfl

section
variable {c : Core} {s : State}

/-- Where no block of the PC is in the cache, the fetch is a read of memory (R206). -/
theorem fetch_uncached {img : Img} {d : Dyn} {c : Nat} (h : (d.pc c).toNat / 128 ∉ (d.core c).lines) :
    (fetch img d c).2 = let r := (memLoad img d (coreSender d c) (d.pc c).toNat 4).2
      if 2 ≤ r.status then .failed r.status
      else if isInstruction (BitVec.ofNat 32 (leNat r.data)) then .word else .illegal := by
  have hmiss : maybeCached d c = false := by simpa [maybeCached] using h
  simp [fetch, hmiss]

theorem bronze_wordless {icls : Nat} {f : Img → Dyn → Res} (hissues : s.dyn.issues c.val = true)
    (hboundary : boundaryEvent s.dyn c.val = none) (hallowed : fetchDenied s.img s.dyn c.val = false)
    (hfetch : (fetch s.img s.dyn c.val).2 = .illegal) :
    bronze c icls f s.img s.dyn = syncException (s.issue c) c.val excIllegal := by
  simp only [State.issue, State.fetched, bronze, hissues, hboundary, hallowed, if_true, Bool.false_eq_true, if_false]
  generalize fetch s.img s.dyn c.val = x at hfetch ⊢
  obtain ⟨d, w⟩ := x
  cases hfetch
  rfl

end

/-! ### The checks of each family's fields -/

theorem toNat_eq_three (x : BitVec 2) : decide (x.toNat = 3) = (x == 3) := by revert x; decide

section
variable {img : Img} {d : Dyn} {c : Core}

theorem legally_illegal {legal : Bool} {r : Dyn → Res} (h : legal = false) : legally legal d r = .exc d excIllegal := by
  rw [h]; rfl

theorem isFile16_eq_not (r : Reg5) : isFile16 r = !highReg r := by
  simp [isFile16, highReg, ← decide_not]

theorem reservedPtr_illegal {rsv : Reg5} {fs : List Reg5} {f : Dyn → Dyn}
    (h : (decide (rsv = 0) && fs.all isFile16) = false) :
    legally (decide (rsv = 0)) d (ptrOp fs f img) = .exc d excIllegal := by
  rcases Bool.and_eq_false_iff.mp h with hrsv | hfs
  · exact legally_illegal hrsv
  · cases decide (rsv = 0) with
    | false => rfl
    | true =>
      change ptrOp fs f img d = _
      exact legally_illegal hfs

theorem addrForm_illegal {pn : BitVec 4} {am : BitVec 3} {sz : BitVec 2} {off : BitVec 12}
    (h : badForm am sz off = true) (k : Nat) : (d.addrForm k pn am sz off).legal = false := by
  have hsize : sz = 3 ↔ sz.toNat = 3 := BitVec.toNat_inj.symm
  have hmode (n : Nat) (hn : n < 8) : am = BitVec.ofNat 3 n ↔ am.toNat = n := by
    rw [← BitVec.toNat_inj, BitVec.toNat_ofNat, Nat.mod_eq_of_lt hn]
  simp only [badForm, Bool.or_eq_true, Bool.and_eq_true, beq_iff_eq, decide_eq_true_eq, hsize,
    show am = 2 ↔ am.toNat = 2 from hmode 2 (by decide), show am = 3 ↔ am.toNat = 3 from hmode 3 (by decide)] at h
  have hoff := off.isLt
  unfold Dyn.addrForm
  split <;> simp_all [bits, Nat.shiftRight_eq_div_pow] <;> omega

section
variable {rd ra rb : Reg5} {pn : BitVec 4} {am : BitVec 3} {sz : BitVec 2} {off : BitVec 12}

theorem loadOp_illegal {signed : Bool} (h : badForm am sz off = true) :
    loadOp c rd pn am sz off signed img d = .exc d excIllegal := by simp [loadOp, legally, addrForm_illegal h]

theorem storeOp_illegal (h : badForm am sz off = true) : storeOp c rd pn am sz off img d = .exc d excIllegal := by
  simp [storeOp, legally, addrForm_illegal h]

theorem atomicOp_illegal {func : Nat} (h : highReg ra = true) :
    atomicOp c func rd ra rb img d = .exc d excIllegal := legally_illegal (by simp [isFile16_eq_not, h])

end

theorem repOp_illegal {ra : Reg5} {imm : Bool} {rsv : BitVec 4} {count : Half} {body : Word}
    (h : badFields (.rep c ra imm rsv count body) = true) : repOp c ra imm rsv count body d = .exc d excIllegal := by
  unfold repOp
  refine legally_illegal ?_
  cases imm <;> simp [badFields] at h ⊢ <;> tauto

theorem shiLegal_eq {rd ra : Reg5} {imm : Half} :
    (decide (bits imm.toNat 15 14 ≠ 3) && decide (bits imm.toNat 13 5 = 0)) = !badFields (.shi c rd ra imm) := by
  have hkind : bits imm.toNat 15 14 = 3 ↔ imm.extractLsb' 14 2 = 3 := by
    rw [← BitVec.toNat_inj, BitVec.extractLsb'_toNat]; rfl
  have hzero : bits imm.toNat 13 5 = 0 ↔ imm.extractLsb' 5 9 = 0 := by
    rw [← BitVec.toNat_inj, BitVec.extractLsb'_toNat]; rfl
  simp [badFields, hkind, hzero, bne, beq_eq_decide]

theorem brLegal_eq {ra : Reg5} {cond : BitVec 3} {off : BitVec 18} :
    (decide (cond.toNat ≠ 7) && (decide (cond.toNat ≠ 6) || decide (ra = 0))) = !badFields (.br c ra cond off) := by
  have hseven : cond.toNat = 7 ↔ cond = 7 := BitVec.toNat_inj (y := 7)
  have hsix : cond.toNat = 6 ↔ cond = 6 := BitVec.toNat_inj (y := 6)
  simp [badFields, hseven, hsix, bne, beq_eq_decide]

theorem vecOp_illegal {legal enabled : Dyn → Bool} {f : Dyn → Dyn} (h : legal d = false) :
    vecOp c legal enabled f img d = .exc d excIllegal := by simp [vecOp, h]

theorem vecAccess_illegal {long u legal : Bool} {pn mn : BitVec 4} {am et : BitVec 2} {spoil : Dyn → Nat → Nat → Dyn}
    {move : Dyn → Nat → Nat → Nat → Dyn × Option (Nat × Nat)} (h : (legal && am != 3) = false) :
    vecAccess c long pn am et u mn legal spoil move img d = .exc d excIllegal := by
  refine if_pos ?_
  cases legal with
  | false => rfl
  | true => rw [toNat_eq_three]; simpa using h

theorem csrAccess_illegal {legal read : Bool} {code : Byte} {f : Dyn → Res}
    (h : (legal && (csrPerm code.toNat).isSome) = false) : csrAccess c legal code read f img d = .exc d excIllegal := by
  cases legal with
  | false => rfl
  | true =>
    have hnone : csrPerm code.toNat = none := by simpa using h
    simp [csrAccess, hnone]

/-! ### Vector fields (R216) -/

theorem vecField_eq_not (long : Bool) (r : Reg5) : vecField long r = !badVec long r := by
  simp [vecField, badVec, ← decide_not]

variable {long sat : Bool} {vd va vb : Reg5} {et rsv : BitVec 2} {ets : List Nat}

theorem vopLegal_reg : vopLegal long vd va vb et rsv sat ets .reg false = !badVop long vd va vb et rsv sat ets := by
  simp [vopLegal, badVop, vecField_eq_not, bne, beq_eq_decide]

theorem vopLegal_none : vopLegal long vd va vb et rsv sat ets .none false = !badVop1 long vd va vb et rsv sat ets := by
  simp [vopLegal, badVop1, badVop, badVec, vecField_eq_not, bne, beq_eq_decide]

theorem vopLegal_imm :
    vopLegal long vd va vb et rsv sat ets .imm false = !badVopImm long vd va vb et rsv sat ets := by
  have hwidth : (if et.toNat = 3 then 16 else etWidth et.toNat) = if et = 0 then 8 else if et = 2 then 32 else 16 := by
    revert et; decide
  have hamount (n : Nat) : decide (vb.toNat < n) = !decide (n ≤ vb.toNat) := by simp [← decide_not]
  simp only [vopLegal, badVopImm, hwidth, hamount]
  simp [badVop, badVec, vecField_eq_not, bne, beq_eq_decide]

theorem dotLegal_eq : (decide (rsv = 0) && ets.contains et.toNat && decide (vd.toNat % 4 = 0)
      && vecField long va && vecField long vb && (decide (et.toNat ≠ 3) || decide (vd.toNat / 4 % 2 = 0)))
    = !badDot long vd va vb et rsv ets := by
  have htype := toNat_eq_three et
  simp [badDot, badVop, badVec, vecField_eq_not, bne, beq_eq_decide]
  grind

end

/-! ### Every instruction of a core -/

/-- The instruction runs as one of core `c` that raises ILLEGAL whatever the machine's state is. -/
def Refused (i : Instr) (c : Core) : Prop :=
  ∃ icls f, (∀ s, exec i s = act (bronze c icls f) s) ∧ ∀ img d, f img d = .exc d excIllegal

theorem Refused.of_legally {i : Instr} {c : Core} {icls : Nat} {legal : Bool} {r : Img → Dyn → Dyn → Res}
    (hexec : ∀ s, exec i s = act (bronze c icls (fun img d => legally legal d (r img d))) s) (h : legal = false) :
    Refused i c := ⟨icls, _, hexec, fun _ _ => legally_illegal h⟩

theorem Refused.of_reservedPtr {i : Instr} {c : Core} {rsv : Reg5} {fs : List Reg5} {f : Dyn → Dyn}
    (hexec : ∀ s, exec i s = act (bronze c 0 (fun img d => legally (decide (rsv = 0)) d (ptrOp fs f img))) s)
    (h : (decide (rsv = 0) && fs.all isFile16) = false) : Refused i c := ⟨0, _, hexec, fun _ _ => reservedPtr_illegal h⟩

theorem Refused.of_vecOp {i : Instr} {c : Core} {legal : Bool} {enabled : Dyn → Bool} {f : Dyn → Dyn}
    (hexec : ∀ s, exec i s = act (bronze c 5 (vecOp c (fun _ => legal) enabled f)) s) (h : legal = false) :
    Refused i c := ⟨5, _, hexec, fun _ _ => vecOp_illegal h⟩

theorem badFields_refused {i : Instr} {c : Core} (hcore : onCore i = some c) (hbad : badFields i = true) :
    Refused i c := by
  cases i
  case abs | clz | cls | sexth | zexth | movi | mpyW | macW | msuW | macH2 | cmpy | cmac | cmacj | cmsu | ardW | ardH
      | ardC | awr | aclr | ashr | ardl | ardm | ardx | ains | movp | addp | subp | jr | jalr | adr =>
    cases hcore
    exact .of_legally (fun _ => rfl) (by simpa [badFields, isFile16_eq_not, or_iff_not_imp_left] using hbad)
  case shi =>
    cases hcore
    exact .of_legally (fun _ => rfl) (shiLegal_eq.trans (congrArg not hbad))
  case br =>
    cases hcore
    exact .of_legally (fun _ => rfl) (brLegal_eq.trans (congrArg not hbad))
  case rdpl | rdph | rdl | rdm | movl | movm | movb | rdb | movpp =>
    cases hcore
    exact .of_reservedPtr (fun _ => rfl) (by simpa [badFields, isFile16_eq_not, or_iff_not_imp_left] using hbad)
  case ld | ldu =>
    cases hcore
    exact ⟨_, _, fun _ => rfl, fun _ _ => loadOp_illegal hbad⟩
  case st =>
    cases hcore
    exact ⟨_, _, fun _ => rfl, fun _ _ => storeOp_illegal hbad⟩
  case atomicSwap | atomicAdd | cas | atomicAnd | atomicOr =>
    cases hcore
    exact ⟨_, _, fun _ => rfl, fun _ _ => atomicOp_illegal hbad⟩
  case rep =>
    cases hcore
    exact ⟨_, _, execRep_eq c _ _ _ _ _, fun _ _ => repOp_illegal hbad⟩
  case fenceS | fenceA | eret | brk | twait | trap | tcommit | tcommitE | tcommitB | tfault | pcmd | pres | psync
      | cpsave | cprest =>
    cases hcore
    exact ⟨_, _, fun _ => rfl, fun _ _ => if_pos (by simpa [badFields, isFile16_eq_not] using hbad)⟩
  case fenceI =>
    cases hcore
    have hrsv := by simpa [badFields] using hbad
    exact ⟨_, _, fun _ => rfl, fun _ _ => by simp [fence, hrsv]⟩
  case csrr | csrw | csrs | csrc =>
    cases hcore
    exact ⟨_, _, fun _ => rfl, fun _ _ => csrAccess_illegal (by simpa [badFields, or_iff_not_imp_left] using hbad)⟩
  case vldQ | vstQ | vldV | vstV =>
    cases hcore
    exact ⟨_, _, fun _ => rfl, fun _ _ => vecAccess_illegal (by grind [badFields, vecField_eq_not])⟩
  case vadd | vsub | vadds | vsubs | vand | vor | vxor | vmin | vmax | vavgr | vmulr | vperm | vcmulr | vcmuljr =>
    cases hcore
    exact .of_vecOp (fun _ => rfl) (vopLegal_reg.trans (congrArg not hbad))
  case vabs | vconj | vwid =>
    cases hcore
    exact .of_vecOp (fun _ => rfl) (vopLegal_none.trans (congrArg not hbad))
  case vsrar | vslls | vnr =>
    cases hcore
    exact .of_vecOp (fun _ => rfl) (vopLegal_imm.trans (congrArg not hbad))
  case vdot | vdotj =>
    cases hcore
    exact .of_vecOp (fun _ => rfl) (dotLegal_eq.trans (congrArg not hbad))
  case vsplat | vins | vext | vqtov | vvtoq | vsetvl =>
    cases hcore
    exact .of_vecOp (fun _ => rfl) (by simpa [badFields, vecField_eq_not, or_iff_not_imp_left] using hbad)
  all_goals cases hbad

end Sys2Proof.Machine
end

section
open Sys2Proof Sys2Proof.Machine

/-- Settles O15: by the decoder's MAJORs, by what the boundary does with a word that is none, and by each family's
checks of its fields (`badFields_refused`). -/
theorem illegalFields : Obligations.IllegalFields := by
  unfold Obligations.IllegalFields
  refine ⟨decodeBronze_none, ?wordless, ?uncached, ?fields⟩
  case wordless =>
    intro i c s hcore hup hissues hboundary hallowed hfetch
    obtain ⟨icls, f, hexec⟩ := onCore_bronze hcore
    rw [Raises, Becomes, hexec, act_up hup, bronze_wordless hissues hboundary hallowed hfetch]
  case uncached =>
    intro c s hmiss m
    rw [fetch_uncached hmiss]
    exact ⟨fun h => if_neg (Nat.not_le.mpr h), fun h => if_pos h⟩
  case fields =>
    intro i c s hcore hbad h
    obtain ⟨icls, f, hexec, hillegal⟩ := badFields_refused hcore hbad
    rw [hexec]
    exact bronze_raises h (hillegal ..)

end

section
/-! PROOF. Elements of a vector register as a number (R212, R213). -/

namespace Sys2Proof.Machine

/-! ### One element -/

theorem elemAt_lt (w x i : Nat) : elemAt w x i < 2 ^ w := Nat.mod_lt _ (Nat.two_pow_pos w)

theorem testBit_elemAt (w x i k : Nat) : (elemAt w x i).testBit k = (decide (k < w) && x.testBit (w * i + k)) := by
  rw [elemAt, Nat.testBit_mod_two_pow, Nat.testBit_shiftRight]

/-- Writing an element keeps what lies above and below it. -/
theorem setElem_eq (w x i v : Nat) : setElem w x i v
    = 2 ^ (w * i) * (2 ^ w * (x / 2 ^ (w * i) / 2 ^ w) + v % 2 ^ w) + x % 2 ^ (w * i) := by
  have hlow := Nat.div_add_mod x (2 ^ (w * i))
  have hhigh := Nat.div_add_mod (x / 2 ^ (w * i)) (2 ^ w)
  rw [setElem, elemAt, Nat.shiftRight_eq_div_pow]
  generalize x / 2 ^ (w * i) % 2 ^ w = e at hhigh ⊢
  generalize x / 2 ^ (w * i) / 2 ^ w = q at hhigh ⊢
  rw [← hhigh] at hlow
  generalize x % 2 ^ (w * i) = r at hlow ⊢
  have hx : x = 2 ^ (w * i) * (2 ^ w * q) + r + e * 2 ^ (w * i) := by rw [← hlow]; ring
  rw [hx, Nat.add_sub_cancel]
  ring

theorem testBit_setElem (w x i v m : Nat) : (setElem w x i v).testBit m
    = if w * i ≤ m ∧ m < w * i + w then v.testBit (m - w * i) else x.testBit m := by
  rw [setElem_eq, Nat.testBit_two_pow_mul_add _ (Nat.mod_lt _ (Nat.two_pow_pos _)),
    Nat.testBit_two_pow_mul_add _ (Nat.mod_lt _ (Nat.two_pow_pos _))]
  by_cases hbelow : m < w * i
  · rw [if_pos hbelow, if_neg (by omega), Nat.testBit_mod_two_pow, decide_eq_true hbelow, Bool.true_and]
  · rw [if_neg hbelow]
    by_cases hin : m - w * i < w
    · rw [if_pos hin, if_pos (by omega), Nat.testBit_mod_two_pow, decide_eq_true hin, Bool.true_and]
    · rw [if_neg hin, if_neg (by omega), Nat.testBit_div_two_pow, Nat.testBit_div_two_pow]
      congr 1
      omega

theorem elemAt_setElem (w x i v j : Nat) :
    elemAt w (setElem w x i v) j = if j = i then v % 2 ^ w else elemAt w x j := by
  apply Nat.eq_of_testBit_eq
  intro k
  rw [testBit_elemAt, testBit_setElem]
  by_cases hk : k < w
  · rcases Nat.lt_trichotomy j i with hlt | rfl | hgt
    · have := Nat.mul_le_mul_left w (Nat.succ_le_of_lt hlt)
      rw [Nat.mul_succ] at this
      rw [if_neg (by omega), if_neg hlt.ne, testBit_elemAt]
    · rw [if_pos ⟨by omega, by omega⟩, if_pos rfl, Nat.testBit_mod_two_pow, Nat.add_sub_cancel_left]
    · have := Nat.mul_le_mul_left w (Nat.succ_le_of_lt hgt)
      rw [Nat.mul_succ] at this
      rw [if_neg (by omega), if_neg hgt.ne', testBit_elemAt]
  · split_ifs <;> simp [hk, testBit_elemAt]

theorem setElem_lt {w x i v b : Nat} (hx : x < 2 ^ b) (hfit : w * (i + 1) ≤ b) : setElem w x i v < 2 ^ b := by
  rw [Nat.mul_succ] at hfit
  refine Nat.lt_pow_two_of_testBit _ fun m hm => ?_
  rw [testBit_setElem, if_neg (by omega)]
  exact Nat.testBit_lt_two_pow (hx.trans_le (Nat.pow_le_pow_right Nat.two_pos hm))

/-! ### Elements 0, 1, ... -/

/-- The step of `setElems`: one element written, and the next one's number. -/
def setNext (w : Nat) (acc : Nat × Nat) (v : Nat) : Nat × Nat := (setElem w acc.1 acc.2 v, acc.2 + 1)

theorem setElems_eq (w x : Nat) (l : List Nat) : setElems w x l = (l.foldl (setNext w) (x, 0)).1 := rfl

theorem elemAt_foldl_setNext (w i : Nat) (l : List Nat) (x m : Nat) : elemAt w (l.foldl (setNext w) (x, m)).1 i
    = if m ≤ i ∧ i < m + l.length then l.getD (i - m) 0 % 2 ^ w else elemAt w x i := by
  induction l generalizing x m with
  | nil => rw [if_neg (by simp)]; rfl
  | cons v l ih =>
    rw [List.foldl_cons, setNext, ih, elemAt_setElem, List.length_cons]
    rcases Nat.lt_trichotomy i m with hlt | rfl | hgt
    · rw [if_neg (by omega), if_neg (by omega), if_neg (by omega)]
    · rw [if_neg (by omega), if_pos rfl, if_pos (by omega), Nat.sub_self, List.getD_cons_zero]
    · obtain ⟨j, rfl⟩ := Nat.exists_eq_add_of_lt hgt
      rw [show m + j + 1 - m = j + 1 by omega, show m + j + 1 - (m + 1) = j by omega, List.getD_cons_succ,
        if_neg (by omega : ¬ m + j + 1 = m)]
      exact if_congr (by omega) rfl rfl

theorem foldl_setNext_lt {w b : Nat} (l : List Nat) (x m : Nat) (hx : x < 2 ^ b) (hfit : w * (m + l.length) ≤ b) :
    (l.foldl (setNext w) (x, m)).1 < 2 ^ b := by
  induction l generalizing x m with
  | nil => exact hx
  | cons v l ih =>
    rw [List.length_cons] at hfit
    refine ih _ _ (setElem_lt hx ((Nat.mul_le_mul_left w ?_).trans hfit)) ?_
    · omega
    · rwa [Nat.add_right_comm, Nat.add_assoc]

theorem elemAt_setElems (w x n i : Nat) (f : Nat → Nat) : elemAt w (setElems w x ((List.range n).map f)) i
    = if i < n then f i % 2 ^ w else elemAt w x i := by
  rw [setElems_eq, elemAt_foldl_setNext, List.length_map, List.length_range]
  by_cases hi : i < n
  · rw [if_pos (by omega), if_pos hi]; simp [hi]
  · rw [if_neg (by omega), if_neg hi]

theorem setElems_lt {w x n b : Nat} {f : Nat → Nat} (hx : x < 2 ^ b) (hfit : n * w ≤ b) :
    setElems w x ((List.range n).map f) < 2 ^ b :=
  foldl_setNext_lt _ x 0 hx (by rwa [List.length_map, List.length_range, Nat.zero_add, Nat.mul_comm])

/-! ### Elements as signed numbers -/

/-- The pattern of an element's signed value is the element. -/
theorem sx_emod (w e : Nat) (he : e < 2 ^ w) (hw : w ≠ 0) : sx w e % 2 ^ w = e := by
  rw [sx, if_neg hw, Nat.mod_eq_of_lt he]
  have hcast : ((2 ^ w : Nat) : Int) = 2 ^ w := by push_cast; rfl
  split_ifs
  · exact Int.emod_eq_of_lt (by omega) (by omega)
  · rw [hcast, Int.sub_emod_right]
    exact Int.emod_eq_of_lt (by omega) (by omega)

theorem wrapN_emod (w : Nat) (x : Int) : ((wrapN w x % 2 ^ w : Nat) : Int) = x % 2 ^ w := by
  have hpos : (0 : Int) < 2 ^ w := by positivity
  have hnonneg := Int.emod_nonneg x hpos.ne'
  rw [wrapN, Int.natCast_mod, Int.toNat_of_nonneg (by exact_mod_cast hnonneg)]
  push_cast
  exact Int.emod_emod_of_dvd _ dvd_rfl

theorem wrapN_sx {w e : Nat} (he : e < 2 ^ w) (hw : w ≠ 0) : wrapN w (sx w e) = e := by
  have h := sx_emod w e he hw
  rw [wrapN]
  push_cast
  rw [h, Int.toNat_natCast]

end Sys2Proof.Machine
end

section
/-! PROOF. Vector registers as an instruction reads and writes them, and the checks before it does (R213, R215, R216,
R223). -/

namespace Sys2Proof.Machine

/-! ### Reads and writes -/

theorem CoreSt.vecReg_eq_toNat (x : CoreSt) (long : Bool) (k : Nat) :
    ∃ v : BitVec (vecBits long), x.vecReg long k = v.toNat := by
  cases long
  · exact ⟨Map.get 0 x.vec.q k, rfl⟩
  · exact ⟨Map.get 0 x.vec.v k, rfl⟩

theorem CoreSt.vecReg_lt (x : CoreSt) (long : Bool) (k : Nat) : x.vecReg long k < 2 ^ vecBits long := by
  obtain ⟨v, hv⟩ := x.vecReg_eq_toNat long k
  rw [hv]
  exact v.isLt

theorem readVec_eq (d : Dyn) (c : Nat) (long : Bool) (k : Nat) : d.readVec c long k = (d.core c).vecReg long k := rfl

theorem State.issue_vec (s : State) (c : Core) :
    ((s.issue c).core c.val).vec = (s.dyn.core c.val).vec := by simp

@[simp] theorem State.issue_readVec (s : State) (c : Core) (long : Bool) (k : Nat) :
    (s.issue c).readVec c.val long k = (s.dyn.core c.val).vecReg long k := by
  rw [readVec_eq, CoreSt.vecReg, State.issue_vec]; rfl

@[simp] theorem State.issue_vecN (s : State) (c : Core) (long : Bool) (et : Nat) :
    (s.issue c).vecN c.val long et = s.dyn.vecN c.val long et := by simp [Dyn.vecN]

@[simp] theorem State.issue_vecEnabled (s : State) (c : Core) (long : Bool) :
    vecEnabled (s.issue c) c.val long = vecEnabled s.dyn c.val long := by simp [vecEnabled]

@[simp] theorem CoreSt.withDsat_false (x : CoreSt) : x.withDsat false = x := by
  simp [CoreSt.withDsat, CoreSt.withStatus]

@[simp] theorem CoreSt.withDsat_vecReg (x : CoreSt) (b long : Bool) (k : Nat) :
    (x.withDsat b).vecReg long k = x.vecReg long k := rfl

section
variable {c : Core} {s : State} {e : Dyn} {x : CoreSt} (h : CoreLeft c s e x)
include h

theorem CoreLeft.readVec (long : Bool) (k : Nat) : e.readVec c.val long k = x.vecReg long k := by
  rw [readVec_eq, h.core]; rfl

/-- A result that clips counts, and sets DSAT. -/
theorem CoreLeft.clipped (icls : Nat) (clip : Bool) :
    CoreLeft c s ((countSat e c.val icls clip).dsat c.val clip) (x.withDsat clip) := (h.countEv ..).dsat clip

theorem CoreLeft.onVec (f : CoreVec → CoreVec) : CoreLeft c s (e.onVec c.val f) { x with vec := f x.vec } :=
  ⟨h.only.trans (.setCore ..), by rw [Dyn.core_onVec, if_pos rfl, h.core]; rfl, h.pc⟩

theorem CoreLeft.writeVec (long : Bool) (k v : Nat) :
    CoreLeft c s (e.writeVec c.val long k v) (x.withVec long k v) := by
  cases long
  · exact h.onVec fun y => { y with q := Map.set y.q k (BitVec.ofNat 256 v) }
  · exact h.onVec fun y => { y with v := Map.set y.v k (BitVec.ofNat 2048 v) }

end

/-! ### The element count (R213) -/

theorem etWidth_pos (et : Nat) : etWidth et ≠ 0 := by
  unfold etWidth; split_ifs <;> decide

theorem vecN_le (d : Dyn) (c : Nat) (long : Bool) (et : Nat) : d.vecN c long et ≤ vecBits long / etWidth et := by
  cases long
  · exact le_rfl
  · exact min_le_right ..

/-- The elements of an instruction lie within its registers. -/
theorem vecN_fits (d : Dyn) (c : Nat) (long : Bool) (et : Nat) : d.vecN c long et * etWidth et ≤ vecBits long :=
  (Nat.mul_le_mul_right _ (vecN_le ..)).trans (Nat.div_mul_le_self ..)

theorem etWidth_eq (et : BitVec 2) : etWidth et.toNat = if et = 0 then 8 else if et = 1 then 16 else 32 := by
  revert et; decide

/-! ### The checks -/

theorem vecField_of_name {long : Bool} {r : Reg5} (h : VecName long r) : vecField long r = true := by
  cases long
  · rfl
  · exact decide_eq_true (h rfl)

section
variable {c : Core} {legal enabled : Dyn → Bool} {f : Dyn → Dyn} {img : Img} {d : Dyn} (hlegal : legal d = true)
include hlegal

theorem vecOp_coproc (henabled : enabled d = false) : vecOp c legal enabled f img d = .exc d (excCoproc 0) := by
  simp [vecOp, hlegal, henabled]

variable (henabled : enabled d = true)
include henabled

theorem vecOp_vstart (hstart : (d.core c.val).vec.vstart ≠ 0) : vecOp c legal enabled f img d = .exc d excVstart := by
  simp [vecOp, hlegal, henabled, hstart]

theorem vecOp_done (hstart : (d.core c.val).vec.vstart = 0) : vecOp c legal enabled f img d = .done (f d) none := by
  simp [vecOp, hlegal, henabled, hstart]

end

/-! ### An instruction that its checks let through -/

section
variable {c : Core} {s : State} {legal : Bool} {enabled : Dyn → Bool} {f : Dyn → Dyn} (h : Ready c s)
  (hstart : (s.dyn.core c.val).vec.vstart = 0) (hlegal : legal = true) (henabled : enabled (s.issue c) = true)
include h hstart hlegal henabled

/-- A vector instruction that passes its checks retires with what it makes of the core. -/
theorem vecOp_gives {y : CoreSt} (hleft : CoreLeft c s (f (s.issue c)) y) :
    Answers (act (bronze c 5 (vecOp c (fun _ => legal) enabled f)) s) (Retires c y none s) :=
  hleft.retires h (vecOp_done hlegal henabled (by rwa [State.issue_vec]))

/-- Its result is a register whose first `n` elements are written, and DSAT where it clips. -/
theorem vecOp_writes {e : Dyn} {long clip : Bool} {vd : Reg5} {w n old : Nat} {val : Nat → Nat} {g : Nat → Int}
    (hf : f (s.issue c) = e.writeVec c.val long vd.toNat (setElems w old ((List.range n).map val)))
    (hleft : CoreLeft c s e ((s.dyn.core c.val).withDsat clip)) (hold : old < 2 ^ vecBits long)
    (hfit : n * w ≤ vecBits long) (hval : ∀ i, ((val i % 2 ^ w : Nat) : Int) = g i % 2 ^ w) :
    VecGives (act (bronze c 5 (vecOp c (fun _ => legal) enabled f)) s) c long vd w n old clip g s := by
  refine ⟨setElems w old ((List.range n).map val), setElems_lt hold hfit, fun i _ => ?elements,
    vecOp_gives h hstart hlegal henabled ?core⟩
  case elements =>
    rw [elemAt_setElems]
    split_ifs with hi
    · exact hval i
    · rfl
  case core =>
    rw [hf]
    exact hleft.writeVec ..

end

end Sys2Proof.Machine
end

section
/-! PROOF. Element operations of the vector files (R226, Table 8.6): the components of the operands, exact results, and
what wrapping or saturating them leaves. -/

namespace Sys2Proof.Machine

/-! ### Components (R213) -/

theorem compW_eq (et : BitVec 2) : compW et.toNat = if et = 0 then 8 else if et = 2 then 32 else 16 := by
  revert et; decide

theorem compN_eq (et : BitVec 2) (n : Nat) : compN et.toNat n = (if et = 3 then 2 else 1) * n := by
  have htype : et.toNat = 3 ↔ et = 3 := BitVec.toNat_inj (y := 3)
  simp only [compN, htype]
  split_ifs <;> omega

theorem compW_pos (et : Nat) : compW et ≠ 0 := by
  unfold compW; split_ifs
  · decide
  · exact etWidth_pos et

theorem compN_fits (d : Dyn) (c : Nat) (long : Bool) (et : Nat) :
    compN et (d.vecN c long et) * compW et ≤ vecBits long := by
  have hfits := vecN_fits d c long et
  unfold compN compW
  split_ifs with h
  · subst h
    rw [show etWidth 3 = 32 from rfl] at hfits
    omega
  · exact hfits

/-! ### Results written to a register -/

/-- An instruction clips where one of its exact results lies outside the range. -/
theorem any_clips {w n : Nat} {g : Nat → Int} {clip : Bool}
    (hclip : clip = true ↔ ∃ k, k < n ∧ (g k < -2 ^ (w - 1) ∨ 2 ^ (w - 1) - 1 < g k)) :
    ((List.range n).map g).any (clips w) = clip := by
  rw [Bool.eq_iff_iff, hclip]
  simp [clips_eq]

section
variable {c : Core} {s : State} {long : Bool} {legal : Bool} {f : Dyn → Dyn} {vd : Reg5} {w n : Nat} {val g : Nat → Int}
  (h : VecReady c long s) (hlegal : legal = true) (hfit : n * w ≤ vecBits long)
include h hlegal hfit

theorem putComps_gives {sat clip : Bool}
    (hf : f (s.issue c) = putComps (s.issue c) c.val long vd.toNat w sat ((List.range n).map val))
    (hclip : (sat && ((List.range n).map val).any (clips w)) = clip)
    (hval : ∀ i, (if sat then satN w (val i) else val i) % 2 ^ w = g i % 2 ^ w) :
    VecGives (act (bronze c 5 (vecOp c (fun _ => legal) (fun d => vecEnabled d c.val long) f)) s) c long vd w n
      ((s.dyn.core c.val).vecReg long vd.toNat) clip g s := by
  obtain ⟨hready, henabled, hstart⟩ := h
  have hleft := (CoreLeft.issue c s).clipped 5 clip
  refine vecOp_writes hready hstart hlegal (by rwa [State.issue_vecEnabled])
    (val := fun i => wrapN w (if sat then satN w (val i) else val i)) (hf.trans ?_)
    hleft (CoreSt.vecReg_lt ..) hfit fun i => (wrapN_emod w _).trans (hval i)
  simp only [putComps, hclip, List.map_map, hleft.readVec, CoreSt.withDsat_vecReg]
  rfl

/-- An operation whose exact results wrap. -/
theorem putComps_wraps
    (hf : f (s.issue c) = putComps (s.issue c) c.val long vd.toNat w false ((List.range n).map val))
    (hval : ∀ i, val i % 2 ^ w = g i % 2 ^ w) :
    VecGives (act (bronze c 5 (vecOp c (fun _ => legal) (fun d => vecEnabled d c.val long) f)) s) c long vd w n
      ((s.dyn.core c.val).vecReg long vd.toNat) false g s :=
  putComps_gives h hlegal hfit hf rfl hval

/-- An operation whose exact results saturate. -/
theorem putComps_sats {clip : Bool}
    (hf : f (s.issue c) = putComps (s.issue c) c.val long vd.toNat w true ((List.range n).map val))
    (hval : ∀ i, val i = g i)
    (hclip : clip = true ↔ ∃ k, k < n ∧ (g k < -2 ^ (w - 1) ∨ 2 ^ (w - 1) - 1 < g k)) :
    VecGives (act (bronze c 5 (vecOp c (fun _ => legal) (fun d => vecEnabled d c.val long) f)) s) c long vd w n
      ((s.dyn.core c.val).vecReg long vd.toNat) clip (fun k => max (-2 ^ (w - 1)) (min (2 ^ (w - 1) - 1) (g k))) s := by
  obtain rfl : val = g := funext hval
  exact putComps_gives h hlegal hfit hf (any_clips hclip) fun i => by rw [if_pos rfl, satN_eq_clamp]

end

/-! ### Operations on components -/

theorem contains_every_type (et : BitVec 2) : [0, 1, 2, 3].contains et.toNat = true := by revert et; decide

theorem contains_real_type {et : BitVec 2} (h : et ≠ 3) : [0, 1, 2].contains et.toNat = true := by
  revert et; decide

section
variable {long : Bool} {vd va vb : Reg5} {et : BitVec 2} {ets : List Nat} (hets : ets.contains et.toNat = true)
  (hvd : VecName long vd) (hva : VecName long va)
include hets hvd hva

theorem vopLegal_reg_of_names (hvb : VecName long vb) : vopLegal long vd va vb et 0 false ets .reg false = true := by
  simp only [vopLegal, hets, vecField_of_name hvd, vecField_of_name hva, vecField_of_name hvb]
  rfl

theorem vopLegal_none_of_names : vopLegal long vd va 0 et 0 false ets .none false = true := by
  simp only [vopLegal, hets, vecField_of_name hvd, vecField_of_name hva]
  rfl

theorem vopLegal_imm_of_names (hvb : vb.toNat < compW et.toNat) :
    vopLegal long vd va vb et 0 false ets .imm false = true := by
  rw [compW] at hvb
  simp only [vopLegal, hets, vecField_of_name hvd, vecField_of_name hva, decide_eq_true hvb]
  rfl

end

/-- The second operand of component `i`: VB's component, or the amount in its place. -/
def vopArg (x : CoreSt) (long : Bool) (vb : Reg5) (w : Nat) : VbUse → Nat → Int
  | .imm, _ => vb.toNat
  | _, i => sx w (elemAt w (x.vecReg long vb.toNat) i)

section
variable {c : Core} {s : State} {long : Bool} {vd va vb : Reg5} {et : BitVec 2} {ets : List Nat} {use : VbUse}
  {F : Nat → Int → Int → Int} {g : Nat → Int} {w n : Nat} (h : VecReady c long s)
  (hlegal : vopLegal long vd va vb et 0 false ets use false = true)
  (hw : compW et.toNat = w) (hn : compN et.toNat (s.dyn.vecN c.val long et.toNat) = n)
include h hlegal hw hn

theorem vopComp_wraps (hg : ∀ i, F w (sx w (elemAt w ((s.dyn.core c.val).vecReg long va.toNat) i))
      (vopArg (s.dyn.core c.val) long vb w use i) % 2 ^ w = g i % 2 ^ w) :
    VecGives (act (bronze c 5 (vopComp c long vd va vb et 0 false ets use false F)) s) c long vd w n
      ((s.dyn.core c.val).vecReg long vd.toNat) false g s := by
  subst hw hn
  refine putComps_wraps h hlegal (compN_fits ..) ?_ hg
  simp only [State.issue_readVec, State.issue_vecN]
  cases use <;> rfl

theorem vopComp_sats (hg : ∀ i, F w (sx w (elemAt w ((s.dyn.core c.val).vecReg long va.toNat) i))
      (vopArg (s.dyn.core c.val) long vb w use i) = g i) (clip : Bool)
    (hclip : clip = true ↔ ∃ k, k < n ∧ (g k < -2 ^ (w - 1) ∨ 2 ^ (w - 1) - 1 < g k)) :
    VecGives (act (bronze c 5 (vopComp c long vd va vb et 0 false ets use true F)) s) c long vd w n
      ((s.dyn.core c.val).vecReg long vd.toNat) clip (fun k => max (-2 ^ (w - 1)) (min (2 ^ (w - 1) - 1) (g k))) s := by
  subst hw hn
  refine putComps_sats h hlegal (compN_fits ..) ?_ hg hclip
  simp only [State.issue_readVec, State.issue_vecN]
  cases use <;> rfl

end

/-- A bitwise operation on elements read as signed numbers is the operation on the elements. -/
theorem bitOp_elems (f : Nat → Nat → Nat) {w : Nat} (hw : w ≠ 0) (a b i : Nat) :
    bitOp f w (sx w (elemAt w a i)) (sx w (elemAt w b i)) = ((f (elemAt w a i) (elemAt w b i) : Nat) : Int) := by
  rw [bitOp, wrapN_sx (elemAt_lt ..) hw, wrapN_sx (elemAt_lt ..) hw]

/-- Half rounded up (R11). -/
theorem roundShift_eq (x : Int) (k : Nat) : roundShift x k = if k = 0 then x else (x + 2 ^ (k - 1)) / 2 ^ k := by
  unfold roundShift
  push_cast
  rfl

end Sys2Proof.Machine
end

section
/-! PROOF. Complex elements (R212, R226, R227): element `i` of type cint16 is components `2 i` and `2 i + 1`. -/

namespace Sys2Proof.Machine

/-! ### The components of a complex element -/

/-- Element `i` of a register as a complex word. -/
def complexAt (x i : Nat) : Word := BitVec.ofNat 32 (elemAt 32 x i)

theorem complexAt_toNat (x i : Nat) : (complexAt x i).toNat = elemAt 32 x i := by
  rw [complexAt, BitVec.toNat_ofNat]
  exact Nat.mod_eq_of_lt (elemAt_lt ..)

theorem elemAt_even_component (x i : Nat) : elemAt 16 x (2 * i) = elemAt 32 x i % 2 ^ 16 := by
  apply Nat.eq_of_testBit_eq
  intro k
  rw [testBit_elemAt, Nat.testBit_mod_two_pow, testBit_elemAt, show 16 * (2 * i) = 32 * i by ring]
  by_cases hk : k < 16
  · simp [hk, show k < 32 by omega]
  · simp [hk]

theorem elemAt_odd_component (x i : Nat) : elemAt 16 x (2 * i + 1) = elemAt 32 x i / 2 ^ 16 := by
  apply Nat.eq_of_testBit_eq
  intro k
  rw [testBit_elemAt, Nat.testBit_div_two_pow, testBit_elemAt, show 16 * (2 * i + 1) + k = 32 * i + (k + 16) by ring]
  by_cases hk : k < 16
  · simp [hk, show k + 16 < 32 by omega]
  · simp [hk, show ¬ k + 16 < 32 by omega]

theorem loHalf_complexAt (x i : Nat) : loHalf (complexAt x i) = sx 16 (elemAt 16 x (2 * i)) := by
  rw [loHalf, complexAt_toNat, elemAt_even_component]
  simp only [sx, Nat.mod_mod]

theorem hiHalf_complexAt (x i : Nat) : hiHalf (complexAt x i) = sx 16 (elemAt 16 x (2 * i + 1)) := by
  rw [hiHalf, complexAt_toNat, elemAt_odd_component, show (2 : Nat) ^ 16 = 65536 by rfl]

section
variable (x y i : Nat)

theorem cmulRe_complexAt : cmulRe (complexAt x i) (complexAt y i)
    = sx 16 (elemAt 16 x (2 * i)) * sx 16 (elemAt 16 y (2 * i))
      - sx 16 (elemAt 16 x (2 * i + 1)) * sx 16 (elemAt 16 y (2 * i + 1)) := by
  simp only [cmulRe, loHalf_complexAt, hiHalf_complexAt]

theorem cmulIm_complexAt : cmulIm (complexAt x i) (complexAt y i)
    = sx 16 (elemAt 16 x (2 * i)) * sx 16 (elemAt 16 y (2 * i + 1))
      + sx 16 (elemAt 16 x (2 * i + 1)) * sx 16 (elemAt 16 y (2 * i)) := by
  simp only [cmulIm, loHalf_complexAt, hiHalf_complexAt]

theorem cmulJRe_complexAt : cmulJRe (complexAt x i) (complexAt y i)
    = sx 16 (elemAt 16 x (2 * i)) * sx 16 (elemAt 16 y (2 * i))
      + sx 16 (elemAt 16 x (2 * i + 1)) * sx 16 (elemAt 16 y (2 * i + 1)) := by
  simp only [cmulJRe, loHalf_complexAt, hiHalf_complexAt]

theorem cmulJIm_complexAt : cmulJIm (complexAt x i) (complexAt y i)
    = sx 16 (elemAt 16 x (2 * i + 1)) * sx 16 (elemAt 16 y (2 * i))
      - sx 16 (elemAt 16 x (2 * i)) * sx 16 (elemAt 16 y (2 * i + 1)) := by
  simp only [cmulJIm, loHalf_complexAt, hiHalf_complexAt]

end

theorem roundShift_fifteen (x : Int) : roundShift x 15 = (x + 16384) / 32768 := rfl

/-! ### Operations on complex elements -/

/-- Pairs of results in order are results by number. -/
theorem flatten_pairs {α : Type} (g : Nat → α) (n : Nat) :
    ((List.range n).map (fun i => [g (2 * i), g (2 * i + 1)])).flatten = (List.range (2 * n)).map g := by
  induction n with
  | zero => rfl
  | succ n ih =>
    rw [List.range_succ, List.map_append, List.flatten_append, ih, Nat.mul_succ, List.range_succ, List.range_succ]
    simp

section
variable {c : Core} {s : State} {long : Bool} {vd va vb : Reg5} {use : VbUse} {k : Nat} {F : Word → Word → Int × Int}
  {g : Nat → Int} (h : VecReady c long s) (hlegal : vopLegal long vd va vb 3 0 false [3] use false = true)
include h hlegal

theorem vopCplx_sats
    (hre : ∀ i, roundShift (F (complexAt ((s.dyn.core c.val).vecReg long va.toNat) i)
      (complexAt ((s.dyn.core c.val).vecReg long vb.toNat) i)).1 k = g (2 * i))
    (him : ∀ i, roundShift (F (complexAt ((s.dyn.core c.val).vecReg long va.toNat) i)
      (complexAt ((s.dyn.core c.val).vecReg long vb.toNat) i)).2 k = g (2 * i + 1))
    (clip : Bool) (hclip : clip = true ↔ ∃ k, k < 2 * s.dyn.vecN c.val long 3 ∧ (g k < -32768 ∨ 32767 < g k)) :
    VecGives (act (bronze c 5 (vopCplx c long vd va vb 3 0 false use k F)) s) c long vd 16
      (2 * s.dyn.vecN c.val long 3) ((s.dyn.core c.val).vecReg long vd.toNat) clip
      (fun k => max (-32768) (min 32767 (g k))) s := by
  have hfit : 2 * s.dyn.vecN c.val long 3 * 16 ≤ vecBits long := compN_fits s.dyn c.val long 3
  refine putComps_sats (val := g) h hlegal hfit ?_ (fun _ => rfl) hclip
  rw [← flatten_pairs]
  simp only [← hre, ← him, State.issue_readVec, State.issue_vecN]
  rfl

end

end Sys2Proof.Machine
end

section
open Sys2Proof Sys2Proof.Machine

/-- Settles O16: every operation writes the exact results of its components, wrapped (`vopComp_wraps`) or saturated
(`vopComp_sats`); a complex one writes them in pairs (`vopCplx_sats`). -/
theorem vectorElementResults : Obligations.VectorElementResults := by
  unfold Obligations.VectorElementResults
  refine ⟨?components, ?complex⟩
  case components =>
    intro c long vd va vb et s h hvd hva x w n a b top round wraps sats
    have hw : compW et.toNat = w := compW_eq et
    have hn : compN et.toNat (s.dyn.vecN c.val long et.toNat) = n := compN_eq ..
    have hpos : w ≠ 0 := hw ▸ compW_pos et.toNat
    have hall : [0, 1, 2, 3].contains et.toNat = true := contains_every_type et
    refine ⟨fun hvb => ?binary, ?abs, fun hamount => ?shifts⟩
    case binary =>
      have hlegal := vopLegal_reg_of_names hall hvd hva hvb
      have hbits (f : Nat → Nat → Nat) (i : Nat) := bitOp_elems f hpos (x.vecReg long va.toNat) (x.vecReg long vb.toNat) i
      refine ⟨vopComp_wraps h hlegal hw hn fun _ => rfl, vopComp_wraps h hlegal hw hn fun _ => rfl,
        vopComp_sats h hlegal hw hn fun _ => rfl, vopComp_sats h hlegal hw hn fun _ => rfl,
        vopComp_wraps h hlegal hw hn fun i => congrArg (· % 2 ^ w) (hbits Nat.land i),
        vopComp_wraps h hlegal hw hn fun i => congrArg (· % 2 ^ w) (hbits Nat.lor i),
        vopComp_wraps h hlegal hw hn fun i => congrArg (· % 2 ^ w) (hbits Nat.xor i),
        vopComp_wraps h hlegal hw hn fun _ => rfl, vopComp_wraps h hlegal hw hn fun _ => rfl,
        vopComp_wraps h hlegal hw hn fun _ => rfl, fun het => ?product⟩
      case product =>
        have hreal : [0, 1, 2].contains et.toNat = true := contains_real_type het
        exact vopComp_sats h (vopLegal_reg_of_names hreal hvd hva hvb) hw hn fun i => roundShift_eq ..
    case abs =>
      exact vopComp_sats h (vopLegal_none_of_names hall hvd hva) hw hn fun i => natAbs_eq_ite _
    case shifts =>
      have hlegal := vopLegal_imm_of_names (vb := vb) hall hvd hva (hw.symm ▸ hamount)
      exact ⟨vopComp_wraps h hlegal hw hn fun i => congrArg (· % 2 ^ w) (roundShift_eq ..),
        vopComp_sats h hlegal hw hn fun i => by push_cast; rfl⟩
  case complex =>
    intro c long vd va vb s h hvd hva x n a b round15 sats
    have hreal (i : Nat) : 2 * i % 2 = 0 := Nat.mul_mod_right ..
    have himag (i : Nat) : (2 * i + 1) % 2 = 1 := Nat.mul_add_mod ..
    refine ⟨fun hvb => ?products, ?conjugate⟩
    case products =>
      have hlegal := vopLegal_reg_of_names (et := 3) (ets := [3]) rfl hvd hva hvb
      refine ⟨vopCplx_sats h hlegal (fun i => ?_) fun i => ?_, vopCplx_sats h hlegal (fun i => ?_) fun i => ?_⟩
      · rw [cmulRe_complexAt, roundShift_fifteen]; simp [hreal]; rfl
      · rw [cmulIm_complexAt, roundShift_fifteen]; simp [himag]; rfl
      · rw [cmulJRe_complexAt, roundShift_fifteen]; simp [hreal]; rfl
      · rw [cmulJIm_complexAt, roundShift_fifteen]; simp [himag]; rfl
    case conjugate =>
      have hlegal := vopLegal_none_of_names (et := 3) (ets := [3]) rfl hvd hva
      refine vopCplx_sats h hlegal (fun i => ?_) fun i => ?_
      · rw [hreal, loHalf_complexAt]; rfl
      · rw [himag, hiHalf_complexAt]; rfl

end

section
/-! PROOF. Dot products, narrowing, widening and permutation (R227 to R229). -/

namespace Sys2Proof.Machine

/-! ### Dot products (R227) -/

theorem foldl_add_eq_sum (n : Nat) (f : Nat → Int) :
    (List.range n).foldl (fun t i => t + f i) 0 = ((List.range n).map f).sum := by
  rw [List.sum_eq_foldl, List.foldl_map]

/-- VD of a dot product: its accumulator, and two reserved bits that are zero. -/
theorem accField_toNat (acc : BitVec 3) :
    (acc ++ (0 : BitVec 2)).toNat / 4 = acc.toNat ∧ (acc ++ (0 : BitVec 2)).toNat % 4 = 0 := by
  revert acc; decide

section
variable {c : Core} {s : State} {long sat : Bool} {acc : BitVec 3} {va vb : Reg5} {ets : List Nat} {conj : Bool}
  (h : VecReady c long s) (hva : VecName long va) (hvb : VecName long vb)
include h hva hvb

/-- A dot product of real elements puts its exact sum into its accumulator. -/
theorem vdot_real_gives {et : BitVec 2} (hets : ets.contains et.toNat = true) (het : et.toNat ≠ 3) {v : Int}
    (hv : (s.dyn.racc c.val acc.toNat).toInt + ((List.range (s.dyn.vecN c.val long et.toNat)).map fun i =>
      sx (etWidth et.toNat) (elemAt (etWidth et.toNat) ((s.dyn.core c.val).vecReg long va.toNat) i)
        * sx (etWidth et.toNat) (elemAt (etWidth et.toNat) ((s.dyn.core c.val).vecReg long vb.toNat) i)).sum = v) :
    Answers (act (bronze c 5 (vdot c long (acc ++ (0 : BitVec 2)) va vb et 0 sat ets conj)) s)
      (Retires c ((s.dyn.core c.val).sumInto acc.toNat sat v) none s) := by
  obtain ⟨hready, henabled, hstart⟩ := h
  obtain ⟨hacc, hzero⟩ := accField_toNat acc
  refine vecOp_gives hready hstart ?legal (by rwa [State.issue_vecEnabled]) ?left
  case legal =>
    simp only [hets, hzero, vecField_of_name hva, vecField_of_name hvb, decide_eq_true het]
    rfl
  case left =>
    simp only [if_neg het, foldl_add_eq_sum, State.issue_readVec, State.issue_vecN, State.issue_racc, hacc, hv]
    exact ((CoreLeft.issue c s).countEv ..).putAcc _ _ rfl

/-- A dot product of complex elements puts its two exact sums into an even pair. -/
theorem vdot_complex_gives (hets : ets.contains 3 = true) (hpair : acc.toNat % 2 = 0) {re im : Int}
    (hre : (s.dyn.racc c.val acc.toNat).toInt + ((List.range (s.dyn.vecN c.val long 3)).map fun i =>
      let x := complexAt ((s.dyn.core c.val).vecReg long va.toNat) i
      let y := complexAt ((s.dyn.core c.val).vecReg long vb.toNat) i
      if conj then cmulJRe x y else cmulRe x y).sum = re)
    (him : (s.dyn.racc c.val (acc.toNat + 1)).toInt + ((List.range (s.dyn.vecN c.val long 3)).map fun i =>
      let x := complexAt ((s.dyn.core c.val).vecReg long va.toNat) i
      let y := complexAt ((s.dyn.core c.val).vecReg long vb.toNat) i
      if conj then cmulJIm x y else cmulIm x y).sum = im) :
    Answers (act (bronze c 5 (vdot c long (acc ++ (0 : BitVec 2)) va vb 3 0 sat ets conj)) s)
      (Retires c (((s.dyn.core c.val).sumInto acc.toNat sat re).sumInto (acc.toNat + 1) sat im) none s) := by
  obtain ⟨hready, henabled, hstart⟩ := h
  obtain ⟨hacc, hzero⟩ := accField_toNat acc
  have htype : (3 : BitVec 2).toNat = 3 := rfl
  refine vecOp_gives hready hstart ?legal (by rwa [State.issue_vecEnabled]) ?left
  case legal =>
    simp only [htype, hets, hacc, hzero, hpair, vecField_of_name hva, vecField_of_name hvb]
    rfl
  case left =>
    simp only [complexAt] at hre him
    simp only [htype, if_true, foldl_add_eq_sum, State.issue_readVec, State.issue_vecN, State.issue_racc, hacc, hre, him]
    exact (((CoreLeft.issue c s).countEv ..).putAcc _ _ rfl).putAcc _ _ rfl

end

/-! ### Narrowing, widening and permutation (R228, R229) -/

section
variable {c : Core} {s : State} {long : Bool} {vd va vb : Reg5} {et : BitVec 2} {w : Nat} (h : VecReady c long s)
  (hvd : VecName long vd) (hva : VecName long va) (hw : etWidth et.toNat = w)
include h hvd hva hw

/-- A narrowing writes elements of half the width; a short destination's upper half becomes zero. -/
theorem vnr_gives (hets : [1, 2].contains et.toNat = true) (hvb : vb.toNat < compW et.toNat) {g : Nat → Int} {clip : Bool}
    (hg : ∀ i, roundShift (sx w (elemAt w ((s.dyn.core c.val).vecReg long va.toNat) i)) vb.toNat = g i)
    (hclip : clip = true ↔ ∃ i, i < s.dyn.vecN c.val long et.toNat
      ∧ (g i < -2 ^ (w / 2 - 1) ∨ 2 ^ (w / 2 - 1) - 1 < g i)) :
    VecGives (exec (.vnr c long vd va vb et 0 false) s) c long vd (w / 2) (s.dyn.vecN c.val long et.toNat)
      (if long then (s.dyn.core c.val).vecReg long vd.toNat else 0) clip
      (fun i => max (-2 ^ (w / 2 - 1)) (min (2 ^ (w / 2 - 1) - 1) (g i))) s := by
  subst hw
  obtain ⟨hready, henabled, hstart⟩ := h
  have hleft := (CoreLeft.issue c s).clipped 5 clip
  have hold : (if long then (s.dyn.core c.val).vecReg long vd.toNat else 0) < 2 ^ vecBits long := by
    split_ifs
    · exact CoreSt.vecReg_lt ..
    · exact Nat.two_pow_pos _
  have hfit : s.dyn.vecN c.val long et.toNat * (etWidth et.toNat / 2) ≤ vecBits long :=
    (Nat.mul_le_mul_left _ (Nat.div_le_self ..)).trans (vecN_fits ..)
  refine vecOp_writes hready hstart (vopLegal_imm_of_names hets hvd hva hvb) (by rwa [State.issue_vecEnabled])
    (val := fun i => wrapN (etWidth et.toNat / 2) (satN (etWidth et.toNat / 2) (g i))) ?_ hleft hold hfit
    fun i => (wrapN_emod _ _).trans (by rw [satN_eq_clamp])
  have hkept : (if long then (s.dyn.core c.val).vecReg true vd.toNat else 0)
      = if long then (s.dyn.core c.val).vecReg long vd.toNat else 0 := ite_congr rfl (fun hl => by rw [hl]) fun _ => rfl
  simp only [State.issue_readVec, State.issue_vecN, hg, any_clips hclip, List.map_map, hleft.readVec,
    CoreSt.withDsat_vecReg, hkept]
  rfl

/-- A widening writes elements of twice the width. -/
theorem vwid_gives (hets : [0, 1].contains et.toNat = true) :
    VecGives (exec (.vwid c long vd va 0 et 0 false) s) c long vd (2 * w)
      (s.dyn.vecN c.val long (et.toNat + 1)) ((s.dyn.core c.val).vecReg long vd.toNat) false
      (fun i => sx w (elemAt w ((s.dyn.core c.val).vecReg long va.toNat) i)) s := by
  subst hw
  obtain ⟨hready, henabled, hstart⟩ := h
  have hwidth : etWidth (et.toNat + 1) = 2 * etWidth et.toNat := by revert hets; revert et; decide
  refine vecOp_writes hready hstart (vopLegal_none_of_names hets hvd hva) (by rwa [State.issue_vecEnabled]) ?_
    ((CoreLeft.issue c s).dsat false) (CoreSt.vecReg_lt ..) (hwidth ▸ vecN_fits ..) fun i => wrapN_emod _ _
  simp only [State.issue_readVec, State.issue_vecN]
  rfl

/-- A permutation writes elements of VA, each by its index modulo the count of the whole register. -/
theorem vperm_gives (hvb : VecName long vb) {index : Nat → Nat} (hindex : ∀ i,
      (if et.toNat = 3 then elemAt 32 ((s.dyn.core c.val).vecReg long vb.toNat) i % 65536
        else elemAt w ((s.dyn.core c.val).vecReg long vb.toNat) i) = index i) :
    VecGives (exec (.vperm c long vd va vb et 0 false) s) c long vd w (s.dyn.vecN c.val long et.toNat)
      ((s.dyn.core c.val).vecReg long vd.toNat) false
      (fun i => sx w (elemAt w ((s.dyn.core c.val).vecReg long va.toNat) (index i % (vecBits long / w)))) s := by
  subst hw
  obtain ⟨hready, henabled, hstart⟩ := h
  refine vecOp_writes hready hstart (vopLegal_reg_of_names (contains_every_type et) hvd hva hvb)
    (by rwa [State.issue_vecEnabled])
    (val := fun i => elemAt (etWidth et.toNat) ((s.dyn.core c.val).vecReg long va.toNat)
      (index i % (vecBits long / etWidth et.toNat))) ?_
    ((CoreLeft.issue c s).dsat false) (CoreSt.vecReg_lt ..) (vecN_fits ..) fun i => ?_
  · simp only [State.issue_readVec, State.issue_vecN, hindex]
    rfl
  · rw [Nat.mod_eq_of_lt (elemAt_lt ..), sx_emod _ _ (elemAt_lt ..) (etWidth_pos _)]

end

end Sys2Proof.Machine
end

section
open Sys2Proof Sys2Proof.Machine

/-- Settles O17: a dot product puts its exact sums into its accumulators (`vdot_real_gives`, `vdot_complex_gives`);
narrowing writes rounded values within the bounds of half the width, widening the values themselves. -/
theorem vectorReductions : Obligations.VectorReductions := by
  unfold Obligations.VectorReductions
  refine ⟨?dot, ?width⟩
  case dot =>
    intro c long acc va vb et sat s h hva hvb x vd k n el sum gives
    refine ⟨?real, ?complex⟩
    case real =>
      intro het w
      have htype : et.toNat ≠ 3 := fun hthree => het (BitVec.eq_of_toNat_eq hthree)
      have hw : etWidth et.toNat = w := by
        change _ = if et = 0 then 8 else if et = 2 then 32 else 16
        revert et; decide
      exact vdot_real_gives h hva hvb (contains_every_type et) htype (by rw [hw])
    case complex =>
      intro het hpair re im old old'
      subst het
      refine ⟨vdot_complex_gives h hva hvb rfl hpair ?_ ?_, vdot_complex_gives h hva hvb rfl hpair ?_ ?_⟩
      · simp only [cmulRe_complexAt, Bool.false_eq_true, if_false]; rfl
      · simp only [cmulIm_complexAt, Bool.false_eq_true, if_false]; rfl
      · simp only [cmulJRe_complexAt, if_true]; rfl
      · simp only [cmulJIm_complexAt, if_true]; rfl
  case width =>
    intro c long vd va vb et s h hvd hva x w n old e top round
    have hw : etWidth et.toNat = w := etWidth_eq et
    refine ⟨fun het hamount clip hclip => ?narrow, fun het => ?widen⟩
    case narrow =>
      have hets : [1, 2].contains et.toNat = true := by rcases het with rfl | rfl <;> rfl
      have hcomp : compW et.toNat = w := by rcases het with rfl | rfl <;> rfl
      exact vnr_gives h hvd hva hw hets (hcomp.symm ▸ hamount) (fun i => roundShift_eq ..) hclip
    case widen =>
      have hets : [0, 1].contains et.toNat = true := by rcases het with rfl | rfl <;> rfl
      exact vwid_gives h hvd hva hw hets

/-- Settles O18: VPERM writes elements that are all read before (`vperm_gives`); an index has the element's bits, or
the low 16 of a complex one's. -/
theorem vectorPermute : Obligations.VectorPermute := by
  unfold Obligations.VectorPermute
  intro c long vd va vb et s h hvd hva hvb x w index
  have hw : etWidth et.toNat = w := etWidth_eq et
  have hthree : et.toNat = 3 ↔ et = 3 := BitVec.toNat_inj (y := 3)
  refine vperm_gives (index := index) h hvd hva hw hvb fun i => ?index
  by_cases htype : et = 3
  · simp only [index, if_pos htype, if_pos (hthree.mpr htype)]
    subst htype
    rfl
  · simp only [index, if_neg htype, if_neg (mt hthree.mp htype)]
    exact (Nat.mod_eq_of_lt (elemAt_lt ..)).symm

end

section
/-! PROOF. Moves between the vector files and the D registers, and VSETVL (R215, R230). -/

namespace Sys2Proof.Machine

theorem etCount_pos (et : Nat) (long : Bool) : 0 < etCount et (vecBits long) := by
  unfold etCount etWidth
  cases long <;> split_ifs <;> decide

theorem elemIndex_lt (d : Dyn) (c : Nat) (z : Reg5) (et : Nat) (long : Bool) :
    elemIndex d c z et long < vecBits long / etWidth et := Nat.mod_lt _ (etCount_pos et long)

theorem setvlEnabled_iff {c : Core} {s : State} : setvlEnabled (s.issue c) c.val = true
    ↔ (s.dyn.status c.val).pl = .exec ∨ (s.dyn.core c.val).vec.enable.getLsbD 1 = true := by
  simp [setvlEnabled, bit, BitVec.getLsbD]

section
variable {c : Core} {s : State} {long : Bool} {p q r : Reg5} {et : BitVec 2} {w : Nat} (h : Ready c s)
  (hstart : (s.dyn.core c.val).vec.vstart = 0)
include h hstart

/-! ### One file -/

section
variable (henabled : vecEnabled s.dyn c.val long = true) (hw : etWidth et.toNat = w)
include henabled hw

/-- VSPLAT writes every element with the low bits of a D register. -/
theorem vsplat_gives (hp : VecName long p) : VecGives (exec (.vsplat c p q 0 long et 0) s) c long p w
    (s.dyn.vecN c.val long et.toNat) ((s.dyn.core c.val).vecReg long p.toNat) false
    (fun _ => (s.dyn.rd c.val q).toNat) s := by
  subst hw
  refine vecOp_writes h hstart (by simp [vecField_of_name hp]) (by rwa [State.issue_vecEnabled])
    (val := fun _ => (s.dyn.rd c.val q).toNat) ?_ ((CoreLeft.issue c s).dsat false) (CoreSt.vecReg_lt ..)
    (vecN_fits ..) fun _ => by push_cast; rfl
  simp only [State.issue_readVec, State.issue_vecN, State.issue_rd, List.map_const', List.length_range]
  rfl

/-- VINS writes one element and keeps the others. -/
theorem vins_gives (hp : VecName long p) : ∃ v, v < 2 ^ vecBits long
    ∧ Answers (exec (.vins c p q r long et 0) s) (Retires c ((s.dyn.core c.val).withVec long p.toNat v) none s)
    ∧ ∀ i, elemAt w v i = if i = (s.dyn.rd c.val r).toNat % (vecBits long / w) then (s.dyn.rd c.val q).toNat % 2 ^ w
        else elemAt w ((s.dyn.core c.val).vecReg long p.toNat) i := by
  subst hw
  let index := elemIndex s.dyn c.val r et.toNat long
  have hindex : etWidth et.toNat * (index + 1) ≤ vecBits long :=
    (Nat.mul_le_mul_left _ (elemIndex_lt ..)).trans (Nat.mul_div_le ..)
  refine ⟨setElem (etWidth et.toNat) ((s.dyn.core c.val).vecReg long p.toNat) index (s.dyn.rd c.val q).toNat,
    setElem_lt (CoreSt.vecReg_lt ..) hindex, ?_, fun i => elemAt_setElem ..⟩
  refine vecOp_gives h hstart (by simp [vecField_of_name hp]) (by rwa [State.issue_vecEnabled]) ?_
  simp only [elemIndex, State.issue_readVec, State.issue_rd]
  exact (CoreLeft.issue c s).writeVec ..

/-- VEXT gives a D register one element, with its sign. -/
theorem vext_gives (hq : VecName long q) : Answers (exec (.vext c p q r long et 0) s)
    (Retires c ((s.dyn.core c.val).withD p (BitVec.ofInt 32 (sx w (elemAt w ((s.dyn.core c.val).vecReg long q.toNat)
      ((s.dyn.rd c.val r).toNat % (vecBits long / w)))))) none s) := by
  subst hw
  refine vecOp_gives h hstart (by simp [vecField_of_name hq]) (by rwa [State.issue_vecEnabled]) ?_
  simp only [elemIndex, State.issue_readVec, State.issue_rd]
  exact (CoreLeft.issue c s).wd p rfl

end

/-! ### Both files -/

section
variable (hshort : vecEnabled s.dyn c.val false = true) (hlong : vecEnabled s.dyn c.val true = true)
include hshort hlong

/-- VQTOV writes one chunk of a long register and keeps the others. -/
theorem vqtov_gives (hp : p.toNat < 8) : ∃ v, v < 2 ^ 2048
    ∧ Answers (exec (.vqtov c p q r long et 0) s) (Retires c ((s.dyn.core c.val).withVec true p.toNat v) none s)
    ∧ ∀ i, elemAt 256 v i = if i = (s.dyn.rd c.val r).toNat % 8 then (s.dyn.core c.val).vecReg false q.toNat
        else elemAt 256 ((s.dyn.core c.val).vecReg true p.toNat) i := by
  have hchunk : 256 * ((s.dyn.rd c.val r).toNat % 8 + 1) ≤ 2048 := by omega
  have hold := (s.dyn.core c.val).vecReg_lt true p.toNat
  rw [show vecBits true = 2048 from rfl] at hold
  refine ⟨setElem 256 ((s.dyn.core c.val).vecReg true p.toNat) ((s.dyn.rd c.val r).toNat % 8)
    ((s.dyn.core c.val).vecReg false q.toNat), setElem_lt hold hchunk, ?_, fun i => ?_⟩
  · refine vecOp_gives h hstart (by simp [vecField, hp]) (by simp [hshort, hlong]) ?_
    have hread : ((s.issue c).rq c.val q.toNat).toNat = (s.dyn.core c.val).vecReg false q.toNat :=
      State.issue_readVec s c false q.toNat
    simp only [State.issue_readVec, State.issue_rd, hread]
    exact (CoreLeft.issue c s).writeVec ..
  · have hlt : (s.dyn.core c.val).vecReg false q.toNat < 2 ^ 256 := CoreSt.vecReg_lt ..
    rw [elemAt_setElem, Nat.mod_eq_of_lt hlt]

/-- VVTOQ gives a short register one chunk. -/
theorem vvtoq_gives (hq : q.toNat < 8) : Answers (exec (.vvtoq c p q r long et 0) s)
    (Retires c ((s.dyn.core c.val).withVec false p.toNat
      (elemAt 256 ((s.dyn.core c.val).vecReg true q.toNat) ((s.dyn.rd c.val r).toNat % 8))) none s) := by
  refine vecOp_gives h hstart (by simp [vecField, hq]) (by simp [hshort, hlong]) ?_
  simp only [State.issue_readVec, State.issue_rd]
  exact (CoreLeft.issue c s).writeVec ..

end

/-! ### VSETVL -/

/-- VSETVL sets the length, at most 256, and gives it to a D register. -/
theorem vsetvl_gives (henabled : setvlEnabled (s.issue c) c.val = true) :
    let m := min (s.dyn.rd c.val q).toNat 256
    Answers (exec (.vsetvl c p q 0 false 0 0) s) (Retires c
      (CoreSt.withD { s.dyn.core c.val with vec := { (s.dyn.core c.val).vec with vl := m } } p (BitVec.ofNat 32 m))
      none s) := by
  refine vecOp_gives h hstart rfl henabled ?_
  simp only [State.issue_rd]
  exact ((CoreLeft.issue c s).onVec _).wd p rfl

end

end Sys2Proof.Machine
end

section
open Sys2Proof Sys2Proof.Machine

/-- Settles O19: each move is one write of a register of its own file, and its checks are those of the files it works
on; VSETVL's is VT below EXEC. -/
theorem vectorMoves : Obligations.VectorMoves := by
  unfold Obligations.VectorMoves
  intro c long p q r et s h hstart x w gives on idx chunk
  have hw : etWidth et.toNat = w := etWidth_eq et
  refine ⟨fun hon hp => ⟨vsplat_gives h hstart hon hw hp, ?insert⟩, fun hon hq => vext_gives h hstart hon hw hq,
    fun hshort hlong hp => ?toLong, fun hshort hlong hq => vvtoq_gives h hstart hshort hlong hq,
    fun hlevel => vsetvl_gives h hstart (setvlEnabled_iff.mpr hlevel)⟩
  case insert =>
    obtain ⟨v, hlt, hgives, helems⟩ := vins_gives (q := q) (r := r) h hstart hon hw hp
    exact ⟨v, hlt, hgives, fun i _ => helems i⟩
  case toLong =>
    obtain ⟨v, hlt, hgives, helems⟩ := vqtov_gives (long := long) (et := et) (q := q) (r := r) h hstart hshort hlong hp
    exact ⟨v, hlt, hgives, fun i _ => helems i⟩

end

section
/-! PROOF. Vector loads and stores (R213, R217 to R221), and the checks of every vector instruction (R215, R223). -/

namespace Sys2Proof.Machine

/-! ### The ways of an access -/

/-- The machine `e`, in which an access that began in `d` has moved its elements, as the access ends: an access outside
its circular buffer counts, VSTART is cleared and the pointer moves. -/
def vecEnds (d : Dyn) (c : Nat) (long : Bool) (pn : BitVec 4) (am et : BitVec 2) (mn : BitVec 4) (e : Dyn) : Dyn :=
  let size := d.vecN c long et.toNat * etWidth et.toNat / 8
  let cleared := (countOutside e c (decide (am ≠ 0) && d.circOutside c pn.toNat (d.rp c pn.toNat).toNat size)).onVec c
    (fun v => { v with vstart := 0 })
  if am = 0 then cleared else cleared.postMod c pn.toNat (if am = 1 then (size : Int) else (d.rm c mn.toNat).toInt)

/-- The fields of a legal load or store. -/
theorem vecForm_accepted {legal : Bool} {am : BitVec 2} (hlegal : legal = true) (ham : am ≠ 3) :
    (!legal || decide (am.toNat = 3)) = false := by
  rw [toNat_eq_three, hlegal]
  simpa using ham

/-- An address that U or its alignment allows (R218). -/
theorem vecAddr_aligned {u : Bool} {a : Nat} (h : u = true ∨ a % 32 = 0) :
    (!u && decide (a % 32 ≠ 0)) = false := by
  rcases h with h | h <;> simp [h]

section
variable {c : Core} {long u legal : Bool} {pn mn : BitVec 4} {am et : BitVec 2} {spoil : Dyn → Nat → Nat → Dyn}
  {move : Dyn → Nat → Nat → Nat → Dyn × Option (Nat × Nat)} {img : Img} {d : Dyn}
  (hlegal : legal = true) (ham : am ≠ 3)
include hlegal ham

theorem vecAccess_coproc (henabled : vecEnabled d c.val long = false) :
    vecAccess c long pn am et u mn legal spoil move img d = .exc d (excCoproc 0) := by
  simp only [vecAccess, vecForm_accepted hlegal ham, henabled]
  rfl

variable (henabled : vecEnabled d c.val long = true)
include henabled

theorem vecAccess_vstart (hstart : (d.core c.val).vec.vstart ≠ 0)
    (hpast : d.vecN c.val long et.toNat ≤ (d.core c.val).vec.vstart) :
    vecAccess c long pn am et u mn legal spoil move img d = .exc d excVstart := by
  have hfault : d.vecN c.val long et.toNat ≤ (d.core c.val).vec.vstart
      ∧ ¬ (d.vecN c.val long et.toNat = 0 ∧ (d.core c.val).vec.vstart = 0) := ⟨hpast, fun hboth => hstart hboth.2⟩
  simp only [vecAccess, vecForm_accepted hlegal ham, henabled, if_pos hfault]
  rfl

theorem vecAccess_empty (hstart : (d.core c.val).vec.vstart = 0) (hn : d.vecN c.val long et.toNat = 0) :
    vecAccess c long pn am et u mn legal spoil move img d
      = .done (if am = 0 then d else d.postMod c.val pn.toNat 0) none := by
  have hmode : am.toNat = 0 ↔ am = 0 := BitVec.toNat_inj (y := 0)
  simp only [vecAccess, vecForm_accepted hlegal ham, henabled, hstart, hn, hmode]
  rfl

section
variable {w n i a : Nat} (hw : etWidth et.toNat = w) (hn : d.vecN c.val long et.toNat = n)
  (hi : (d.core c.val).vec.vstart = i) (ha : (d.rp c.val pn.toNat).toNat = a) (hlt : i < n)
  (halign : u = true ∨ a % 32 = 0) (hallowed : firstDenied d c.val a w n i = n) {e : Dyn}
include hw hn hi ha hlt halign hallowed

/-- An access whose elements are all allowed and answered. -/
theorem vecAccess_done (hmove : move d a i n = (e, none)) :
    vecAccess c long pn am et u mn legal spoil move img d = .done (vecEnds d c.val long pn am et mn e) none := by
  have hzero : am.toNat = 0 ↔ am = 0 := BitVec.toNat_inj (y := 0)
  have hone : am.toNat = 1 ↔ am = 1 := BitVec.toNat_inj (y := 1)
  subst hw hn hi ha
  simp only [vecAccess, vecEnds, vecForm_accepted hlegal ham, henabled, Nat.not_le.mpr hlt, Nat.ne_zero_of_lt hlt,
    vecAddr_aligned halign, hallowed, hmove, hzero, hone, Nat.lt_irrefl, false_and, if_false, Bool.not_true,
    Bool.false_eq_true, ne_eq]

/-- An access of which a part fails, on a core without a task. -/
theorem vecAccess_failed {j status : Nat} (hmove : move d a i n = (e, some (j, status)))
    (hstatus : status ≠ parityStatus) (htask : (e.core c.val).tsk.task = none) :
    vecAccess c long pn am et u mn legal spoil move img d = .exc (e.onVec c.val (fun v => { v with vstart := j }))
      (excData (4 * status) (BitVec.ofNat 48 ((a + j * (w / 8)) % 2 ^ 48))) := by
  subst hw hn hi ha
  simp only [vecAccess, vecForm_accepted hlegal ham, henabled, Nat.not_le.mpr hlt, Nat.ne_zero_of_lt hlt,
    vecAddr_aligned halign, hallowed, hmove, htask, hstatus, false_and, if_false, Bool.not_true, Bool.false_eq_true,
    Option.isSome_none, or_self]

end

end

/-! ### The instructions -/

/-- An instruction that is ready and raises an exception, whatever of the machine it has changed. -/
theorem bronze_excepts {c : Core} {icls : Nat} {f : Img → Dyn → Res} {s : State} {e : Dyn} {x : Exc}
    (h : Ready c s) (hf : f s.img (s.issue c) = .exc e x) :
    Becomes (act (bronze c icls f) s) s (syncException e c.val x) := by
  simp [Becomes, act_up h.1, bronze_ready h, runFetched, hf]

section
variable (c : Core) (long : Bool) (vr : Reg5) (pn mn : BitVec 4) (am et : BitVec 2) (u : Bool) (rsv : Byte) (s : State)

theorem exec_vld : exec (if long then .vldV c vr pn am et u mn rsv else .vldQ c vr pn am et u mn rsv) s
    = act (bronze c 5 (vld c long vr pn am et u mn rsv)) s := by
  cases long
  · rfl
  · rfl

theorem exec_vst : exec (if long then .vstV c vr pn am et u mn rsv else .vstQ c vr pn am et u mn rsv) s
    = act (bronze c 5 (vst c long vr pn am et u mn rsv)) s := by
  cases long
  · rfl
  · rfl

end

/-! ### The checks of every vector instruction (R215, R223) -/

/-- The instruction runs as a vector instruction of core `c` that raises COPROC where it is not `enabled`, and else
VSTART_FAULT where it is `barred`. -/
def VecChecked (i : Instr) (c : Core) (enabled barred : Dyn → Prop) : Prop :=
  ∃ f, (∀ s, exec i s = act (bronze c 5 f) s) ∧ ∀ img d,
    (¬ enabled d → f img d = .exc d (excCoproc 0)) ∧ (enabled d → barred d → f img d = .exc d excVstart)

/-- VSTART is not zero. -/
def vecStarted (c : Core) (d : Dyn) : Prop := (d.core c.val).vec.vstart ≠ 0

/-- VSTART lies past the elements of a load or store (R223; with none of them, log 98). -/
def vecPast (c : Core) (long : Bool) (et : BitVec 2) (d : Dyn) : Prop :=
  vecStarted c d ∧ d.vecN c.val long et.toNat ≤ (d.core c.val).vec.vstart

namespace VecChecked

variable {i : Instr} {c : Core} {enabled barred : Dyn → Prop}

theorem raises_coproc {s : State} (hi : VecChecked i c enabled barred) (h : Ready c s) (hoff : ¬ enabled (s.issue c)) :
    Raises (exec i s) c (excCoproc 0) s := by
  obtain ⟨f, hexec, hchecks⟩ := hi
  rw [hexec]
  exact bronze_raises h ((hchecks ..).1 hoff)

theorem raises_vstart {s : State} (hi : VecChecked i c enabled barred) (h : Ready c s) (hon : enabled (s.issue c))
    (hbarred : barred (s.issue c)) : Raises (exec i s) c excVstart s := by
  obtain ⟨f, hexec, hchecks⟩ := hi
  rw [hexec]
  exact bronze_raises h ((hchecks ..).2 hon hbarred)

theorem of_vecOp {legal : Bool} {on : Dyn → Bool} {f : Dyn → Dyn}
    (hexec : ∀ s, exec i s = act (bronze c 5 (vecOp c (fun _ => legal) on f)) s) (hlegal : legal = true)
    (hon : ∀ d, on d = true ↔ enabled d) : VecChecked i c enabled (vecStarted c) :=
  ⟨_, hexec, fun _ d => ⟨fun h => vecOp_coproc hlegal (Bool.eq_false_iff.mpr (mt (hon d).mp h)),
    fun h hstart => vecOp_vstart hlegal ((hon d).mpr h) hstart⟩⟩

theorem of_vecAccess {long u legal : Bool} {pn mn : BitVec 4} {am et : BitVec 2} {f : Img → Dyn → Res}
    (hexec : ∀ s, exec i s = act (bronze c 5 f) s)
    (hf : ∀ img d, ∃ spoil move, f img d = vecAccess c long pn am et u mn legal spoil move img d)
    (hlegal : (legal && am != 3) = true) (hon : ∀ d, vecEnabled d c.val long = true ↔ enabled d) :
    VecChecked i c enabled (vecPast c long et) := by
  obtain ⟨hlegal, ham⟩ := Bool.and_eq_true_iff.mp hlegal
  have ham : am ≠ 3 := bne_iff_ne.mp ham
  refine ⟨f, hexec, fun img d => ?_⟩
  obtain ⟨spoil, move, hf⟩ := hf img d
  rw [hf]
  exact ⟨fun h => vecAccess_coproc hlegal ham (Bool.eq_false_iff.mpr (mt (hon d).mp h)),
    fun h ⟨hstart, hpast⟩ => vecAccess_vstart hlegal ham ((hon d).mpr h) hstart hpast⟩

end VecChecked

/-- An instruction of one file is enabled as the file is. -/
theorem enabled_file (c : Core) (long : Bool) (d : Dyn) :
    vecEnabled d c.val long = true ↔ ∀ l ∈ [long], vecEnabled d c.val l = true := by simp

theorem enabled_files (c : Core) (d : Dyn) : (vecEnabled d c.val false && vecEnabled d c.val true) = true
    ↔ ∀ l ∈ [false, true], vecEnabled d c.val l = true := by simp

theorem badMove_eq (long : Bool) (vr : Reg5) (am : BitVec 2) (rsv : Byte) :
    (decide (rsv = 0) && vecField long vr && am != 3) = !(rsv != 0 || am == 3 || badVec long vr) := by
  rw [vecField_eq_not]
  cases badVec long vr <;> simp [bne, beq_eq_decide]

section
variable {i : Instr} {c : Core} {long u : Bool} {vr : Reg5} {pn mn : BitVec 4} {am et : BitVec 2} {rsv : Byte}
  (hgood : (rsv != 0 || am == 3 || badVec long vr) = false)
include hgood

theorem vld_checked (hexec : ∀ s, exec i s = act (bronze c 5 (vld c long vr pn am et u mn rsv)) s) :
    VecChecked i c (fun d => ∀ l ∈ [long], vecEnabled d c.val l = true) (vecPast c long et) :=
  .of_vecAccess hexec (fun _ _ => ⟨_, _, rfl⟩) ((badMove_eq ..).trans (congrArg not hgood)) (enabled_file _ _)

theorem vst_checked (hexec : ∀ s, exec i s = act (bronze c 5 (vst c long vr pn am et u mn rsv)) s) :
    VecChecked i c (fun d => ∀ l ∈ [long], vecEnabled d c.val l = true) (vecPast c long et) :=
  .of_vecAccess hexec (fun _ _ => ⟨_, _, rfl⟩) ((badMove_eq ..).trans (congrArg not hgood)) (enabled_file _ _)

end

section
variable {i : Instr} {c : Core} {v : Reg5} {pn mn : BitVec 4} {am et : BitVec 2} {u : Bool} {rsv : Byte}
  (hgood : badFields i = false)
include hgood

theorem shortMove_checked (hi : i = .vldQ c v pn am et u mn rsv ∨ i = .vstQ c v pn am et u mn rsv) :
    VecChecked i c (fun d => ∀ l ∈ vecFiles i, vecEnabled d c.val l = true) (vecPast c false et) := by
  have hfields : (rsv != 0 || am == 3 || badVec false v) = false := by
    rcases hi with rfl | rfl <;> exact (Bool.or_false _).trans hgood
  rcases hi with rfl | rfl
  · exact vld_checked hfields fun _ => rfl
  · exact vst_checked hfields fun _ => rfl

theorem longMove_checked (hi : i = .vldV c v pn am et u mn rsv ∨ i = .vstV c v pn am et u mn rsv) :
    VecChecked i c (fun d => ∀ l ∈ vecFiles i, vecEnabled d c.val l = true) (vecPast c true et) := by
  have hfields : (rsv != 0 || am == 3 || badVec true v) = false := by
    rcases hi with rfl | rfl <;> exact hgood
  rcases hi with rfl | rfl
  · exact vld_checked hfields fun _ => rfl
  · exact vst_checked hfields fun _ => rfl

end

theorem vecFiles_checked {i : Instr} {c : Core} (hcore : onCore i = some c) (hgood : badFields i = false)
    (hfiles : vecFiles i ≠ []) : ∃ barred, (vecMoves i = false → barred = vecStarted c)
      ∧ VecChecked i c (fun d => ∀ l ∈ vecFiles i, vecEnabled d c.val l = true) barred := by
  cases i
  case vldQ =>
    cases hcore
    exact ⟨_, nofun, shortMove_checked hgood (.inl rfl)⟩
  case vstQ =>
    cases hcore
    exact ⟨_, nofun, shortMove_checked hgood (.inr rfl)⟩
  case vldV =>
    cases hcore
    exact ⟨_, nofun, longMove_checked hgood (.inl rfl)⟩
  case vstV =>
    cases hcore
    exact ⟨_, nofun, longMove_checked hgood (.inr rfl)⟩
  case vadd | vsub | vadds | vsubs | vand | vor | vxor | vmin | vmax | vavgr | vmulr | vperm | vcmulr | vcmuljr =>
    cases hcore
    exact ⟨_, fun _ => rfl, .of_vecOp (fun _ => rfl) (vopLegal_reg.trans (congrArg not hgood)) (enabled_file _ _)⟩
  case vabs | vconj | vwid =>
    cases hcore
    exact ⟨_, fun _ => rfl, .of_vecOp (fun _ => rfl) (vopLegal_none.trans (congrArg not hgood)) (enabled_file _ _)⟩
  case vsrar | vslls | vnr =>
    cases hcore
    exact ⟨_, fun _ => rfl, .of_vecOp (fun _ => rfl) (vopLegal_imm.trans (congrArg not hgood)) (enabled_file _ _)⟩
  case vdot | vdotj =>
    cases hcore
    exact ⟨_, fun _ => rfl, .of_vecOp (fun _ => rfl) (dotLegal_eq.trans (congrArg not hgood)) (enabled_file _ _)⟩
  case vsplat | vins | vext =>
    cases hcore
    exact ⟨_, fun _ => rfl, .of_vecOp (fun _ => rfl) (by simpa [badFields, vecField_eq_not, and_assoc] using hgood)
      (enabled_file _ _)⟩
  case vqtov | vvtoq =>
    cases hcore
    exact ⟨_, fun _ => rfl, .of_vecOp (fun _ => rfl) (by simpa [badFields, vecField_eq_not] using hgood)
      (enabled_files _)⟩
  all_goals exact absurd rfl hfiles

end Sys2Proof.Machine
end

section
open Sys2Proof Sys2Proof.Machine

/-- Settles O20: the access takes the way that its elements take it (`vecAccess_empty`, `vecAccess_done`,
`vecAccess_failed`). -/
theorem vectorLoadsAndStores : Obligations.VectorLoadsAndStores := by
  unfold Obligations.VectorLoadsAndStores
  intro c long vr pn mn am et u s h hvr ham henabled k d0 w n i a st ld sto clear circ step ends
  have hlegal : (decide ((0 : Byte) = 0) && vecField long vr) = true := vecField_of_name hvr
  have hon : vecEnabled d0 c.val long = true := by rwa [State.issue_vecEnabled]
  have hw : etWidth et.toNat = w := etWidth_eq et
  have hst : st = s.dyn.status c.val := State.issue_status ..
  have hld : ld = act (bronze c 5 (vld c long vr pn am et u mn 0)) s := exec_vld ..
  have hsto : sto = act (bronze c 5 (vst c long vr pn am et u mn 0)) s := exec_vst ..
  have hends (e : Dyn) : ends e = retire (vecEnds d0 c.val long pn am et mn e) c.val 5 st.pl st.inrep none := by
    rw [vecEnds, hw]
    push_cast
    rfl
  refine ⟨fun hn hi => ⟨?loadNone, ?storeNone⟩, fun ⟨hlt, halign, hallowed⟩ => ?load,
    fun ⟨hlt, halign, hallowed⟩ => ?store⟩
  case loadNone =>
    rw [hld, hst]
    exact bronze_done h (vecAccess_empty hlegal ham hon hi hn)
  case storeNone =>
    rw [hsto, hst]
    exact bronze_done h (vecAccess_empty hlegal ham hon hi hn)
  case load =>
    intro l
    have hmove (o : Option (Nat × Nat)) (hl : l.2 = o) :
        loadElems s.img c.val long vr.toNat (etWidth et.toNat) d0 a i n = (l.1, o) := by
      rw [hw]
      exact Prod.ext rfl hl
    refine ⟨fun hmoved => ?moves, fun j status hmoved hstatus htask => ?fails⟩
    case moves =>
      rw [hld, hends, hst]
      exact bronze_done h (vecAccess_done hlegal ham hon hw rfl rfl rfl hlt halign hallowed (hmove _ hmoved))
    case fails =>
      rw [hld]
      exact bronze_excepts h (vecAccess_failed hlegal ham hon hw rfl rfl rfl hlt halign hallowed (hmove _ hmoved)
        hstatus htask)
  case store =>
    have hmove : storeElems s.img c.val long vr.toNat (etWidth et.toNat) d0 a i n
        = ((storeElems s.img k long vr.toNat w d0 a i n).1, none) := by rw [hw]; rfl
    rw [hsto, hends, hst]
    exact bronze_done h (vecAccess_done hlegal ham hon hw rfl rfl rfl hlt halign hallowed hmove)

/-- Settles O21: every vector instruction is one whose checks raise in that order (`vecFiles_checked`). -/
theorem vectorChecks : Obligations.VectorChecks := by
  unfold Obligations.VectorChecks
  intro i c s hcore hgood h start enabled vt
  have hon : enabled ↔ ∀ l ∈ vecFiles i, vecEnabled (s.issue c) c.val l = true := by
    simp only [State.issue_vecEnabled]; rfl
  have hstarted : vecStarted c (s.issue c) ↔ start ≠ 0 := by rw [vecStarted, State.issue_vec]
  refine ⟨fun hoff => ?coproc, fun hall hfiles hmoves hstart => ?vstart, fun p q hi => ?setvl,
    fun v pn am et u mn hall hstart => ⟨fun hi hpast => ?short, fun hi hpast => ?long⟩⟩
  case coproc =>
    have hfiles : vecFiles i ≠ [] := fun hnone => hoff (by rw [hon, hnone]; exact nofun)
    obtain ⟨barred, -, hchecked⟩ := vecFiles_checked hcore hgood hfiles
    exact hchecked.raises_coproc h (mt hon.mpr hoff)
  case vstart =>
    obtain ⟨barred, hbarred, hchecked⟩ := vecFiles_checked hcore hgood hfiles
    exact hchecked.raises_vstart h (hon.mp hall) (by rw [hbarred hmoves]; exact hstarted.mpr hstart)
  case setvl =>
    subst hi
    have hchecked : VecChecked (.vsetvl c p q 0 false 0 0) c (fun d => setvlEnabled d c.val = true) (vecStarted c) :=
      .of_vecOp (fun _ => rfl) rfl fun _ => Iff.rfl
    exact ⟨fun hoff => hchecked.raises_coproc h (mt setvlEnabled_iff.mp hoff),
      fun hvt hstart => hchecked.raises_vstart h (setvlEnabled_iff.mpr hvt) (hstarted.mpr hstart)⟩
  case short =>
    exact (shortMove_checked hgood hi).raises_vstart h (hon.mp hall)
      ⟨hstarted.mpr hstart, by rwa [State.issue_vecN, State.issue_vec]⟩
  case long =>
    exact (longMove_checked hgood hi).raises_vstart h (hon.mp hall)
      ⟨hstarted.mpr hstart, by rwa [State.issue_vecN, State.issue_vec]⟩

end

section
/-! PROOF. The coprocessor port's instructions (R234 to R241, R253): what each one does by the state of the port. -/

namespace Sys2Proof.Machine

/-! ### Issuing an instruction leaves what a port instruction reads -/

section
variable (s : State) (c : Core)

theorem State.issue_port : ((s.issue c).core c.val).port = (s.dyn.core c.val).port := by simp

@[simp] theorem State.issue_portEnabled : portEnabled (s.issue c) c.val = portEnabled s.dyn c.val := by
  simp [portEnabled]

@[simp] theorem State.issue_areaDenied (area : Nat × Nat × Bool) :
    areaDenied (s.issue c) c.val area = areaDenied s.dyn c.val area := by
  have hbase (j : Nat) : (s.issue c).pwinBase c.val j = s.dyn.pwinBase c.val j := by simp [Dyn.pwinBase]
  have hlimit (j : Nat) : (s.issue c).pwinLimit c.val j = s.dyn.pwinLimit c.val j := by simp [Dyn.pwinLimit]
  simp only [areaDenied, Dyn.windows, hbase, hlimit, State.issue_status]

end

theorem CoreLeft.onPort {c : Core} {s : State} {e : Dyn} {x : CoreSt} (h : CoreLeft c s e x)
    (f : CorePort → CorePort) : CoreLeft c s (e.onPort c.val f) { x with port := f x.port } :=
  ⟨h.only.trans (.setCore ..), by rw [Dyn.core_onPort, if_pos rfl, h.core]; rfl, h.pc⟩

/-! ### The enable bits, the tags and the areas -/

/-- The port with a command more in its queue, its tag in use (R237). -/
def CorePort.queued (p : CorePort) (cmd : PewterCmd) : CorePort :=
  { p with queue := p.queue ++ [cmd], busy := cmd.tag :: p.busy }

/-- The port with a tag's result collected (R240). -/
def CorePort.collected (p : CorePort) (tag : Nat) : CorePort := { p with results := Map.del p.results tag }

/-- Below EXEC a port whose bit of PENABLE is 0 is not enabled (Table 9.2). -/
theorem portEnabled_off {d : Dyn} {c : Nat}
    (h : (d.status c).pl = .task ∧ (d.core c).port.enable.toNat % 2 = 0
      ∨ (d.status c).pl = .plugin ∧ (d.core c).port.enable.toNat / 2 % 2 = 0) : portEnabled d c = false := by
  unfold portEnabled
  rcases h with ⟨hpl, hbit⟩ | ⟨hpl, hbit⟩
  · simp [hpl, hbit, bit]
  · simp [hpl, hbit, bit, Nat.testBit_eq_decide_div_mod_eq]

/-- A tag is in use while its command is not complete or its result is not collected. -/
theorem tagsInUse_contains {p : CorePort} {tag : BitVec 6} : (tagsInUse p).contains tag.toNat = true
    ↔ p.busy.contains tag.toNat = true ∨ ∃ r, (tag.toNat, r) ∈ p.results := by
  have htag : tag.toNat < 64 := tag.isLt
  simp [tagsInUse, htag]

/-- Areas that the core may all reach, aligned where they must be, pass the checks of PCMD (R237). -/
theorem issued_areas_pass {c : Core} {s : State} {l : List (Nat × Nat × Bool)}
    (h : ∀ area ∈ l, areaDenied s.dyn c.val area = none ∧ (area.2.2 = true → area.1 % 4 = 0)) :
    l.findSome? (areaDenied (s.issue c) c.val) = none
      ∧ l.find? (fun x => x.2.2 && decide (x.1 % 4 ≠ 0)) = none := by
  refine ⟨List.findSome?_eq_none_iff.mpr fun area hmem => ?_, List.find?_eq_none.mpr fun area hmem => ?_⟩
  · rw [State.issue_areaDenied]
    exact (h area hmem).1
  · simpa using (h area hmem).2

section
variable {c : Core} {s : State} (h : Ready c s)
include h

/-! ### A port that is not enabled (R234) -/

section
variable (hoff : portEnabled s.dyn c.val = false)
include hoff

theorem pcmd_coproc (qs : Reg5) (tag : BitVec 6) : Raises (exec (.pcmd c qs tag 0) s) c (excCoproc 1) s :=
  bronze_raises h (by simp [hoff])

theorem pres_coproc (rd : Reg5) (tag : BitVec 6) (wait : Bool) :
    Raises (exec (.pres c rd tag wait 0) s) c (excCoproc 1) s :=
  bronze_raises h (by simp [hoff])

theorem psync_coproc : Raises (exec (.psync c 0) s) c (excCoproc 1) s :=
  bronze_raises h (by simp [hoff])

end

variable (hon : portEnabled s.dyn c.val = true)
include hon

/-! ### PCMD (R237) -/

section
variable {qs : Reg5} {tag : BitVec 6}

theorem pcmd_tagBusy (huse : (tagsInUse (s.dyn.core c.val).port).contains tag.toNat = true) :
    Raises (exec (.pcmd c qs tag 0) s) c excTagBusy s := by
  refine bronze_raises h ?_
  simp only [State.issue_portEnabled, State.issue_port, hon, huse]
  rfl

variable (hfree : (tagsInUse (s.dyn.core c.val).port).contains tag.toNat = false) {bytes : List Byte}
  (hbytes : leBytes 32 (Map.get 0 (s.dyn.core c.val).vec.q qs.toNat).toNat = bytes)
include hfree hbytes

theorem pcmd_invalid {off : Nat} (hfault : pcmdFault (parsePCmd bytes) = some off) :
    Raises (exec (.pcmd c qs tag 0) s) c (excPcmdInvalid off) s := by
  subst hbytes
  refine bronze_raises h ?_
  simp only [State.issue_portEnabled, State.issue_port, State.issue_vec, hon, hfree, hfault]
  rfl

variable (hvalid : pcmdFault (parsePCmd bytes) = none)
  (hareas : ∀ area ∈ pcmdAreas (parsePCmd bytes),
    areaDenied s.dyn c.val area = none ∧ (area.2.2 = true → area.1 % 4 = 0))
include hvalid hareas

/-- A valid command under a free tag joins the queue. -/
theorem pcmd_queues (hroom : (s.dyn.core c.val).port.queue.length < 16) :
    let x := s.dyn.core c.val
    Answers (exec (.pcmd c qs tag 0) s)
      (Retires c { x with port := x.port.queued { bytes, tag := tag.toNat } } none s) := by
  subst hbytes
  obtain ⟨hreach, halign⟩ := issued_areas_pass hareas
  refine ((CoreLeft.issue c s).onPort (·.queued { bytes := _, tag := tag.toNat })).retires h ?_
  simp only [State.issue_portEnabled, State.issue_port, State.issue_vec, hon, hfree, hvalid, hreach, halign,
    if_neg (Nat.not_le.mpr hroom)]
  rfl

/-- With a full queue it waits at the instruction. -/
theorem pcmd_waits (hfull : 16 ≤ (s.dyn.core c.val).port.queue.length) :
    Becomes (exec (.pcmd c qs tag 0) s) s (s.issue c) := by
  subst hbytes
  obtain ⟨hreach, halign⟩ := issued_areas_pass hareas
  refine bronze_waits h ?_
  simp only [State.issue_portEnabled, State.issue_port, State.issue_vec, hon, hfree, hvalid, hreach, halign,
    if_pos hfull]
  rfl

end

/-! ### PRES (R240) -/

section
variable {rd : Reg5} {tag : BitVec 6} {wait : Bool}

/-- A result that waits goes to RD and frees its tag. -/
theorem pres_collects {k : Nat} {w : Word}
    (hfind : (s.dyn.core c.val).port.results.find? (fun e => e.1 == tag.toNat) = some (k, w)) :
    let x := s.dyn.core c.val
    Answers (exec (.pres c rd tag wait 0) s)
      (Retires c ({ x with port := x.port.collected tag.toNat }.withD rd w) none s) := by
  refine (((CoreLeft.issue c s).onPort (·.collected tag.toNat)).wd rd rfl).retires h ?_
  simp only [State.issue_portEnabled, State.issue_port, hon, hfind]
  rfl

variable (hnone : ∀ r, (tag.toNat, r) ∉ (s.dyn.core c.val).port.results)
include hnone

omit h hon in
theorem results_find_none : (s.dyn.core c.val).port.results.find? (fun e => e.1 == tag.toNat) = none := by
  refine List.find?_eq_none.mpr fun ⟨k, w⟩ hmem hk => ?_
  cases beq_iff_eq.mp hk
  exact hnone w hmem

theorem pres_tagIdle (hidle : (s.dyn.core c.val).port.busy.contains tag.toNat = false) :
    Raises (exec (.pres c rd tag wait 0) s) c excTagIdle s := by
  refine bronze_raises h ?_
  simp only [State.issue_portEnabled, State.issue_port, hon, results_find_none hnone, hidle]
  rfl

variable (hbusy : (s.dyn.core c.val).port.busy.contains tag.toNat = true)
include hbusy

theorem pres_waits : Becomes (exec (.pres c rd tag true 0) s) s (s.issue c) := by
  refine bronze_waits h ?_
  simp only [State.issue_portEnabled, State.issue_port, hon, results_find_none hnone, hbusy]
  rfl

theorem pres_notYet : Answers (exec (.pres c rd tag false 0) s)
    (Retires c ((s.dyn.core c.val).withD rd 0xFFFFFFFF) none s) := by
  refine ((CoreLeft.issue c s).wd rd rfl).retires h ?_
  simp only [State.issue_portEnabled, State.issue_port, hon, results_find_none hnone, hbusy]
  rfl

end

/-! ### PSYNC (R241) -/

theorem psync_done (hempty : (s.dyn.core c.val).port.queue = []) :
    Answers (exec (.psync c 0) s) (Retires c (s.dyn.core c.val) none s) :=
  (CoreLeft.issue c s).retires h (by simp [hon, hempty])

theorem psync_waits (hqueue : (s.dyn.core c.val).port.queue ≠ []) :
    Becomes (exec (.psync c 0) s) s (s.issue c) :=
  bronze_waits h (by simp [hon, hqueue])

end

/-! ### CPSAVE and CPREST (R253) -/

section
variable {c : Core} {pn : Reg5} {f : Img → Dyn → Nat → Res} {img : Img} {d : Dyn} (hpn : pn.toNat < 16)
include hpn

theorem contextOp_privilege (hpl : (d.status c.val).pl = .plugin) :
    contextOp c pn 0 f img d = .exc d excPrivilege := by
  simp [contextOp, isFile16_of_lt hpn, hpl]

theorem contextOp_runs {a : Nat} (ha : (d.rp c.val pn.toNat).toNat = a) (hpl : (d.status c.val).pl ≠ .plugin)
    (hon : portEnabled d c.val = true) (hlow : a + 4096 ≤ 0x00E000000000) (halign : a % 4096 = 0)
    (hempty : (d.core c.val).port.queue = []) : contextOp c pn 0 f img d = f img d a := by
  subst ha
  simp [contextOp, isFile16_of_lt hpn, hpl, hon, Nat.not_lt.mpr hlow, halign, hempty]

end

section
variable {c : Core} {s : State} {pn : Reg5} (h : Ready c s) (hpn : pn.toNat < 16)
include h hpn

theorem cpsave_privilege (hpl : (s.dyn.status c.val).pl = .plugin) :
    Raises (exec (.cpsave c pn 0) s) c excPrivilege s :=
  bronze_raises h (contextOp_privilege hpn (by simpa using hpl))

theorem cprest_privilege (hpl : (s.dyn.status c.val).pl = .plugin) :
    Raises (exec (.cprest c pn 0) s) c excPrivilege s :=
  bronze_raises h (contextOp_privilege hpn (by simpa using hpl))

variable {a : Nat} (ha : (s.dyn.rp c.val pn.toNat).toNat = a) (hpl : (s.dyn.status c.val).pl ≠ .plugin)
  (hon : portEnabled s.dyn c.val = true) (hlow : a + 4096 ≤ 0x00E000000000) (halign : a % 4096 = 0)
  (hempty : (s.dyn.core c.val).port.queue = [])
include ha hpl hon hlow halign hempty

omit h in
/-- The core issues the instruction in a state in which its meaning runs. -/
theorem contextOp_runs_issued {f : Img → Dyn → Nat → Res} :
    contextOp c pn 0 f s.img (s.issue c) = f s.img (s.issue c) a :=
  contextOp_runs hpn (by rw [State.issue_rp, ha]) (by rwa [State.issue_status]) (by rwa [State.issue_portEnabled])
    hlow halign (by rwa [State.issue_port])

/-- CPSAVE writes the port's context. -/
theorem cpsave_stores : Becomes (exec (.cpsave c pn 0) s) s
    (retire (blockStore s.img c.val a (contextBytes (s.dyn.core c.val).port)
      (fun d q data => feedSig d c.val q data) (sampleAccess (s.issue c) c.val a)) c.val 6
      (s.dyn.status c.val).pl (s.dyn.status c.val).inrep none) := by
  refine bronze_done h ?_
  rw [contextOp_runs_issued hpn ha hpl hon hlow halign hempty, State.issue_port]

section
variable {d : Dyn} {l : List Byte}
  (hread : engineArea s.img c.val a 4096 (sampleAccess (s.issue c) c.val a) = (d, some l))
include hread

/-- CPREST restores a context with its MAGIC and VERSION. -/
theorem cprest_restores (hmagic : fld l 0 4 = 0x58435750) (hversion : fld l 4 2 = 1) :
    Becomes (exec (.cprest c pn 0) s) s (retire (d.onPort c.val (fun q => restorePort q l)) c.val 6
      (s.dyn.status c.val).pl (s.dyn.status c.val).inrep none) := by
  refine bronze_done h ?_
  simp only [contextOp_runs_issued hpn ha hpl hon hlow halign hempty, hread, hmagic, hversion]
  rfl

theorem cprest_context (hbad : fld l 0 4 ≠ 0x58435750 ∨ fld l 4 2 ≠ 1) :
    Becomes (exec (.cprest c pn 0) s) s (syncException d c.val excContext) := by
  refine bronze_excepts h ?_
  simp only [contextOp_runs_issued hpn ha hpl hon hlow halign hempty, hread]
  exact if_pos hbad

end
end

end Sys2Proof.Machine
end

section
open Sys2Proof Sys2Proof.Machine

/-- Settles O22: each instruction's outcome is the one that its checks, in their order, leave for the port's state. -/
theorem portInstructions : Obligations.PortInstructions := by
  unfold Obligations.PortInstructions
  refine ⟨?enabled, ?disabled⟩
  case enabled =>
    intro c rd qs pn tag wait s h hon x st bytes p inUse gives
    have hfree (hunused : ¬ inUse) : (tagsInUse x.port).contains tag.toNat = false :=
      Bool.eq_false_iff.mpr (mt tagsInUse_contains.mp hunused)
    refine ⟨fun huse => pcmd_tagBusy h hon (tagsInUse_contains.mpr huse),
      fun hunused off => pcmd_invalid h hon (hfree hunused) rfl,
      fun hunused hvalid hareas => ⟨pcmd_queues h hon (hfree hunused) rfl hvalid hareas,
        pcmd_waits h hon (hfree hunused) rfl hvalid hareas⟩,
      fun k w => pres_collects h hon,
      fun hnone => ⟨pres_tagIdle h hon hnone, fun hbusy => ⟨pres_waits h hon hnone hbusy, pres_notYet h hon hnone hbusy⟩⟩,
      psync_done h hon, psync_waits h hon,
      fun hpl hpn => ⟨cpsave_privilege h hpn hpl, cprest_privilege h hpn hpl⟩, ?context⟩
    intro a hpl hpn hlow halign hempty
    exact ⟨cpsave_stores h hpn rfl hpl hon hlow halign hempty, fun d l hread =>
      ⟨cprest_restores h hpn rfl hpl hon hlow halign hempty hread,
        cprest_context h hpn rfl hpl hon hlow halign hempty hread⟩⟩
  case disabled =>
    intro c rd qs tag wait s h pl en hbits
    have hoff : portEnabled s.dyn c.val = false := portEnabled_off hbits
    exact ⟨pcmd_coproc h hoff qs tag, pres_coproc h hoff rd tag wait, psync_coproc h hoff⟩

end

section
/-! PROOF. The engine of a tile (R233, R239, R244 to R247): the command it performs next, and what a command of
workspace registers leaves alone. -/

namespace Sys2Proof.Machine

/-! ### The command that is performed (R233) -/

/-- The engine performs the head command of the core that it serves next, where the operation is the command's. -/
theorem pewterStep_performs {t : Fin 48} {s : State} {c : Nat} {cmd : PewterCmd} {rest : List PewterCmd}
    (hup : islandUp s.dyn = true) (hpower : s.dyn.powered (0x0200 + t.val) = true)
    (hserved : nextServed s.dyn t.val = some c) (hqueue : (s.dyn.core c).port.queue = cmd :: rest)
    (f : Img → Dyn → Nat → PCmd → Dyn × Option Word) {op : Nat} (hop : (parsePCmd cmd.bytes).op = op) :
    let r := f s.img s.dyn c (parsePCmd cmd.bytes)
    Becomes (act (pewterStep t op f) s) s (pewterDone r.1 t.val c cmd (r.2.getD (resultWord 0 0 0 2))) := by
  refine act_becomes hup ?_
  simp only [pewterStep, hpower, hserved, hqueue, hop]
  rfl

/-! ### The command's completion -/

theorem Dyn.core_onPort_self (d : Dyn) (c : Nat) (f : CorePort → CorePort) :
    (d.onPort c f).core c = { d.core c with port := f (d.core c).port } :=
  (Dyn.core_onPort d c c f).trans (if_pos rfl)

theorem Dyn.core_onPort_other (d : Dyn) {c k : Nat} (hk : k ≠ c) (f : CorePort → CorePort) :
    (d.onPort c f).core k = d.core k :=
  (Dyn.core_onPort d c k f).trans (if_neg hk)

/-- Whether a core's task runs on it is told by the core's task part and the dispatcher's tasks. -/
theorem taskLive_congr {d e : Dyn} {c : Nat} (htsk : (e.core c).tsk = (d.core c).tsk) (hdisp : e.disp = d.disp) :
    taskLive e c = taskLive d c := by
  unfold taskLive Dyn.task
  rw [htsk, hdisp]

/-- The port with its head command complete, its result in its tag's slot. -/
def CorePort.completed (p : CorePort) (tag : Nat) (r : Word) : CorePort :=
  { p with queue := p.queue.drop 1, busy := p.busy.filter (· != tag), results := Map.set p.results tag r }

/-- The port with workspace register `k` written. -/
def CorePort.withW (p : CorePort) (k : Nat) (m : PewterMat) : CorePort := { p with w := Map.set p.w k m }

/-- No TCOMMIT that has waited long enough is answered: none was issued, or it waits on (R194). -/
def CommitStands (d : Dyn) (c : Nat) : Prop :=
  (d.core c).tsk.commit = none ∨ taskLive d c = true ∨ (d.core c).port.queue.drop 1 ≠ []

theorem CommitStands.congr {d e : Dyn} {c : Nat} (h : CommitStands d c) (htsk : (e.core c).tsk = (d.core c).tsk)
    (hqueue : (e.core c).port.queue = (d.core c).port.queue) (hdisp : e.disp = d.disp) : CommitStands e c := by
  rwa [CommitStands, htsk, hqueue, taskLive_congr htsk hdisp]

theorem settleCommit_stands {d : Dyn} {c : Nat} (h : (d.core c).tsk.commit = none ∨ taskLive d c = true
    ∨ (d.core c).port.queue ≠ []) : settleCommit d c = d := by
  by_cases hcommit : (d.core c).tsk.commit = none
  · simp [settleCommit, answerCommit, hcommit]
  · refine settleCommit_waits ?_
    rcases h with hnone | hlive | hmore
    · exact absurd hnone hcommit
    · exact .inr hlive
    · exact .inl (by simp [commitWaits, Option.isSome_iff_ne_none, hcommit, hmore])

/-- Where no TCOMMIT is answered, a completion changes the port, the core that was served and the counters. -/
theorem pewterDone_stands {d : Dyn} {t c : Nat} {cmd : PewterCmd} {r : Word} (h : CommitStands d c) :
    ∃ perf free, pewterDone d t c cmd r = { d.onPort c (·.completed cmd.tag r) with
      tiles := Map.set d.tiles t { lastCore := c % 4 }, perf, free } := by
  let e : Dyn := { d.onPort c (·.completed cmd.tag r) with tiles := Map.set d.tiles t { lastCore := c % 4 } }
  let u := countEv e (0x0200 + t) 0x0200 1 EvInfo.plain
  have hcore : u.core c = { d.core c with port := (d.core c).port.completed cmd.tag r } :=
    (countEv_core ..).trans (d.core_onPort_self c (·.completed cmd.tag r))
  have hlive : taskLive u c = taskLive d c := taskLive_congr (d := d) (by rw [hcore]) (countEv_disp ..)
  have hsettle : settleCommit u c = u := settleCommit_stands (by rw [hlive, hcore]; exact h)
  exact ⟨u.perf, u.free, hsettle.trans (countEv_only ..)⟩

/-! ### A command of workspace registers -/

/-- The machine is left as it was but for workspace register `k` of core `c` and the counters. -/
def WritesRegister (c k : Nat) (d e : Dyn) : Prop := ∃ m perf free, e = { d.setPw c k m with perf, free }

theorem finishWrite_fst (r : Dyn × Int × Nat × Bool) (pv : Pivot) (more : Nat) : (finishWrite r pv more).1 = r.1 := rfl

section
variable {img : Img} {d : Dyn} {c : Nat} {p : PCmd} (hdst : p.dst ≠ 3)
include hdst

theorem writeResult_register (x : CMat) : (writeResult img d c p x).1 = d.setPw c p.dst x.normalise.1 := by
  simp only [writeResult, if_neg hdst]

theorem doMul_register (ha : p.srcA ≠ 3) (hb : p.srcB ≠ 3) : WritesRegister c p.dst d (doMul img d c p).1 := by
  have hnone : ¬ (p.srcA = 3 ∨ p.srcB = 3) := not_or.mpr ⟨ha, hb⟩
  simp only [doMul, if_neg hnone, finishWrite_fst, writeResult_register hdst]
  exact ⟨_, d.perf, d.free, rfl⟩

/-- A factorisation writes its result after it has counted a pivot that broke down. -/
theorem countPivot_register (pv : Pivot) (x : CMat) :
    WritesRegister c p.dst d (writeResult img (countPivot d c pv) c p x).1 := by
  rw [writeResult_register hdst, countPivot, countEv_only]
  exact ⟨_, _, _, rfl⟩

theorem doChol_register : WritesRegister c p.dst d (doChol img d c p).1 := countPivot_register hdst ..

theorem doTrsm_register : WritesRegister c p.dst d (doTrsm img d c p).1 := countPivot_register hdst ..

end

/-- What a command of workspace registers with the given tag and destination leaves alone: of core `c` all but the
port, of the port the enable bits, the other results and the other registers, and of the rest all but which core
was served and the counters; the queue goes on to `rest`. -/
def EngineKeeps (c tag dst : Nat) (rest : List PewterCmd) (s u : State) : Prop :=
  let x := s.dyn.core c
  u.img = s.img ∧ u.pending = s.pending
  ∧ { u.dyn with cores := s.dyn.cores, perf := s.dyn.perf, free := s.dyn.free, tiles := s.dyn.tiles } = s.dyn
  ∧ (∀ k, k ≠ c → u.dyn.core k = s.dyn.core k)
  ∧ { u.dyn.core c with port := x.port } = x
  ∧ (u.dyn.core c).port.queue = rest ∧ (u.dyn.core c).port.enable = x.port.enable
  ∧ (∀ k, k ≠ tag → Map.get 0 (u.dyn.core c).port.results k = Map.get 0 x.port.results k)
  ∧ (∀ k, k ≠ dst → u.dyn.pw c k = s.dyn.pw c k)

/-- The completion of a command that wrote one workspace register. -/
theorem pewterDone_keeps {s : State} {t c dst : Nat} {cmd : PewterCmd} {rest : List PewterCmd} {d : Dyn} {r : Word}
    (hqueue : (s.dyn.core c).port.queue = cmd :: rest) (hstands : CommitStands s.dyn c)
    (hwrites : WritesRegister c dst s.dyn d) :
    EngineKeeps c cmd.tag dst rest s { s with dyn := pewterDone d t c cmd r } := by
  obtain ⟨m, perf, free, rfl⟩ := hwrites
  let e : Dyn := { s.dyn.setPw c dst m with perf, free }
  have hwritten : e.core c = { s.dyn.core c with port := (s.dyn.core c).port.withW dst m } :=
    s.dyn.core_onPort_self c (·.withW dst m)
  obtain ⟨perf', free', hdone⟩ := pewterDone_stands (t := t) (cmd := cmd) (r := r)
    (hstands.congr (e := e) (by rw [hwritten]) (by rw [hwritten]; rfl) rfl)
  rw [hdone]
  let u := e.onPort c (·.completed cmd.tag r)
  have hcore : u.core c = { s.dyn.core c with port := ((s.dyn.core c).port.withW dst m).completed cmd.tag r } := by
    rw [e.core_onPort_self, hwritten]
  have hport : (u.core c).port = ((s.dyn.core c).port.withW dst m).completed cmd.tag r := by rw [hcore]
  refine ⟨rfl, rfl, rfl, fun k hk => ?others, congrArg (fun x : CoreSt => { x with port := (s.dyn.core c).port }) hcore,
    (congrArg CorePort.queue hport).trans (congrArg (List.drop 1) hqueue), (congrArg CorePort.enable hport).trans rfl,
    fun k hk => ?results, fun k hk => ?registers⟩
  case others =>
    exact (e.core_onPort_other hk (·.completed cmd.tag r)).trans (s.dyn.core_onPort_other hk (·.withW dst m))
  case results => exact (congrArg (Map.get 0 ·.results k) hport).trans (Map.get_set_other _ _ _ _ _ hk)
  case registers => exact (congrArg (Map.get PewterMat.reset ·.w k) hport).trans (Map.get_set_other _ _ _ _ _ hk)

end Sys2Proof.Machine
end

section
open Sys2Proof Sys2Proof.Machine

/-- Settles O23: a command is one step of the engine (`pewterStep_performs`); MUL, CHOL and TRSM of workspace registers
write one register before it completes, and the completion keeps the rest (`pewterDone_keeps`). -/
theorem pewterCommands : Obligations.PewterCommands := by
  unfold Obligations.PewterCommands
  refine ⟨?performs, ?keeps⟩
  case performs =>
    intro t s c cmd rest hup hpower hserved hqueue p does
    have hstep := @pewterStep_performs t s c cmd rest hup hpower hserved hqueue
    exact ⟨hstep doLoad, hstep doStore, hstep doMul, hstep doChol, hstep doTrsm, hstep doQr, hstep doDemap⟩
  case keeps =>
    intro t s c cmd rest hup hpower hserved hqueue p x keeps hdst hcommit
    have hstands : CommitStands s.dyn c := by rwa [CommitStands, hqueue]
    have hkeeps (f : Img → Dyn → Nat → PCmd → Dyn × Option Word) {op : Nat} (hop : p.op = op)
        (hwrites : WritesRegister c p.dst s.dyn (f s.img s.dyn c p).1) :
        Answers (act (pewterStep t op f) s) (EngineKeeps c cmd.tag p.dst rest s) :=
      ⟨_, pewterStep_performs hup hpower hserved hqueue f hop, pewterDone_keeps hqueue hstands hwrites⟩
    exact ⟨fun hop ha hb => hkeeps doMul hop (doMul_register hdst ha hb),
      fun hop => hkeeps doChol hop (doChol_register hdst), fun hop => hkeeps doTrsm hop (doTrsm_register hdst)⟩

end

section
/-! PROOF. The block-floating format of a workspace register (R242): what a write keeps of an exact matrix. -/

namespace Sys2Proof.Machine

/-- The exponent with which an exact matrix is written (R242). -/
def CMat.writtenExp (m : CMat) : Int :=
  if m.comps.all (fun x => decide (x = 0)) then 0 else max (-128) (min 127 (m.unit + fitShift m.comps 512 0 + 15))

/-- A component as it is scaled for the exponent `e`, before saturation. -/
def CMat.scaled (m : CMat) (e x : Int) : Int := scaleRound x (m.unit + 15 - e)

/-- A matrix written with exponent `e`: the register and the saturations. -/
def CMat.written (m : CMat) (e : Int) : PewterMat × Nat :=
  ({ re := (List.range 256).map (fun i => sat16p (m.scaled e (Map.get Cx.zero m.els i).re)),
     im := (List.range 256).map (fun i => sat16p (m.scaled e (Map.get Cx.zero m.els i).im)), exp := e },
    (m.comps.filter (fun x => decide (sat16p (m.scaled e x) ≠ m.scaled e x))).length)

theorem CMat.normalise_eq (m : CMat) : m.normalise = m.written m.writtenExp := by
  rw [CMat.writtenExp, apply_ite m.written]
  rfl

/-! ### Components -/

theorem sat16p_bounds (x : Int) : -32767 ≤ sat16p x ∧ sat16p x ≤ 32767 := by
  unfold sat16p
  split_ifs <;> omega

theorem sat16p_of_fits {x : Int} (h : -32767 ≤ x ∧ x ≤ 32767) : sat16p x = x := by
  unfold sat16p
  split_ifs <;> omega

theorem roundShift_zero_left (k : Nat) : roundShift 0 k = 0 := by
  rw [roundShift_eq]
  split_ifs with hk
  · rfl
  · rw [zero_add]
    exact Int.ediv_eq_zero_of_lt (by positivity) (pow_lt_pow_right₀ (by decide) (by omega))

theorem scaleRound_zero_left (k : Int) : scaleRound 0 k = 0 := by
  unfold scaleRound
  split
  · exact zero_mul _
  · exact roundShift_zero_left _

theorem scaleRound_zero_right (x : Int) : scaleRound x 0 = x := by simp [scaleRound]

/-- Components that fit already need no shift. -/
theorem fitShift_of_fits {l : List Int} (h : ∀ x ∈ l, -32767 ≤ x ∧ x ≤ 32767) (fuel : Nat) :
    fitShift l fuel 0 = 0 := by
  cases fuel with
  | zero => rfl
  | succ n =>
    have hall : l.all (fun x => decide ((roundShift x 0).natAbs ≤ 32767)) = true := by
      refine List.all_eq_true.mpr fun x hx => decide_eq_true ?_
      have hfits := h x hx
      change x.natAbs ≤ 32767
      omega
    exact if_pos hall

theorem Map.get_eq_or_mem {α : Type} (d : α) (k : Nat) : ∀ m : Map α, Map.get d m k = d ∨ (k, Map.get d m k) ∈ m
  | [] => .inl rfl
  | (j, v) :: rest => by
    by_cases hj : j = k
    · subst hj
      simp [Map.get]
    · simpa [Map.get, hj, Ne.symm hj] using Map.get_eq_or_mem d k rest

/-- What holds of 0 and of every component of a matrix holds of each of its elements. -/
theorem CMat.element_of_comps {m : CMat} {P : Int → Prop} (hzero : P 0) (h : ∀ x ∈ m.comps, P x) (k : Nat) :
    P (Map.get Cx.zero m.els k).re ∧ P (Map.get Cx.zero m.els k).im := by
  rcases Map.get_eq_or_mem Cx.zero k m.els with hnone | hmem
  · rw [hnone]
    exact ⟨hzero, hzero⟩
  · have hcomp {x : Int} (hx : x = (Map.get Cx.zero m.els k).re ∨ x = (Map.get Cx.zero m.els k).im) : P x :=
      h x (List.mem_flatten.mpr ⟨_, List.mem_map.mpr ⟨_, hmem, rfl⟩, by simpa using hx⟩)
    exact ⟨hcomp (.inl rfl), hcomp (.inr rfl)⟩

/-! ### What is written -/

section
variable (m : CMat) (e : Int)

theorem CMat.written_bounds {x : Int} (h : x ∈ (m.written e).1.re ∨ x ∈ (m.written e).1.im) :
    -32767 ≤ x ∧ x ≤ 32767 := by
  rcases h with h | h
  · obtain ⟨k, -, rfl⟩ := List.mem_map.mp h
    exact sat16p_bounds _
  · obtain ⟨k, -, rfl⟩ := List.mem_map.mp h
    exact sat16p_bounds _

theorem CMat.written_length : (m.written e).1.re.length = 256 ∧ (m.written e).1.im.length = 256 := by
  simp [CMat.written]

end

section
variable {m : CMat}

/-- Where every component is left in range, none saturates. -/
theorem CMat.written_saturates_none {e : Int} (h : ∀ x ∈ m.comps, -32767 ≤ m.scaled e x ∧ m.scaled e x ≤ 32767) :
    (m.written e).2 = 0 := by
  refine List.length_eq_zero_iff.mpr (List.filter_eq_nil_iff.mpr fun x hx => ?_)
  simpa using sat16p_of_fits (h x hx)

theorem CMat.written_zero (h : ∀ x ∈ m.comps, x = 0) (e : Int) : (m.written e).2 = 0 := by
  refine CMat.written_saturates_none fun x hx => ?_
  rw [h x hx, CMat.scaled, scaleRound_zero_left]
  decide

theorem CMat.writtenExp_zero (h : ∀ x ∈ m.comps, x = 0) : m.writtenExp = 0 :=
  if_pos (List.all_eq_true.mpr fun x hx => decide_eq_true (h x hx))

/-- A matrix that fits already has its unit for the exponent. -/
theorem CMat.writtenExp_of_fits (hsome : ∃ x ∈ m.comps, x ≠ 0) (h : ∀ x ∈ m.comps, -32767 ≤ x ∧ x ≤ 32767)
    (hlow : -143 ≤ m.unit) (hhigh : m.unit ≤ 112) : m.writtenExp = m.unit + 15 := by
  obtain ⟨x, hx, hne⟩ := hsome
  have hnot : ¬ m.comps.all (fun x => decide (x = 0)) = true :=
    fun hall => hne (of_decide_eq_true (List.all_eq_true.mp hall x hx))
  rw [CMat.writtenExp, if_neg hnot, fitShift_of_fits h]
  omega

theorem CMat.scaled_at_unit (x : Int) : m.scaled (m.unit + 15) x = x := by
  rw [CMat.scaled, sub_self, scaleRound_zero_right]

/-- With its unit for the exponent a matrix that fits is kept exactly. -/
theorem CMat.written_at_unit (h : ∀ x ∈ m.comps, -32767 ≤ x ∧ x ≤ 32767) {k : Nat} (hk : k < 256) :
    (m.written (m.unit + 15)).1.re.getD k 0 = (Map.get Cx.zero m.els k).re
    ∧ (m.written (m.unit + 15)).1.im.getD k 0 = (Map.get Cx.zero m.els k).im := by
  obtain ⟨hre, him⟩ := CMat.element_of_comps (by decide) h k
  simp [CMat.written, CMat.scaled_at_unit, hk, sat16p_of_fits hre, sat16p_of_fits him]

end

end Sys2Proof.Machine
end

section
open Sys2Proof Sys2Proof.Machine

/-- Settles O24: a register is written by `CMat.written` with the exponent `CMat.writtenExp`, which is 0 for zero and
shifts nothing where everything fits. -/
theorem workspaceFormat : Obligations.WorkspaceFormat := by
  unfold Obligations.WorkspaceFormat
  intro m w
  have hw : w = m.written m.writtenExp := m.normalise_eq
  rw [hw]
  obtain ⟨hre, him⟩ := m.written_length m.writtenExp
  refine ⟨hre, him, fun x => m.written_bounds m.writtenExp,
    fun hzero => ⟨CMat.writtenExp_zero hzero, CMat.written_zero hzero _⟩, fun hsome hfits hlow hhigh => ?_⟩
  rw [CMat.writtenExp_of_fits hsome hfits hlow hhigh]
  exact ⟨rfl, CMat.written_saturates_none fun x hx => by rw [CMat.scaled_at_unit]; exact hfits x hx,
    fun k => CMat.written_at_unit hfits⟩

end

section
/-! PROOF. A lane's records: what is read after an update, and which updates are one. -/

namespace Sys2Proof.Machine

section
variable {d : Dyn} {n k : Nat}

@[simp] theorem Dyn.lane_onLane_same (f : LaneSt → LaneSt) : (d.onLane n f).lane n = f (d.lane n) := by
  simp [Dyn.lane, Dyn.onLane]

@[simp] theorem Dyn.lane_onLane_other (f : LaneSt → LaneSt) (h : k ≠ n) : (d.onLane n f).lane k = d.lane k := by
  simp [Dyn.lane, Dyn.onLane, h]

@[simp] theorem Dyn.lane_onTeth_same (f : TetherSt → TetherSt) :
    (d.onTeth n f).lane n = { d.lane n with teth := f (d.lane n).teth } :=
  Dyn.lane_onLane_same _

@[simp] theorem Dyn.lane_onTeth_other (f : TetherSt → TetherSt) (h : k ≠ n) : (d.onTeth n f).lane k = d.lane k :=
  Dyn.lane_onLane_other _ h

/-- A lane's update goes by what it gives for the lane as it stands. -/
theorem Dyn.onLane_congr {f g : LaneSt → LaneSt} (h : f (d.lane n) = g (d.lane n)) : d.onLane n f = d.onLane n g :=
  congrArg (fun x => { d with lanes := Map.set d.lanes n x }) h

theorem Dyn.onTeth_congr {f g : TetherSt → TetherSt} (h : f (d.lane n).teth = g (d.lane n).teth) :
    d.onTeth n f = d.onTeth n g :=
  Dyn.onLane_congr (congrArg (fun t => { d.lane n with teth := t }) h)

theorem Dyn.onTeth_onTeth (f g : TetherSt → TetherSt) :
    (d.onTeth n f).onTeth n g = d.onTeth n (fun t => g (f t)) := by
  simp [Dyn.onTeth, Dyn.onLane, Map.upd]

theorem Dyn.lane_of_lanes {e : Dyn} (h : e.lanes = d.lanes) (k : Nat) : e.lane k = d.lane k :=
  congrArg (fun m => Map.get LaneSt.reset m k) h

@[simp] theorem event_lane (src cls code : Nat) (l : List Byte) : (event d src cls code l).lane k = d.lane k :=
  Dyn.lane_of_lanes (issue_lanes ..) k

/-- A lane's settings go by its record and by whether it is the boot link. -/
theorem laneCfg_congr {img : Img} {e : Dyn} (h : (e.lane n).teth.boot = (d.lane n).teth.boot) :
    laneCfg img e n = laneCfg img d n := by
  simp [laneCfg, h]

end

/-- While JTAG leaves the pins to the device, a signal that gives `d` goes on to `d`. -/
theorem actPins_becomes {f : Img → Dyn → Dyn} {s : State} {d : Dyn} (hup : islandUp s.dyn = true)
    (hpins : pinsTaken s.dyn = false) (h : f s.img s.dyn = d) : Becomes (actPins f s) s d :=
  act_becomes hup (by simpa [hpins] using h)

end Sys2Proof.Machine
end

section
/-! PROOF. RETRAIN, QUIET and WAKE (R281, R282). -/

namespace Sys2Proof.Machine

section
variable {img : Img} {d : Dyn} {m : Master} {n op : Nat}

theorem laneCtrl_refuses (hop : op ≠ 0) (h : m.isExecOrHost = false ∨ laneRecord img n = none) :
    laneCtrl img d m n op = writeRefused d (laneSrc n) := by
  rcases h with h | h <;> simp [laneCtrl, hop, h]

/-- Lane 64 carries management and cannot be QUIET (R281). -/
theorem laneCtrl_refuses_quiet (h : n = 64) : laneCtrl img d m n 2 = writeRefused d (laneSrc n) := by
  simp [laneCtrl, h]

/-- A write that none of the refusals meets is the command that it names. -/
theorem laneCtrl_commands (hop : op ≠ 0) (hm : m.isExecOrHost = true) (hrec : laneRecord img n ≠ none)
    (h64 : ¬ (n = 64 ∧ op = 2)) : laneCtrl img d m n op = laneCommand img d n op := by
  simp [laneCtrl, hop, hm, hrec, h64]

theorem laneCommand_off (h : (d.lane n).teth.state = 0) : laneCommand img d n op = d := by
  simp [laneCommand, h, stOff]

theorem laneCommand_wake_stands (h : (d.lane n).teth.state ≠ 1) : laneCommand img d n 3 = d := by
  simp [laneCommand, h, stQuiet]

theorem laneCommand_wake_starts (h : (d.lane n).teth.state = 1) : laneCommand img d n 3
    = startAttempt img (d.onTeth n (fun x => { x with tries := 0 })) n (d.lane n).teth.kept := by
  simp [laneCommand, h, stQuiet, stOff]

theorem laneCommand_quiet_again (h : (d.lane n).teth.state = 1) : laneCommand img d n 2 = d := by
  simp [laneCommand, h, stOff, stData, stFailed, isTraining]

theorem laneCommand_quiet_data (h : (d.lane n).teth.state = 6) (hleft : (d.lane n).teth.quietLeft = none) :
    laneCommand img d n 2 = d.onTeth n (fun x => { x with quietLeft := some 16, pendQuiet := false }) := by
  simp [laneCommand, h, hleft, stOff, stData, isTraining, beginQuiet]

theorem laneCommand_quiet_counting (h : (d.lane n).teth.state = 6) (hleft : (d.lane n).teth.quietLeft ≠ none) :
    laneCommand img d n 2 = d := by
  simp [laneCommand, h, Option.isSome_iff_ne_none, hleft, stOff, stData, isTraining]

section
variable (hpend : (d.lane n).teth.pendQuiet = false)
include hpend

theorem laneCommand_retrain (h : (d.lane n).teth.state ≠ 0) :
    laneCommand img d n 1 = startAttempt img (d.onTeth n (fun x => { x with tries := 0 })) n false := by
  simp [laneCommand, h, stOff, hpend]

theorem laneCommand_quiet_training (hlo : 2 ≤ (d.lane n).teth.state) (hhi : (d.lane n).teth.state ≤ 5) :
    laneCommand img d n 2 = d.onTeth n (fun x => { x with pendQuiet := true }) := by
  have hoff : (d.lane n).teth.state ≠ stOff := by
    simp only [stOff]
    omega
  simp [laneCommand, hoff, isTraining, hlo, hhi, hpend]

theorem laneCommand_quiet_failed (h : (d.lane n).teth.state = 7) :
    laneCommand img d n 2 = d.onTeth n (fun x => { x with state := 1, tries := 0 }) := by
  simp [laneCommand, h, stOff, stData, stFailed, stQuiet, isTraining, hpend]

end

end

section
variable {m : Master} {l : Lane} {s : State} {d : Dyn} (hup : islandUp s.dyn = true)
include hup

theorem retrain_becomes (h : laneCtrl s.img s.dyn m l.val 1 = d) : Becomes (exec (.retrain m l) s) s d := by
  change Becomes (execRetrain m l s) s d
  exact act_becomes hup h

theorem quiet_becomes (h : laneCtrl s.img s.dyn m l.val 2 = d) : Becomes (exec (.quiet m l) s) s d := by
  change Becomes (execQuiet m l s) s d
  exact act_becomes hup h

theorem wake_becomes (h : laneCtrl s.img s.dyn m l.val 3 = d) : Becomes (exec (.wake m l) s) s d := by
  change Becomes (execWake m l s) s d
  exact act_becomes hup h

end

end Sys2Proof.Machine
end

section
open Sys2Proof Sys2Proof.Machine

/-- Settles O32: `laneCtrl` refuses the write or gives `laneCommand`, whose cases are the lane's states. -/
theorem laneCommands : Obligations.LaneCommands := by
  unfold Obligations.LaneCommands
  intro m l s hup n t refused does
  refine ⟨?refused, fun h64 => quiet_becomes hup (laneCtrl_refuses_quiet h64), fun hm hrec hpend => ?commands⟩
  case refused =>
    exact fun h => ⟨retrain_becomes hup (laneCtrl_refuses (by decide) h),
      quiet_becomes hup (laneCtrl_refuses (by decide) h), wake_becomes hup (laneCtrl_refuses (by decide) h)⟩
  case commands =>
    have retrains {d : Dyn} (h : laneCommand s.img s.dyn n 1 = d) : does (.retrain m l) d :=
      retrain_becomes hup ((laneCtrl_commands (by decide) hm hrec (by omega)).trans h)
    have wakes {d : Dyn} (h : laneCommand s.img s.dyn n 3 = d) : does (.wake m l) d :=
      wake_becomes hup ((laneCtrl_commands (by decide) hm hrec (by omega)).trans h)
    have quiets {d : Dyn} (h64 : n ≠ 64) (h : laneCommand s.img s.dyn n 2 = d) : does (.quiet m l) d :=
      quiet_becomes hup ((laneCtrl_commands (by decide) hm hrec (fun hn => h64 hn.1)).trans h)
    refine ⟨fun h => ⟨retrains (laneCommand_off h), wakes (laneCommand_off h),
        fun h64 => quiets h64 (laneCommand_off h)⟩,
      fun h => retrains (laneCommand_retrain hpend h), fun h => wakes (laneCommand_wake_starts h),
      fun h => wakes (laneCommand_wake_stands h), fun h64 => ?_⟩
    exact ⟨fun hlo hhi => quiets h64 (laneCommand_quiet_training hpend hlo hhi),
      fun h hleft => quiets h64 (laneCommand_quiet_data h hleft),
      fun h hleft => quiets h64 (laneCommand_quiet_counting h hleft),
      fun h => quiets h64 (laneCommand_quiet_failed hpend h), fun h => quiets h64 (laneCommand_quiet_again h)⟩

end

section
/-! PROOF. The phases of training (R268 to R272, R281, R282, Table 10.4). -/

namespace Sys2Proof.Machine

/-! ### The moments of the schedule -/

section
variable {img : Img} {d : Dyn} {n st full fast : Nat}

theorem phaseLength_silence (b : Bool) : phaseLength stSilence b = if b then 64 else 64 := (ite_self _).symm
theorem phaseLength_lead (b : Bool) : phaseLength stLead b = if b then 1024 else 8192 := rfl
theorem phaseLength_follow (b : Bool) : phaseLength stFollow b = if b then 1025 else 8193 := rfl
theorem phaseLength_both (b : Bool) : phaseLength stBoth b = if b then 1024 else 4096 := rfl

/-- The end of a phase, by the lengths that it has in the two schedules. -/
theorem phaseOver_iff (hlen : ∀ b : Bool, phaseLength st b = if b then fast else full) : phaseOver img d n st = true
    ↔ (d.lane n).teth.state = st ∧ (if (d.lane n).teth.fast then fast else full) ≤ phaseClock img d n := by
  simp [phaseOver, phasePast, hlen]

/-- The lead places its windows 1,024 periods into LEAD_ALONE, in the full schedule alone. -/
theorem windowsDue_iff : (phasePast img d n stLead 1024 && !(d.lane n).teth.fast) = true
    ↔ ((d.lane n).teth.state = stLead ∧ 1024 ≤ phaseClock img d n) ∧ (d.lane n).teth.fast = false := by
  simp [phasePast]

theorem decisionDue_iff :
    (phasePast img d n stBoth (goPeriod (d.lane n).teth.fast) && !(d.lane n).teth.decided) = true
    ↔ ((d.lane n).teth.state = stBoth ∧ goPeriod (d.lane n).teth.fast ≤ phaseClock img d n)
      ∧ (d.lane n).teth.decided = false := by
  simp [phasePast]

theorem quietOver_iff : (decide ((d.lane n).teth.state = stData) && (d.lane n).teth.quietLeft == some 0) = true
    ↔ (d.lane n).teth.state = stData ∧ (d.lane n).teth.quietLeft = some 0 := by
  simp

end

/-- A command that waits for its moment acts once it has come. -/
theorem Becomes.acts {o : Out} {s : State} {c : Bool} {f : Dyn → Dyn} {d e : Dyn} {p : Prop}
    (ho : Becomes o s (when_ c f d)) (hiff : c = true ↔ p) (h : p) (he : f d = e) : Becomes o s e := by
  rwa [when_true (hiff.mpr h), he] at ho

/-- A command that waits for its moment changes nothing at any other (log 16). -/
theorem Becomes.stands {o : Out} {s : State} {c : Bool} {f : Dyn → Dyn} {d : Dyn} {p : Prop}
    (ho : Becomes o s (when_ c f d)) (hiff : c = true ↔ p) (h : ¬ p) : Becomes o s d := by
  rwa [when_false (Bool.eq_false_iff.mpr (mt hiff.mp h))] at ho

/-! ### What the commands do at their moments -/

section
variable {img : Img} {d : Dyn} {n : Nat}

theorem adaptTaps_time : (adaptTaps d n).time = d.time := by
  unfold adaptTaps
  split <;> rfl

theorem adaptTaps_now256 : (adaptTaps d n).now256 = d.now256 :=
  congrArg (fun t : TimeSt => t.t / 2 ^ 40 % 2 ^ 72) adaptTaps_time

theorem toPhase_at {st now : Nat} (h : d.now256 = now) :
    toPhase d n st = d.onTeth n (fun t => { t with state := st, phaseFrames := 0, phaseAt := now }) := by
  rw [toPhase, h]

theorem recentBoth_eq : recentBoth img d n
    = (d.lane n).teth.bothAt.any (fun k => decide (phaseClock img d n ≤ k + 16)) := by
  unfold recentBoth
  cases (d.lane n).teth.bothAt <;> rfl

/-- What the end of BOTH with GO makes of a Tether state at tick time `now` (R272, R281). -/
def TetherSt.toData (t : TetherSt) (now : Nat) : TetherSt :=
  { t with
    state := 6, phaseFrames := 0, phaseAt := now, tries := 0, trained := min 255 (t.trained + 1), noGo := false
    kept := true, huntSince := t.frames, askSince := none, pendQuiet := false
    quietLeft := if t.pendQuiet then some 16 else t.quietLeft }

theorem bothEnd_go (h : (d.lane n).teth.go = true) : bothEnd img d n = d.onTeth n (fun t => t.toData d.now256) := by
  simp only [bothEnd, h, if_true, toPhase, Dyn.onTeth_onTeth, Dyn.lane_onTeth_same, beginQuiet]
  split
  case isTrue hpend => exact Dyn.onTeth_congr (by simp [TetherSt.toData, hpend, satAdd, stData])
  case isFalse hpend => exact Dyn.onTeth_congr (by simp [TetherSt.toData, hpend, satAdd, stData])

theorem bothEnd_noGo (h : (d.lane n).teth.go = false) :
    bothEnd img d n = failAttempt img (d.onTeth n (fun t => { t with noGo := true })) n 3 := by
  simp [bothEnd, h]

end

section
variable {l : Lane} {s : State} (hup : islandUp s.dyn = true)
include hup

theorem silenceEnd_runs : Becomes (exec (.silenceEnd l) s) s
    (when_ (phaseOver s.img s.dyn l.val stSilence) (fun d => toPhase d l.val stLead) s.dyn) := by
  change Becomes (execSilenceEnd l s) s _
  exact act_becomes hup rfl

theorem echoWindowPlacement_runs {energy : List Nat} : Becomes (exec (.echoWindowPlacement l energy) s) s
    (when_ (phasePast s.img s.dyn l.val stLead 1024 && !(s.dyn.lane l.val).teth.fast)
      (fun d => adaptTaps (d.onTeth l.val (fun t => { t with windows := placeWindows energy })) l.val) s.dyn) := by
  change Becomes (execEchoWindowPlacement l energy s) s _
  exact act_becomes hup rfl

theorem leadAloneEnd_runs : Becomes (exec (.leadAloneEnd l) s) s
    (when_ (phaseOver s.img s.dyn l.val stLead) (fun d =>
      toPhase ((adaptTaps { d with free := d.free + 1 } l.val).onTeth l.val (fun t =>
        { t with echoRes := Config.freeValue d.free % 256, sending := false })) l.val stFollow) s.dyn) := by
  change Becomes (execLeadAloneEnd l s) s _
  exact act_becomes hup rfl

theorem followAloneEnd_runs : Becomes (exec (.followAloneEnd l) s) s
    (when_ (phaseOver s.img s.dyn l.val stFollow) (fun d =>
      if (d.lane l.val).teth.lock = 2 then toPhase d l.val stBoth else failAttempt s.img d l.val 2) s.dyn) := by
  change Becomes (execFollowAloneEnd l s) s _
  exact act_becomes hup rfl

theorem goDecision_runs {b : Bool} : Becomes (exec (.goDecision l b) s) s
    (when_ (phasePast s.img s.dyn l.val stBoth (goPeriod (s.dyn.lane l.val).teth.fast)
        && !(s.dyn.lane l.val).teth.decided) (fun d => d.onTeth l.val (fun t => { t with
      go := rxGood s.img d l.val && (s.dyn.lane l.val).teth.partnerLock && (s.dyn.lane l.val).teth.partnerGood
        && recentBoth s.img d l.val
      decided := true })) s.dyn) := by
  change Becomes (execGoDecision l b s) s _
  exact act_becomes hup rfl

theorem bothEnd_runs : Becomes (exec (.bothEnd l) s) s
    (when_ (phaseOver s.img s.dyn l.val stBoth) (fun d => bothEnd s.img d l.val) s.dyn) := by
  change Becomes (execBothEnd l s) s _
  exact act_becomes hup rfl

theorem quietCountdownEnd_runs : Becomes (exec (.quietCountdownEnd l) s) s
    (when_ (decide ((s.dyn.lane l.val).teth.state = stData) && (s.dyn.lane l.val).teth.quietLeft == some 0)
      (fun d => (silenceLane s.img d l.val stQuiet).onTeth l.val (fun t => { t with kept := true })) s.dyn) := by
  change Becomes (execQuietCountdownEnd l s) s _
  exact act_becomes hup rfl

end

end Sys2Proof.Machine
end

section
open Sys2Proof Sys2Proof.Machine

/-- Settles O34: a command of the schedule acts where its moment, told by an `↔` lemma, has come (`Becomes.acts`), and
nowhere else (`Becomes.stands`). -/
theorem trainingPhases : Obligations.TrainingPhases := by
  unfold Obligations.TrainingPhases
  intro l energy s hup n t does moved passed ended
  have silenceOver := phaseOver_iff (img := s.img) (d := s.dyn) (n := n) phaseLength_silence
  have leadOver := phaseOver_iff (img := s.img) (d := s.dyn) (n := n) phaseLength_lead
  have followOver := phaseOver_iff (img := s.img) (d := s.dyn) (n := n) phaseLength_follow
  have bothOver := phaseOver_iff (img := s.img) (d := s.dyn) (n := n) phaseLength_both
  refine ⟨fun h => (silenceEnd_runs hup).acts silenceOver h rfl, (silenceEnd_runs hup).stands silenceOver,
    ?windows, ?windowsNot, ?lead, (leadAloneEnd_runs hup).stands leadOver, ?follow,
    (followAloneEnd_runs hup).stands followOver, ?go, ?goNot, ?both, (bothEnd_runs hup).stands bothOver, ?quiet,
    ?quietNot⟩
  case windows =>
    exact fun hst hfast hpast => (echoWindowPlacement_runs hup).acts windowsDue_iff ⟨⟨hst, hpast⟩, hfast⟩ rfl
  case windowsNot =>
    refine fun h => (echoWindowPlacement_runs hup).stands windowsDue_iff fun ⟨⟨hst, hpast⟩, hfast⟩ => ?_
    rcases h with h | h | h
    · exact Bool.false_ne_true (hfast.symm.trans h)
    · exact h hst
    · exact absurd hpast (Nat.not_le.mpr h)
  case lead =>
    refine fun h => ⟨Config.freeValue s.dyn.free % 256, Nat.mod_lt _ (by decide),
      (leadAloneEnd_runs hup).acts leadOver h ?_⟩
    exact toPhase_at adaptTaps_now256
  case follow =>
    exact fun h => ⟨fun hlock => (followAloneEnd_runs hup).acts followOver h (if_pos hlock),
      fun hlock => (followAloneEnd_runs hup).acts followOver h (if_neg hlock)⟩
  case go =>
    refine fun h hdecided b => (goDecision_runs hup).acts decisionDue_iff ⟨h, hdecided⟩ ?_
    rw [recentBoth_eq]
  case goNot =>
    refine fun h b => (goDecision_runs hup).stands decisionDue_iff fun ⟨hended, hdecided⟩ => ?_
    rcases h with h | h
    · exact h hended
    · exact Bool.false_ne_true (hdecided.symm.trans h)
  case both =>
    refine fun h => ⟨fun hgo => ?_, fun hgo => (bothEnd_runs hup).acts bothOver h (bothEnd_noGo hgo)⟩
    refine ⟨_, (bothEnd_runs hup).acts bothOver h (bothEnd_go hgo), ?_⟩
    simp only [n, Dyn.lane_onTeth_same]
    exact ⟨rfl, rfl, rfl, rfl, rfl, rfl, rfl, rfl, rfl, rfl, rfl, rfl, fun k hk => Dyn.lane_onTeth_other _ hk⟩
  case quiet => exact fun hst hleft => (quietCountdownEnd_runs hup).acts quietOver_iff ⟨hst, hleft⟩ rfl
  case quietNot =>
    refine fun h => (quietCountdownEnd_runs hup).stands quietOver_iff fun ⟨hst, hleft⟩ => ?_
    exact h.elim (fun h => h hst) (fun h => h hleft)

end

section
/-! PROOF. Hunting for frame alignment at the main candidate (R273, R274). -/

namespace Sys2Proof.Machine

section
variable {d : Dyn} {n align seq raw : Nat}

theorem markerPlain_iff : markerPlain raw = true ↔ popcount32 (raw ^^^ 0xB5E3192D) ≤ 2 := decide_eq_true_iff

theorem markerSwapped_iff :
    markerSwapped raw = true ↔ popcount32 (raw ^^^ (0xB5E3192D ^^^ 0x55555555)) ≤ 2 := by
  rw [← Nat.xor_assoc]
  exact decide_eq_true_iff

/-! ### A marker at the main candidate's alignment -/

theorem huntMarker_first (hmain : (d.lane n).teth.main = none) : huntMarker d n align true seq
    = d.onTeth n (fun x => { x with main := some { align, count := 1, seq }, shadow := none, lock := 1 }) := by
  simp [huntMarker, hmain]

theorem huntMarker_none (hmain : (d.lane n).teth.main = none) : huntMarker d n align false seq
    = d.onTeth n (fun x => { x with main := none, shadow := none, lock := 0 }) := by
  simp [huntMarker, hmain]

section
variable {c : Cand} (hmain : (d.lane n).teth.main = some c) (halign : c.align = align)
include hmain halign

theorem huntMarker_second (hseq : seq = (c.seq + 1) % 65536) (hcount : c.count = 1) : huntMarker d n align true seq
    = d.onTeth n (fun x => { x with
        main := some { align := c.align, count := 2, seq }, shadow := (d.lane n).teth.shadow, lock := 1 }) := by
  simp [huntMarker, hmain, halign, Cand.next, hcount, ← hseq]

theorem huntMarker_third (hseq : seq = (c.seq + 1) % 65536) (hcount : c.count = 2) :
    huntMarker d n align true seq = gainLock d n seq false := by
  simp [huntMarker, hmain, halign, Cand.next, hcount, ← hseq]

theorem huntMarker_drops : huntMarker d n align false seq = d.onTeth n (fun x => { x with
    main := (d.lane n).teth.shadow, shadow := none, lock := if (d.lane n).teth.shadow.isSome then 1 else 0 }) := by
  simp [huntMarker, hmain, halign, Cand.next]

end

/-- A receiver whose lock was not lost before gains it without a report (R276). -/
theorem gainLock_first (h : (d.lane n).teth.frozen = false) : gainLock d n seq false = d.onTeth n (fun x => { x with
    lock := 2, main := none, shadow := none, lastSeq := seq, badRun := 0, frozen := false }) := by
  simp [gainLock, h]

end

/-! ### A marker by the state of the lane -/

section
variable {l : Lane} {align : Fin 4352} {raw : Word} {seq : Half} {s : State} (hup : islandUp s.dyn = true)
  (hpins : pinsTaken s.dyn = false)
include hup hpins

theorem markerDetected_stands (hsilent : ¬ ((s.dyn.lane l.val).teth.state = 2 ∨ (s.dyn.lane l.val).teth.state = 3))
    (h : ¬ (((s.dyn.lane l.val).teth.state = 4 ∨ (s.dyn.lane l.val).teth.state = 5
      ∨ (s.dyn.lane l.val).teth.state = 6) ∧ (s.dyn.lane l.val).teth.lock ≠ 2)) :
    Becomes (exec (.markerDetected l align raw seq) s) s s.dyn := by
  change Becomes (execMarkerDetected l align raw seq s) s _
  exact actPins_becomes hup hpins ((if_neg hsilent).trans (if_neg h))

theorem markerDetected_locked (hst : (s.dyn.lane l.val).teth.state = 4 ∨ (s.dyn.lane l.val).teth.state = 5
    ∨ (s.dyn.lane l.val).teth.state = 6) (hlock : (s.dyn.lane l.val).teth.lock = 2) :
    Becomes (exec (.markerDetected l align raw seq) s) s s.dyn :=
  markerDetected_stands hup hpins (by omega) fun h => h.2 hlock

theorem markerDetected_idle (hst : (s.dyn.lane l.val).teth.state < 2 ∨ (s.dyn.lane l.val).teth.state = 7) :
    Becomes (exec (.markerDetected l align raw seq) s) s s.dyn :=
  markerDetected_stands hup hpins (by omega) (by omega)

theorem markerDetected_fails (hsilent : (s.dyn.lane l.val).teth.state = 2 ∨ (s.dyn.lane l.val).teth.state = 3)
    (h : markerPlain raw.toNat = true) : Becomes (exec (.markerDetected l align raw seq) s) s
      (failAttempt s.img (violation s.dyn l.val 1) l.val 1) := by
  change Becomes (execMarkerDetected l align raw seq s) s _
  exact actPins_becomes hup hpins ((if_pos hsilent).trans (if_pos (by simp [h])))

section
variable (hst : (s.dyn.lane l.val).teth.state = 4 ∨ (s.dyn.lane l.val).teth.state = 5
  ∨ (s.dyn.lane l.val).teth.state = 6) (hlock : (s.dyn.lane l.val).teth.lock ≠ 2)
include hst hlock

/-- A receiver that hunts takes the marker, and INVERTED with one of a swapped pair that it looks for (log 96). -/
theorem markerDetected_hunts : Becomes (exec (.markerDetected l align raw seq) s) s
    (huntMarker
      (if !markerPlain raw.toNat && markerSwapped raw.toNat && hunterAt (s.dyn.lane l.val).teth align.val
        then s.dyn.onTeth l.val (fun t => { t with inverted := true }) else s.dyn)
      l.val align.val (markerPlain raw.toNat || markerSwapped raw.toNat) seq.toNat) := by
  change Becomes (execMarkerDetected l align raw seq s) s _
  refine actPins_becomes hup hpins ((if_neg ?_).trans (if_pos ⟨hst, hlock⟩))
  simp only [stSilence, stLead]
  omega

theorem markerDetected_plain (h : markerPlain raw.toNat = true) :
    Becomes (exec (.markerDetected l align raw seq) s) s (huntMarker s.dyn l.val align.val true seq.toNat) := by
  simpa [h] using markerDetected_hunts (align := align) (raw := raw) (seq := seq) hup hpins hst hlock

theorem markerDetected_invalid (hplain : markerPlain raw.toNat = false) (hswap : markerSwapped raw.toNat = false) :
    Becomes (exec (.markerDetected l align raw seq) s) s (huntMarker s.dyn l.val align.val false seq.toNat) := by
  simpa [hplain, hswap] using markerDetected_hunts (align := align) (raw := raw) (seq := seq) hup hpins hst hlock

theorem markerDetected_swapped (hplain : markerPlain raw.toNat = false) (hswap : markerSwapped raw.toNat = true)
    (hmain : (s.dyn.lane l.val).teth.main = none) : Becomes (exec (.markerDetected l align raw seq) s) s
      (huntMarker (s.dyn.onTeth l.val (fun t => { t with inverted := true })) l.val align.val true seq.toNat) := by
  simpa [hplain, hswap, hunterAt, hmain] using
    markerDetected_hunts (align := align) (raw := raw) (seq := seq) hup hpins hst hlock

end

end

end Sys2Proof.Machine
end

section
open Sys2Proof Sys2Proof.Machine

/-- Settles O35: a receiver that hunts takes a marker by `huntMarker`, whose cases are what the candidate has
counted. -/
theorem hunting : Obligations.Hunting := by
  unfold Obligations.Hunting
  intro l align raw seq s hup hpins n t marker put near
  refine ⟨fun hst => ⟨markerDetected_locked hup hpins hst, ?first, ?swapped, ?next, ?invalid⟩,
    markerDetected_idle hup hpins, ?silent⟩
  case first =>
    intro hlock hnear hmain
    have hseen := markerDetected_plain (align := align) (seq := seq) hup hpins hst hlock (markerPlain_iff.mpr hnear)
    rwa [huntMarker_first hmain] at hseen
  case swapped =>
    intro hlock hfar hswap hmain
    have hseen := markerDetected_swapped (align := align) (seq := seq) hup hpins hst hlock
      (Bool.eq_false_iff.mpr (mt markerPlain_iff.mp hfar)) (markerSwapped_iff.mpr hswap) hmain
    rwa [huntMarker_first (by simpa using hmain), Dyn.onTeth_onTeth] at hseen
  case next =>
    intro hlock hnear c hmain halign hseq
    have hseen := markerDetected_plain (align := align) (seq := seq) hup hpins hst hlock (markerPlain_iff.mpr hnear)
    refine ⟨fun hcount => ?_, fun hcount hfrozen => ?_⟩
    · rwa [huntMarker_second hmain halign hseq hcount] at hseen
    · rwa [huntMarker_third hmain halign hseq hcount, gainLock_first hfrozen] at hseen
  case invalid =>
    intro hlock hfar hswap
    have hseen := markerDetected_invalid (align := align) (seq := seq) hup hpins hst hlock
      (Bool.eq_false_iff.mpr (mt markerPlain_iff.mp hfar)) (Bool.eq_false_iff.mpr (mt markerSwapped_iff.mp hswap))
    refine ⟨fun hmain => ?_, fun c hmain halign => ?_⟩
    · rwa [huntMarker_none hmain] at hseen
    · rwa [huntMarker_drops hmain halign] at hseen
  case silent => exact fun hst hnear => markerDetected_fails hup hpins hst (markerPlain_iff.mpr hnear)

end

section
/-! PROOF. Received frames: the decoder, and a frame by the receiver's state (R266, R275, R276, R284). -/

namespace Sys2Proof.Machine

/-! ### The decoder (R266) -/

section
variable {fuel n : Nat} {s : LaneDec}

theorem laneLoop_done (h : codeHolds (laneHard (laneIter s)) = true) :
    laneLoop (fuel + 1) n s = (laneHard (laneIter s), n + 1) :=
  if_pos h

theorem laneLoop_more (h : ¬ codeHolds (laneHard (laneIter s)) = true) :
    laneLoop (fuel + 1) n s = laneLoop fuel (n + 1) (laneIter s) :=
  if_neg h

end

/-- The decoder stops where the checks hold, or where its iterations are used up. -/
theorem laneLoop_stops (fuel n : Nat) (s : LaneDec) : (laneLoop fuel n s).2 ≤ n + fuel
    ∧ ((laneLoop fuel n s).2 < n + fuel → codeHolds (laneLoop fuel n s).1 = true) := by
  induction fuel generalizing n s with
  | zero => exact ⟨Nat.le_refl n, fun h => absurd h (Nat.lt_irrefl n)⟩
  | succ fuel ih =>
    by_cases h : codeHolds (laneHard (laneIter s)) = true
    · rw [laneLoop_done h]
      dsimp only
      exact ⟨by omega, fun _ => h⟩
    · rw [laneLoop_more h, Nat.add_comm fuel 1, ← Nat.add_assoc]
      exact ih (n + 1) (laneIter s)

section
variable {signs : Nat} {mags : List (BitVec 5)}

theorem laneDecode_good (h : codeHolds signs = true) : laneDecode signs mags = (signs, 0) := if_pos h

theorem laneDecode_bad (h : ¬ codeHolds signs = true) : ∃ soft, laneDecode signs mags = laneLoop 8 0 soft :=
  ⟨_, if_neg h⟩

theorem laneDecode_stops : (laneDecode signs mags).2 ≤ 8
    ∧ ((laneDecode signs mags).2 < 8 → codeHolds (laneDecode signs mags).1 = true) := by
  by_cases h : codeHolds signs = true
  · rw [laneDecode_good h]
    exact ⟨Nat.zero_le 8, fun _ => h⟩
  · obtain ⟨soft, hloop⟩ := laneDecode_bad (mags := mags) h
    rw [hloop]
    exact laneLoop_stops 8 0 soft

end

/-! ### What a frame leaves of its lane -/

section
variable {img : Img} {d : Dyn} {n k : Nat} {c : LaneCfg}

theorem adaptTaps_lane : ∃ taps, (adaptTaps d n).lane n
    = { d.lane n with teth := { (d.lane n).teth with taps } } := by
  unfold adaptTaps
  split
  · exact ⟨_, rfl⟩
  · exact ⟨_, Dyn.lane_onTeth_same _⟩

theorem adaptTaps_lane_other (h : k ≠ n) : (adaptTaps d n).lane k = d.lane k := by
  unfold adaptTaps
  split
  · rfl
  · exact Dyn.lane_onTeth_other _ h

/-- The machine as a locked receiver begins on a frame: its records noted, its taps adapted. -/
def frameNoted (img : Img) (d : Dyn) (n iters ps noise : Nat) : Dyn := adaptTaps (noteFrame img d n iters ps noise) n

section
variable {iters ps noise : Nat}

theorem frameNoted_lane : ∃ rxTime quality margin iters' taps, (frameNoted img d n iters ps noise).lane n
    = { d.lane n with teth := { (d.lane n).teth with rxTime, quality, margin, iters := iters', taps } } := by
  obtain ⟨taps, h⟩ := adaptTaps_lane (d := noteFrame img d n iters ps noise) (n := n)
  exact ⟨_, _, _, _, taps, by rw [frameNoted, h, noteFrame, Dyn.lane_onTeth_same]⟩

theorem frameNoted_lane_other (h : k ≠ n) : (frameNoted img d n iters ps noise).lane k = d.lane k :=
  (adaptTaps_lane_other h).trans (Dyn.lane_onTeth_other _ h)

theorem frameNoted_laneCfg : laneCfg img (frameNoted img d n iters ps noise) n = laneCfg img d n := by
  obtain ⟨_, _, _, _, _, h⟩ := frameNoted_lane (img := img) (d := d) (n := n) (iters := iters) (ps := ps)
    (noise := noise)
  exact laneCfg_congr (by rw [h])

end

/-- A lane with one frame more lost (R275). -/
def LaneSt.frameLost (x : LaneSt) : LaneSt :=
  { x with
    rx := x.rx ++ [.lostFrame ((x.teth.lastSeq + x.teth.badRun + 1) % 65536)]
    teth := { x.teth with framesLost := min 0xFFFFFFFF (x.teth.framesLost + 1), badRun := x.teth.badRun + 1 } }

section
variable (hc : laneCfg img d n = some c)
include hc

theorem loseFrame_eq : loseFrame img d n = if c.lockLoss ≤ (d.lane n).teth.badRun + 1 then
      event ((dropLock img (d.onLane n LaneSt.frameLost) n).onTeth n (fun t =>
        { t with frozen := true, losses := satAdd 0xFFFF t.losses 1 })) (laneSrc n) 6 0x0583 []
    else d.onLane n LaneSt.frameLost := by
  have hcfg : laneCfg img (d.onLane n LaneSt.frameLost) n = some c :=
    (laneCfg_congr (by simp [LaneSt.frameLost])).trans hc
  have hrun : ((d.onLane n LaneSt.frameLost).lane n).teth.badRun = (d.lane n).teth.badRun + 1 := by
    simp [LaneSt.frameLost]
  change (match laneCfg img (d.onLane n LaneSt.frameLost) n with | none => _ | some c => _) = _
  rw [hcfg, ← hrun]
  rfl

theorem loseFrame_counts (h : (d.lane n).teth.badRun + 1 < c.lockLoss) :
    loseFrame img d n = d.onLane n LaneSt.frameLost :=
  (loseFrame_eq hc).trans (if_neg (Nat.not_le.mpr h))

/-- The frame with which LOCK_LOSS are lost ends the lock (R276). -/
theorem loseFrame_ends (h : c.lockLoss ≤ (d.lane n).teth.badRun + 1) : loseFrame img d n
    = event ((dropLock img (d.onLane n LaneSt.frameLost) n).onTeth n (fun t =>
        { t with frozen := true, losses := satAdd 0xFFFF t.losses 1 })) (laneSrc n) 6 0x0583 [] :=
  (loseFrame_eq hc).trans (if_pos h)

end

/-- Where no container is open, the end of a lock closes none. -/
theorem dropLock_closed (h : (d.lane n).bridle.opened = []) : dropLock img d n = d.onTeth n (fun t => { t with
    lock := 0, main := none, shadow := none, badRun := 0, huntSince := t.frames, askSince := none }) := by
  have hclose : closeAll img d n = d := by
    rw [closeAll, h]
    rfl
  simp [dropLock, hclose]

/-- The end of a lock by lost frames, on a lane without open containers, is the lane's alone. -/
theorem loseFrame_ends_lane (hc : laneCfg img d n = some c) (h : c.lockLoss ≤ (d.lane n).teth.badRun + 1)
    (hopen : (d.lane n).bridle.opened = []) :
    (((loseFrame img d n).lane n).teth.lock = 0 ∧ ((loseFrame img d n).lane n).teth.frozen = true
      ∧ ((loseFrame img d n).lane n).teth.losses = min 0xFFFF ((d.lane n).teth.losses + 1)
      ∧ ((loseFrame img d n).lane n).teth.state = (d.lane n).teth.state)
    ∧ ∀ k, k ≠ n → (loseFrame img d n).lane k = d.lane k := by
  have hclosed := dropLock_closed (img := img) (d := d.onLane n LaneSt.frameLost) (n := n)
    (by simpa [LaneSt.frameLost] using hopen)
  rw [loseFrame_ends hc h, hclosed]
  refine ⟨?_, fun k hk => by simp [hk]⟩
  simp [LaneSt.frameLost, satAdd]

end

/-! ### A frame by the state of the lane -/

theorem b2n_bne (a b : Nat) : b2n (a != b) = if a = b then 0 else 1 := by
  by_cases h : a = b <;> simp [b2n, h]

section
variable {l : Lane} {signs : BitVec 8704} {mags : List (BitVec 5)} {ps noise : Nat} {s : State}
  (hup : islandUp s.dyn = true)
include hup

theorem frameReceived_becomes {d : Dyn} (hpins : pinsTaken s.dyn = false)
    (h : frameReceived s.img s.dyn l.val (laneDecode signs.toNat mags).1
      (b2n ((laneDecode signs.toNat mags).1 != signs.toNat)) (laneDecode signs.toNat mags).2 ps noise = d) :
    Becomes (exec (.frameReceived l signs mags ps noise) s) s d := by
  change Becomes (execFrameReceived l signs mags ps noise s) s d
  exact act_becomes hup (by simpa [hpins] using h)

theorem relockExpiry_starts {c : LaneCfg} (hc : laneCfg s.img s.dyn l.val = some c)
    (hst : (s.dyn.lane l.val).teth.state = 6) (hauto : c.auto = true) (hlock : (s.dyn.lane l.val).teth.lock ≠ 2)
    (hrelock : c.relock ≤ (s.dyn.lane l.val).teth.frames - (s.dyn.lane l.val).teth.huntSince) :
    Becomes (exec (.relockExpiry l) s) s (startAttempt s.img s.dyn l.val false) := by
  change Becomes (execRelockExpiry l s) s _
  exact act_becomes hup (by simp [hc, hauto, hst, stData, hlock, hrelock, when_])

theorem relockExpiry_stands {c : LaneCfg} (hc : laneCfg s.img s.dyn l.val = some c) (hauto : c.auto = false) :
    Becomes (exec (.relockExpiry l) s) s s.dyn := by
  change Becomes (execRelockExpiry l s) s _
  exact act_becomes hup (by simp [hc, hauto, when_])

end

section
variable {img : Img} {d : Dyn} {n frame fixed iters ps noise : Nat}

theorem frameReceived_stands (hlock : ¬ (((d.lane n).teth.state = 4 ∨ (d.lane n).teth.state = 5
      ∨ (d.lane n).teth.state = 6) ∧ (d.lane n).teth.lock = 2))
    (hshow : ¬ (((d.lane n).teth.state = 2 ∨ (d.lane n).teth.state = 3 ∨ (d.lane n).teth.state = 7)
      ∧ (d.lane n).teth.noGo = true)) : frameReceived img d n frame fixed iters ps noise = d :=
  (if_neg fun h => hshow ⟨h.1, h.2.1⟩).trans (if_neg hlock)

theorem frameReceived_unlocked (hst : (d.lane n).teth.state = 4 ∨ (d.lane n).teth.state = 5
    ∨ (d.lane n).teth.state = 6) (hlock : (d.lane n).teth.lock ≠ 2) :
    frameReceived img d n frame fixed iters ps noise = d :=
  frameReceived_stands (fun h => hlock h.2) (by omega)

theorem frameReceived_off (hst : (d.lane n).teth.state = 0 ∨ (d.lane n).teth.state = 1) :
    frameReceived img d n frame fixed iters ps noise = d :=
  frameReceived_stands (by omega) (by omega)

theorem frameReceived_training (hst : (d.lane n).teth.state = 2 ∨ (d.lane n).teth.state = 3
    ∨ (d.lane n).teth.state = 7) (hnoGo : (d.lane n).teth.noGo = false) :
    frameReceived img d n frame fixed iters ps noise = d :=
  frameReceived_stands (by omega) fun h => Bool.false_ne_true (hnoGo.symm.trans h.2)

/-- A frame of DATA after a BOTH that ended without GO is a breach (Table 10.7, kind 8). -/
theorem frameReceived_shows (hst : (d.lane n).teth.state = 2 ∨ (d.lane n).teth.state = 3
      ∨ (d.lane n).teth.state = 7) (hnoGo : (d.lane n).teth.noGo = true)
    (hgood : frameGood frame (descramble frame) = true) (hphase : bits (descramble frame) 67 64 = 4) :
    frameReceived img d n frame fixed iters ps noise = violation d n 8 :=
  if_pos ⟨hst, hnoGo, hgood, hphase⟩

section
variable (hst : (d.lane n).teth.state = 4 ∨ (d.lane n).teth.state = 5 ∨ (d.lane n).teth.state = 6)
  (hlock : (d.lane n).teth.lock = 2)
include hst hlock

theorem frameReceived_locked : frameReceived img d n frame fixed iters ps noise
    = if frameGood frame (descramble frame) then
        goodFrame img (frameNoted img d n iters ps noise) n (descramble frame) fixed
      else loseFrame img (frameNoted img d n iters ps noise) n := by
  have hshow : ¬ ((d.lane n).teth.state = 2 ∨ (d.lane n).teth.state = 3 ∨ (d.lane n).teth.state = 7) := by omega
  exact (if_neg fun h => hshow h.1).trans (if_pos ⟨hst, hlock⟩)

theorem frameReceived_good (hgood : frameGood frame (descramble frame) = true) :
    frameReceived img d n frame fixed iters ps noise
      = goodFrame img (frameNoted img d n iters ps noise) n (descramble frame) fixed :=
  (frameReceived_locked hst hlock).trans (if_pos hgood)

theorem frameReceived_bad (hbad : frameGood frame (descramble frame) = false) :
    frameReceived img d n frame fixed iters ps noise = loseFrame img (frameNoted img d n iters ps noise) n :=
  (frameReceived_locked hst hlock).trans (if_neg (Bool.eq_false_iff.mp hbad))

section
variable {c : LaneCfg} (hc : laneCfg img d n = some c) (hbad : frameGood frame (descramble frame) = false)
include hc hbad

theorem frameReceived_loses (hrun : (d.lane n).teth.badRun + 1 < c.lockLoss) :
    frameReceived img d n frame fixed iters ps noise = (frameNoted img d n iters ps noise).onLane n (fun y => { y with
      rx := (d.lane n).rx ++ [.lostFrame (((d.lane n).teth.lastSeq + (d.lane n).teth.badRun + 1) % 65536)]
      teth := { y.teth with
        framesLost := min 0xFFFFFFFF ((d.lane n).teth.framesLost + 1), badRun := (d.lane n).teth.badRun + 1 } }) := by
  obtain ⟨_, _, _, _, _, hlane⟩ := frameNoted_lane (img := img) (d := d) (n := n) (iters := iters) (ps := ps)
    (noise := noise)
  rw [frameReceived_bad hst hlock hbad, loseFrame_counts (frameNoted_laneCfg.trans hc) (by rwa [hlane])]
  exact Dyn.onLane_congr (by rw [hlane]; rfl)

theorem frameReceived_unlocks (hrun : c.lockLoss ≤ (d.lane n).teth.badRun + 1)
    (hopen : (d.lane n).bridle.opened = []) {e : Dyn} (he : frameReceived img d n frame fixed iters ps noise = e) :
    (e.lane n).teth.lock = 0 ∧ (e.lane n).teth.frozen = true
      ∧ (e.lane n).teth.losses = min 0xFFFF ((d.lane n).teth.losses + 1)
      ∧ (e.lane n).teth.state = (d.lane n).teth.state ∧ ∀ k, k ≠ n → e.lane k = d.lane k := by
  obtain ⟨_, _, _, _, _, hlane⟩ := frameNoted_lane (img := img) (d := d) (n := n) (iters := iters) (ps := ps)
    (noise := noise)
  obtain ⟨⟨hunlocked, hfrozen, hlosses, hstate⟩, hother⟩ := loseFrame_ends_lane
    (frameNoted_laneCfg (iters := iters) (ps := ps) (noise := noise) |>.trans hc) (by rwa [hlane]) (by rwa [hlane])
  rw [← he, frameReceived_bad hst hlock hbad]
  rw [hlane] at hlosses hstate
  exact ⟨hunlocked, hfrozen, hlosses, hstate, fun k hk => (hother k hk).trans (frameNoted_lane_other hk)⟩

end

end

end

end Sys2Proof.Machine
end

section
open Sys2Proof Sys2Proof.Machine

/-- Settles O37: the decoder's loop stops by `laneLoop_stops`; a locked receiver notes a frame (`frameNoted_lane` says
what that leaves), then takes or loses it, and other receivers take none. -/
theorem receivedFrames : Obligations.ReceivedFrames := by
  unfold Obligations.ReceivedFrames
  refine ⟨fun signs mags => ?decoder, ?frames⟩
  case decoder =>
    obtain ⟨hmax, hstop⟩ := laneDecode_stops (signs := signs) (mags := mags)
    exact ⟨hmax, hstop, laneDecode_good⟩
  case frames =>
    intro l signs mags ps noise s c hup hpins hc n x t received frame info noted
    refine ⟨fun hst hlock => ⟨?good, ?lost, ?ends⟩, ?hunts, ?off, ?training, relockExpiry_starts hup hc,
      relockExpiry_stands hup hc⟩
    case good =>
      exact fun hgood => frameReceived_becomes hup hpins
        ((frameReceived_good hst hlock hgood).trans (congrArg _ (b2n_bne _ _)))
    case lost =>
      exact fun hbad hrun => frameReceived_becomes hup hpins (frameReceived_loses hst hlock hc hbad hrun)
    case ends =>
      exact fun hbad hrun hopen => ⟨_, frameReceived_becomes hup hpins rfl,
        frameReceived_unlocks hst hlock hc hbad hrun hopen rfl⟩
    case hunts =>
      exact fun hst hlock => frameReceived_becomes hup hpins (frameReceived_unlocked hst hlock)
    case off => exact fun hst => frameReceived_becomes hup hpins (frameReceived_off hst)
    case training =>
      exact fun hst => ⟨fun hnoGo => frameReceived_becomes hup hpins (frameReceived_training hst hnoGo),
        fun hnoGo hgood hphase => frameReceived_becomes hup hpins (frameReceived_shows hst hnoGo hgood hphase)⟩

end

section
/-! PROOF. The frames that a lane builds, and the levels of its symbols (R258, R269, R270, R278, R282). -/

namespace Sys2Proof.Machine

/-! ### Levels (R258) -/

theorem pamLevel_not (first second : Bool) : pamLevel (!first) second = -pamLevel first second := by
  cases first <;> cases second <;> rfl

theorem symLevel_swapped (frame m : Nat) : symLevel (frame ^^^ 2 ^ (2 * m)) m = -symLevel frame m := by
  simp [symLevel, Nat.testBit_xor, pamLevel_not]

/-! ### Frames -/

/-- A Tether state after a frame that is built is sent: SEQ and the periods count (R269, R270). -/
def TetherSt.sent (t : TetherSt) (frame time : Nat) : TetherSt :=
  { t with
    txFrame := frame, txTime := time, sending := true
    txBefore := if t.sending then symLevel t.txFrame 4351 else 0, txSeq := (t.txSeq + 1) % 65536
    frames := t.frames + 1, phaseFrames := t.phaseFrames + 1, quietLeft := t.quietLeft.map (· - 1) }

/-- The next frame of a lane with the data words `ws`. -/
def nextFrame (img : Img) (d : Dyn) (n : Nat) (ws : List Nat) : Nat :=
  encodeFrame (d.lane n).teth.txSeq 0 ws.length (linkWord img d n) ws

/-- When the next frame's first symbol leaves (R279). -/
def nextTime (img : Img) (d : Dyn) (n : Nat) : Nat := d.now256At (laneSrc n) + txLatency256 (laneRate img d n)

/-- The machine `d` as the frame leaves lane `n`: counted (R421), and sent. -/
def frameSent (d : Dyn) (n words frame time : Nat) : Dyn :=
  (countEv (countEv d (laneSrc n) 0x0500 1 EvInfo.plain) (laneSrc n) 0x0501 words EvInfo.plain).onTeth n
    (fun t => t.sent frame time)

section
variable {d : Dyn} {n words frame time : Nat}

/-- Sending changes the lane and what counts. -/
theorem frameSent_only :
    { frameSent d n words frame time with lanes := d.lanes, perf := d.perf, free := d.free } = d := by
  rw [frameSent, countEv_only, countEv_only]
  rfl

theorem frameSent_lane : (frameSent d n words frame time).lane n
    = { d.lane n with teth := (d.lane n).teth.sent frame time } := by
  rw [frameSent, Dyn.lane_onTeth_same, Dyn.lane_of_lanes (countEv_lanes ..), Dyn.lane_of_lanes (countEv_lanes ..)]

theorem frameSent_lane_other {k : Nat} (h : k ≠ n) : (frameSent d n words frame time).lane k = d.lane k := by
  rw [frameSent, Dyn.lane_onTeth_other _ h, Dyn.lane_of_lanes (countEv_lanes ..), Dyn.lane_of_lanes (countEv_lanes ..)]

end

section
variable {img : Img} {d : Dyn} {n : Nat}

theorem frameBuild_empty (hst : (d.lane n).teth.state = 3 ∨ (d.lane n).teth.state = 5) :
    frameBuild img d n = frameSent d n 0 (nextFrame img d n []) (nextTime img d n) := by
  rcases hst with hst | hst <;>
    simp [frameBuild, hst, stLead, stBoth, stData, frameSent, nextFrame, nextTime, TetherSt.sent]

theorem frameBuild_data (hst : (d.lane n).teth.state = 6) (hleft : (d.lane n).teth.quietLeft ≠ some 0)
    {w : List Nat × Dyn} (hw : frameWords img d n (nextTime img d n) = w) :
    frameBuild img d n = frameSent w.2 n w.1.length (nextFrame img d n w.1) (nextTime img d n) := by
  subst hw
  simp [frameBuild, hst, hleft, stLead, stBoth, stData, frameSent, nextFrame, nextTime, TetherSt.sent]

/-- A silent period of training counts (R269). -/
theorem frameBuild_silent (hst : (d.lane n).teth.state = 2 ∨ (d.lane n).teth.state = 4) : frameBuild img d n
    = d.onTeth n (fun t => { t with frames := t.frames + 1, phaseFrames := t.phaseFrames + 1 }) := by
  rcases hst with hst | hst <;> simp [frameBuild, hst, stLead, stBoth, stData, isTraining]

theorem frameBuild_off (hst : (d.lane n).teth.state < 2 ∨ 6 < (d.lane n).teth.state) : frameBuild img d n = d := by
  have hlead : (d.lane n).teth.state ≠ stLead := by simp only [stLead]; omega
  have hboth : (d.lane n).teth.state ≠ stBoth := by simp only [stBoth]; omega
  have hdata : (d.lane n).teth.state ≠ stData := by simp only [stData]; omega
  have htrain : isTraining (d.lane n).teth.state = false := by simp [isTraining]; omega
  simp [frameBuild, hlead, hboth, hdata, htrain]

theorem frameBuild_quiet (hst : (d.lane n).teth.state = 6) (hleft : (d.lane n).teth.quietLeft = some 0) :
    frameBuild img d n = d := by
  simp [frameBuild, hst, hleft, stLead, stBoth, stData, isTraining]

end

theorem frameBuild_becomes {l : Lane} {s : State} {d : Dyn} (hup : islandUp s.dyn = true)
    (h : frameBuild s.img s.dyn l.val = d) : Becomes (exec (.frameBuild l) s) s d := by
  change Becomes (execFrameBuild l s) s d
  exact act_becomes hup h

end Sys2Proof.Machine
end

section
open Sys2Proof Sys2Proof.Machine

/-- Settles O38: a swapped first bit turns the level's sign (`pamLevel_not`); a lane that transmits sends the frame that
`frameBuild` makes of its words, and `frameSent` says what that changes. -/
theorem builtFrames : Obligations.BuiltFrames := by
  unfold Obligations.BuiltFrames
  refine ⟨symLevel_swapped, fun l s hup => ?_⟩
  intro n t sent
  have sends {d : Dyn} {ws : List Nat} (h : frameBuild s.img s.dyn n
      = frameSent d n ws.length (nextFrame s.img s.dyn n ws) (nextTime s.img s.dyn n)) :
      Answers (exec (.frameBuild l) s) (sent d ws) :=
    ⟨_, frameBuild_becomes hup h, frameSent_only, rfl, rfl, fun k hk => frameSent_lane_other hk, frameSent_lane⟩
  refine ⟨fun hst => sends (frameBuild_empty hst), fun hst hleft => sends (frameBuild_data hst hleft rfl), ?silent,
    ?off, ?quiet⟩
  case silent => exact fun hst => frameBuild_becomes hup ((frameBuild_silent hst).trans (Dyn.onTeth_congr rfl))
  case off => exact fun hst => frameBuild_becomes hup (frameBuild_off hst)
  case quiet => exact fun hst hleft => frameBuild_becomes hup (frameBuild_quiet hst hleft)

end

section
/-! PROOF. A frame is built and taken apart again (R260 to R265, R275). -/

namespace Sys2Proof.Machine

/-! ### Fields of a number that is put together from its low and its high part -/

section
variable {a b n hi lo m : Nat}

theorem add_two_pow_mul_lt {k : Nat} (ha : a < 2 ^ n) (hb : b < 2 ^ m) (hk : n + m = k) : a + 2 ^ n * b < 2 ^ k := by
  rw [← hk, Nat.pow_add]
  calc a + 2 ^ n * b < 2 ^ n * (b + 1) := by rw [Nat.mul_add]; omega
    _ ≤ 2 ^ n * 2 ^ m := Nat.mul_le_mul_left _ hb

theorem testBit_bits (x hi lo i : Nat) :
    (bits x hi lo).testBit i = (decide (i < hi + 1 - lo) && x.testBit (lo + i)) := by
  rw [bits, Nat.testBit_mod_two_pow, Nat.testBit_shiftRight]

/-- Two numbers whose low bits agree have the same low fields. -/
theorem bits_congr (h : ∀ i < n, a.testBit i = b.testBit i) (hhi : hi < n) : bits a hi lo = bits b hi lo := by
  refine Nat.eq_of_testBit_eq fun i => ?_
  rw [testBit_bits, testBit_bits]
  by_cases hi' : i < hi + 1 - lo
  · rw [h (lo + i) (by omega)]
  · simp [hi']

theorem bits_mod (h : hi < n) : bits (a % 2 ^ n) hi lo = bits a hi lo :=
  bits_congr (fun i hi => by simp [Nat.testBit_mod_two_pow, hi]) h

/-- A field of the low part. -/
theorem bits_add_low (h : hi < n) : bits (a + 2 ^ n * b) hi lo = bits a hi lo := by
  rw [← bits_mod h, Nat.add_mul_mod_self_left, bits_mod h]

theorem add_two_pow_mul_div (ha : a < 2 ^ n) : (a + 2 ^ n * b) / 2 ^ n = b := by
  rw [Nat.add_mul_div_left _ _ (Nat.two_pow_pos n), Nat.div_eq_of_lt ha, Nat.zero_add]

theorem add_two_pow_mul_mod (ha : a < 2 ^ n) : (a + 2 ^ n * b) % 2 ^ n = a := by
  rw [Nat.add_mul_mod_self_left, Nat.mod_eq_of_lt ha]

theorem add_two_pow_mul_mod_low (h : n ≤ m) : (a + 2 ^ m * b) % 2 ^ n = a % 2 ^ n := by
  rw [← Nat.add_sub_cancel' h, Nat.pow_add, Nat.mul_assoc, Nat.add_mul_mod_self_left]

/-- A field of the high part. -/
theorem bits_add_high (ha : a < 2 ^ n) : bits (a + 2 ^ n * b) (n + hi) (n + lo) = bits b hi lo := by
  rw [bits_eq_div_mod, bits_eq_div_mod, Nat.pow_add, ← Nat.div_div_eq_div_mul, add_two_pow_mul_div ha,
    Nat.add_assoc, Nat.add_sub_add_left]

theorem bits_all (h : a < 2 ^ (hi + 1)) : bits a hi 0 = a := by
  rw [bits, Nat.shiftRight_zero, Nat.sub_zero, Nat.mod_eq_of_lt h]

/-- The high part itself. -/
theorem bits_add_top (ha : a < 2 ^ n) (hb : b < 2 ^ (hi + 1)) : bits (a + 2 ^ n * b) (n + hi) n = b :=
  (bits_add_high (lo := 0) ha).trans (bits_all hb)

end

/-! ### The scrambler (R262) -/

theorem scrambleBits_length (n s : Nat) : (scrambleBits n s).length = n := by
  induction n generalizing s with
  | zero => rfl
  | succ n ih => simp [scrambleBits, ih]

theorem bitsNatL_lt (l : List Bool) : bitsNatL l < 2 ^ l.length := by
  induction l with
  | nil => simp [bitsNatL]
  | cons b l ih =>
    rw [List.length_cons, Nat.pow_succ, bitsNatL]
    cases b <;> simp [b2n] <;> omega

/-- What the scrambler adds to a frame, from bit 48 on. -/
def scrambleMask (seq : Nat) : Nat := bitsNatL (scrambleBits 8144 (2 ^ 30 ||| (seq * 2 ^ 14) ||| 0x1A5A)) * 2 ^ 48

theorem scramble_eq (x seq : Nat) : scramble x seq = x ^^^ scrambleMask seq := rfl

theorem scrambleBits_lt (n s m : Nat) : bitsNatL (scrambleBits n s) * 2 ^ m < 2 ^ (n + m) := by
  have hbits := bitsNatL_lt (scrambleBits n s)
  rw [scrambleBits_length] at hbits
  rw [Nat.pow_add]
  exact Nat.mul_lt_mul_of_pos_right hbits (Nat.two_pow_pos m)

theorem scrambleMask_lt {n : Nat} (hn : 8144 + 48 = n) (seq : Nat) : scrambleMask seq < 2 ^ n :=
  hn ▸ scrambleBits_lt 8144 _ 48

section
variable {x seq : Nat}

theorem scramble_scramble : scramble (scramble x seq) seq = x := by
  rw [scramble_eq, scramble_eq, Nat.xor_assoc, Nat.xor_self, Nat.xor_zero]

theorem scramble_lt {n : Nat} (hn : 8144 + 48 = n) (h : x < 2 ^ n) : scramble x seq < 2 ^ n :=
  Nat.xor_lt_two_pow h (scrambleMask_lt hn seq)

/-- MARKER and SEQ go unscrambled. -/
theorem bits_scramble {hi lo : Nat} (h : hi < 48) : bits (scramble x seq) hi lo = bits x hi lo := by
  refine bits_congr (fun i hi => ?_) h
  rw [scramble_eq, Nat.testBit_xor, scrambleMask, Nat.testBit_mul_two_pow, decide_eq_false (Nat.not_le.mpr hi)]
  simp

end

/-! ### The code (R264, R265) -/

theorem rowSum_lt (frame i : Nat) : rowSum frame i < 2 ^ 128 :=
  List.foldlRecOn (motive := (· < 2 ^ 128)) _ _ (Nat.two_pow_pos 128) fun _ ha _ _ =>
    Nat.xor_lt_two_pow ha (Nat.mod_lt _ (Nat.two_pow_pos 128))

theorem parityBlocks_lt (frame : Nat) : parityBlocks frame < 2 ^ 512 := by
  have h0 := rowSum_lt frame 0
  have h1 := Nat.xor_lt_two_pow (rowSum_lt frame 1) h0
  have h2 := Nat.xor_lt_two_pow (rowSum_lt frame 2) h1
  have h3 := Nat.xor_lt_two_pow (rowSum_lt frame 3) h2
  exact add_two_pow_mul_lt (add_two_pow_mul_lt (add_two_pow_mul_lt h0 h1 rfl) h2 rfl) h3 rfl

/-- An information part with its parity blocks. -/
def withParity (info : Nat) : Nat := info + 2 ^ 8192 * parityBlocks info

section
variable {info : Nat}

theorem withParity_mod (h : info < 2 ^ 8192) : withParity info % 2 ^ 8192 = info := add_two_pow_mul_mod h

theorem codeHolds_withParity (h : info < 2 ^ 8192) : codeHolds (withParity info) = true := by
  rw [codeHolds, withParity_mod h, withParity, add_two_pow_mul_div h]
  exact beq_self_eq_true _

theorem withParity_lt (h : info < 2 ^ 8192) : withParity info < 2 ^ 8704 := by
  rw [withParity]
  exact add_two_pow_mul_lt h (parityBlocks_lt info) rfl

end

/-! ### The header and its check (R261) -/

theorem crcBits_lt {n poly init : Nat} (hpoly : poly < 2 ^ n) (hinit : init < 2 ^ n) (l : List Bool) :
    crcBits n poly init l < 2 ^ n := by
  refine List.foldlRecOn (motive := (· < 2 ^ n)) _ _ hinit fun acc _ b _ => ?_
  have hshift : acc * 2 % 2 ^ n < 2 ^ n := Nat.mod_lt _ (Nat.two_pow_pos n)
  unfold crcBit
  dsimp only
  split
  · exact Nat.xor_lt_two_pow hshift hpoly
  · exact hshift

theorem headerCrc_lt (h : Nat) : headerCrc h < 2 ^ 16 := crcBits_lt (by decide) (by decide) _

/-- The fields below HCRC (Table 10.3). -/
def frameHeader (seq flags count link : Nat) : Nat :=
  frameMarker + 2 ^ 32 * seq + 2 ^ 48 * flags + 2 ^ 56 * count + 2 ^ 64 * link

section
variable {seq flags count link : Nat} (hseq : seq < 65536) (hflags : flags < 256) (hcount : count < 256)
  (hlink : link < 2 ^ 48)

theorem frameMarker_lt : frameMarker < 2 ^ 32 := by decide

section
include hseq

theorem headerSeq_lt : frameMarker + 2 ^ 32 * seq < 2 ^ 48 :=
  add_two_pow_mul_lt (n := 32) (m := 16) frameMarker_lt hseq rfl

include hflags

theorem headerFlags_lt : frameMarker + 2 ^ 32 * seq + 2 ^ 48 * flags < 2 ^ 56 :=
  add_two_pow_mul_lt (n := 48) (m := 8) (headerSeq_lt hseq) hflags rfl

include hcount

theorem headerCount_lt : frameMarker + 2 ^ 32 * seq + 2 ^ 48 * flags + 2 ^ 56 * count < 2 ^ 64 :=
  add_two_pow_mul_lt (n := 56) (m := 8) (headerFlags_lt hseq hflags) hcount rfl

include hlink

theorem frameHeader_lt : frameHeader seq flags count link < 2 ^ 112 :=
  add_two_pow_mul_lt (n := 64) (m := 48) (headerCount_lt hseq hflags hcount) hlink rfl

theorem frameHeader_fields : bits (frameHeader seq flags count link) 31 0 = frameMarker
    ∧ bits (frameHeader seq flags count link) 47 32 = seq ∧ bits (frameHeader seq flags count link) 55 48 = flags
    ∧ bits (frameHeader seq flags count link) 63 56 = count
    ∧ bits (frameHeader seq flags count link) 111 64 = link := by
  refine ⟨?_, ?_, ?_, ?_, ?_⟩
  · rw [frameHeader, bits_add_low (by decide), bits_add_low (by decide), bits_add_low (by decide),
      bits_add_low (by decide), bits_all frameMarker_lt]
  · rw [frameHeader, bits_add_low (by decide), bits_add_low (by decide), bits_add_low (by decide)]
    exact bits_add_top (n := 32) (hi := 15) frameMarker_lt hseq
  · rw [frameHeader, bits_add_low (by decide), bits_add_low (by decide)]
    exact bits_add_top (n := 48) (hi := 7) (headerSeq_lt hseq) hflags
  · rw [frameHeader, bits_add_low (by decide)]
    exact bits_add_top (n := 56) (hi := 7) (headerFlags_lt hseq hflags) hcount
  · exact bits_add_top (n := 64) (hi := 47) (headerCount_lt hseq hflags hcount) hlink

end

end

/-! ### The payload (R263) -/

/-- Words of 64 bits in one number, the first lowest. -/
def packWords (words : List Nat) : Nat := words.foldr (fun w a => w % 2 ^ 64 + 2 ^ 64 * a) 0

theorem packWords_cons (w : Nat) (words : List Nat) : packWords (w :: words) = w % 2 ^ 64 + 2 ^ 64 * packWords words :=
  rfl

theorem packWords_lt (words : List Nat) : packWords words < 2 ^ (64 * words.length) := by
  induction words with
  | nil => decide
  | cons w words ih =>
    rw [List.length_cons, Nat.mul_succ, Nat.add_comm, packWords_cons]
    exact add_two_pow_mul_lt (Nat.mod_lt _ (Nat.two_pow_pos 64)) ih rfl

theorem packWords_lt_of_length {words : List Nat} {m : Nat} (h : words.length ≤ m) : packWords words < 2 ^ (64 * m) :=
  (packWords_lt words).trans_le (Nat.pow_le_pow_right Nat.two_pos (Nat.mul_le_mul_left 64 h))

theorem bits_packWords {words : List Nat} (h : ∀ w ∈ words, w < 2 ^ 64) (k : Nat) :
    bits (packWords words) (64 * k + 63) (64 * k) = words.getD k 0 := by
  induction words generalizing k with
  | nil => simp [packWords, bits]
  | cons w words ih =>
    obtain ⟨hw, hwords⟩ := List.forall_mem_cons.mp h
    rw [packWords_cons, Nat.mod_eq_of_lt hw]
    cases k with
    | zero => exact (bits_add_low (by decide)).trans (bits_all hw)
    | succ k =>
      rw [show 64 * (k + 1) + 63 = 64 + (64 * k + 63) by omega, Nat.mul_succ, Nat.add_comm _ 64, bits_add_high hw,
        List.getD_cons_succ, ih hwords k]

/-! ### The frame -/

/-- The information part before it is scrambled: the header, HCRC and the payload. -/
def plainFrame (seq flags count link : Nat) (words : List Nat) : Nat :=
  frameHeader seq flags count link + 2 ^ 112 * headerCrc (frameHeader seq flags count link)
    + 2 ^ 128 * packWords (words.take 126)

theorem encodeFrame_eq (seq flags count link : Nat) (words : List Nat) : encodeFrame seq flags count link words
    = withParity (scramble (plainFrame seq flags count link words) seq) := rfl

section
variable {seq flags count link : Nat} {words : List Nat}

/-- A field of the header stands in the frame where Table 10.3 has it. -/
theorem bits_plainFrame {hi lo : Nat} (h : hi < 112) :
    bits (plainFrame seq flags count link words) hi lo = bits (frameHeader seq flags count link) hi lo := by
  rw [plainFrame, bits_add_low (by omega), bits_add_low h]

/-- MARKER and SEQ can be read of a frame as it is sent. -/
theorem bits_encodeFrame {hi lo : Nat} (h : hi < 48) : bits (encodeFrame seq flags count link words) hi lo
    = bits (frameHeader seq flags count link) hi lo := by
  rw [encodeFrame_eq, withParity, bits_add_low (by omega), bits_scramble h, bits_plainFrame (by omega)]

section
variable (hseq : seq < 65536) (hflags : flags < 256) (hcount : count < 256) (hlink : link < 2 ^ 48)
include hseq hflags hcount hlink

theorem headerWithCrc_lt :
    frameHeader seq flags count link + 2 ^ 112 * headerCrc (frameHeader seq flags count link) < 2 ^ 128 :=
  add_two_pow_mul_lt (frameHeader_lt hseq hflags hcount hlink) (headerCrc_lt _) rfl

theorem plainFrame_mod : plainFrame seq flags count link words % 2 ^ 112 = frameHeader seq flags count link := by
  rw [plainFrame, add_two_pow_mul_mod_low (by decide),
    add_two_pow_mul_mod (frameHeader_lt hseq hflags hcount hlink)]

theorem bits_plainFrame_crc : bits (plainFrame seq flags count link words) 127 112
    = headerCrc (plainFrame seq flags count link words % 2 ^ 112) := by
  rw [plainFrame_mod hseq hflags hcount hlink, plainFrame, bits_add_low (by decide)]
  exact bits_add_top (n := 112) (hi := 15) (frameHeader_lt hseq hflags hcount hlink) (headerCrc_lt _)

section
variable (hlen : words.length ≤ 126)
include hlen

theorem payloadWord_plainFrame (hwords : ∀ w ∈ words, w < 2 ^ 64) (k : Nat) :
    payloadWord (plainFrame seq flags count link words) k = words.getD k 0 := by
  rw [payloadWord, plainFrame, List.take_of_length_le hlen, show 191 + 64 * k = 128 + (64 * k + 63) by omega,
    bits_add_high (headerWithCrc_lt hseq hflags hcount hlink), bits_packWords hwords]

theorem plainFrame_lt : plainFrame seq flags count link words < 2 ^ 8192 := by
  rw [plainFrame, List.take_of_length_le hlen]
  exact add_two_pow_mul_lt (headerWithCrc_lt hseq hflags hcount hlink) (packWords_lt_of_length hlen) rfl

theorem scrambledFrame_lt : scramble (plainFrame seq flags count link words) seq < 2 ^ 8192 :=
  scramble_lt rfl (plainFrame_lt hseq hflags hcount hlink hlen)

/-- By the SEQ that the frame carries its receiver finds what its sender scrambled. -/
theorem descramble_encodeFrame : descramble (encodeFrame seq flags count link words)
    = plainFrame seq flags count link words := by
  obtain ⟨_, hseqField, _, _, _⟩ := frameHeader_fields hseq hflags hcount hlink
  rw [descramble, bits_encodeFrame (by decide), hseqField, encodeFrame_eq,
    withParity_mod (scrambledFrame_lt hseq hflags hcount hlink hlen), scramble_scramble]

theorem frameGood_encodeFrame :
    frameGood (encodeFrame seq flags count link words) (plainFrame seq flags count link words) = true := by
  obtain ⟨hmarker, _, _, _, _⟩ := frameHeader_fields hseq hflags hcount hlink
  have hcode : codeHolds (encodeFrame seq flags count link words) = true :=
    codeHolds_withParity (scrambledFrame_lt hseq hflags hcount hlink hlen)
  have hcrc := bits_plainFrame_crc (words := words) hseq hflags hcount hlink
  rw [frameGood, hcode, bits_encodeFrame (by decide), hmarker, hcrc]
  simp

end

end

end

end Sys2Proof.Machine
end

section
open Sys2Proof Sys2Proof.Machine

/-- Settles O36: the receiver descrambles a frame to `plainFrame`, whose fields are read off one by one
(`frameHeader_fields`, `payloadWord_plainFrame`). -/
theorem frameRoundTrip : Obligations.FrameRoundTrip := by
  unfold Obligations.FrameRoundTrip
  intro seq flags count link words hseq hflags hcount hlink hlen hwords f info
  have hinfo : info = plainFrame seq flags count link words := descramble_encodeFrame hseq hflags hcount hlink hlen
  obtain ⟨_, hseqField, hflagsField, hcountField, hlinkField⟩ := frameHeader_fields hseq hflags hcount hlink
  have hword := payloadWord_plainFrame hseq hflags hcount hlink hlen hwords
  rw [hinfo]
  refine ⟨withParity_lt (scrambledFrame_lt hseq hflags hcount hlink hlen),
    frameGood_encodeFrame hseq hflags hcount hlink hlen, (bits_plainFrame (by decide)).trans hseqField,
    (bits_plainFrame (by decide)).trans hflagsField, (bits_plainFrame (by decide)).trans hcountField,
    (bits_plainFrame (by decide)).trans hlinkField, fun k _ => hword k, fun k hk _ => ?_⟩
  rw [hword, List.getD_eq_default _ _ hk]

end

section
/-! PROOF. The records of a lane's protocol blocks, read and updated. -/

namespace Sys2Proof.Machine

section
variable {d : Dyn} {n k : Nat}

theorem Dyn.onLane_onLane (f g : LaneSt → LaneSt) : (d.onLane n f).onLane n g = d.onLane n (fun x => g (f x)) := by
  simp [Dyn.onLane, Map.upd]

@[simp] theorem Dyn.lane_onBridle_same (f : BridleSt → BridleSt) :
    (d.onBridle n f).lane n = { d.lane n with bridle := f (d.lane n).bridle } :=
  Dyn.lane_onLane_same _

@[simp] theorem Dyn.lane_onLink_same (f : LinkSt → LinkSt) :
    (d.onLink n f).lane n = { d.lane n with link := f (d.lane n).link } :=
  Dyn.lane_onLane_same _

theorem Dyn.onBridle_congr {f g : BridleSt → BridleSt} (h : f (d.lane n).bridle = g (d.lane n).bridle) :
    d.onBridle n f = d.onBridle n g :=
  Dyn.onLane_congr (congrArg (fun b => { d.lane n with bridle := b }) h)

theorem Dyn.onLink_congr {f g : LinkSt → LinkSt} (h : f (d.lane n).link = g (d.lane n).link) :
    d.onLink n f = d.onLink n g :=
  Dyn.onLane_congr (congrArg (fun k => { d.lane n with link := k }) h)

theorem Dyn.onLink_onLink (f g : LinkSt → LinkSt) : (d.onLink n f).onLink n g = d.onLink n (fun k => g (f k)) :=
  Dyn.onLane_onLane _ _

end

end Sys2Proof.Machine
end

section
/-! PROOF. Where echo windows lie (R268): each is the best of the starts that are left, and a start is always left. -/

namespace Sys2Proof.Machine

/-- The starts that overlap no chosen window, in rising order. -/
def freeStarts (chosen : List Nat) : List Nat :=
  ((List.range 2401).map (· + 128)).filter
    (fun t => chosen.all (fun w => decide (t + 32 ≤ w) || decide (w + 32 ≤ t)))

theorem mem_freeStarts {chosen : List Nat} {t : Nat} : t ∈ freeStarts chosen
    ↔ (128 ≤ t ∧ t ≤ 2528) ∧ ∀ w ∈ chosen, t + 32 ≤ w ∨ w + 32 ≤ t := by
  have hrange : (∃ k, k < 2401 ∧ k + 128 = t) ↔ 128 ≤ t ∧ t ≤ 2528 :=
    ⟨fun ⟨k, hk, ht⟩ => by omega, fun h => ⟨t - 128, by omega, by omega⟩⟩
  simp [freeStarts, hrange]

theorem freeStarts_sorted (chosen : List Nat) : (freeStarts chosen).SortedLT := by
  refine (List.Pairwise.filter _ (List.Pairwise.map _ (fun a b hab => ?_) List.pairwise_lt_range)).sortedLT
  exact Nat.add_lt_add_right hab 128

/-- Seven windows cannot cover eight starts that lie 64 apart. -/
theorem freeStarts_ne_nil {chosen : List Nat} (h : chosen.length < 8) : freeStarts chosen ≠ [] := by
  have hcard : (chosen.map (fun w => (w - 97) / 64)).toFinset.card < (Finset.range 8).card :=
    (List.toFinset_card_le _).trans_lt (by simpa using h)
  obtain ⟨i, hi, hfree⟩ := Finset.exists_mem_notMem_of_card_lt_card hcard
  rw [Finset.mem_range] at hi
  refine List.ne_nil_of_mem (a := 128 + 64 * i) (mem_freeStarts.mpr ⟨by omega, fun w hw => ?_⟩)
  have hne : (w - 97) / 64 ≠ i := fun heq => hfree (List.mem_toFinset.mpr (List.mem_map.mpr ⟨w, hw, heq⟩))
  omega

/-- To carry the best element so far with its value is to seek the first element of the greatest value. -/
theorem foldl_best_eq_argmax {value : Nat → Nat} {g : Option (Nat × Nat) → Nat → Option (Nat × Nat)}
    (hg : ∀ best t, g (Option.map (fun b => (b, value b)) best) t
      = Option.map (fun b => (b, value b)) (List.argAux (fun b c => value c < value b) best t)) (l : List Nat) :
    (l.foldl g none).map Prod.fst = l.argmax value := by
  have hfold := List.foldl_hom _ (g₂ := g) (l := l) (init := none) hg
  rw [Option.map_none] at hfold
  rw [hfold, Option.map_map]
  exact Option.map_id'

/-- The next window is the first of the free starts with the greatest energy. -/
theorem nextWindow_eq_argmax (energy chosen : List Nat) :
    nextWindow energy chosen = (freeStarts chosen).argmax (windowEnergy energy) := by
  unfold nextWindow
  refine foldl_best_eq_argmax (fun best t => ?_) (freeStarts chosen)
  cases best with
  | none => rfl
  | some b =>
    dsimp only [Option.map_some, List.argAux]
    split <;> rfl

theorem nextWindow_isSome {energy chosen : List Nat} (h : chosen.length < 8) :
    ∃ t, nextWindow energy chosen = some t := by
  rw [nextWindow_eq_argmax, ← Option.isSome_iff_exists, Option.isSome_iff_ne_none]
  exact fun hnone => freeStarts_ne_nil h (List.argmax_eq_none.mp hnone)

section
variable {energy chosen : List Nat} {t : Nat} (h : nextWindow energy chosen = some t)
include h

theorem nextWindow_mem : t ∈ freeStarts chosen := by
  rw [nextWindow_eq_argmax] at h
  exact List.argmax_mem h

/-- No free start has more energy than the next window, and none below it has as much. -/
theorem nextWindow_best {x : Nat} (hx : x ∈ freeStarts chosen) : windowEnergy energy x ≤ windowEnergy energy t
    ∧ (x < t → windowEnergy energy x < windowEnergy energy t) := by
  rw [nextWindow_eq_argmax] at h
  obtain ⟨hmem, hmax, hfirst⟩ := List.mem_argmax_iff.mp h
  refine ⟨hmax x hx, fun hlt => Nat.lt_of_not_le fun hle => ?_⟩
  have hidx := hfirst x hx hle
  rw [← (freeStarts_sorted chosen).getElem_le_getElem_iff (hi := List.idxOf_lt_length_of_mem hmem)
    (hj := List.idxOf_lt_length_of_mem hx), List.getElem_idxOf, List.getElem_idxOf] at hidx
  omega

end

/-! ### The windows in turn -/

/-- Windows that have been placed in turn: each lies where it may, none overlaps another, and the first is the best of
all starts. -/
structure WindowsPlaced (energy w : List Nat) : Prop where
  bounds : ∀ x ∈ w, 128 ≤ x ∧ x ≤ 2528
  apart : w.Pairwise (fun a b => a + 32 ≤ b ∨ b + 32 ≤ a)
  first : ∀ t ∈ w.head?, nextWindow energy [] = some t

theorem WindowsPlaced.next {energy w : List Nat} {t : Nat} (h : WindowsPlaced energy w)
    (ht : nextWindow energy w = some t) : WindowsPlaced energy (w ++ [t]) := by
  obtain ⟨hbounds, hfree⟩ := mem_freeStarts.mp (nextWindow_mem ht)
  refine ⟨?_, ?_, ?_⟩
  · exact List.forall_mem_append.mpr ⟨h.bounds, List.forall_mem_singleton.mpr hbounds⟩
  · refine List.pairwise_append.mpr ⟨h.apart, List.pairwise_singleton _ _, fun a ha b hb => ?_⟩
    rw [List.mem_singleton.mp hb]
    exact (hfree a ha).symm
  · cases w with
    | nil => simpa using ht
    | cons a w => exact h.first

theorem placeWindows_eq (energy : List Nat) : placeWindows energy
    = (List.range 8).foldl (fun w _ => w ++ (nextWindow energy w).toList) [] := by
  refine congrArg (fun f => List.foldl f [] (List.range 8)) (funext fun w => funext fun _ => ?_)
  cases nextWindow energy w with
  | none => exact (List.append_nil w).symm
  | some t => rfl

theorem windows_placed (energy : List Nat) {k : Nat} (hk : k ≤ 8) :
    ((List.range k).foldl (fun w _ => w ++ (nextWindow energy w).toList) []).length = k
    ∧ WindowsPlaced energy ((List.range k).foldl (fun w _ => w ++ (nextWindow energy w).toList) []) := by
  induction k with
  | zero => exact ⟨rfl, by simp, List.Pairwise.nil, by simp⟩
  | succ k ih =>
    obtain ⟨hlen, hplaced⟩ := ih (by omega)
    rw [List.range_succ, List.foldl_append]
    generalize (List.range k).foldl (fun w _ => w ++ (nextWindow energy w).toList) [] = w at hlen hplaced ⊢
    obtain ⟨t, ht⟩ := nextWindow_isSome (energy := energy) (chosen := w) (by omega)
    simp only [List.foldl_cons, List.foldl_nil, ht, Option.toList_some]
    exact ⟨by simp [hlen], hplaced.next ht⟩

theorem placeWindows_length (energy : List Nat) : (placeWindows energy).length = 8 := by
  rw [placeWindows_eq]
  exact (windows_placed energy (Nat.le_refl 8)).1

theorem placeWindows_placed (energy : List Nat) : WindowsPlaced energy (placeWindows energy) := by
  rw [placeWindows_eq]
  exact (windows_placed energy (Nat.le_refl 8)).2

section
variable {energy : List Nat}

theorem placeWindows_apart {i j : Nat} (hij : i < j) (hj : j < 8) :
    (placeWindows energy).getD i 0 + 32 ≤ (placeWindows energy).getD j 0
    ∨ (placeWindows energy).getD j 0 + 32 ≤ (placeWindows energy).getD i 0 := by
  have hlen := placeWindows_length energy
  rw [List.getD_eq_getElem _ _ (by omega), List.getD_eq_getElem _ _ (by omega)]
  exact List.pairwise_iff_getElem.mp (placeWindows_placed energy).apart i j _ _ hij

theorem placeWindows_first : nextWindow energy [] = some ((placeWindows energy).getD 0 0) := by
  have hlen := placeWindows_length energy
  refine (placeWindows_placed energy).first _ ?_
  rw [List.getD_eq_getElem _ _ (by omega), List.head?_eq_getElem?, List.getElem?_eq_getElem]
  rfl

end

end Sys2Proof.Machine
end

section
/-! PROOF. A training attempt starts and fails (R269, R272, R274, R276, R295). -/

namespace Sys2Proof.Machine

/-! ### The dispatcher's handles leave the lanes alone -/

theorem OnlyAccess.lanes {d e : Dyn} (h : OnlyAccess d e) : e.lanes = d.lanes := by
  have hlanes := congrArg Dyn.lanes h
  exact hlanes

@[simp] theorem event_lanes (d : Dyn) (src cls code : Nat) (detail : List Byte) :
    (event d src cls code detail).lanes = d.lanes :=
  issue_lanes ..

theorem putHandle_lanes (img : Img) (d : Dyn) (h : Nat) (b : Buf) (x : HandleSt) :
    (putHandle img d h b x).lanes = d.lanes := by
  unfold putHandle
  cases handleTable img with
  | none => rfl
  | some base => exact (memStore_only ..).lanes

theorem setHandle_lanes (img : Img) (d : Dyn) (h : Nat) (f : HandleSt → HandleSt) :
    (setHandle img d h f).lanes = d.lanes := by
  unfold setHandle
  split
  · rfl
  · dsimp only
    split
    · split
      · exact (event_lanes ..).trans (putHandle_lanes ..)
      · exact putHandle_lanes ..
    · exact putHandle_lanes ..

theorem decReaders_lane (img : Img) (d : Dyn) (h k : Nat) : (decReaders img d h).lane k = d.lane k :=
  Dyn.lane_of_lanes (setHandle_lanes ..) k

/-! ### A lane falls silent -/

section
variable {img : Img} {d : Dyn} {n st : Nat}

/-- Dropping what waits for a lane keeps every part of the lane that a dropped container does not count in. -/
theorem dropWaiting_keeps {β : Type} (part : LaneSt → β)
    (hpart : ∀ (x : LaneSt) m l, part { x with bridle := { x.bridle with dropped := m, dlq := l } } = part x) :
    part ((dropWaiting img d n).lane n) = part (d.lane n) := by
  rw [dropWaiting, Dyn.lane_onBridle_same]
  refine (hpart _ _ _).trans (foldl_keeps (fun e => part (e.lane n)) (fun e c => ?_) _ d)
  rw [decReaders_lane, dropContainer, Dyn.lane_onBridle_same]
  exact hpart _ _ _

theorem dropWaiting_teth : ((dropWaiting img d n).lane n).teth = (d.lane n).teth :=
  dropWaiting_keeps LaneSt.teth fun _ _ _ => rfl

theorem dropWaiting_opened : ((dropWaiting img d n).lane n).bridle.opened = (d.lane n).bridle.opened :=
  dropWaiting_keeps (fun x => x.bridle.opened) fun _ _ _ => rfl

theorem dropWaiting_dlq : ((dropWaiting img d n).lane n).bridle.dlq = [] := by
  simp [dropWaiting]

theorem dropWaiting_empty (h : (d.lane n).bridle.dlq = []) : dropWaiting img d n = d.onLane n id := by
  have hsame : dropWaiting img d n = d.onBridle n (fun b => { b with dlq := [] }) := by
    rw [dropWaiting, h]
    rfl
  exact hsame.trans (Dyn.onLane_congr (by rw [← h]; rfl))

/-- Where no lock ends, or it closes no container, the end of a hunt or lock is the lane's alone. -/
theorem dropLock_idle (h : (d.lane n).teth.lock ≠ 2 ∨ (d.lane n).bridle.opened = []) :
    dropLock img d n = d.onTeth n (fun t => { t with
      lock := 0, main := none, shadow := none, badRun := 0, huntSince := t.frames, askSince := none }) := by
  rcases h with hlock | hopen
  · simp [dropLock, hlock]
  · exact dropLock_closed hopen

/-- A Tether state that falls silent in state `st` at tick time `now`. -/
def TetherSt.silent (t : TetherSt) (st now : Nat) : TetherSt :=
  { t with
    lock := 0, main := none, shadow := none, badRun := 0, huntSince := t.frames, askSince := none
    state := st, go := false, decided := false, bothAt := none, phaseFrames := 0, phaseAt := now
    quietLeft := none, sending := false }

theorem silenceLane_state : ((silenceLane img d n st).lane n).teth.state = st := by
  simp [silenceLane]

theorem failLane_state : ((failLane img d n).lane n).teth.state = 7 := by
  rw [failLane, event_lane]
  exact silenceLane_state

section
variable (h : (d.lane n).teth.lock ≠ 2 ∨ (d.lane n).bridle.opened = [])
include h

theorem silenceLane_idle :
    silenceLane img d n st = (dropWaiting img d n).onTeth n (fun t => t.silent st d.now256) := by
  rw [silenceLane, dropLock_idle (by rwa [dropWaiting_teth, dropWaiting_opened]), Dyn.onTeth_onTeth]
  rfl

theorem startAttempt_idle {fast : Bool} : startAttempt img d n fast
    = (dropWaiting img d n).onTeth n (fun t => { t.silent 2 d.now256 with fast, partnerAsk := false }) := by
  rw [startAttempt, silenceLane_idle h, Dyn.onTeth_onTeth]
  rfl

theorem startAttempt_lane {fast : Bool} : (startAttempt img d n fast).lane n
    = { (dropWaiting img d n).lane n with
        teth := { (d.lane n).teth.silent 2 d.now256 with fast, partnerAsk := false } } := by
  rw [startAttempt_idle h, Dyn.lane_onTeth_same, dropWaiting_teth]

/-- With no container waiting, the start of an attempt is the lane's alone. -/
theorem startAttempt_only {fast : Bool} (hdlq : (d.lane n).bridle.dlq = []) : startAttempt img d n fast
    = d.onTeth n (fun t => { t.silent 2 d.now256 with fast, partnerAsk := false }) := by
  rw [startAttempt_idle h, dropWaiting_empty hdlq, Dyn.onTeth, Dyn.onLane_onLane]
  rfl

theorem failLane_tries : ((failLane img d n).lane n).teth.tries = (d.lane n).teth.tries := by
  rw [failLane, event_lane, silenceLane_idle h, Dyn.lane_onTeth_same, dropWaiting_teth]
  rfl

end

/-! ### An attempt fails (R272) -/

/-- The machine as a failed attempt leaves it to go on: reported and counted. -/
def attemptFailed (d : Dyn) (n reason : Nat) : Dyn :=
  (event d (laneSrc n) 0 0x0581 (leBytes 1 reason)).onTeth n (fun t => { t with tries := satAdd 255 t.tries 1 })

theorem attemptFailed_lane {reason : Nat} : (attemptFailed d n reason).lane n
    = { d.lane n with teth := { (d.lane n).teth with tries := min 255 ((d.lane n).teth.tries + 1) } } := by
  rw [attemptFailed, Dyn.lane_onTeth_same, event_lane]
  rfl

/-- With a remote fault the lane is FAILED, whatever TRIES is. -/
theorem failAttempt_remote :
    failAttempt img d n 4 = failLane img (event d (laneSrc n) 0 0x0581 (leBytes 1 4)) n := by
  simp [failAttempt]

section
variable {reason : Nat} {c : LaneCfg} (hreason : reason ≠ 4) (hc : laneCfg img d n = some c)
include hreason hc

theorem failAttempt_eq : failAttempt img d n reason
    = if c.tries ≠ 0 ∧ c.tries ≤ min 255 ((d.lane n).teth.tries + 1) then failLane img (attemptFailed d n reason) n
      else startAttempt img (attemptFailed d n reason) n ((attemptFailed d n reason).lane n).teth.fast := by
  have hcfg : laneCfg img (attemptFailed d n reason) n = some c :=
    (laneCfg_congr (by rw [attemptFailed_lane])).trans hc
  have htries : min 255 ((d.lane n).teth.tries + 1) = ((attemptFailed d n reason).lane n).teth.tries := by
    rw [attemptFailed_lane]
  rw [htries]
  refine (if_neg hreason).trans ?_
  change (match laneCfg img (attemptFailed d n reason) n with | some c => _ | none => _) = _
  rw [hcfg]
  rfl

/-- A failed attempt counts, and ends in FAILED with the last of TRIES, else in a new attempt. -/
theorem failAttempt_lane (hlock : (d.lane n).teth.lock ≠ 2) :
    ((failAttempt img d n reason).lane n).teth.tries = min 255 ((d.lane n).teth.tries + 1)
    ∧ ((failAttempt img d n reason).lane n).teth.state
      = if c.tries ≠ 0 ∧ c.tries ≤ min 255 ((d.lane n).teth.tries + 1) then 7 else 2 := by
  have hidle : ((attemptFailed d n reason).lane n).teth.lock ≠ 2
      ∨ ((attemptFailed d n reason).lane n).bridle.opened = [] := .inl (by rwa [attemptFailed_lane])
  rw [failAttempt_eq hreason hc]
  split
  · rw [failLane_tries hidle, attemptFailed_lane]
    exact ⟨rfl, failLane_state⟩
  · rw [startAttempt_lane hidle, attemptFailed_lane]
    exact ⟨rfl, rfl⟩

end

end

/-! ### A signal where the partner must be silent (log 124) -/

section
variable {l : Lane} {s : State} (hup : islandUp s.dyn = true) (hpins : pinsTaken s.dyn = false)
include hup hpins

theorem signalInSilence_fails (hst : (s.dyn.lane l.val).teth.state = 2 ∨ (s.dyn.lane l.val).teth.state = 3) :
    Becomes (exec (.signalInSilence l) s) s (failAttempt s.img (violation s.dyn l.val 1) l.val 1) := by
  change Becomes (execSignalInSilence l s) s _
  exact actPins_becomes hup hpins (if_pos hst)

theorem signalInSilence_violates (hst : (s.dyn.lane l.val).teth.state = 1 ∨ (s.dyn.lane l.val).teth.state = 7) :
    Becomes (exec (.signalInSilence l) s) s (violation s.dyn l.val 7) := by
  change Becomes (execSignalInSilence l s) s _
  refine actPins_becomes hup hpins ((if_neg ?_).trans (if_pos hst))
  simp only [stSilence, stLead]
  omega

theorem signalInSilence_stands (hst : (s.dyn.lane l.val).teth.state = 0 ∨ (s.dyn.lane l.val).teth.state = 4
    ∨ (s.dyn.lane l.val).teth.state = 5 ∨ (s.dyn.lane l.val).teth.state = 6) :
    Becomes (exec (.signalInSilence l) s) s s.dyn := by
  change Becomes (execSignalInSilence l s) s _
  refine actPins_becomes hup hpins ((if_neg ?_).trans (if_neg ?_))
  · simp only [stSilence, stLead]
    omega
  · simp only [stQuiet, stFailed]
    omega

end

end Sys2Proof.Machine
end

section
open Sys2Proof Sys2Proof.Machine

/-- Settles O33: `startAttempt_lane` and `startAttempt_only` say what the start of an attempt leaves, each window is the
best of the starts that are left (`nextWindow_best`), and `failAttempt_lane` says how an attempt fails. -/
theorem trainingAttempts : Obligations.TrainingAttempts := by
  unfold Obligations.TrainingAttempts
  refine ⟨?starts, ?windows, ?fails⟩
  case starts =>
    intro img d n fast x y hidle
    have hy : y = _ := startAttempt_lane hidle
    rw [hy]
    refine ⟨rfl, rfl, rfl, rfl, rfl, rfl, rfl, rfl, rfl, rfl, rfl, rfl, rfl, rfl, rfl, dropWaiting_dlq, fun hdlq => ?_⟩
    rw [dropWaiting_empty hdlq, Dyn.lane_onLane_same, startAttempt_only hidle hdlq]
    exact ⟨rfl, rfl, rfl, rfl, rfl, rfl, rfl, rfl, rfl, rfl, rfl, rfl, rfl, fun k hk => Dyn.lane_onTeth_other _ hk, rfl⟩
  case windows =>
    intro energy w
    refine ⟨placeWindows_length energy, (placeWindows_placed energy).bounds, fun i j => placeWindows_apart,
      fun x hlo hhi => nextWindow_best placeWindows_first ?_⟩
    exact mem_freeStarts.mpr ⟨⟨hlo, hhi⟩, fun w hw => absurd hw List.not_mem_nil⟩
  case fails =>
    intro l s hup hpins n st
    refine ⟨signalInSilence_fails hup hpins, signalInSilence_violates hup hpins, signalInSilence_stands hup hpins,
      fun d reason c hreason hc hlock => failAttempt_lane hreason hc hlock, fun d => ?_⟩
    rw [failAttempt_remote]
    exact failLane_state

end

section
/-! PROOF. A unit that waits goes to the rule of its type (R286, R287, R304). -/

namespace Sys2Proof.Machine

section
variable {nak : Dyn → Dyn} {want : Nat → Bool} {n h time : Nat} {ws : List Nat} {rest : List RxItem}
  {f : List Nat → Nat → Dyn → Dyn} {d : Dyn} (hrx : (d.lane n).rx = .unit (h :: ws) time :: rest)
include hrx

/-- A unit that stands first has no breach or gap before it to be settled. -/
theorem settleRx_unit (fuel : Nat) : settleRx nak n fuel d = d := by
  cases fuel with
  | zero => rfl
  | succ fuel => simp [settleRx, hrx]

theorem withUnit_takes (hwant : want h = true) : withUnit nak want n f d
    = settleRx nak n rest.length (f (h :: ws) time (d.onLane n (fun x => { x with rx := rest }))) := by
  simp [withUnit, settleRx_unit hrx, hrx, hwant]

theorem withUnit_stays (hwant : want h = false) : withUnit nak want n f d = d := by
  simp [withUnit, settleRx_unit hrx, hrx, hwant]

end

/-! ### Bridle lanes -/

/-- A command by which a Bridle lane's block takes the first unit that waits, if `want` holds of its header. -/
def bridleUnit (l : Lane) (want : Nat → Bool) (f : Img → List Nat → Nat → Dyn → Dyn) : State → Out :=
  act (fun img d => when_ (decide (l.val < 64)) (fun d => withUnit noNak want l.val (f img) d) d)

section
variable {l : Lane} {want : Nat → Bool} {f : Img → List Nat → Nat → Dyn → Dyn} {s : State} {h time : Nat}
  {ws : List Nat} {rest : List RxItem} (hup : islandUp s.dyn = true) (hlane : l.val < 64)
  (hrx : (s.dyn.lane l.val).rx = .unit (h :: ws) time :: rest)
include hup hlane hrx

theorem bridleUnit_takes (hwant : want h = true) : Becomes (bridleUnit l want f s) s (settleRx noNak l.val rest.length
    (f s.img (h :: ws) time (s.dyn.onLane l.val (fun x => { x with rx := rest })))) :=
  act_becomes hup ((when_true (decide_eq_true hlane)).trans (withUnit_takes hrx hwant))

/-- A unit of another type stays where it is (log 16). -/
theorem bridleUnit_stays (hwant : want h = false) : Becomes (bridleUnit l want f s) s s.dyn :=
  act_becomes hup ((when_true (decide_eq_true hlane)).trans (withUnit_stays hrx hwant))

end

section
variable (l : Lane) (s : State)

theorem exec_iqUnit :
    exec (.iqUnit l) s = bridleUnit l (fun h => h % 16 == 1) (fun img => iqUnit img l.val) s := rfl

theorem exec_alarm : exec (.alarm l) s
    = bridleUnit l (fun h => h % 16 == 2 && ctrlCode h == 0x82) (fun _ => alarmUnit l.val) s := rfl

theorem exec_boardMessage : exec (.boardMessage l) s
    = bridleUnit l (fun h => h % 16 == 2 && decide (0xC0 ≤ ctrlCode h)) (fun _ => boardMessage l.val) s := rfl

theorem exec_delayResp : exec (.delayResp l) s
    = bridleUnit l (fun h => h % 16 == 2 && ctrlCode h == 0x81) (fun img => delayResp img l.val) s := rfl

end

theorem ctrlCode_eq (h : Nat) : ctrlCode h = h / 2 ^ 16 % 256 := bits_eq_div_mod h 23 16

end Sys2Proof.Machine
end

section
/-! PROOF. Control units: their header, ALARM and DELAY_RESP (R296, R299). -/

namespace Sys2Proof.Machine

theorem bit_eq_decide (x i : Nat) : bit x i = decide (x / 2 ^ i % 2 = 1) := Nat.testBit_eq_decide_div_mod_eq

/-- A control unit's header with its reserved bits zero (R296). -/
def ctrlHeader (slot board code words param : Nat) : Nat :=
  2 + 2 ^ 4 * slot + 2 ^ 8 * board + 2 ^ 16 * code + 2 ^ 24 * words + 2 ^ 26 * param

section
variable {slot board code words param : Nat} (hslot : slot < 16)
include hslot

theorem ctrlHeader_slot : bits (ctrlHeader slot board code words param) 7 4 = slot := by
  simp only [bits_eq_div_mod, ctrlHeader]
  omega

section
variable (hboard : board < 2)
include hboard

theorem ctrlHeader_board : b2n (bit (ctrlHeader slot board code words param) 8) = board := by
  have hbit : ctrlHeader slot board code words param / 2 ^ 8 % 2 = board := by
    simp only [ctrlHeader]
    omega
  rw [bit_eq_decide, hbit]
  interval_cases board <;> rfl

theorem ctrlHeader_reserved : bits (ctrlHeader slot board code words param) 15 9 = 0 := by
  simp only [bits_eq_div_mod, ctrlHeader]
  omega

section
variable (hcode : code < 256) (hwords : words < 4)
include hcode hwords

theorem ctrlHeader_words : bits (ctrlHeader slot board code words param) 25 24 = words := by
  simp only [bits_eq_div_mod, ctrlHeader]
  omega

/-- PARAM, or as much of it as its value needs. -/
theorem ctrlHeader_param {hi : Nat} (hparam : param < 2 ^ (hi + 1)) :
    bits (ctrlHeader slot board code words param) (26 + hi) 26 = param := by
  refine bits_add_top ?_ hparam
  omega

end

end

end

/-! ### ALARM (R296) -/

section
variable {n slot board code time : Nat} {raised : Bool} {d : Dyn}

/-- The alarms of a board with one raised or cleared. -/
def withAlarm (raised : Bool) (a : Nat × Nat × Nat) (alarms : List (Nat × Nat × Nat)) : List (Nat × Nat × Nat) :=
  if raised then a :: alarms.filter (· != a) else alarms.filter (· != a)

/-- PARAM of an ALARM holds the code and whether it is raised. -/
theorem alarmParam_fields (hcode : code < 65536) : code + 2 ^ 16 * b2n raised < 2 ^ 38
    ∧ bits (code + 2 ^ 16 * b2n raised) 15 0 = code ∧ bit (code + 2 ^ 16 * b2n raised) 16 = raised := by
  refine ⟨?_, (bits_add_low (by decide)).trans (bits_all hcode), ?_⟩
  · have hbit : b2n raised < 2 := by cases raised <;> decide
    omega
  · rw [bit_eq_decide, add_two_pow_mul_div hcode]
    cases raised <;> rfl

theorem alarmUnit_eq {param : Nat} (hslot : slot < 16) (hboard : board < 2) (hparam : param < 2 ^ 38)
    (hcode : bits param 15 0 = code) (hraised : bit param 16 = raised) :
    alarmUnit n [ctrlHeader slot board 0x82 0 param] time d = event
      (d.onBridle n (fun b => { b with alarms := withAlarm raised (slot, board, code) b.alarms }))
      (laneSrc n) (if raised then 7 else 0) 0x0587
      (leBytes 1 slot ++ leBytes 1 board ++ leBytes 2 code ++ leBytes 8 0) := by
  have hfield : bits (ctrlHeader slot board 0x82 0 param) 63 26 = param :=
    ctrlHeader_param (hi := 37) hslot hboard (by decide) (by decide) hparam
  simp [alarmUnit, ctrlHeader_slot hslot, ctrlHeader_board hslot hboard, ctrlHeader_reserved hslot hboard,
    ctrlHeader_words hslot hboard, hfield, hcode, hraised, withAlarm]

end

/-! ### DELAY_RESP (R299) -/

/-- One round-trip time (R299). -/
def roundTrip (img : Img) (d : Dyn) (n t1 turn time : Nat) : Int :=
  ((time : Int) - t1) * rttUnit (laneRate img d n) - turn * (256 * 196608)

section
variable {img : Img} {n id turn time : Nat} {d : Dyn} (hid : id < 256)
include hid

theorem delayResp_answers {frame t1 : Nat} (hturn : turn < 2 ^ 32)
    (hsent : (d.lane n).bridle.reqSent = some (frame, t1)) (hreq : id = (d.lane n).bridle.reqId)
    (htime : (d.lane n).teth.frames ≤ frame + 64) :
    delayResp img n [ctrlHeader 0 0 0x81 1 id, turn] time d = d.onTime (fun t => { t with
      rtts := Map.upd [] t.rtts n (fun l => (roundTrip img d n t1 turn time :: l).take 16) }) := by
  have hidField : bits (ctrlHeader 0 0 0x81 1 id) 33 26 = id :=
    ctrlHeader_param (hi := 7) (by decide) (by decide) (by decide) (by decide) hid
  have hturnField : bits turn 31 0 = turn := bits_all hturn
  simp [delayResp, hsent, hidField, hturnField, ← hreq, htime, ctrlHeader_reserved, roundTrip]

/-- An answer to no request, or to another than the last, is a breach (Table 11.7, kind 7). -/
theorem delayResp_breach (h : (d.lane n).bridle.reqSent = none ∨ id ≠ (d.lane n).bridle.reqId) :
    delayResp img n [ctrlHeader 0 0 0x81 1 id, turn] time d = discardUnit d n 7 := by
  have hidField : bits (ctrlHeader 0 0 0x81 1 id) 33 26 = id :=
    ctrlHeader_param (hi := 7) (by decide) (by decide) (by decide) (by decide) hid
  cases hsent : (d.lane n).bridle.reqSent with
  | none => simp [delayResp, hsent, ctrlHeader_reserved]
  | some r =>
    have hne : id ≠ (d.lane n).bridle.reqId := h.resolve_left (by simp [hsent])
    simp [delayResp, hsent, hidField, hne, ctrlHeader_reserved]

end

end Sys2Proof.Machine
end

section
open Sys2Proof Sys2Proof.Machine

/-- Settles O39: `bridleUnit_takes` and `bridleUnit_stays` go by the type and the code of the first unit's header; an
ALARM and a DELAY_RESP are read off their headers, each a `ctrlHeader`. -/
theorem receivedUnits : Obligations.ReceivedUnits := by
  unfold Obligations.ReceivedUnits
  refine ⟨?units, ?control⟩
  case units =>
    intro l s h time ws rest hup hlane hrx n d takes stays
    have taken {i : Instr} {want} {f : Img → List Nat → Nat → Dyn → Dyn} (hi : exec i s = bridleUnit l want f s)
        (hwant : want h = true) : takes i (f s.img) := by
      change Becomes (exec i s) s _
      rw [hi]
      exact bridleUnit_takes hup hlane hrx hwant
    have stayed {i : Instr} {want} {f : Img → List Nat → Nat → Dyn → Dyn} (hi : exec i s = bridleUnit l want f s)
        (hwant : want h = false) : stays i := by
      change Becomes (exec i s) s _
      rw [hi]
      exact bridleUnit_stays hup hlane hrx hwant
    rw [← ctrlCode_eq]
    refine ⟨fun htype => ?_, fun htype hcode => ?_, fun htype hcode => ?_, fun htype hcode => ?_⟩
    · exact ⟨taken (exec_iqUnit l s) (by simp [htype]), stayed (exec_alarm l s) (by simp [htype]),
        stayed (exec_boardMessage l s) (by simp [htype]), stayed (exec_delayResp l s) (by simp [htype])⟩
    · exact ⟨taken (exec_alarm l s) (by simp [htype, hcode]), stayed (exec_iqUnit l s) (by simp [htype]),
        stayed (exec_boardMessage l s) (by simp [hcode]), stayed (exec_delayResp l s) (by simp [hcode])⟩
    · exact ⟨taken (exec_delayResp l s) (by simp [htype, hcode]), stayed (exec_alarm l s) (by simp [hcode])⟩
    · have halarm : ctrlCode h ≠ 0x82 := by omega
      have hresp : ctrlCode h ≠ 0x81 := by omega
      exact ⟨taken (exec_boardMessage l s) (by simp [htype, hcode]), stayed (exec_alarm l s) (by simp [halarm]),
        stayed (exec_delayResp l s) (by simp [hresp])⟩
  case control =>
    intro n slot board code time raised d hslot hboard hcode h b others
    obtain ⟨hparam, hcodeField, hraised⟩ := alarmParam_fields (raised := raised) hcode
    refine ⟨(alarmUnit_eq hslot hboard hparam hcodeField hraised).trans ?_, fun img id frame t1 turn hid hturn => ?_⟩
    · exact congrArg (fun e => event e (laneSrc n) _ 0x0587 _) (Dyn.onBridle_congr rfl)
    · exact ⟨delayResp_answers hid hturn, delayResp_breach hid⟩

end

section
/-! PROOF. Units of a Paretlink lane, its retry and the ring indices (R302 to R308). -/

namespace Sys2Proof.Machine

/-! ### A unit and its CRC word (R302, R304) -/

section
variable {l : Lane} {type h time : Nat} {ws : List Nat} {f : Img → List Nat → Nat → Dyn → Dyn} {s : State}
  (hup : islandUp s.dyn = true) (hlane : 64 ≤ l.val) (hrx : (s.dyn.lane l.val).rx = [.unit (h :: ws) time])
  (htype : h % 16 = type)
include hup hlane hrx htype

/-- The one unit that waits goes to the check of its CRC word. -/
theorem linkUnit_checks : Becomes (act (fun img d => linkUnit l type (f img) d) s) s
    (checkedUnit (f s.img) l.val (h :: ws) time (s.dyn.onLane l.val (fun x => { x with rx := [] }))) :=
  act_becomes hup ((when_true (decide_eq_true hlane)).trans (withUnit_takes hrx (beq_iff_eq.mpr htype)))

theorem linkUnit_takes (hgood : unitGood (h :: ws) = true) (hreserved : linkReserved h = false) :
    Becomes (act (fun img d => linkUnit l type (f img) d) s) s
      (f s.img (h :: ws) time (s.dyn.onLane l.val (fun x => { x with rx := [] }))) := by
  have htakes := linkUnit_checks (f := f) hup hlane hrx htype
  rwa [checkedUnit, if_pos hgood, List.headD_cons, hreserved] at htakes

/-- A unit whose CRC word fails is discarded, with nothing behind it in its frame, and NAKed. -/
theorem linkUnit_fails (hbad : unitGood (h :: ws) = false) :
    Becomes (act (fun img d => linkUnit l type (f img) d) s) s
      (nakNow l.val (discardUnit (s.dyn.onLane l.val (fun x => { x with rx := [] })) l.val 3)) := by
  have htakes := linkUnit_checks (f := f) hup hlane hrx htype
  rw [checkedUnit, if_neg (by simp [hbad])] at htakes
  simpa [Dyn.onLane_onLane] using htakes

end

section
variable (l : Lane) (s : State)

theorem exec_data : exec (.data l) s = act (fun img d => linkUnit l 1 (dataUnit img l.val) d) s := rfl
theorem exec_ack : exec (.ack l) s = act (fun img d => linkUnit l 2 (ackUnit img l.val) d) s := rfl
theorem exec_nak : exec (.nak l) s = act (fun img d => linkUnit l 3 (nakUnit img l.val) d) s := rfl
theorem exec_credit : exec (.credit l) s = act (fun _ d => linkUnit l 4 creditUnit d) s := rfl
theorem exec_reset : exec (.reset l) s = act (fun img d => linkUnit l 5 (resetUnit img l.val) d) s := rfl

end

/-! ### DATA by its PSN (R304) -/

section
variable {img : Img} {n h time frames : Nat} {ws : List Nat} {d : Dyn} {k : LinkSt} (hlink : (d.lane n).link = k)
include hlink

theorem dataUnit_next (hframes : (d.lane n).teth.frames = frames) (hpsn : h / 2 ^ 16 % 4096 = k.rxPsn) :
    dataUnit img n (h :: ws) time d = acceptData img (d.onLink n (fun x => { x with
      rxPsn := (k.rxPsn + 1) % 4096, nakAt := none, unacked := k.unacked + 1
      unackedAt := if k.unacked = 0 then frames else k.unackedAt
      ackDue := k.ackDue || decide (16 ≤ k.unacked + 1) })) n (h :: ws) time := by
  subst hlink hframes
  exact (if_pos ((bits_eq_div_mod h 27 16).trans hpsn)).trans
    (congrArg (fun e => acceptData img e n (h :: ws) time) (Dyn.onLink_congr rfl))

theorem dataUnit_other (hpsn : h / 2 ^ 16 % 4096 ≠ k.rxPsn) : dataUnit img n (h :: ws) time d
    = if (k.rxPsn + 4096 - h / 2 ^ 16 % 4096) % 4096 ≤ 2048 then
        (countEv d (laneSrc n) 0x0503 1 EvInfo.plain).onLink n (fun x => { x with ackDue := true })
      else nakNow n d := by
  subst hlink
  have hfield : bits h 27 16 = h / 2 ^ 16 % 4096 := bits_eq_div_mod h 27 16
  rw [← hfield] at hpsn ⊢
  exact if_neg hpsn

/-- A PSN from within the last 2,048 was accepted before: its unit is a duplicate. -/
theorem dataUnit_again (hpsn : h / 2 ^ 16 % 4096 ≠ k.rxPsn)
    (hback : (k.rxPsn + 4096 - h / 2 ^ 16 % 4096) % 4096 ≤ 2048) : dataUnit img n (h :: ws) time d
    = (countEv d (laneSrc n) 0x0503 1 EvInfo.plain).onLink n (fun x => { x with ackDue := true }) :=
  (dataUnit_other hlink hpsn).trans (if_pos hback)

theorem dataUnit_gap (hback : 2048 < (k.rxPsn + 4096 - h / 2 ^ 16 % 4096) % 4096) :
    dataUnit img n (h :: ws) time d = nakNow n d := by
  have hpsn : h / 2 ^ 16 % 4096 ≠ k.rxPsn := by omega
  exact (dataUnit_other hlink hpsn).trans (if_neg (Nat.not_le.mpr hback))

end

/-! ### Acknowledgement (R303) -/

/-- A link whose window has moved on by `count` units, none of which ends a message. -/
def LinkSt.moved (k : LinkSt) (count frames : Nat) : LinkSt :=
  { k with window := k.window.drop count, advanced := if count = 0 then k.advanced else frames }

section
variable {d : Dyn} {n : Nat}

/-- What a resend makes of a link. -/
theorem resendAll_link : ((resendAll d n).lane n).link = { (d.lane n).link with
    resend := if (d.lane n).link.window = [] then (d.lane n).link.resend else (d.lane n).link.window.map (·.2)
    replays := if (d.lane n).link.window = [] then (d.lane n).link.replays
      else min 0xFFFF ((d.lane n).link.replays + 1) } := by
  rw [resendAll, Dyn.lane_onLink_same]
  by_cases hwindow : (d.lane n).link.window = []
  · rw [if_pos (List.isEmpty_iff.mpr hwindow), if_pos hwindow, if_pos hwindow]
  · rw [if_neg (mt List.isEmpty_iff.mp hwindow), if_neg hwindow, if_neg hwindow]
    rfl

end

section
variable {img : Img} {d : Dyn} {n h time q frames : Nat} {ws u : List Nat} {rest : List (Nat × List Nat)} {k : LinkSt}
  (hlink : (d.lane n).link = k) (hwindow : k.window = (q, u) :: rest)
include hlink hwindow

/-- An acknowledgement from outside the window. -/
theorem acknowledge_outside {p : Nat} (hcount : k.window.length < (p + 4096 - q) % 4096) :
    acknowledge img d n p = (d, false) := by
  simp [acknowledge, hlink, hwindow, by simpa [hwindow] using hcount]

theorem ackUnit_outside (hcount : k.window.length < (h / 2 ^ 16 % 4096 + 4096 - q) % 4096) :
    ackUnit img n (h :: ws) time d = protoViolation d n 8 := by
  have hfield : bits h 27 16 = h / 2 ^ 16 % 4096 := bits_eq_div_mod h 27 16
  simp only [ackUnit, List.headD_cons, hfield, acknowledge_outside hlink hwindow hcount]
  rfl

section
variable (hsent : k.sent = []) (hframes : (d.lane n).teth.frames = frames)
include hsent hframes

/-- An acknowledgement of units that end no message moves the window on. -/
theorem acknowledge_moves {p : Nat} (hcount : (p + 4096 - q) % 4096 ≤ k.window.length) :
    acknowledge img d n p = (d.onLink n (fun x => x.moved ((p + 4096 - q) % 4096) frames), true) := by
  have hinside : ¬ rest.length + 1 < (p + 4096 - q) % 4096 := by
    rw [hwindow] at hcount
    exact Nat.not_lt.mpr hcount
  simp only [acknowledge, hlink, hwindow, hsent, hframes, List.length_cons, if_neg hinside, List.filter_nil,
    List.foldl_nil]
  exact congrArg (·, true) (Dyn.onLink_congr (by simp [hlink, hsent, LinkSt.moved]))

variable (hcount : (h / 2 ^ 16 % 4096 + 4096 - q) % 4096 ≤ k.window.length)
include hcount

theorem ackUnit_moves : ackUnit img n (h :: ws) time d
    = d.onLink n (fun x => x.moved ((h / 2 ^ 16 % 4096 + 4096 - q) % 4096) frames) := by
  have hfield : bits h 27 16 = h / 2 ^ 16 % 4096 := bits_eq_div_mod h 27 16
  simp only [ackUnit, List.headD_cons, hfield, acknowledge_moves hlink hwindow hsent hframes hcount, if_true]

theorem nakUnit_moves : nakUnit img n (h :: ws) time d
    = resendAll (d.onLink n (fun x => x.moved ((h / 2 ^ 16 % 4096 + 4096 - q) % 4096) frames)) n := by
  have hfield : bits h 27 16 = h / 2 ^ 16 % 4096 := bits_eq_div_mod h 27 16
  simp only [nakUnit, List.headD_cons, hfield, acknowledge_moves hlink hwindow hsent hframes hcount, if_true]

end

end

/-! ### CREDIT, RESET and the retry timer (R303, R305, R306) -/

theorem creditUnit_eq {h time : Nat} {ws : List Nat} {d : Dyn} : creditUnit (h :: ws) time d
    = d.onVc (h / 2 ^ 4 % 64) (fun x => { x with total := h / 2 ^ 32 % 65536 }) := by
  have hvc : bits h 9 4 = h / 2 ^ 4 % 64 := bits_eq_div_mod h 9 4
  have htotal : bits h 47 32 = h / 2 ^ 32 % 65536 := bits_eq_div_mod h 47 32
  simp only [creditUnit, List.headD_cons, hvc, htotal]

/-- A link that a RESET restarts, and with 16 RESET units to answer, unless it has sent one lately (R305). -/
def LinkSt.restarted (k : LinkSt) (frames : Nat) : LinkSt :=
  { k with
    rxPsn := 0, txPsn := 0, window := [], resend := [], sent := [], nakAt := none, nakDue := false
    ackDue := false, unacked := 0
    resetLeft := match k.resetAt with
      | some f => if frames ≤ f + 16 then k.resetLeft else 16
      | none => 16 }

/-- On a lane without virtual channels there is no message to end or to start again. -/
theorem resetUnit_restarts {img : Img} {n time : Nat} {u : List Nat} {d : Dyn} (hvcs : laneVcs img n = []) :
    resetUnit img n u time d
      = event (d.onLink n (fun k => k.restarted (d.lane n).teth.frames)) (laneSrc n) 0 0x058A [] := by
  simp only [resetUnit, hvcs, List.foldl_nil]
  rfl

theorem retryDue_iff {n frames : Nat} {k : LinkSt} :
    (decide (64 ≤ n) && !k.window.isEmpty && decide (k.advanced + 1024 ≤ frames)) = true
      ↔ (64 ≤ n ∧ k.window ≠ []) ∧ k.advanced + 1024 ≤ frames := by
  simp

/-- A window that is resent after 1,024 periods, which count anew. -/
theorem resendAll_anew {d : Dyn} {n : Nat} (hwindow : (d.lane n).link.window ≠ []) :
    (resendAll d n).onLink n (fun k => { k with advanced := (d.lane n).teth.frames })
      = d.onLink n (fun k => { k with
          resend := k.window.map (·.2), replays := min 0xFFFF (k.replays + 1), advanced := (d.lane n).teth.frames }) := by
  rw [resendAll, Dyn.onLink_onLink]
  exact Dyn.onLink_congr (by simp [hwindow, satAdd])

section
variable {l : Lane} {s : State} (hup : islandUp s.dyn = true)
include hup

theorem retryTimeout_runs : Becomes (exec (.retryTimeout l) s) s
    (when_ (decide (64 ≤ l.val) && !(s.dyn.lane l.val).link.window.isEmpty
        && decide ((s.dyn.lane l.val).link.advanced + 1024 ≤ (s.dyn.lane l.val).teth.frames))
      (fun d => (resendAll d l.val).onLink l.val (fun k => { k with advanced := (s.dyn.lane l.val).teth.frames }))
      s.dyn) := by
  change Becomes (execRetryTimeout l s) s _
  exact act_becomes hup rfl

theorem retryTimeout_resends (hlane : 64 ≤ l.val) (hwindow : (s.dyn.lane l.val).link.window ≠ [])
    (hframes : (s.dyn.lane l.val).link.advanced + 1024 ≤ (s.dyn.lane l.val).teth.frames) :
    Becomes (exec (.retryTimeout l) s) s (s.dyn.onLink l.val (fun k => { k with
      resend := k.window.map (·.2), replays := min 0xFFFF (k.replays + 1)
      advanced := (s.dyn.lane l.val).teth.frames })) :=
  (retryTimeout_runs hup).acts retryDue_iff ⟨⟨hlane, hwindow⟩, hframes⟩ (resendAll_anew hwindow)

theorem retryTimeout_stands (h : (s.dyn.lane l.val).link.window = []
    ∨ (s.dyn.lane l.val).teth.frames < (s.dyn.lane l.val).link.advanced + 1024) :
    Becomes (exec (.retryTimeout l) s) s s.dyn :=
  (retryTimeout_runs hup).stands retryDue_iff fun ⟨⟨_, hwindow⟩, hframes⟩ =>
    h.elim hwindow (Nat.not_le.mpr · hframes)

end

/-! ### Ring indices (R308) -/

section
variable {img : Img} {d : Dyn} {m : Master} {v : Nat} {x : Half}

/-- VC 0 has no ring. -/
theorem txPost_zero : txPost img d m 0 x = d := rfl
theorem rxConsume_zero : rxConsume img d m 0 x = d := rfl

section
variable (hv : v ≠ 0)
include hv

theorem txPost_eq : txPost img d m v x
    = if 2 ^ txLog img v < (x.toNat + 65536 - (d.vc v).txDone) % 65536 then
        writeRefused d (laneSrc ((vcLane img v).getD 64))
      else d.onVc v (fun y => { y with txPosted := x.toNat }) :=
  if_neg hv

theorem rxConsume_eq : rxConsume img d m v x
    = if 0 < (x.toNat + 65536 - (d.vc v).rxProduced) % 65536
          ∧ (x.toNat + 65536 - (d.vc v).rxProduced) % 65536 < 32768 then
        writeRefused d (laneSrc ((vcLane img v).getD 64))
      else d.onVc v (fun y => { y with rxConsumed := x.toNat }) :=
  if_neg hv

end

end

theorem txLog_eq (img : Img) (v : Nat) : txLog img v = img.reg (0x05034000 + 0x10 * v) / 2 ^ 19 % 16 :=
  bits_eq_div_mod _ 22 19

section
variable {m : Master} {vc : BitVec 6} {v : Half} {s : State} {d : Dyn} (hup : islandUp s.dyn = true)
include hup

theorem txPosted_becomes (h : txPost s.img s.dyn m vc.toNat v = d) : Becomes (exec (.txPosted m vc v) s) s d := by
  change Becomes (execTxPosted m vc v s) s d
  exact act_becomes hup h

theorem rxConsumed_becomes (h : rxConsume s.img s.dyn m vc.toNat v = d) :
    Becomes (exec (.rxConsumed m vc v) s) s d := by
  change Becomes (execRxConsumed m vc v s) s d
  exact act_becomes hup h

end

end Sys2Proof.Machine
end

section
open Sys2Proof Sys2Proof.Machine

/-- Settles O41: a good unit goes to the rule of its type (`linkUnit_takes`), a bad one to a NAK (`linkUnit_fails`); the
rules of DATA, ACK and NAK go by the PSN, and the ring indices by where their new value lies. -/
theorem paretlinkUnits : Obligations.ParetlinkUnits := by
  unfold Obligations.ParetlinkUnits
  refine ⟨?units, ?link, ?rings⟩
  case units =>
    intro l s h time ws hup hlane hrx hgood hreserved n d k psn does
    have hlink : (d.lane n).link = k := by rw [Dyn.lane_onLane_same]
    have hframes : (d.lane n).teth.frames = (s.dyn.lane n).teth.frames := by rw [Dyn.lane_onLane_same]
    have taken {i : Instr} {type : Nat} {f : Img → List Nat → Nat → Dyn → Dyn} {e : Dyn}
        (hi : exec i s = act (fun img d => linkUnit l type (f img) d) s) (htype : h % 16 = type)
        (he : f s.img (h :: ws) time d = e) : does i e := by
      change Becomes (exec i s) s e
      rw [hi, ← he]
      exact linkUnit_takes hup hlane hrx htype hgood hreserved
    refine ⟨?next, ?again, ?gap, ?ack, ?nak, ?credit, ?reset⟩
    case next => exact fun htype hpsn => taken (exec_data l s) htype (dataUnit_next hlink hframes hpsn)
    case again => exact fun htype hpsn hback => taken (exec_data l s) htype (dataUnit_again hlink hpsn hback)
    case gap => exact fun htype hback => taken (exec_data l s) htype (dataUnit_gap hlink hback)
    case ack =>
      intro htype hsent q u rest hwindow count
      refine ⟨fun hcount => taken (exec_ack l s) htype ((ackUnit_moves hlink hwindow hsent hframes hcount).trans ?_),
        fun hcount => taken (exec_ack l s) htype (ackUnit_outside hlink hwindow hcount)⟩
      exact Dyn.onLink_congr (by rw [hlink]; rfl)
    case nak =>
      intro htype hsent q u rest hwindow count hcount
      refine ⟨_, taken (exec_nak l s) htype (nakUnit_moves hlink hwindow hsent hframes hcount), ?_, rfl, fun j hj => ?_⟩
      · dsimp only
        rw [resendAll_link, Dyn.lane_onLink_same, hlink]
        rfl
      · exact (Dyn.lane_onLane_other _ hj).trans ((Dyn.lane_onLane_other _ hj).trans (Dyn.lane_onLane_other _ hj))
    case credit => exact fun htype => taken (f := fun _ => creditUnit) (exec_credit l s) htype creditUnit_eq
    case reset => exact fun htype => taken (exec_reset l s) htype rfl
  case link =>
    intro l s hup n k frames
    refine ⟨fun h time ws hlane hrx hbad htype => ?bad, fun u time hvcs _ => ?reset, fun hlane hwindow hframes => ?resend,
      retryTimeout_stands hup⟩
    case bad =>
      rw [exec_data]
      exact linkUnit_fails hup hlane hrx htype hbad
    case reset =>
      refine (resetUnit_restarts hvcs).trans (congrArg (fun e => event e (laneSrc n) 0 0x058A []) ?_)
      exact Dyn.onLink_congr rfl
    case resend => exact retryTimeout_resends hup hlane hwindow hframes
  case rings =>
    intro m vc v s hup k c ahead room posted refused
    refine ⟨fun hk => ?zero, fun hk => ⟨fun hposted => ?post, fun hposted => ?postRefused, fun hahead => ?consume,
      fun hlo hhi => ?consumeRefused⟩⟩
    case zero =>
      exact ⟨txPosted_becomes hup (by rw [show vc.toNat = 0 from hk, txPost_zero]),
        rxConsumed_becomes hup (by rw [show vc.toNat = 0 from hk, rxConsume_zero])⟩
    case post =>
      exact txPosted_becomes hup ((txPost_eq hk).trans (if_neg (by rw [txLog_eq]; exact Nat.not_lt.mpr hposted)))
    case postRefused => exact txPosted_becomes hup ((txPost_eq hk).trans (if_pos (by rw [txLog_eq]; exact hposted)))
    case consume =>
      exact rxConsumed_becomes hup ((rxConsume_eq hk).trans (if_neg fun ⟨hlo, hhi⟩ =>
        hahead.elim (Nat.ne_of_gt hlo) (Nat.not_le.mpr hhi)))
    case consumeRefused => exact rxConsumed_becomes hup ((rxConsume_eq hk).trans (if_pos ⟨hlo, hhi⟩))

end

section
/-! PROOF. What a Bridle lane block does on time and for software (R294, R298 to R300). -/

namespace Sys2Proof.Machine

/-! ### DELAY_REQ and TIME_MARK (R299, R300) -/

section
variable {d : Dyn} {n : Nat}

theorem reqDue_iff : (decide (n < 64) && decide ((d.lane n).teth.state = 6) && reqTime d n) = true
    ↔ (n < 64 ∧ (d.lane n).teth.state = 6) ∧ reqTime d n = true := by
  simp

theorem reqTime_iff :
    reqTime d n = true ↔ ∀ t, (d.lane n).bridle.reqTick = some t → t + 1966080 ≤ d.now ∨ d.now < t := by
  unfold reqTime
  cases (d.lane n).bridle.reqTick <;> simp

theorem markDue_iff :
    (decide (n < 64) && decide ((d.lane n).teth.state = 6) && !(Map.get [] d.time.rtts n).isEmpty) = true
      ↔ (n < 64 ∧ (d.lane n).teth.state = 6) ∧ Map.get [] d.time.rtts n ≠ [] := by
  simp

end

section
variable {l : Lane} {s : State} (hup : islandUp s.dyn = true)
include hup

theorem delayReq_runs : Becomes (exec (.delayReq l) s) s
    (when_ (decide (l.val < 64) && decide ((s.dyn.lane l.val).teth.state = 6) && reqTime s.dyn l.val)
      (fun d => d.onBridle l.val (fun b =>
        { b with reqId := (b.reqId + 1) % 256, reqDue := true, reqSent := none, reqTick := some s.dyn.now })) s.dyn) := by
  change Becomes (execDelayReq l s) s _
  exact act_becomes hup rfl

theorem timeMark_runs : Becomes (exec (.timeMark l) s) s
    (when_ (decide (l.val < 64) && decide ((s.dyn.lane l.val).teth.state = 6)
        && !(Map.get [] s.dyn.time.rtts l.val).isEmpty)
      (fun d => d.onBridle l.val (fun b => { b with markDue := true })) s.dyn) := by
  change Becomes (execTimeMark l s) s _
  exact act_becomes hup rfl

end

/-! ### The timeout of an open container (R294) -/

/-- How long a container may stay open: the four base symbols that follow its own. -/
def openTime (i : StreamInfo) (q : Nat) : Nat :=
  ((List.range 4).map (fun j => symTc i.mu i.ext ((q + j + 1) % i.syms))).sum

section
variable {l : Lane} {slot : BitVec 4} {s : State} (hup : islandUp s.dyn = true)
include hup

theorem containerTimeout_closes {k : Nat} {c : OpenCont} {i : StreamInfo}
    (hopen : (s.dyn.lane l.val).bridle.opened.find? (fun e => e.1 == slot.toNat) = some (k, c))
    (hinfo : streamInfo s.img c.stream 0 = some i) (hpast : c.time + openTime i c.q ≤ s.dyn.now) :
    Becomes (exec (.containerTimeout l slot) s) s (closeCont s.img s.dyn l.val slot.toNat) := by
  change Becomes (execContainerTimeout l slot s) s _
  refine act_becomes hup ?_
  simp only [hopen, hinfo, ← List.foldl_map]
  refine when_true (decide_eq_true ?_)
  rwa [openTime, List.sum_eq_foldl] at hpast

theorem containerTimeout_stands
    (hclosed : (s.dyn.lane l.val).bridle.opened.find? (fun e => e.1 == slot.toNat) = none) :
    Becomes (exec (.containerTimeout l slot) s) s s.dyn := by
  change Becomes (execContainerTimeout l slot s) s _
  refine act_becomes hup ?_
  simp only [hclosed]

end

/-! ### BR_CTRL_SEND (R298) -/

section
variable {img : Img} {d : Dyn} {m : Master} {n v : Nat}

theorem brCtrlSend_refuses (hm : m.isTaskOrHost = false) : brCtrlSend img d m n v = writeRefused d (laneSrc n) := by
  simp [brCtrlSend, hm]

/-- The unit's header as it is read, but for its reserved bits (R9, R296). -/
def sentHeader (read : Nat) : Nat := read - read / 2 ^ 9 % 2 ^ 7 * 2 ^ 9

/-- With at most one payload word the third word, which is free (log 34), is not sent. -/
theorem brCtrlSend_queues {r : Dyn × Resp} {h : Nat} (hm : m.isTaskOrHost = true)
    (hr : memLoad img d (laneSender n) (v / 16 % 2 ^ 24 * 16) 16 = r)
    (hh : sentHeader (leNat (r.2.data.take 8)) = h) (hstatus : r.2.status < 2)
    (hcode : ctrlCode h = 1 ∨ (0x40 ≤ ctrlCode h ∧ ctrlCode h ≤ 0x7F))
    (hroom : (r.1.lane n).bridle.ctrlq.length < 16) (hwords : h / 2 ^ 24 % 4 < 2) :
    brCtrlSend img d m n v = ({ r.1 with free := r.1.free + 1 } : Dyn).onBridle n (fun b => { b with
      ctrlq := b.ctrlq ++ [[h, leNat (r.2.data.drop 8)].take (1 + h / 2 ^ 24 % 4)] }) := by
  have haddr : bits v 27 4 = v / 16 % 2 ^ 24 := bits_eq_div_mod v 27 4
  have hread : leNat (r.2.data.take 8) - bits (leNat (r.2.data.take 8)) 15 9 * 2 ^ 9 = h := by
    rw [bits_eq_div_mod]
    exact hh
  have hfield : bits h 25 24 = h / 2 ^ 24 % 4 := bits_eq_div_mod h 25 24
  have hok : (decide (r.2.status < 2) && (ctrlCode h == 1 || (decide (0x40 ≤ ctrlCode h) && decide (ctrlCode h ≤ 0x7F)))
      && decide ((r.1.lane n).bridle.ctrlq.length < 16)) = true := by
    simp [hstatus, hcode, hroom]
  have htake (third : Nat) : [h, leNat (r.2.data.drop 8), third].take (1 + h / 2 ^ 24 % 4)
      = [h, leNat (r.2.data.drop 8)].take (1 + h / 2 ^ 24 % 4) := by
    obtain hnone | hone : h / 2 ^ 24 % 4 = 0 ∨ h / 2 ^ 24 % 4 = 1 := by omega
    · rw [hnone]
      rfl
    · rw [hone]
      rfl
  simp only [brCtrlSend, hm, haddr, hr, hread, hok, hfield, htake, freshNat, Bool.not_true, Bool.false_eq_true,
    if_false]

end

theorem brCtrlSend_becomes {m : Master} {l : Lane} {v : Word} {s : State} {d : Dyn} (hup : islandUp s.dyn = true)
    (hlane : l.val < 64) (h : brCtrlSend s.img s.dyn m l.val v.toNat = d) :
    Becomes (exec (.brCtrlSend m l v) s) s d := by
  change Becomes (execBrCtrlSend m l v s) s d
  exact act_becomes hup ((when_true (decide_eq_true hlane)).trans h)

end Sys2Proof.Machine
end

section
open Sys2Proof Sys2Proof.Machine

/-- Settles O40: DELAY_REQ and TIME_MARK act where they are due (`reqDue_iff`, `markDue_iff`), an open container closes
at its time, and `brCtrlSend_queues` follows a unit from slot memory into its queue. -/
theorem bridleCommands : Obligations.BridleCommands := by
  unfold Obligations.BridleCommands
  intro m l slot v s hup n d does inData
  refine ⟨fun hlane hdata => ⟨fun htime => ?req, fun t htick hle hlt => ?reqEarly⟩, fun hlane hdata hrtts => ?mark,
    fun h => ⟨?reqNot, ?markNot⟩, fun k c i => containerTimeout_closes hup, containerTimeout_stands hup,
    fun hlane hm => brCtrlSend_becomes hup hlane (brCtrlSend_refuses hm), fun hlane hm => ?send⟩
  case req => exact (delayReq_runs hup).acts reqDue_iff ⟨⟨hlane, hdata⟩, reqTime_iff.mpr htime⟩ rfl
  case reqEarly =>
    refine (delayReq_runs hup).stands reqDue_iff fun ⟨_, htime⟩ => ?_
    have hdue := reqTime_iff.mp htime t htick
    exact hdue.elim (Nat.not_le.mpr hlt) (Nat.not_lt.mpr hle)
  case mark => exact (timeMark_runs hup).acts markDue_iff ⟨⟨hlane, hdata⟩, hrtts⟩ rfl
  case reqNot =>
    exact (delayReq_runs hup).stands reqDue_iff fun ⟨⟨hlane, hdata⟩, _⟩ => h.elim (Nat.not_le.mpr hlane) (· hdata)
  case markNot =>
    exact (timeMark_runs hup).stands markDue_iff fun ⟨⟨hlane, hdata⟩, _⟩ => h.elim (Nat.not_le.mpr hlane) (· hdata)
  case send =>
    intro r read h code hstatus hcode hroom hwords
    exact brCtrlSend_becomes hup hlane
      (brCtrlSend_queues hm rfl rfl hstatus (by rwa [ctrlCode_eq]) hroom hwords)

end

section
/-! PROOF. How a request enters the fabric (R318, R322, R324, R325, R327, R328), where no packet waits before it. -/

namespace Sys2Proof.Machine

/-! ### At the interface (R318) -/

section
variable {img : Img} {d : Dyn} {p : Packet} (hreq : p.resp = false)
include hreq

/-- The interface answers a request to an address of no endpoint itself: ERROR, reason DECODE. -/
theorem inject_unmapped (hkind : p.kind ≠ 3) (h : addrEndpoint p.address.toNat = none) :
    inject img d p = deliver (replyTo p { status := 5, reason := 2, data := [] }) d := by
  have htarget : (if p.kind = 3 ∨ p.resp then some p.dest.toNat else addrEndpoint p.address.toNat) = none := by
    rw [if_neg (not_or.mpr ⟨hkind, Bool.eq_false_iff.mp hreq⟩), h]
  simp only [inject, htarget]

section
variable (hdest : p.kind = 3 ∨ addrEndpoint p.address.toNat = some p.dest.toNat)
include hdest

theorem inject_mapped : inject img d p = if d.fab.waiting.contains p || tagFree d p then regulate img d p else d := by
  have htarget : (if p.kind = 3 ∨ p.resp then some p.dest.toNat else addrEndpoint p.address.toNat)
      = some p.dest.toNat := by
    rcases hdest with hkind | haddr
    · exact if_pos (.inl hkind)
    · rw [haddr, ite_self]
  simp only [inject, htarget]
  simp only [hreq, Bool.false_or, decide_true, Bool.true_and]

theorem inject_tagFree (htag : tagFree d p = true) : inject img d p = regulate img d p := by
  rw [inject_mapped hreq hdest, htag, Bool.or_true, if_pos rfl]

theorem inject_tagTaken (hnone : d.fab.waiting = []) (htag : tagFree d p = false) : inject img d p = d := by
  simp [inject_mapped hreq hdest, hnone, htag]

end
end

/-! ### At the regulator (R322, R324, R327, R328) -/

section
variable {img : Img} {d : Dyn} {e cls flits : Nat} (hreg : regulatorOf img e cls = none)
include hreg

theorem bucketHas_unregulated : bucketHas img d e cls flits = true := by
  simp only [bucketHas, hreg]

theorem spend_unregulated : spend img d e cls flits = d := by
  simp only [spend, hreg]

end

section
variable {img : Img} {d : Dyn} {p : Packet} (hnone : d.fab.waiting = [])
include hnone

theorem regulate_waits (hfree : ¬ (trackerRoom d p = true ∧ eventRoom d p = true
      ∧ routeOpen d (routeOf p.src.toNat p.dest.toNat) = true)) :
    regulate img d p = d.onFab (fun f => { f with waiting := [p] }) := by
  have hstays : (bucketHolds img d p && trackerRoom d p && eventRoom d p
      && routeOpen d (routeOf p.src.toNat p.dest.toNat)) = false := by
    rw [Bool.eq_false_iff, Ne, Bool.and_eq_true, Bool.and_eq_true, Bool.and_eq_true]
    exact fun ⟨⟨⟨_, hroom⟩, hevent⟩, hroute⟩ => hfree ⟨hroom, hevent, hroute⟩
  simp [regulate, hnone, hstays, Dyn.onFab]

theorem regulate_launches (hreg : regulatorOf img p.src.toNat p.cls.toNat = none) (hroom : trackerRoom d p = true)
    (hevent : eventRoom d p = true) (hroute : routeOpen d (routeOf p.src.toNat p.dest.toNat) = true) :
    regulate img d p = launch p (track p d) := by
  have hholds : bucketHolds img d p = true := bucketHas_unregulated hreg
  have hsame : d.onFab (fun f => { f with waiting := f.waiting.erase p }) = d := by
    rw [Dyn.onFab, hnone, List.erase_nil, ← hnone]
  simp [regulate, hnone, hholds, hroom, hevent, hroute, spend_unregulated hreg, hsame]

end

/-! ### Into the fabric (R325, R327, R330) -/

section
variable {d : Dyn} {p : Packet}

theorem track_request (hreq : p.resp = false) : track p d = d.onFab (fun f => { f with trackers := f.trackers ++
    [{ endpoint := p.src.toNat, tag := p.tag.toNat, target := p.dest.toNat, unit := packetUnit p
       since := endpointNow d p.src.toNat, timedOut := false }] }) := by
  rw [track, hreq, if_neg Bool.false_ne_true]

theorem launch_isolated (h : d.portMode p.src.toNat = 2) : launch p d = countAbsorbed d p.src.toNat := if_pos h

/-- The packet is under way sealed; but for that the counters and the model's free values alone change. -/
theorem launch_enters (h : d.portMode p.src.toNat ≠ 2) : { launch p d with perf := d.perf, free := d.free }
    = d.onFab (fun f => { f with inflight := f.inflight ++ [sealPacket { p with bad := false }] }) := by
  rw [launch, if_neg h, countEv_only]
  rfl

end

/-! ### PACKET_INJECTION -/

section
variable {p : Packet} {s : State}

theorem packetInjection_illFormed (h : packetOk p = false) : exec (.packetInjection p) s = .fault .illFormed := by
  change execPacketInjection p s = _
  rw [execPacketInjection, actIf, h, if_neg Bool.false_ne_true]

theorem packetInjection_becomes {d : Dyn} (hok : packetOk p = true) (hup : islandUp s.dyn = true)
    (h : inject s.img s.dyn p = d) : Becomes (exec (.packetInjection p) s) s d := by
  change Becomes (execPacketInjection p s) s d
  rw [execPacketInjection, actIf, if_pos hok]
  exact act_becomes hup h

end

end Sys2Proof.Machine
end

section
open Sys2Proof Sys2Proof.Machine

/-- Settles O42: the interface finds the request's endpoint (`inject_mapped`), its regulator holds it or lets it go
(`regulate_waits`, `regulate_launches`), and it enters tracked and sealed (`launch_enters`). -/
theorem packetsEnter : Obligations.PacketsEnter := by
  unfold Obligations.PacketsEnter
  intro p s e d sent
  refine ⟨packetInjection_illFormed, fun hok hup hreq hkind haddr => ?unmapped,
    fun hok hup hreq hdest hnone => ⟨fun htag => ?taken, fun htag hfree => ?waits⟩,
    fun hok hup hreq hdest htag hroom hevent hroute hreg hnone => ?enters⟩
  case unmapped => exact packetInjection_becomes hok hup (inject_unmapped hreq hkind haddr)
  case taken => exact packetInjection_becomes hok hup (inject_tagTaken hreq hdest hnone htag)
  case waits =>
    exact packetInjection_becomes hok hup ((inject_tagFree hreq hdest htag).trans (regulate_waits hnone hfree))
  case enters =>
    intro tracked
    have htracked : track p d = tracked := track_request hreq
    have hsent : inject s.img d p = launch p tracked := by
      rw [inject_tagFree hreq hdest htag, regulate_launches hnone hreg hroom hevent hroute, htracked]
    refine ⟨fun hisolated => ?_, fun hport => ⟨_, packetInjection_becomes hok hup hsent, ?_, rfl, rfl⟩⟩
    · exact packetInjection_becomes hok hup (hsent.trans (launch_isolated hisolated))
    · exact launch_enters hport

end

section
/-! PROOF. Changes of a port's mode (R328 to R333): how they are ordered, and how they drain, apply, fail and are
tried again at their router. -/

namespace Sys2Proof.Machine

/-! ### PORT_CTRL (R333) -/

/-- The ports of the supervisor, the timing unit and the power controller, which PORT_CTRL does not change. -/
def fixedPort (e : Nat) : Prop :=
  some e = endpointOf 0x0C00 ∨ some e = endpointOf 0x0A00 ∨ some e = endpointOf 0x0B00

theorem fixedPort_iff {e : Nat} :
    [endpointOf 0x0C00, endpointOf 0x0A00, endpointOf 0x0B00].contains (some e) = true ↔ fixedPort e := by
  simp [fixedPort]

section
variable {d : Dyn} {m : Master} {r slot op : Nat}

theorem portCtrl_refuses (h : m.isHost = false ∨ hasEndpoint (4 * r + slot) = false ∨ fixedPort (4 * r + slot)) :
    portCtrl d m r slot op = writeRefused d (0x0600 + r) := by
  unfold portCtrl
  rcases h with hm | he | hfixed
  · simp [hm, routerSrc]
  · simp [he, routerSrc]
  · simp only [fixedPort_iff.mpr hfixed, Bool.or_true, Bool.true_or, if_true, ite_self, routerSrc]

theorem portCtrl_requests (hm : m.isHost = true) (he : hasEndpoint (4 * r + slot) = true)
    (hfixed : ¬ fixedPort (4 * r + slot)) (hop : op = 1 ∨ op = 2) :
    portCtrl d m r slot op = requestChange d (4 * r + slot) (if op = 1 then 2 else 4) m.source := by
  have hother := Bool.eq_false_iff.mpr (mt fixedPort_iff.mp hfixed)
  have hok : (!hasEndpoint (4 * r + slot)
      || [endpointOf 0x0C00, endpointOf 0x0A00, endpointOf 0x0B00].contains (some (4 * r + slot))
      || decide (op = 3)) = false := by
    rw [he, hother, decide_eq_false (by omega)]
    rfl
  have hsome : op ≠ 0 := by omega
  simp only [portCtrl, hm, hok, hsome, Bool.not_true, Bool.false_eq_true, if_false]

end

/-- The endpoint's number holds its router and its slot (R317). -/
theorem endpoint_router_slot {r slot : Nat} (h : slot < 4) : (4 * r + slot) / 4 = r ∧ (4 * r + slot) % 4 = slot := by
  omega

section
variable {d : Dyn} {r slot mode m : Nat} (hslot : slot < 4)
include hslot

theorem requestChange_refuses (h : 9 ≤ (d.changes r).length) :
    requestChange d (4 * r + slot) mode m = masterRefused d (0x0600 + r) m := by
  obtain ⟨hr, -⟩ := endpoint_router_slot (r := r) hslot
  simp only [requestChange, hr, if_pos h, routerSrc]

theorem requestChange_joins (h : (d.changes r).length < 9) :
    requestChange d (4 * r + slot) mode m = d.setChanges r (d.changes r ++
      [{ slot, mode, master := m, since := d.now, retryAt := none, failed := false }]) := by
  obtain ⟨hr, hs⟩ := endpoint_router_slot (r := r) hslot
  simp only [requestChange, hr, hs, if_neg (Nat.not_le.mpr h)]

end

/-! ### The drain (R328, Table 12.7) -/

@[simp] theorem applyMode_changes (d : Dyn) (e mode r : Nat) : (applyMode d e mode).changes r = d.changes r := by
  have hunits (f : UnitSt → UnitSt) (d : Dyn) :
      ((unitsAt e).foldl (fun d u => d.setUnit u f) d).fab.changes = d.fab.changes :=
    foldl_keeps (f := fun d u => d.setUnit u f) (·.fab.changes) (fun _ _ => rfl) _ d
  unfold applyMode Dyn.changes
  dsimp only
  split
  · rfl
  · split
    · rw [hunits]
    · split
      · simp only [rearm, hunits]
        split <;> rfl
      · split <;> rfl

/-- QLIMIT has passed since a change's drain began (R328, Table 12.8). -/
def drainLate (img : Img) (d : Dyn) (c : PortChange) : Bool :=
  usPassed d.now c.since (img.reg 0x06000000 / 2 ^ 16 % 256)

theorem usPassed_qLimit (img : Img) (d : Dyn) (c : PortChange) :
    usPassed d.now c.since (qLimit img) = drainLate img d c :=
  congrArg (usPassed d.now c.since) (bits_eq_div_mod ..)

/-- A router's other changes once the running one ends: one that is not waiting for its retry begins to drain. -/
def nextDrains (d : Dyn) (rest : List PortChange) : List PortChange :=
  rest.map (fun x => if x.retryAt.isNone then { x with since := d.now } else x)

/-- The drain has failed: the change waits 1 ms for its retry, and a report says so (R328). -/
def drainFailed (d : Dyn) (r : Nat) (c : PortChange) (rest : List PortChange) : Dyn :=
  event (d.setChanges r (nextDrains d rest ++ [{ c with retryAt := some (d.now + 1966080), failed := true }]))
    (0x0600 + r) 6 0x0682 []

section
variable {img : Img} {d : Dyn} {r : Nat}

theorem runningChange_nil (h : d.changes r = []) : d.runningChange r = none := by
  rw [Dyn.runningChange, h, List.find?_nil]

section
variable {c : PortChange} {rest : List PortChange} (hl : d.changes r = c :: rest) (hrun : c.retryAt = none)
include hl hrun

theorem runningChange_head : d.runningChange r = some c := by
  simp [Dyn.runningChange, hl, hrun]

theorem dropFirst_running : dropFirst (fun x : PortChange => x.retryAt.isNone) (d.changes r) = rest := by
  simp [dropFirst, hl, hrun]

theorem quiesce_applies :
    quiesce d r = (applyMode d (4 * r + c.slot) c.mode).setChanges r (nextDrains d rest) := by
  simp only [quiesce, runningChange_head hl hrun, applyMode_changes, dropFirst_running hl hrun, nextDrains]

theorem quiesceLimit_fails (hlate : drainLate img d c = true) : quiesceLimit img d r = drainFailed d r c rest := by
  simp only [quiesceLimit, runningChange_head hl hrun, usPassed_qLimit, hlate, if_true, dropFirst_running hl hrun,
    routerSrc, drainFailed, nextDrains]

theorem quiesceLimit_drains (hlate : drainLate img d c = false) : quiesceLimit img d r = d := by
  simp only [quiesceLimit, runningChange_head hl hrun, usPassed_qLimit, hlate, Bool.false_eq_true, if_false]

theorem acceptAgain_applies (hlate : drainLate img d c = false) :
    acceptAgain img d r = (applyMode d (4 * r + c.slot) c.mode).setChanges r (nextDrains d rest) := by
  rw [← quiesce_applies hl hrun]
  simp only [acceptAgain, runningChange_head hl hrun, usPassed_qLimit, hlate, Bool.false_eq_true, if_false]

theorem acceptAgain_fails (hlate : drainLate img d c = true) : acceptAgain img d r = drainFailed d r c rest := by
  rw [← quiesceLimit_fails hl hrun hlate]
  simp only [acceptAgain, runningChange_head hl hrun, usPassed_qLimit, hlate, if_true]

end
end

/-- No change of power waits for a port. -/
structure NoPowerWait (d : Dyn) : Prop where
  leaving : d.power.leaving = none
  rising : d.power.rising = none
  releasing : d.power.releasing = none

/-- What a change of power that waits for a port does next is nothing, where none waits (R402, R404, R405). -/
theorem NoPowerWait.stands {img : Img} {d : Dyn} (h : NoPowerWait d) :
    refusalReleased (riseReleased img (leaveFenced img d)) = d := by
  simp only [leaveFenced, h.leaving, riseReleased, h.rising, refusalReleased, h.releasing]

theorem NoPowerWait.acceptAgain {d : Dyn} (h : NoPowerWait d) (img : Img) (r : Nat) :
    NoPowerWait (acceptAgain img d r) := by
  have hpower := (onlyAccess_acceptAgain img d r).power
  exact ⟨hpower ▸ h.leaving, hpower ▸ h.rising, hpower ▸ h.releasing⟩

/-! ### The commands -/

section
variable {s : State} {r : BitVec 6} {d : Dyn} (hup : islandUp s.dyn = true)
include hup

theorem quiesce_becomes (hpower : NoPowerWait s.dyn) (h : acceptAgain s.img s.dyn r.toNat = d) :
    Becomes (exec (.quiesce r) s) s d := by
  change Becomes (execQuiesce r s) s d
  exact act_becomes hup ((hpower.acceptAgain s.img r.toNat).stands.trans h)

theorem quiesceLimit_becomes (h : quiesceLimit s.img s.dyn r.toNat = d) : Becomes (exec (.quiesceLimit r) s) s d := by
  change Becomes (execQuiesceLimit r s) s d
  exact act_becomes hup h

theorem quiesceRetry_retries {c : PortChange} {rest : List PortChange} {at_ : Nat}
    (hl : s.dyn.changes r.toNat = c :: rest) (hretry : c.retryAt = some at_) (hdue : at_ ≤ s.dyn.now) :
    Becomes (exec (.quiesceRetry r) s) s
      (s.dyn.setChanges r.toNat (rest ++ [{ c with retryAt := none, since := s.dyn.now }])) := by
  change Becomes (execQuiesceRetry r s) s _
  exact act_becomes hup (by simp [hl, hretry, hdue, dropFirst])

theorem quiesceRetry_none (hl : s.dyn.changes r.toNat = []) : Becomes (exec (.quiesceRetry r) s) s s.dyn := by
  change Becomes (execQuiesceRetry r s) s _
  exact act_becomes hup (by simp only [hl, List.find?_nil])

end

end Sys2Proof.Machine
end

section
open Sys2Proof Sys2Proof.Machine

/-- Settles O44: ISOLATE and RELEASE are one order of PORT_CTRL, which is refused or joins the changes of its router;
the first change there applies, fails or is tried again, and no change of power waits for it
(`NoPowerWait.stands`). -/
theorem portChanges : Obligations.PortChanges := by
  unfold Obligations.PortChanges
  intro m r slot s hup e d l fixed orders
  have hordered {i : Instr} (op : Nat) (hop : op = 1 ∨ op = 2)
      (hi : exec i s = act (fun _ d => portCtrl d m r.toNat slot.toNat op) s) :
      orders i (if op = 1 then 2 else 4) := by
    dsimp only [orders]
    rw [hi]
    refine ⟨fun h => ?_, fun hm he hfixed hlen => ?_, fun hm he hfixed hlen => ?_⟩
    · exact act_becomes hup (portCtrl_refuses h)
    · exact act_becomes hup ((portCtrl_requests hm he hfixed hop).trans (requestChange_refuses slot.isLt hlen))
    · exact act_becomes hup ((portCtrl_requests hm he hfixed hop).trans (requestChange_joins slot.isLt hlen))
  refine ⟨hordered 1 (.inl rfl) rfl, hordered 2 (.inr rfl) rfl, fun c rest hl hrun => ?drain,
    fun c rest at_ => quiesceRetry_retries hup, fun hl hleaving hrising hreleasing => ?none⟩
  case drain =>
    intro next late fails
    refine ⟨fun hleaving hrising hreleasing => ?_, fun hlate => ?_, fun hlate => ?_⟩
    · have hpower : NoPowerWait s.dyn := ⟨hleaving, hrising, hreleasing⟩
      exact ⟨fun hlate => quiesce_becomes hup hpower (acceptAgain_applies hl hrun hlate),
        fun hlate => quiesce_becomes hup hpower (acceptAgain_fails hl hrun hlate)⟩
    · exact quiesceLimit_becomes hup (quiesceLimit_fails hl hrun hlate)
    · exact quiesceLimit_becomes hup (quiesceLimit_drains hl hrun hlate)
  case none =>
    have hidle : d.runningChange r.toNat = none := runningChange_nil hl
    refine ⟨quiesce_becomes hup ⟨hleaving, hrising, hreleasing⟩ ?_, quiesceLimit_becomes hup ?_,
      quiesceRetry_none hup hl⟩
    · simp only [acceptAgain, hidle, d]
    · simp only [quiesceLimit, hidle, d]

end

section
/-! PROOF. A step with no command waiting: one clock of the time base, and what waited for it (R356, R406, R453). -/

namespace Sys2Proof.Machine

/-! ### The power controller leaves JTAG's access alone -/

@[simp] theorem clearBank_tap (d : Dyn) (s : Nat) : (clearBank d s).tap = d.tap := by
  unfold clearBank
  split <;> rfl

@[simp] theorem raiseDomain_tap (d : Dyn) (k : Nat) : (raiseDomain d k).tap = d.tap :=
  foldl_keeps Dyn.tap clearBank_tap _ d

@[simp] theorem requestChange_tap (d : Dyn) (e mode m : Nat) : (requestChange d e mode m).tap = d.tap := by
  unfold requestChange
  dsimp only
  split
  · exact issue_tap ..
  · rfl

@[simp] theorem releaseFences_tap (d : Dyn) (k : Nat) : (releaseFences d k).tap = d.tap := by
  refine foldl_keeps Dyn.tap (fun d e => ?_) _ d
  dsimp only
  split
  · exact requestChange_tap ..
  · rfl

@[simp] theorem refuseDomain_tap (d : Dyn) (k reason : Nat) : (refuseDomain d k reason).tap = d.tap := by
  refine (issue_tap ..).trans ?_
  rw [Dyn.onPower_tap]
  split
  · exact releaseFences_tap ..
  · rfl

@[simp] theorem withdrawDomain_tap (d : Dyn) (k : Nat) : (withdrawDomain d k).1.tap = d.tap := by
  unfold withdrawDomain
  split
  · exact refuseDomain_tap ..
  · rfl

@[simp] theorem eraseKeys_tap (d : Dyn) : (eraseKeys d).tap = d.tap := by
  refine foldl_keeps Dyn.tap (fun d s => ?_) _ d
  obtain ⟨x, hx⟩ := writeKey_eq d s 0 0 0
  rw [hx]

@[simp] theorem cutFlash_tap (d : Dyn) : (cutFlash d).tap = d.tap := by
  unfold cutFlash
  split <;> rfl

/-- DEEPSLEEP keeps JTAG's state as the erased and idle machine has it, its access cut off (R453). -/
theorem enterDeepsleep_tap (d : Dyn) : (enterDeepsleep d).tap = d.tap.cutOff := by
  obtain ⟨e, he⟩ : ∃ e, cutFlash (eraseKeys d) = e := ⟨_, rfl⟩
  have htap : e.tap = d.tap := by rw [← he, cutFlash_tap, eraseKeys_tap]
  rw [enterDeepsleep, he, ← htap]
  rfl

theorem cutOff_running {t : TapSt} (h : t.running = none) : t.cutOff.running = none := by
  simp [TapSt.cutOff, h]

theorem settleChange_running {d : Dyn} (h : d.tap.running = none) : (settleChange d).tap.running = none := by
  unfold settleChange
  dsimp only
  split
  · exact h
  · split
    · rw [enterDeepsleep_tap]
      exact cutOff_running (by simpa [event] using h)
    · simpa [event] using h

theorem goOn_running : ∀ (fuel : Nat) {d : Dyn}, d.tap.running = none → (goOn fuel d).tap.running = none
  | 0, _, h => h
  | fuel + 1, d, h => by
    unfold goOn
    split
    · exact h
    · split
      · simpa using h
      · rename_i k _ _
        have hwithdrawn : (withdrawDomain d k).1.tap.running = none := by simpa using h
        dsimp only
        split
        · exact hwithdrawn
        · exact goOn_running fuel hwithdrawn
      · exact settleChange_running h

/-! ### What waits for a clock -/

theorem copyWord_none {img : Img} {d : Dyn} (h : d.power.rising = none) : copyWord img d = d := by
  simp [copyWord, h]

theorem startPending_stands {img : Img} {d : Dyn} (h : ¬ (d.power.pend.isSome = true ∧ d.power.busy = false)) :
    startPending img d = d := by
  unfold startPending
  split
  · rfl
  · split
    · rfl
    · rename_i hbusy _ mode hpend
      exact absurd ⟨by simp [hpend], Bool.eq_false_iff.mpr hbusy⟩ h

theorem startPending_starts {img : Img} {d : Dyn} {mode : Nat} (hpend : d.power.pend = some mode)
    (hbusy : d.power.busy = false) : startPending img d
      = if mode = d.power.current then d.onPower (fun x => { x with pend := none })
        else goOn 4 (planChange img (d.onPower (fun x => { x with pend := none })) mode) := by
  simp only [startPending, hbusy, hpend]
  rfl

theorem regaccEnd_none {d : Dyn} (h : d.tap.running = none) : regaccEnd d = d := by
  simp [regaccEnd, h]

theorem regaccEnd_some {d : Dyn} {w : Nat} (h : d.tap.running = some w) :
    regaccEnd d = { d with tap := { d.tap with regacc := w, running := none } } := by
  simp [regaccEnd, h]

theorem step_empty {s : State} (hpending : s.pending = []) (hup : islandUp s.dyn = true) :
    Becomes (step s) s (regaccEnd (powerTick s.img (tickClock s.dyn))) := by
  unfold step
  rw [hpending]
  exact act_becomes hup rfl

theorem step_empty_down {s : State} (hpending : s.pending = []) (hdown : islandUp s.dyn = false) :
    step s = .next s := by
  unfold step
  rw [hpending]
  exact act_down hdown

end Sys2Proof.Machine
end

section
open Sys2Proof Sys2Proof.Machine

/-- Settles O57: a step on an empty queue is `step_empty`, and what waited for the clock is a pending mode
(`startPending_starts`) or an access of JTAG's (`regaccEnd_some`), which no change of mode begins or ends. -/
theorem stepRunsFront : Obligations.StepRunsFront := by
  unfold Obligations.StepRunsFront
  intro c rest s
  refine ⟨rfl, fun hpending hup => ?_, step_empty_down⟩
  intro p clock waits
  have hstep : Becomes (step s) s (regaccEnd (powerTick s.img clock)) := step_empty hpending hup
  have htick (hrising : p.rising = none) : powerTick s.img clock = startPending s.img clock :=
    congrArg (startPending s.img) (copyWord_none hrising)
  refine ⟨fun hrising hwaits hrunning => ?_, fun w hrising hwaits hrunning => ?_,
    fun mode hrising hpend hbusy hrunning => ?_⟩
  · rwa [htick hrising, startPending_stands (d := clock) hwaits, regaccEnd_none (d := clock) hrunning] at hstep
  · rwa [htick hrising, startPending_stands (d := clock) hwaits, regaccEnd_some (d := clock) hrunning] at hstep
  · rw [htick hrising, startPending_starts (d := clock) hpend hbusy] at hstep
    intro d
    refine ⟨fun hmode => ?_, fun hmode => ?_⟩
    · rwa [if_pos hmode, regaccEnd_none (d := d) hrunning] at hstep
    · rwa [if_neg hmode, regaccEnd_none (goOn_running (d := planChange s.img d mode) 4 hrunning)] at hstep

end

section
/-! PROOF. The lock of a cipher engine and its direct jobs (R382 to R385). -/

namespace Sys2Proof.Machine

theorem mayLock_iff {m : Master} : mayLock m = true ↔ m = .supervisor ∨ ∃ k, m = .core k .exec := by
  cases m with
  | core k p => cases p <;> simp [mayLock]
  | supervisor | management | loader | unit => simp [mayLock]

/-- A master that may write CIPHER_LOCK has a source, which a free lock has not. -/
theorem source_ne_zero {m : Master} (h : mayLock m = true) : m.source ≠ 0 := by
  rcases mayLock_iff.mp h with rfl | ⟨k, rfl⟩
  · decide
  · simp [Master.source]

theorem cipherEng_onCipher (d : Dyn) (e : Nat) (f : CipherSt → CipherSt) :
    (d.onCipher e f).cipherEng e = f (d.cipherEng e) := by
  simp [Dyn.cipherEng, Dyn.onCipher]

section
variable {img : Img} {d : Dyn} {m : Master} {e : Nat}

theorem acquireLock_refuses (h : mayLock m = false) (urgent : Option Nat) :
    acquireLock img d m e urgent = writeRefused d (cipherSrc e) := by
  simp [acquireLock, h]

theorem acquireLock_held (h : mayLock m = true) (howner : (d.cipherEng e).owner ≠ 0) (urgent : Option Nat) :
    acquireLock img d m e urgent = d := by
  simp [acquireLock, h, howner]

/-- With no dispatched message there is none to suspend. -/
theorem suspendMsg_idle (h : (d.unit (cipherSrc e)).running = none) (blocks : Nat) : suspendMsg img d e blocks = d := by
  simp [suspendMsg, h]

theorem acquireLock_free (h : mayLock m = true) (howner : (d.cipherEng e).owner = 0) :
    acquireLock img d m e none
      = d.onCipher e (fun x => { x with owner := m.source, pending := true, urgent := false }) := by
  simp [acquireLock, h, howner]

theorem acquireLock_urgent (h : mayLock m = true) (howner : (d.cipherEng e).owner = 0)
    (hidle : (d.unit (cipherSrc e)).running = none) (blocks : Nat) : acquireLock img d m e (some blocks)
      = d.onCipher e (fun x => { x with owner := m.source, pending := true, urgent := true }) := by
  simp [acquireLock, h, howner, suspendMsg_idle (d := d.onCipher e _) hidle]

/-- With nothing suspended an engine whose lock is given up has nothing to resume. -/
theorem unlock_releases (h : (d.cipherEng e).susp = none) :
    unlock img d e = d.onCipher e (fun x => { x with owner := 0, pending := false, urgent := false }) := by
  simp [unlock, resumeIdle, cipherEng_onCipher, h]

theorem releaseLock_refuses (h : mayLock m = false ∨ (d.cipherEng e).owner ≠ m.source) :
    releaseLock img d m e = writeRefused d (cipherSrc e) := by
  rcases h with h | h <;> simp [releaseLock, h]

theorem releaseLock_releases (h : mayLock m = true) (howner : (d.cipherEng e).owner = m.source)
    (hsusp : (d.cipherEng e).susp = none) : releaseLock img d m e
      = d.onCipher e (fun x => { x with owner := 0, pending := false, urgent := false }) := by
  rw [← unlock_releases (img := img) hsusp]
  simp [releaseLock, h, howner, source_ne_zero h]

theorem grantLock_grants (hpending : (d.cipherEng e).pending = true)
    (hidle : (d.unit (cipherSrc e)).running = none) :
    grantLock d e = d.onCipher e (fun x => { x with pending := false }) := by
  simp [grantLock, hpending, hidle]

theorem grantLock_stands (hpending : (d.cipherEng e).pending = false) : grantLock d e = d := by
  simp [grantLock, hpending]

theorem cipherGo_refuses {v : Nat} (h : (d.cipherEng e).owner ≠ m.source ∨ m = .management) :
    cipherGo img d m e v = writeRefused d (cipherSrc e) := by
  rcases h with h | h <;> simp [cipherGo, h]

/-- The owner of a granted lock starts a direct job, whose inputs gain a reader and whose output is taken (R383). -/
theorem cipherGo_starts {v addr : Nat} {d1 : Dyn} {blk : List Byte} (hm : m ≠ .management)
    (howned : (d.cipherEng e).owner ≠ 0) (howner : (d.cipherEng e).owner = m.source)
    (hpending : (d.cipherEng e).pending = false) (hdirect : (d.cipherEng e).direct = none)
    (hread : readPackets img (engineSender (cipherSrc e)) (packetsOf addr 64) [] d = (d1, .inl blk))
    (haddr : v / 64 % 2 ^ 22 * 64 = addr)
    (hgood : msgBad (parseMsg blk) (d1.key (parseMsg blk).slot) (directBad img d1 false) (directBad img d1 true) = none) :
    cipherGo img d m e v
      = (setHandle img ((directInputs blk).foldl (incReaders img) d1) (parseMsg blk).out
          (fun h => { h with state := 1 })).onCipher e
          (fun y => { y with direct := some (addr, blk) }) := by
  have hsource : m.source ≠ 0 := howner ▸ howned
  have hbits : bits v 27 6 * 64 = addr := (congrArg (· * 64) (bits_eq_div_mod v 27 6)).trans haddr
  simp [cipherGo, howner, hsource, hm, hpending, hdirect, hbits, hread, hgood]

end

/-! ### The commands -/

section
variable {s : State} {d : Dyn} {m : Master} {e : Fin 8} (hup : islandUp s.dyn = true)
include hup

theorem acquire_becomes (h : acquireLock s.img s.dyn m e.val none = d) : Becomes (exec (.acquire m e) s) s d := by
  change Becomes (execAcquire m e s) s d
  exact act_becomes hup h

theorem acquireUrgent_becomes {blocks : Nat} (h : acquireLock s.img s.dyn m e.val (some blocks) = d) :
    Becomes (exec (.acquireUrgent m e blocks) s) s d := by
  change Becomes (execAcquireUrgent m e blocks s) s d
  exact act_becomes hup h

theorem release_becomes (h : releaseLock s.img s.dyn m e.val = d) : Becomes (exec (.release m e) s) s d := by
  change Becomes (execRelease m e s) s d
  exact act_becomes hup h

theorem lockGrant_becomes (h : grantLock s.dyn e.val = d) : Becomes (exec (.lockGrant e) s) s d := by
  change Becomes (execLockGrant e s) s d
  exact act_becomes hup h

theorem cipherGo_becomes {v : Word} (h : cipherGo s.img s.dyn m e.val v.toNat = d) :
    Becomes (exec (.cipherGo m e v) s) s d := by
  change Becomes (execCipherGo m e v s) s d
  exact act_becomes hup h

end

end Sys2Proof.Machine
end

section
open Sys2Proof Sys2Proof.Machine

/-- Settles O31: CIPHER_LOCK by who writes it and who owns the lock, CIPHER_GO by `cipherGo_starts`. -/
theorem cipherLocks : Obligations.CipherLocks := by
  unfold Obligations.CipherLocks
  intro m e blocks v s hup c may refused set
  have hmay : may ↔ mayLock m = true := mayLock_iff.symm
  refine ⟨fun hm => ?deny, fun hm howner => ?held, fun hm howner => ?acquire, fun hm howner hsusp => ?release,
    fun howner => ?other, fun hpending hidle => lockGrant_becomes hup (grantLock_grants hpending hidle),
    fun hpending => lockGrant_becomes hup (grantLock_stands hpending),
    fun hm => cipherGo_becomes hup (cipherGo_refuses (.inr hm)), ?go⟩
  case deny =>
    have hdenied : mayLock m = false := Bool.eq_false_iff.mpr (mt hmay.mpr hm)
    exact ⟨acquire_becomes hup (acquireLock_refuses hdenied _),
      acquireUrgent_becomes hup (acquireLock_refuses hdenied _),
      release_becomes hup (releaseLock_refuses (.inl hdenied))⟩
  case held =>
    exact ⟨acquire_becomes hup (acquireLock_held (hmay.mp hm) howner _),
      acquireUrgent_becomes hup (acquireLock_held (hmay.mp hm) howner _)⟩
  case acquire =>
    exact ⟨acquire_becomes hup (acquireLock_free (hmay.mp hm) howner),
      fun hidle => acquireUrgent_becomes hup (acquireLock_urgent (hmay.mp hm) howner hidle blocks)⟩
  case release => exact release_becomes hup (releaseLock_releases (hmay.mp hm) howner hsusp)
  case other =>
    exact ⟨release_becomes hup (releaseLock_refuses (.inr howner)),
      cipherGo_becomes hup (cipherGo_refuses (.inl howner))⟩
  case go =>
    intro d blk hm howned howner hpending hdirect addr hread x hgood
    exact cipherGo_becomes hup (cipherGo_starts hm howned howner hpending hdirect hread rfl hgood)

end

section
/-! PROOF. What a command does while the main island does not run (R407, R439, R441, R452, R453). -/

namespace Sys2Proof.Machine

/-- The commands that the always-on domain or JTAG carries out: the only ones with an effect while the main island does
not run. -/
def reachesAon : Instr → Bool
  | .aonResetRelease | .resetN .. | .resetNRelease .. | .startSequence .. | .vaonTrip | .wakeEdge ..
  | .deepsleepWakeCheck .. | .extest .. | .samplePreload .. | .idcode | .highz | .clamp | .extestPulse ..
  | .extestTrain .. | .regacc .. | .bypass => true
  | _ => false

/-- With the main island down the command changes nothing (log 50). -/
def StandsDown (o : State → Out) : Prop := ∀ s t, islandUp s.dyn = false → o s = .next t → t = s

theorem StandsDown.of_stands {o : State → Out} (h : ∀ s, islandUp s.dyn = false → o s = .next s) : StandsDown o := by
  intro s t hdown ht
  rw [h s hdown] at ht
  cases ht
  rfl

theorem StandsDown.act (f : Img → Dyn → Dyn) : StandsDown (act f) := .of_stands fun _ => act_down

theorem StandsDown.actIf (ok : Bool) (f : Img → Dyn → Dyn) : StandsDown (actIf ok f) :=
  fun s t hdown ht => StandsDown.act f s t hdown (actIf_next ht)

theorem StandsDown.actPins (f : Img → Dyn → Dyn) : StandsDown (actPins f) := StandsDown.act _

theorem StandsDown.actImg (f : Img → Dyn → Img × Dyn) :
    StandsDown (actImg (fun img d => if islandUp d then f img d else (img, d))) :=
  .of_stands fun s hdown => by simp [Machine.actImg, hdown]

/-- Any other command reaches no unit then. -/
theorem exec_standsDown {c : Instr} (hc : reachesAon c = false) : StandsDown (exec c) := by
  cases c <;> unfold exec
  case packetInjection => exact .actIf _ _
  case signalInSilence | markerDetected | ptpMeasurement | ppsIn | synceLinkUp | announce | arpRequest =>
    exact .actPins _
  case vcoreTrip | restart | flashCommandDone => exact .actImg _
  case aonResetRelease | resetN | resetNRelease | startSequence | vaonTrip | wakeEdge | deepsleepWakeCheck | extest
    | samplePreload | idcode | highz | clamp | extestPulse | extestTrain | regacc | bypass => cases hc
  all_goals exact .act _

/-- Nothing differs but JTAG's own state and the model's counter of free values. -/
def OnlyTap (d e : Dyn) : Prop := { e with tap := d.tap, free := d.free } = d

theorem jtagSelect_onlyTap (op : Nat) (f : TapSt → TapSt) (d : Dyn) : OnlyTap d (jtagSelect op f d) := by
  unfold jtagSelect when_
  split
  · dsimp only
    split <;> rfl
  · rfl

theorem OnlyTap.trans {d e f : Dyn} (h : OnlyTap d e) (g : OnlyTap e f) : OnlyTap d f := by
  unfold OnlyTap at h g ⊢
  rw [← h, ← g]

theorem OnlyTap.islandUp {d e : Dyn} (h : OnlyTap d e) : islandUp e = islandUp d := by
  unfold OnlyTap at h
  rw [← h]
  rfl

/-- While the registers of the main island are away, an access reads the identity block or nothing (R453). -/
theorem regaccRun_onlyTap {img : Img} {d : Dyn} (hdown : islandUp d = false) (u : Nat) :
    OnlyTap d (regaccRun img d u).1 := by
  simp only [regaccRun, hdown]
  split
  · cases ‹false = true›
  · split
    · split <;> rfl
    · rfl

theorem regacc_onlyTap {img : Img} {d : Dyn} (hdown : islandUp d = false) (u : Nat) : OnlyTap d (regacc img d u) := by
  have hrun : OnlyTap d (regaccRun img d u).1 := regaccRun_onlyTap hdown u
  unfold regacc
  split
  · rfl
  · generalize regaccRun img d u = x at hrun
    obtain ⟨d1, w⟩ := x
    simp only [hdown]
    rw [if_neg Bool.false_ne_true]
    dsimp only
    split <;> exact hrun.trans rfl

/-- A command that goes on to a machine that differs in JTAG's own state alone. -/
theorem actAon_onlyTap {f : Img → Dyn → Dyn} {s t : State} (h : actAon f s = .next t)
    (hf : OnlyTap s.dyn (f s.img s.dyn)) : t.img = s.img ∧ OnlyTap s.dyn t.dyn := by
  rw [actAon_next h]
  exact ⟨rfl, hf⟩

theorem execRegacc_onlyTap {update : BitVec 67} {s t : State} (hdown : islandUp s.dyn = false)
    (h : execRegacc update s = .next t) : t.img = s.img ∧ OnlyTap s.dyn t.dyn := by
  refine actAon_onlyTap h ?_
  unfold when_
  split
  · have hselect : OnlyTap s.dyn (jtagSelect 0x10 id s.dyn) := jtagSelect_onlyTap ..
    exact hselect.trans (regacc_onlyTap (hselect.islandUp.trans hdown) _)
  · rfl

theorem jtagOpcode_onlyTap (op : Nat) {s t : State} (h : actAon (fun _ d => jtagSelect op id d) s = .next t) :
    t.img = s.img ∧ OnlyTap s.dyn t.dyn := actAon_onlyTap h (jtagSelect_onlyTap ..)

theorem jtagBoundary_onlyTap {op update : Nat} {s t : State} (h : jtagBoundary op update s = .next t) :
    t.img = s.img ∧ OnlyTap s.dyn t.dyn := actAon_onlyTap h (jtagSelect_onlyTap ..)

end Sys2Proof.Machine
end

section
open Sys2Proof Sys2Proof.Machine

/-- Settles O60: a command to the main island stands (`exec_standsDown`); those of the always-on domain are named, and
JTAG's change its own state alone (`jtagSelect_onlyTap`, `regacc_onlyTap`). -/
theorem islandDown : Obligations.IslandDown := by
  unfold Obligations.IslandDown
  intro c s t hdown h
  have jtag (ht : t.img = s.img ∧ OnlyTap s.dyn t.dyn) : t = s
      ∨ c = .aonResetRelease ∨ (∃ n, c = .resetN n) ∨ (∃ b, c = .resetNRelease b) ∨ (∃ env, c = .startSequence env)
      ∨ c = .vaonTrip ∨ (∃ pin r, c = .wakeEdge pin r) ∨ (∃ v, c = .deepsleepWakeCheck v)
      ∨ (t.img = s.img ∧ { t.dyn with tap := s.dyn.tap, free := s.dyn.free } = s.dyn) := by
    right; right; right; right; right; right; right; right
    exact ht
  cases hc : reachesAon c with
  | false => exact .inl (exec_standsDown hc s t hdown h)
  | true =>
    cases c
    case aonResetRelease | resetN | resetNRelease | startSequence | vaonTrip | wakeEdge | deepsleepWakeCheck => simp
    case extest | samplePreload | extestPulse | extestTrain => exact jtag (jtagBoundary_onlyTap h)
    case idcode => exact jtag (jtagOpcode_onlyTap 0x02 h)
    case highz => exact jtag (jtagOpcode_onlyTap 0x03 h)
    case clamp => exact jtag (jtagOpcode_onlyTap 0x04 h)
    case bypass => exact jtag (jtagOpcode_onlyTap 0xFF h)
    case regacc => exact jtag (execRegacc_onlyTap hdown h)
    all_goals cases hc

end

section
/-! PROOF. Counter mode is its own inverse, and a message that GCM_ENC produced passes GCM_DEC (R375, R379). -/

namespace Sys2Proof.Machine

/-! ### Counter mode, block by block -/

/-- Counter mode over 16-byte pieces, with a key stream by counter: `ctrText` as a recursion (`ctrText_eq`). -/
def ctrFrom (ks : Nat → List Byte) : Nat → Nat → List Byte → List Byte
  | 0, _, _ => []
  | fuel + 1, ctr, text =>
    if text.isEmpty then [] else (text.take 16).zipWith (· ^^^ ·) (ks ctr) ++ ctrFrom ks fuel (ctr + 1) (text.drop 16)

/-- The key stream of a message. -/
def keyStream (rks : List Nat) (iv : List Byte) (ctr : Nat) : List Byte := aesEncrypt rks (iv ++ beBytes 4 ctr)

theorem keyStream_length (rks : List Nat) (iv : List Byte) (ctr : Nat) : (keyStream rks iv ctr).length = 16 :=
  leBytes_length 16 _

theorem ctrFrom_chunksAux (ks : Nat → List Byte) : ∀ (fuel ctr : Nat) (text : List Byte),
    (((List.range (chunksAux 16 fuel text).length).zip (chunksAux 16 fuel text)).map
      (fun e => e.2.zipWith (· ^^^ ·) (ks (ctr + e.1)))).flatten = ctrFrom ks fuel ctr text
  | 0, _, _ => rfl
  | fuel + 1, ctr, text => by
    simp only [chunksAux, ctrFrom]
    split
    · rfl
    · rw [List.length_cons, List.range_succ_eq_map, List.zip_cons_cons, List.map_cons, List.flatten_cons,
        ← ctrFrom_chunksAux ks fuel (ctr + 1), List.zip_map_left, List.map_map]
      simp only [Function.comp_def, Prod.map, id, Nat.add_zero, Nat.succ_eq_add_one]
      simp only [Nat.add_assoc, Nat.add_comm 1]

theorem ctrText_eq (rks : List Nat) (iv : List Byte) (ctr : Nat) (text : List Byte) :
    ctrText rks iv ctr text = ctrFrom (keyStream rks iv) text.length ctr text :=
  ctrFrom_chunksAux (keyStream rks iv) text.length ctr text

/-- A piece under the same key stream twice is the piece again. -/
theorem zipWith_xor_twice : ∀ (l k : List Byte), l.length ≤ k.length →
    (l.zipWith (· ^^^ ·) k).zipWith (· ^^^ ·) k = l
  | [], _, _ => rfl
  | _ :: _, [], h => absurd h (Nat.not_succ_le_zero _)
  | a :: l, b :: k, h => by
    rw [List.zipWith_cons_cons, List.zipWith_cons_cons, zipWith_xor_twice l k (Nat.le_of_succ_le_succ h),
      BitVec.xor_assoc, BitVec.xor_self, BitVec.xor_zero]

section
variable {ks : Nat → List Byte} (hks : ∀ c, (ks c).length = 16)
include hks

theorem ctrFrom_length : ∀ (fuel ctr : Nat) (text : List Byte), text.length ≤ fuel →
    (ctrFrom ks fuel ctr text).length = text.length
  | 0, _, _, h => (Nat.le_zero.mp h).symm
  | fuel + 1, ctr, text, h => by
    unfold ctrFrom
    split
    · rename_i hnil
      rw [List.isEmpty_iff.mp hnil]
    · rename_i hcons
      have hpos : 0 < text.length := List.length_pos_iff.mpr (by simpa using hcons)
      have hrest := ctrFrom_length fuel (ctr + 1) (text.drop 16) (by rw [List.length_drop]; omega)
      rw [List.length_append, hrest, List.length_zipWith, List.length_take, List.length_drop, hks]
      omega

/-- Counter mode from the same counter gives the text back (R375). -/
theorem ctrFrom_twice : ∀ (fuel ctr : Nat) (text : List Byte), text.length ≤ fuel →
    ctrFrom ks fuel ctr (ctrFrom ks fuel ctr text) = text
  | 0, _, _, h => (List.eq_nil_of_length_eq_zero (Nat.le_zero.mp h)).symm
  | _ + 1, _, [], _ => rfl
  | fuel + 1, ctr, x :: l, h => by
    generalize htext : x :: l = text at h
    have hpos : 0 < text.length := htext ▸ Nat.succ_pos _
    have hne : text.isEmpty = false := by rw [← htext]; rfl
    have hfuel : (text.drop 16).length ≤ fuel := by rw [List.length_drop]; omega
    let piece := (text.take 16).zipWith (· ^^^ ·) (ks ctr)
    let rest := ctrFrom ks fuel (ctr + 1) (text.drop 16)
    have hpiece : piece.length = min 16 text.length := by
      rw [List.length_zipWith, List.length_take, hks]
      omega
    have hrest : rest.length = text.length - 16 := by
      rw [ctrFrom_length hks fuel (ctr + 1) _ hfuel, List.length_drop]
    have hcut : ctrFrom ks (fuel + 1) ctr text = piece ++ rest := by simp [ctrFrom, hne, piece, rest]
    have htake : (piece ++ rest).take 16 = piece := by
      rw [List.take_append, List.take_of_length_le (by omega), List.take_eq_nil_iff.mpr (by
        rw [List.eq_nil_iff_length_eq_zero]; omega), List.append_nil]
    have hdrop : (piece ++ rest).drop 16 = rest := by
      by_cases hlong : 16 ≤ text.length
      · exact List.drop_left' (by omega)
      · have hnil : rest = [] := List.eq_nil_of_length_eq_zero (by omega)
        rw [hnil, List.append_nil, List.drop_of_length_le (by omega)]
    have hfull : (piece ++ rest).isEmpty = false := by
      rw [List.isEmpty_eq_false_iff, ← List.length_pos_iff, List.length_append]
      omega
    calc ctrFrom ks (fuel + 1) ctr (ctrFrom ks (fuel + 1) ctr text)
        = piece.zipWith (· ^^^ ·) (ks ctr) ++ ctrFrom ks fuel (ctr + 1) rest := by
          rw [hcut, ctrFrom, hfull, if_neg Bool.false_ne_true, htake, hdrop]
      _ = text.take 16 ++ text.drop 16 := by
          rw [zipWith_xor_twice _ _ (by rw [List.length_take, hks]; omega),
            ctrFrom_twice fuel (ctr + 1) (text.drop 16) hfuel]
      _ = text := List.take_append_drop 16 text

end

@[simp] theorem ctrText_length (rks : List Nat) (iv : List Byte) (ctr : Nat) (text : List Byte) :
    (ctrText rks iv ctr text).length = text.length := by
  rw [ctrText_eq, ctrFrom_length (keyStream_length rks iv) _ _ _ (Nat.le_refl _)]

theorem ctrText_twice (rks : List Nat) (iv : List Byte) (ctr : Nat) (text : List Byte) :
    ctrText rks iv ctr (ctrText rks iv ctr text) = text := by
  rw [ctrText_eq _ _ _ (ctrText _ _ _ _), ctrText_length, ctrText_eq]
  exact ctrFrom_twice (keyStream_length rks iv) _ _ _ (Nat.le_refl _)

/-! ### Messages -/

theorem gcmTag_length (rks : List Nat) (iv : List Byte) (aadLen textLen acc : Nat) :
    (gcmTag rks iv aadLen textLen acc).length = 16 := by
  simp [gcmTag, beBytes, leBytes_length]

/-- What a message reads: its AAD where it has any, then IN. -/
def msgInputs (m : Msg) (aad data : List Byte) : List Got :=
  (if m.aad = 0xFFFF then [] else [{ state := 2, data := aad }]) ++ [{ state := 2, data }]

/-- The AAD that a message processes. -/
def msgAad (m : Msg) (aad : List Byte) : List Byte := if m.aad = 0xFFFF then [] else aad

theorem got_msgInputs (m : Msg) (aad data : List Byte) : m.got (msgInputs m aad data) = (msgAad m aad, data) := by
  unfold Msg.got msgInputs msgAad
  split <;> rfl

section
variable (m : Msg) (key : Nat) (aad : List Byte)

/-- The text of a whole message in counter mode. -/
def msgBody (text : List Byte) : List Byte := ctrText (aesRoundKeys key) m.iv 2 text

/-- The tag of a whole message over its ciphertext. -/
def msgTag (cipher : List Byte) : List Byte :=
  let rks := aesRoundKeys key
  let h := ghashKey rks
  gcmTag rks m.iv (if m.aad = 0xFFFF then 0 else m.aadLen) m.length
    (ghashFeed h (ghashFeed h 0 (msgAad m aad)) cipher)

/-- GCM_ENC writes the text in counter mode and its tag (R375). -/
theorem runMsg_enc {text : List Byte} (h : text.length = m.length) :
    runMsg { m with kind := 0x31 } key MsgCtx.start (msgInputs m aad text)
      = { status := 0, final := 2, bytes := m.length, at_ := 0
          out := msgBody m key text ++ msgTag m key aad (msgBody m key text) } := by
  have hgot : Msg.got { m with kind := 0x31 } (msgInputs m aad text) = (msgAad m aad, text) := got_msgInputs ..
  have hall : text.take m.length = text := List.take_of_length_le (Nat.le_of_eq h)
  simp [runMsg, hgot, hall, Msg.process, MsgCtx.start, msgBody, msgTag]

/-- GCM_DEC gives the text in counter mode of a ciphertext that its tag follows (R379). -/
theorem runMsg_dec {cipher : List Byte} (h : cipher.length = m.length) :
    runMsg { m with kind := 0x32 } key MsgCtx.start (msgInputs m aad (cipher ++ msgTag m key aad cipher))
      = { status := 0, final := 2, bytes := m.length, at_ := 0, out := msgBody m key cipher } := by
  have hgot (data : List Byte) : Msg.got { m with kind := 0x32 } (msgInputs m aad data) = (msgAad m aad, data) :=
    got_msgInputs ..
  have htext : (cipher ++ msgTag m key aad cipher).take m.length = cipher := List.take_left' h
  have htag : ((cipher ++ msgTag m key aad cipher).drop m.length).take 16 = msgTag m key aad cipher := by
    rw [List.drop_left' h]
    exact List.take_of_length_le (Nat.le_of_eq (gcmTag_length ..))
  simp only [runMsg, hgot, MsgCtx.start, Nat.sub_zero, htext, htag, Msg.process]
  simp [msgBody, msgTag]

end

end Sys2Proof.Machine
end

section
open Sys2Proof Sys2Proof.Machine

/-- Settles O30: both run the text through counter mode (`runMsg_enc`, `runMsg_dec`), which is its own inverse
(`ctrText_twice`), and tag the same ciphertext. -/
theorem cipherRoundTrip : Obligations.CipherRoundTrip := by
  unfold Obligations.CipherRoundTrip
  intro m key aad text hlen gs enc
  have henc : enc = _ := runMsg_enc m key aad hlen
  have hbody : (msgBody m key text).length = m.length := (ctrText_length ..).trans hlen
  rw [henc]
  refine ⟨rfl, rfl, ?_, ?_⟩
  · rw [List.length_append, hbody, msgTag, gcmTag_length]
  · have hdec := runMsg_dec m key aad hbody
    rwa [show msgBody m key (msgBody m key text) = text from ctrText_twice ..] at hdec

end

section
/-! PROOF. The pulse generators (R297, R371, R372, R374). -/

namespace Sys2Proof.Machine

/-! ### One generator's state -/

@[simp] theorem Dyn.pulse_onPulse (d : Dyn) (g j : Nat) (f : PulseSt → PulseSt) :
    (d.onPulse g f).pulse j = if j = g then f (d.pulse g) else d.pulse j := by
  simp [Dyn.pulse, Dyn.onPulse, Dyn.onTime]

@[simp] theorem Dyn.onPulse_onPulse (d : Dyn) (g : Nat) (f h : PulseSt → PulseSt) :
    (d.onPulse g f).onPulse g h = d.onPulse g (h ∘ f) := by
  simp [Dyn.onPulse, Dyn.onTime, Map.upd]

theorem Dyn.onPulse_congr {d : Dyn} {g : Nat} {f h : PulseSt → PulseSt} (hfh : f (d.pulse g) = h (d.pulse g)) :
    d.onPulse g f = d.onPulse g h := by
  simp only [Dyn.pulse] at hfh
  simp only [Dyn.onPulse, Dyn.onTime, Map.upd, hfh]

/-! ### TDD units -/

/-- A function that changes the lanes alone, by what they hold alone. -/
def OnLanes (f : Dyn → Dyn) : Prop := ∃ F : Map LaneSt → Map LaneSt, ∀ d, f d = { d with lanes := F d.lanes }

theorem OnLanes.foldl {α : Type} {f : Dyn → α → Dyn} (h : ∀ a, OnLanes (fun d => f d a)) (l : List α) :
    OnLanes (fun d => l.foldl f d) := by
  induction l with
  | nil => exact ⟨id, fun _ => rfl⟩
  | cons a l ih =>
    obtain ⟨F, hF⟩ := h a
    obtain ⟨G, hG⟩ := ih
    exact ⟨G ∘ F, fun d => (hG (f d a)).trans (by simp only [hF]; rfl)⟩

theorem onBridle_onLanes (n : Nat) (f : BridleSt → BridleSt) : OnLanes (fun d => d.onBridle n f) :=
  ⟨fun lanes => Map.upd LaneSt.reset lanes n (fun x => { x with bridle := f x.bridle }), fun _ => rfl⟩

theorem tddEvent_onLanes (img : Img) (g t : Nat) (rising : Bool) : OnLanes (fun d => tddEvent img d g t rising) := by
  unfold tddEvent
  exact .foldl (fun c => .foldl (fun n => onBridle_onLanes n _) _) _

theorem tddEvent_eq (img : Img) (d : Dyn) (g t : Nat) (rising : Bool) :
    tddEvent img d g t rising = { d with lanes := (tddEvent img d g t rising).lanes } := by
  obtain ⟨F, hF⟩ := tddEvent_onLanes img g t rising
  simp only [hF]

theorem tddEvent_lanes_congr {img : Img} {d e : Dyn} (h : e.lanes = d.lanes) (g t : Nat) (rising : Bool) :
    (tddEvent img e g t rising).lanes = (tddEvent img d g t rising).lanes := by
  obtain ⟨F, hF⟩ := tddEvent_onLanes img g t rising
  simp only [hF, h]

/-! ### PULSE_CTRL -/

/-- What a write of PULSE_CTRL does to a generator whose RUN changes. -/
def runChanged (img : Img) (run : Nat) (d : Dyn) (g : Nat) : Dyn :=
  (if run.testBit g then d else pulseStop img d g).onPulse g (fun p => { p with since := d.now })

/-- The generators whose RUN a write changes. -/
def changedRuns (run old : Nat) : List Nat := (List.range 16).filter (fun g => run.testBit g != old.testBit g)

theorem mem_changedRuns {run old j : Nat} : j ∈ changedRuns run old ↔ j < 16 ∧ run.testBit j ≠ old.testBit j := by
  simp [changedRuns]

theorem dropPassed_stands {d : Dyn} {g : Nat} (h : ∀ t, (d.pulse g).armed = some t → d.now ≤ t) :
    dropPassed d g = d := by
  unfold dropPassed
  split
  · rename_i t ht
    exact when_false (by simp [h t ht])
  · rfl

theorem pulseCtrl_eq {img : Img} {d : Dyn} {m : Master} {v : Nat} (hm : m.isTaskOrHost = true)
    (hfuture : ∀ j t, j < 16 → (d.pulse j).armed = some t → d.now ≤ t) :
    let run := v % 65536 &&& pulseMask img
    pulseCtrl img d m v
      = (changedRuns run d.time.run).foldl (runChanged img run) (d.onTime (fun t => { t with run })) := by
  intro run
  have hdrop : (changedRuns run d.time.run).foldl dropPassed d = d :=
    List.foldlRecOn _ _ (motive := fun e => e = d) rfl (fun e he j hj => by
      rw [he]
      exact dropPassed_stands (hfuture j · (mem_changedRuns.mp hj).1))
  simp only [pulseCtrl, hm]
  change (changedRuns run d.time.run).foldl (runChanged img run)
    (((changedRuns run d.time.run).foldl dropPassed d).onTime _) = _
  rw [hdrop]
  rfl

/-- A generator's pulse that a change of RUN to `run` ends (R372). -/
def endsHigh (run : Nat) (d : Dyn) (g : Nat) : Bool := (d.pulse g).level && !run.testBit g

theorem runChanged_eq (img : Img) (run : Nat) (d : Dyn) (g : Nat) : runChanged img run d g
    = { d.onPulse g (fun p => { p with since := d.now, level := p.level && run.testBit g }) with
        lanes := if endsHigh run d g then (tddEvent img d g d.now false).lanes else d.lanes } := by
  unfold runChanged pulseStop endsHigh
  cases hrun : run.testBit g with
  | true => simp [Dyn.onPulse, Dyn.onTime]
  | false =>
    cases hlevel : (d.pulse g).level with
    | true =>
      have hlanes := tddEvent_lanes_congr (img := img) (d := d)
        (e := d.onPulse g (fun p => { p with level := false })) rfl g d.now false
      rw [if_neg Bool.false_ne_true, when_true rfl, tddEvent_eq, hlanes]
      simp [Dyn.onPulse, Dyn.onTime, Map.upd]
    | false =>
      rw [if_neg Bool.false_ne_true, when_false rfl]
      exact Dyn.onPulse_congr (by simp [hlevel])

/-- The machine `e` that the changes of RUN of the generators `l` to `run` leave. -/
structure RunsChanged (img : Img) (run : Nat) (l : List Nat) (d e : Dyn) : Prop where
  only : e = { d with time := { d.time with pulses := e.time.pulses }, lanes := e.lanes }
  changed : ∀ j ∈ l, e.pulse j = { d.pulse j with since := d.now, level := (d.pulse j).level && run.testBit j }
  kept : ∀ j, j ∉ l → e.pulse j = d.pulse j
  quiet : (∀ j ∈ l, endsHigh run d j = false) → e.lanes = d.lanes
  falls : ∀ k ∈ l, (∀ j ∈ l, endsHigh run d j = true ↔ j = k) → e.lanes = (tddEvent img d k d.now false).lanes

theorem RunsChanged.foldl (img : Img) (run : Nat) : ∀ (l : List Nat) (d : Dyn), l.Nodup →
    RunsChanged img run l d (l.foldl (runChanged img run) d)
  | [], d, _ => ⟨rfl, fun _ hj => absurd hj List.not_mem_nil, fun _ _ => rfl, fun _ => rfl,
      fun _ hk => absurd hk List.not_mem_nil⟩
  | g :: l, d, hnodup => by
    obtain ⟨hg, hl⟩ := List.nodup_cons.mp hnodup
    let d1 := runChanged img run d g
    have hstep : d1 = _ := runChanged_eq img run d g
    have hpulse (j : Nat) (hj : j ≠ g) : d1.pulse j = d.pulse j := by
      rw [hstep]
      exact (Dyn.pulse_onPulse ..).trans (if_neg hj)
    have hself : d1.pulse g
        = { d.pulse g with since := d.now, level := (d.pulse g).level && run.testBit g } := by
      rw [hstep]
      exact (Dyn.pulse_onPulse ..).trans (if_pos rfl)
    have hnow : d1.now = d.now := by rw [hstep]; rfl
    have hends (j : Nat) (hj : j ≠ g) : endsHigh run d1 j = endsHigh run d j := by rw [endsHigh, hpulse j hj, endsHigh]
    have hlanes : d1.lanes = if endsHigh run d g then (tddEvent img d g d.now false).lanes else d.lanes := by
      rw [hstep]
    have hother {j : Nat} (hj : j ∈ l) : j ≠ g := fun h => hg (h ▸ hj)
    obtain ⟨honly, hchanged, hkept, hquiet, hfalls⟩ := RunsChanged.foldl img run l d1 hl
    change RunsChanged img run (g :: l) d (l.foldl (runChanged img run) d1)
    generalize l.foldl (runChanged img run) d1 = e at honly hchanged hkept hquiet hfalls
    refine ⟨?only, fun j hj => ?changed, fun j hj => ?kept, fun h => ?quiet, fun k hk h => ?falls⟩
    case only =>
      rw [honly, hstep]
      rfl
    case changed =>
      rcases List.mem_cons.mp hj with rfl | hj
      · rw [hkept _ hg, hself]
      · rw [hchanged j hj, hpulse j (hother hj), hnow]
    case kept =>
      rw [List.mem_cons, not_or] at hj
      rw [hkept j hj.2, hpulse j hj.1]
    case quiet =>
      rw [hquiet fun j hj => (hends j (hother hj)).trans (h j (List.mem_cons_of_mem _ hj)), hlanes,
        h g (List.mem_cons_self ..), if_neg Bool.false_ne_true]
    case falls =>
      by_cases hkg : k = g
      · subst hkg
        rw [hquiet fun j hj => ?_, hlanes, (h k hk).mpr rfl, if_pos rfl]
        rw [hends j (hother hj), Bool.eq_false_iff]
        exact fun hhigh => hother hj ((h j (List.mem_cons_of_mem _ hj)).mp hhigh)
      · have hkl : k ∈ l := (List.mem_cons.mp hk).resolve_left hkg
        have hquietG : endsHigh run d g = false :=
          Bool.eq_false_iff.mpr fun hhigh => hkg ((h g (List.mem_cons_self ..)).mp hhigh).symm
        rw [hquietG, if_neg Bool.false_ne_true] at hlanes
        rw [hfalls k hkl fun j hj => by rw [hends j (hother hj), h j (List.mem_cons_of_mem _ hj)], hnow,
          tddEvent_lanes_congr hlanes]

/-- The changes of RUN that a write of PULSE_CTRL makes where no armed time has passed (R372). -/
theorem pulseCtrl_changes {img : Img} {d : Dyn} {m : Master} {v : Nat} (hm : m.isTaskOrHost = true)
    (hfuture : ∀ j t, j < 16 → (d.pulse j).armed = some t → d.now ≤ t) :
    let run := v % 65536 &&& pulseMask img
    RunsChanged img run (changedRuns run d.time.run) (d.onTime (fun t => { t with run })) (pulseCtrl img d m v) := by
  intro run
  rw [pulseCtrl_eq hm hfuture]
  exact .foldl img run _ _ (List.nodup_range.filter _)

theorem pulseCtrl_refuses {img : Img} {d : Dyn} {m : Master} {v : Nat} (hm : m.isTaskOrHost = false) :
    pulseCtrl img d m v = writeRefused d timeSrc := by
  simp [pulseCtrl, hm]

/-! ### PULSE_ARM -/

/-- The time that a write of PULSE_ARM_LO arms. -/
def armTime (d : Dyn) (g : Nat) (v : Word) : Nat := (d.pulse g).armHi.toNat * 2 ^ 32 + v.toNat

/-- The generator with an armed time, and with the HI word that a read then returns. -/
def armedAt (d : Dyn) (g : Nat) (armed : Option Nat) : Dyn :=
  d.onPulse g (fun p => { p with armed, hiRead := (d.pulse g).armHi })

section
variable {img : Img} {d : Dyn} {m : Master} {g : Nat} {v : Word} {r : List Byte}

theorem pulseArm_refuses (hm : m.isTaskOrHost = false) : pulseArm img d m g v = writeRefused d timeSrc := by
  simp [pulseArm, hm]

/-- A time that has passed is given up, with a report (R372). -/
theorem pulseDrop_armedAt (t : Nat) :
    pulseDrop (armedAt d g (some t)) g = event (armedAt d g none) timeSrc 0 0x0A84 [] := by
  rw [pulseDrop, armedAt, Dyn.onPulse_onPulse]
  rfl

section
variable (hm : m.isTaskOrHost = true) (hrec : pulseRec img g = some r)
include hm hrec

theorem pulseArm_periodic (hper : pulsePeriodic r = true) : pulseArm img d m g v = writeRefused d timeSrc := by
  simp [pulseArm, hm, hrec, hper]

theorem pulseArm_arms (hper : pulsePeriodic r = false) (ht : d.now ≤ armTime d g v) :
    pulseArm img d m g v = armedAt d g (some (armTime d g v)) := by
  have hnot : ¬ (d.pulse g).armHi.toNat * 2 ^ 32 + v.toNat < d.now := Nat.not_lt.mpr ht
  simp only [pulseArm, hm, hrec, hper, hnot]
  rfl

theorem pulseArm_drops (hper : pulsePeriodic r = false) (ht : armTime d g v < d.now)
    (hrun : d.time.run.testBit g = false) :
    pulseArm img d m g v = event (armedAt d g none) timeSrc 0 0x0A84 [] := by
  have hlate : (d.pulse g).armHi.toNat * 2 ^ 32 + v.toNat < d.now := ht
  rw [← pulseDrop_armedAt (armTime d g v)]
  simp only [pulseArm, hm, hrec, hper, hlate, hrun]
  rfl

theorem pulseArm_fires (hper : pulsePeriodic r = false) (ht : armTime d g v < d.now)
    (hrun : d.time.run.testBit g = true) :
    pulseArm img d m g v = pulseRise img (event (armedAt d g none) timeSrc 0 0x0A84 []) g d.now := by
  have hlate : (d.pulse g).armHi.toNat * 2 ^ 32 + v.toNat < d.now := ht
  rw [← pulseDrop_armedAt (armTime d g v)]
  simp only [pulseArm, hm, hrec, hper, hlate, hrun]
  rfl

end

/-! ### Edges -/

/-- The tick up to which an edge is due: a lane strobe's comes TX_ADJ early (R372). -/
def edgeNow (img : Img) (d : Dyn) (r : List Byte) : Int := d.now + strobeLead img r

/-- The last multiple of a periodic generator's period. -/
def periodBefore (img : Img) (d : Dyn) (r : List Byte) : Int :=
  edgeNow img d r - (edgeNow img d r - timeOffset img - (fld r 8 4 : Nat)) % (fld r 0x10 4 : Nat)

/-- The rise that is due. -/
def dueRise (img : Img) (d : Dyn) (g : Nat) (r : List Byte) : Option Nat :=
  if pulsePeriodic r then
    if ((d.pulse g).since : Int) ≤ periodBefore img d r then some (periodBefore img d r).toNat else none
  else (d.pulse g).armed.filter (fun t => decide ((t : Int) ≤ edgeNow img d r))

/-- The pulse rises; a one-shot is not armed any longer. -/
def riseDue (img : Img) (d : Dyn) (g : Nat) (r : List Byte) (t : Nat) : Dyn :=
  pulseRise img (if pulsePeriodic r then d else d.onPulse g (fun p => { p with armed := none })) g t

theorem pulseEdge_stopped (hrun : d.time.run.testBit g = false) : pulseEdge img d g = d := by
  unfold pulseEdge
  dsimp only
  split
  · rfl
  · rw [hrun]
    rfl

section
variable (hrec : pulseRec img g = some r) (hrun : d.time.run.testBit g = true)
include hrec hrun

theorem pulseEdge_low (hlevel : (d.pulse g).level = false) :
    pulseEdge img d g = (dueRise img d g r).elim d (riseDue img d g r) := by
  simp only [pulseEdge, hrec, hrun, hlevel]
  change (match dueRise img d g r with | some t => riseDue img d g r t | none => d) = _
  cases dueRise img d g r <;> rfl

theorem pulseEdge_high {t0 : Nat} (hlevel : (d.pulse g).level = true) (hlast : (d.pulse g).lastRise = some t0) :
    pulseEdge img d g =
      if dueRise img d g r == some (t0 + pulseWidth r) then riseDue img d g r (t0 + pulseWidth r)
      else if ((t0 + pulseWidth r : Nat) : Int) ≤ edgeNow img d r then
        tddEvent img (d.onPulse g (fun p => { p with level := false })) g (t0 + pulseWidth r) false
      else (dueRise img d g r).elim d (riseDue img d g r) := by
  simp only [pulseEdge, hrec, hrun, hlevel, hlast]
  change (if dueRise img d g r == some (t0 + pulseWidth r) then riseDue img d g r (t0 + pulseWidth r)
      else if ((t0 + pulseWidth r : Nat) : Int) ≤ edgeNow img d r then _
      else match dueRise img d g r with | some t => riseDue img d g r t | none => d) = _
  cases dueRise img d g r <;> rfl

section
variable {t0 : Nat} (hlevel : (d.pulse g).level = true) (hlast : (d.pulse g).lastRise = some t0)
include hlevel hlast

theorem pulseEdge_coincides (hdue : dueRise img d g r = some (t0 + pulseWidth r)) :
    pulseEdge img d g = riseDue img d g r (t0 + pulseWidth r) := by
  rw [pulseEdge_high hrec hrun hlevel hlast, hdue, if_pos (beq_self_eq_true _)]

theorem pulseEdge_falls (hdue : dueRise img d g r = none) (hfall : ((t0 + pulseWidth r : Nat) : Int) ≤ edgeNow img d r) :
    pulseEdge img d g = tddEvent img (d.onPulse g (fun p => { p with level := false })) g (t0 + pulseWidth r) false := by
  rw [pulseEdge_high hrec hrun hlevel hlast, if_neg (by simp [hdue]), if_pos hfall]

theorem pulseEdge_keepsHigh (hdue : dueRise img d g r = none)
    (hfall : edgeNow img d r < ((t0 + pulseWidth r : Nat) : Int)) : pulseEdge img d g = d := by
  rw [pulseEdge_high hrec hrun hlevel hlast, if_neg (by simp [hdue]), if_neg (Int.not_le.mpr hfall), hdue,
    Option.elim_none]

end

end

section
variable (hper : pulsePeriodic r = true)
include hper

theorem dueRise_periodic (h : ((d.pulse g).since : Int) ≤ periodBefore img d r) :
    dueRise img d g r = some (periodBefore img d r).toNat := by
  simp [dueRise, hper, h]

theorem dueRise_met (h : periodBefore img d r < (d.pulse g).since) : dueRise img d g r = none := by
  simp [dueRise, hper, h]

theorem riseDue_periodic (t : Nat) : riseDue img d g r t = pulseRise img d g t := by
  simp [riseDue, hper]

end

section
variable (hper : pulsePeriodic r = false)
include hper

theorem dueRise_armed {t : Nat} (harmed : (d.pulse g).armed = some t) (h : (t : Int) ≤ edgeNow img d r) :
    dueRise img d g r = some t := by
  simp [dueRise, hper, harmed, h]

theorem dueRise_early {t : Nat} (harmed : (d.pulse g).armed = some t) (h : edgeNow img d r < t) :
    dueRise img d g r = none := by
  simp [dueRise, hper, harmed, h]

theorem dueRise_unarmed (harmed : (d.pulse g).armed = none) : dueRise img d g r = none := by
  simp [dueRise, hper, harmed]

theorem riseDue_oneShot (t : Nat) :
    riseDue img d g r t = pulseRise img (d.onPulse g (fun p => { p with armed := none })) g t := by
  simp [riseDue, hper]

end

theorem dropPassed_drops {t : Nat} (harmed : (d.pulse g).armed = some t) (hrun : d.time.run.testBit g = false)
    (h : t < d.now) : dropPassed d g = pulseDrop d g := by
  simp [dropPassed, harmed, hrun, h, when_]

theorem dropPassed_keeps {t : Nat} (harmed : (d.pulse g).armed = some t)
    (h : d.time.run.testBit g = true ∨ d.now ≤ t) : dropPassed d g = d := by
  rcases h with h | h <;> simp [dropPassed, harmed, h, when_]

end

/-! ### The commands -/

section
variable {s : State} {d : Dyn} {m : Master} {g : BitVec 4} {v : Word} (hup : islandUp s.dyn = true)
include hup

theorem pulseCtrl_becomes (h : pulseCtrl s.img s.dyn m v.toNat = d) : Becomes (exec (.pulseCtrl m v) s) s d := by
  change Becomes (execPulseCtrl m v s) s d
  exact act_becomes hup h

theorem pulseArm_becomes (h : pulseArm s.img s.dyn m g.toNat v = d) : Becomes (exec (.pulseArm m g v) s) s d := by
  change Becomes (execPulseArm m g v s) s d
  exact act_becomes hup h

theorem pulseEdge_becomes (h : pulseEdge s.img s.dyn g.toNat = d) : Becomes (exec (.pulseEdge g) s) s d := by
  change Becomes (execPulseEdge g s) s d
  exact act_becomes hup h

theorem armedTimePassed_becomes (h : dropPassed s.dyn g.toNat = d) :
    Becomes (exec (.armedTimePassed g) s) s d := by
  change Becomes (execArmedTimePassed g s) s d
  exact act_becomes hup h

end

/-- A pulse that the change of RUN to `run` stops (R372). -/
def Stops (d : Dyn) (run j : Nat) : Prop :=
  (d.pulse j).level = true ∧ d.time.run.testBit j = true ∧ run.testBit j = false

/-- Among the generators whose RUN changes, those whose pulse ends are those that stop while high. -/
theorem endsHigh_iff_stops {d : Dyn} {run j : Nat} (hj : j ∈ changedRuns run d.time.run) :
    endsHigh run d j = true ↔ Stops d run j := by
  have hchange := (mem_changedRuns.mp hj).2
  unfold endsHigh Stops
  cases hnew : run.testBit j <;> cases hold : d.time.run.testBit j <;> simp_all

theorem Stops.changed {d : Dyn} {run j : Nat} (h : Stops d run j) (hj : j < 16) : j ∈ changedRuns run d.time.run :=
  mem_changedRuns.mpr ⟨hj, by rw [h.2.1, h.2.2]; decide⟩

end Sys2Proof.Machine
end

section
open Sys2Proof Sys2Proof.Machine

/-- Settles O50: PULSE_CTRL by the generators whose RUN it changes (`RunsChanged`), PULSE_ARM by the armed time, an edge
by the rise that is due (`dueRise`). -/
theorem pulseGenerators : Obligations.PulseGenerators := by
  unfold Obligations.PulseGenerators
  intro m g v r s hup k x now runs does refused at_ rise
  refine ⟨fun hm => ?denied, fun hm hfuture => ?ctrl, fun hm hrec => ?arm,
    fun hrun => pulseEdge_becomes hup (pulseEdge_stopped hrun), fun hrec hper hrun hlevel => ?oneShotLow,
    fun hrec hper hrun hlevel => ?periodicLow, fun t0 hrec hper hrun hlevel hlast => ?periodicHigh,
    fun t0 hrec hper hrun hlevel hlast harmed => ?oneShotHigh, fun t harmed => ?passed⟩
  case denied =>
    exact ⟨pulseCtrl_becomes hup (pulseCtrl_refuses hm), pulseArm_becomes hup (pulseArm_refuses hm)⟩
  case ctrl =>
    refine ⟨_, pulseCtrl_becomes hup rfl, ?_⟩
    obtain ⟨honly, hchanged, hkept, hquiet, hfalls⟩ := pulseCtrl_changes (img := s.img) (v := v.toNat) hm hfuture
    generalize pulseCtrl s.img s.dyn m v.toNat = e at honly hchanged hkept hquiet hfalls
    have hrun : e.time.run = v.toNat % 65536 &&& pulseMask s.img :=
      congrArg (fun x => x.time.run) honly
    rw [← hrun] at hchanged hkept hquiet hfalls
    refine ⟨hrun, fun j hj h => ?_, fun j hj h => ?_, ⟨fun h => ?_, fun h => ?_⟩, ?_, rfl, rfl⟩
    · exact hkept j fun hmem => (mem_changedRuns.mp hmem).2 h
    · exact hchanged j (mem_changedRuns.mpr ⟨hj, h⟩)
    · refine hquiet fun j hj => Bool.eq_false_iff.mpr fun hhigh => ?_
      exact h j (mem_changedRuns.mp hj).1 ((endsHigh_iff_stops hj).mp hhigh)
    · have hk : Stops s.dyn e.time.run k := (h k g.isLt).mpr rfl
      exact (hfalls k (hk.changed g.isLt) fun j hj =>
        (endsHigh_iff_stops hj).trans (h j (mem_changedRuns.mp hj).1)).trans (tddEvent_lanes_congr (Dyn.onTime_lanes ..) ..)
    · rw [honly]
      rfl
  case arm =>
    exact ⟨fun hper => pulseArm_becomes hup (pulseArm_periodic hm hrec hper),
      fun hper ht => pulseArm_becomes hup (pulseArm_arms hm hrec hper ht),
      fun hper ht hrun => pulseArm_becomes hup (pulseArm_drops hm hrec hper ht hrun),
      fun hper ht hrun => pulseArm_becomes hup (pulseArm_fires hm hrec hper ht hrun)⟩
  case oneShotLow =>
    refine ⟨fun t harmed ht => pulseEdge_becomes hup ?_, fun t harmed ht => pulseEdge_becomes hup ?_,
      fun harmed => pulseEdge_becomes hup ?_⟩ <;> rw [pulseEdge_low hrec hrun hlevel]
    · rw [dueRise_armed hper harmed ht, Option.elim_some, riseDue_oneShot hper]
      rfl
    · rw [dueRise_early hper harmed ht, Option.elim_none]
    · rw [dueRise_unarmed hper harmed, Option.elim_none]
  case periodicLow =>
    refine ⟨fun hdue => pulseEdge_becomes hup ?_, fun hmet => pulseEdge_becomes hup ?_⟩
      <;> rw [pulseEdge_low hrec hrun hlevel]
    · rw [dueRise_periodic hper hdue, Option.elim_some, riseDue_periodic hper]
      rfl
    · rw [dueRise_met hper hmet, Option.elim_none]
  case periodicHigh =>
    refine ⟨fun hfall hdue => pulseEdge_becomes hup ?_,
      fun hmet hfall => pulseEdge_becomes hup (pulseEdge_falls hrec hrun hlevel hlast (dueRise_met hper hmet) hfall),
      fun hmet hfall => pulseEdge_becomes hup
        (pulseEdge_keepsHigh hrec hrun hlevel hlast (dueRise_met hper hmet) hfall)⟩
    have hrise : dueRise s.img s.dyn g.toNat r = some (t0 + pulseWidth r) :=
      (dueRise_periodic hper hdue).trans (congrArg some (congrArg Int.toNat hfall))
    rw [pulseEdge_coincides hrec hrun hlevel hlast hrise, riseDue_periodic hper]
    rfl
  case oneShotHigh =>
    exact ⟨fun hfall => pulseEdge_becomes hup
        (pulseEdge_falls hrec hrun hlevel hlast (dueRise_unarmed hper harmed) hfall),
      fun hfall => pulseEdge_becomes hup
        (pulseEdge_keepsHigh hrec hrun hlevel hlast (dueRise_unarmed hper harmed) hfall)⟩
  case passed =>
    exact ⟨fun hrun ht => armedTimePassed_becomes hup (dropPassed_drops harmed hrun ht),
      fun h => armedTimePassed_becomes hup (dropPassed_keeps harmed h)⟩

end

section
/-! PROOF. The measurements that the servo takes (R359, R363, R365). -/

namespace Sys2Proof.Machine

/-! ### Offsets in nanoseconds -/

theorem nsOf_eq (theta : Int) : nsOf theta = (2 * theta + 65536) / 131072 := rfl

theorem beyondNs_iff (limit : Nat) (theta : Int) :
    beyondNs limit theta = true ↔ (limit : Int) * 65536 < theta ∨ (limit : Int) * 65536 < -theta := by
  rw [beyondNs, decide_eq_true_eq]
  omega

theorem ofNat_wrapN_word (x : Int) : BitVec.ofNat 32 (wrapN 32 x) = BitVec.ofInt 32 x := by
  refine BitVec.eq_of_toNat_eq ?_
  rw [BitVec.toNat_ofNat, BitVec.toNat_ofInt, wrapN]
  omega

/-! ### The servo by its state -/

/-- A measurement is counted and its offset shown, whatever the servo does with it (R359, R363). -/
def noted (d : Dyn) (port : Nat) (theta : Int) : Dyn :=
  (countEv d (portSrc port) 0x0A00 1 EvInfo.plain).onTime (fun t => { t with
    theta := max (-2147483647) (min 2147483647 (nsOf theta)) })

/-- The record of rates as it stands once the present RATE has entered it (R365). -/
def ratesNow (img : Img) (t : TimeSt) (now : Nat) : List (Int × Nat) :=
  lastSpan (timeField img 0x18 2 * secondTc) ((t.rate, now - t.rateSince) :: t.lockedRates)

theorem ratesNow_eq (img : Img) (t : TimeSt) (now : Nat) : ratesNow img t now
    = lastSpan (timeField img 0x18 2 * 1966080000) ((t.rate, now - t.rateSince) :: t.lockedRates) := by
  rw [ratesNow, secondTc]

section
variable {img : Img} {d : Dyn}

theorem noted_time (port : Nat) (theta : Int) : (noted d port theta).time
    = { d.time with theta := max (-2147483647) (min 2147483647 (nsOf theta)) } := by
  rw [noted, Dyn.onTime, countEv_time]

@[simp] theorem noted_servo (port : Nat) (theta : Int) : (noted d port theta).time.servo = d.time.servo := by
  rw [noted_time]

@[simp] theorem noted_now (port : Nat) (theta : Int) : (noted d port theta).now = d.now := by
  rw [Dyn.now, noted_time, Dyn.now]

theorem recordRate_locked (h : d.time.servo = .locked) : recordRate img d
    = d.onTime (fun t => { t with lockedRates := ratesNow img d.time d.now, rateSince := d.now }) := by
  unfold recordRate ratesNow Dyn.onTime
  dsimp only
  rw [if_pos h]

theorem recordRate_other (h : d.time.servo ≠ .locked) : recordRate img d = d := by
  simp [recordRate, Dyn.onTime, h]

/-- HOLDOVER at the mean of a record of rates. -/
def heldOver (d : Dyn) (rates : List (Int × Nat)) (sticky : Bool) : Dyn :=
  d.onTime (fun t => { t with
    servo := .holdover, sticky, valid := 0, within := 0, beyond := 0, lockedRates := rates, rateSince := d.now
    rate := (meanRate rates).getD t.rate })

theorem heldOver_eq (d : Dyn) (rates : List (Int × Nat)) (sticky : Bool) :
    (d.onTime (fun t => { t with lockedRates := rates, rateSince := d.now })).onTime (fun t => { t with
      servo := .holdover, sticky, rate := (meanRate t.lockedRates).getD t.rate, valid := 0, within := 0, beyond := 0 })
      = heldOver d rates sticky := rfl

/-- In LOCKED, HOLDOVER takes the mean RATE of the record (R365). -/
theorem holdover_locked (h : d.time.servo = .locked) (sticky : Bool) :
    holdover img d sticky = heldOver d (ratesNow img d.time d.now) sticky := by
  rw [holdover, recordRate_locked h, heldOver_eq]

section
variable {port : Nat} {theta : Int}

/-- What the servo does with a measurement that is noted (R363, R365). -/
def servoTakes (img : Img) (theta : Int) (d : Dyn) : Servo → Dyn
  | .freerun => d
  | .acquiring => acquireMeas img d theta
  | .locked => lockedMeas img d theta
  | .holdover => if d.time.sticky then d else acquireMeas img d theta

theorem measure_eq : measure img d port theta = servoTakes img theta (noted d port theta) d.time.servo := by
  rw [← noted_servo (d := d) port theta]
  change (match (noted d port theta).time.servo with
    | .freerun => noted d port theta
    | .acquiring => acquireMeas img (noted d port theta) theta
    | .locked => lockedMeas img (noted d port theta) theta
    | .holdover => if (noted d port theta).time.sticky then noted d port theta
      else acquireMeas img (noted d port theta) theta) = _
  cases (noted d port theta).time.servo <;> rfl

/-- In FREERUN, and in HOLDOVER after a jump of the grandmaster, a measurement is noted and no more. -/
theorem measure_noted (h : d.time.servo = .freerun ∨ (d.time.servo = .holdover ∧ d.time.sticky = true)) :
    measure img d port theta = noted d port theta := by
  rw [measure_eq]
  rcases h with h | ⟨h, hsticky⟩
  · rw [h]
    rfl
  · rw [h, servoTakes, noted_time, hsticky, if_pos rfl]

section
variable (h : d.time.servo = .locked)
include h

theorem measure_steers (hnear : beyondNs (timeField img 0x10 4) theta = false) : measure img d port theta
    = (noted d port theta).onTime (fun t => { t with
        beyond := 0, rate := clampRate (Config.servoRate 2 theta d.time.rate)
        lockedRates := ratesNow img d.time d.now, rateSince := d.now }) := by
  have hservo : ((noted d port theta).onTime (fun t => { t with beyond := 0 })).time.servo = .locked :=
    (noted_servo port theta).trans h
  rw [measure_eq, h, servoTakes, lockedMeas, hnear, if_neg Bool.false_ne_true, recordRate_locked hservo]
  simp [steer, servoNum, Dyn.onTime, noted_time, ratesNow, Dyn.now, h]

theorem measure_jumps (hfar : beyondNs (timeField img 0x10 4) theta = true) (hfew : d.time.beyond < 2) :
    measure img d port theta = (noted d port theta).onTime (fun t => { t with beyond := d.time.beyond + 1 }) := by
  have hnot : ¬ 2 ≤ d.time.beyond := Nat.not_le.mpr hfew
  rw [measure_eq, h, servoTakes, lockedMeas, hfar, if_pos rfl]
  simp [Dyn.onTime, noted_time, hnot]

/-- The third jump in a row puts the servo in HOLDOVER and raises GM_DISCONTINUITY (R365). -/
theorem measure_discontinues (hfar : beyondNs (timeField img 0x10 4) theta = true) (hmany : 2 ≤ d.time.beyond) :
    measure img d port theta = gmJump (heldOver
        ((noted d port theta).onTime (fun t => { t with beyond := d.time.beyond + 1 })) (ratesNow img d.time d.now) true)
      theta := by
  have hservo : ((noted d port theta).onTime (fun t => { t with beyond := d.time.beyond + 1 })).time.servo = .locked :=
    (noted_servo port theta).trans h
  have hrates := holdover_locked (img := img) hservo true
  simp only [Dyn.onTime, noted_time, Dyn.now, ratesNow] at hrates
  rw [measure_eq, h, servoTakes, lockedMeas, hfar, if_pos rfl]
  simp [Dyn.onTime, noted_time, hmany, hrates, ratesNow, Dyn.now]

end

/-- In ACQUIRING measurements are counted before the first step (R365). -/
theorem measure_counts (h : d.time.servo = .acquiring) (hfew : d.time.valid + 1 < 16) : ∃ within,
    measure img d port theta = (noted d port theta).onTime (fun t => { t with valid := d.time.valid + 1, within }) := by
  have hservo : (noted d port theta).time.servo ≠ .holdover := by rw [noted_servo, h]; decide
  refine ⟨if beyondNs (timeField img 0x14 4) theta then 0 else d.time.within + 1, ?_⟩
  rw [measure_eq, h, servoTakes, acquireMeas, if_neg hservo]
  simp only [Dyn.onTime, noted_time]
  rw [if_pos hfew]

end
end

/-- GM_DISCONTINUITY as the port in use raises it (R365, R414). -/
def discontinuity (port : Nat) (ns : Int) : Raised :=
  { unit := 0x0A00 + port, cond := 0x0A01, addr := 0
    extra := BitVec.ofInt 32 (max (-2147483648) (min 2147483647 ns)) }

theorem gmJump_unitConds (d : Dyn) (theta : Int) : (gmJump d theta).disp.unitConds
    = d.disp.unitConds ++ [discontinuity d.time.port (nsOf theta)] := by
  simp only [gmJump, raiseUnit, discontinuity, ofNat_wrapN_word, ofInt_satN_word]
  rfl

/-- HOLDOVER after a jump of the grandmaster: at the mean of the record, and tick time goes on (R365). -/
theorem heldOver_jump (d : Dyn) (rates : List (Int × Nat)) (theta : Int) :
    let u := gmJump (heldOver d rates true) theta
    u.time.servo = .holdover ∧ u.time.sticky = true ∧ u.time.t = d.time.t
      ∧ u.time.rate = (meanRate rates).getD d.time.rate
      ∧ u.disp.unitConds = d.disp.unitConds ++ [discontinuity d.time.port (nsOf theta)] :=
  ⟨rfl, rfl, rfl, rfl, gmJump_unitConds ..⟩

/-- The same after a measurement is noted. -/
theorem noted_jump (d : Dyn) (port beyond : Nat) (rates : List (Int × Nat)) (theta : Int) :
    let u := gmJump (heldOver ((noted d port theta).onTime (fun t => { t with beyond })) rates true) theta
    u.time.servo = .holdover ∧ u.time.sticky = true ∧ u.time.t = d.time.t
      ∧ u.time.rate = (meanRate rates).getD d.time.rate
      ∧ u.disp.unitConds = d.disp.unitConds ++ [discontinuity d.time.port (nsOf theta)] := by
  have hdisp : (noted d port theta).disp = d.disp := countEv_disp ..
  obtain ⟨hservo, hsticky, ht, hrate, hconds⟩ :=
    heldOver_jump ((noted d port theta).onTime (fun t => { t with beyond })) rates theta
  refine ⟨hservo, hsticky, ht.trans ?_, hrate.trans ?_, hconds.trans ?_⟩ <;>
    simp only [Dyn.onTime, noted_time, hdisp]

/-! ### A measurement that arrives -/

/-- All of a measurement comes from the selected master, in its domain and over its transport, and answers a Delay_Req
(R359). -/
def ValidMeasurement (img : Img) (t : TimeSt) (p : Nat) (m : PtpExchange) : Prop :=
  masterId t.masters = some (p, m.sender) ∧ heardPtp img p m.domain m.transport = true
    ∧ fromMaster img p m.sender = true ∧ ∃ at_, (p, at_) ∈ t.reqStamp

theorem validMeasurement_iff {img : Img} {t : TimeSt} {p : Nat} {m : PtpExchange} :
    (masterId t.masters == some (p, m.sender) && heardPtp img p m.domain m.transport && fromMaster img p m.sender
      && t.reqStamp.any (fun e => e.1 == p)) = true ↔ ValidMeasurement img t p m := by
  simp [ValidMeasurement, and_assoc]

/-- The offset of a measurement (R361). -/
def offsetSeen (img : Img) (d : Dyn) (p : Nat) (m : PtpExchange) : Int :=
  offsetOf img p ((portIngress d p : Int) - m.syncAgo) ((Map.get 0 d.time.reqStamp p : Nat) : Int) m

/-- The Delay_Req of a port has its answer. -/
def delayAnswered (d : Dyn) (p : Nat) : Dyn := d.onTime (fun t => { t with reqStamp := Map.del t.reqStamp p })

section
variable {port : Bool} {m : PtpExchange} {s : State} {d : Dyn} (hup : islandUp s.dyn = true)
  (hpins : pinsTaken s.dyn = false)
include hup hpins

theorem ptpMeasurement_invalid (h : ¬ ValidMeasurement s.img s.dyn.time (portNum port) m) :
    Becomes (exec (.ptpMeasurement port m) s) s s.dyn := by
  change Becomes (execPtpMeasurement port m s) s s.dyn
  exact actPins_becomes hup hpins (when_false (Bool.eq_false_iff.mpr (mt validMeasurement_iff.mp h)))

theorem ptpMeasurement_measures (h : ValidMeasurement s.img s.dyn.time (portNum port) m)
    (hd : measure s.img (delayAnswered s.dyn (portNum port)) (portNum port)
      (offsetSeen s.img s.dyn (portNum port) m) = d) :
    Becomes (exec (.ptpMeasurement port m) s) s d := by
  change Becomes (execPtpMeasurement port m s) s d
  exact actPins_becomes hup hpins ((when_true (validMeasurement_iff.mpr h)).trans hd)

end

/-! ### Masters (R359, R365) -/

section
variable {img : Img} {d : Dyn}

theorem setMasters_same {l : List (Nat × PtpMaster)} {p : Nat} {sender : List Byte}
    (hbest : masterId l = some (p, sender)) (hsame : masterId d.time.masters = some (p, sender)) :
    setMasters d l = d.onTime (fun t => { t with masters := l, port := p }) := by
  simp only [setMasters, Dyn.onTime, hbest, hsame]
  rfl

theorem setMasters_other {l : List (Nat × PtpMaster)} {p : Nat} {sender : List Byte}
    (hbest : masterId l = some (p, sender)) (hother : masterId d.time.masters ≠ some (p, sender)) :
    setMasters d l = d.onTime (fun t => { t with masters := l, port := p, reqStamp := [] }) := by
  simp only [setMasters, Dyn.onTime, hbest, if_neg hother]
  rfl

/-- What is selected depends on the masters heard alone. -/
theorem setMasters_time_congr {e : Dyn} (h : e.time = d.time) (l : List (Nat × PtpMaster)) :
    (setMasters e l).time = (setMasters d l).time := by
  simp only [setMasters, Dyn.onTime, h]

theorem setMasters_servo (l : List (Nat × PtpMaster)) : (setMasters d l).time.servo = d.time.servo := rfl

/-- GM_LOST: no master remains (R365). -/
def masterGone (d : Dyn) : Dyn := event (setMasters d []) timeSrc 7 0x0A81 []

theorem masterGone_time : (masterGone d).time = (setMasters d []).time := issue_time ..

theorem masterGone_servo : (masterGone d).time.servo = d.time.servo := by rw [masterGone_time, setMasters_servo]

theorem keepMasters_some (x : Nat × PtpMaster) (l : List (Nat × PtpMaster)) :
    keepMasters img d (x :: l) = setMasters d (x :: l) := rfl

theorem keepMasters_none_freerun (h : d.time.servo = .freerun) : keepMasters img d [] = masterGone d := by
  change noMaster img (setMasters d []) = _
  have hservo : (masterGone d).time.servo = .freerun := masterGone_servo.trans h
  unfold noMaster
  change (match (masterGone d).time.servo with
    | .locked => holdover img (masterGone d) false
    | .acquiring => (masterGone d).onTime (fun t => { t with valid := 0, within := 0 })
    | _ => masterGone d) = _
  rw [hservo]

theorem heldOver_masterGone (rates : List (Int × Nat)) : heldOver (masterGone d) rates false
    = (masterGone d).onTime (fun t => { t with
        servo := .holdover, sticky := false, valid := 0, within := 0, beyond := 0
        lockedRates := rates, rateSince := d.now, rate := (meanRate rates).getD d.time.rate }) := by
  simp only [heldOver, Dyn.onTime, Dyn.now, masterGone_time]
  rfl

theorem keepMasters_none_locked (h : d.time.servo = .locked) :
    keepMasters img d [] = heldOver (masterGone d) (ratesNow img d.time d.now) false := by
  change noMaster img (setMasters d []) = _
  have hservo : (masterGone d).time.servo = .locked := masterGone_servo.trans h
  have hrates : ratesNow img (masterGone d).time (masterGone d).now = ratesNow img d.time d.now := by
    simp only [Dyn.now, masterGone_time]
    rfl
  rw [← hrates, ← holdover_locked hservo]
  unfold noMaster
  change (match (masterGone d).time.servo with
    | .locked => holdover img (masterGone d) false
    | .acquiring => (masterGone d).onTime (fun t => { t with valid := 0, within := 0 })
    | _ => masterGone d) = _
  rw [hservo]

theorem masterLost_none (h : d.time.masters = []) : masterLost img d = d := by
  simp only [masterLost, h]

theorem masterLost_one {x : Nat × PtpMaster} (h : d.time.masters = [x]) : masterLost img d = keepMasters img d [] := by
  simp only [masterLost, h]

/-- Of two masters one at least has fallen silent, which is a free choice (log 140). -/
theorem masterLost_two {x y : Nat × PtpMaster} (h : d.time.masters = [x, y]) :
    ∃ l, (l = [y] ∨ l = [x] ∨ l = []) ∧ masterLost img d = keepMasters img { d with free := d.free + 1 } l := by
  simp only [masterLost, h, freshNat]
  refine ⟨_, ?_, rfl⟩
  generalize Config.freeValue d.free = v
  have hfirst : v % 2 = 0 ∨ v % 2 = 1 := by omega
  rcases hfirst with hfirst | hfirst
  · cases hbit : bit v 9 <;> simp [List.range_succ, hfirst, hbit]
  · cases hbit : bit v 8 <;> simp [List.range_succ, hfirst, hbit]

theorem hearMaster_nil (p : Nat) (a : PtpMaster) : hearMaster [] p a = [(p, a)] := rfl

theorem hearMaster_same {p : Nat} {a b : PtpMaster} (h : b.sender = a.sender) : hearMaster [(p, b)] p a = [(p, a)] := by
  simp [hearMaster, h]

theorem hearMaster_other {p : Nat} {a b : PtpMaster} (h : b.sender ≠ a.sender) :
    hearMaster [(p, b)] p a = [(p, b), (p, a)] := by
  simp [hearMaster, h]

theorem masterId_one (x : Nat × PtpMaster) : masterId [x] = some (x.1, x.2.sender) := rfl

theorem masterId_two (x y : Nat × PtpMaster) : masterId [x, y]
    = if betterMaster x.1 x.2 y.1 y.2 then some (x.1, x.2.sender) else some (y.1, y.2.sender) := by
  simp only [masterId, selectMaster, List.foldl_cons, List.foldl_nil, Option.map_some]
  split <;> rfl

end

/-! ### The rest of the time unit (R358, R364, R366, R373, R374) -/

section
variable {img : Img} {d : Dyn} {m : Master}

theorem timeCtrl_refuses (h : m.isExecOrHost = false ∨ timePorts img = 0) :
    timeCtrl img d m 1 = writeRefused d timeSrc := by
  cases hm : m.isExecOrHost with
  | false => simp [timeCtrl, hm]
  | true =>
    have hports : timePorts img = 0 := h.resolve_left (by simp [hm])
    simp [timeCtrl, hm, reacquire, hports]

/-- A new acquisition: the rate that stood in LOCKED enters the record (R365, R366). -/
theorem timeCtrl_reacquires (hm : m.isExecOrHost = true) (hports : timePorts img ≠ 0) : timeCtrl img d m 1
    = d.onTime (fun x => { x with
        servo := .acquiring, valid := 0, within := 0, beyond := 0, stepUsed := false, sticky := false
        lockedRates := if d.time.servo = .locked then ratesNow img d.time d.now else d.time.lockedRates
        rateSince := if d.time.servo = .locked then d.now else d.time.rateSince }) := by
  have hre : timeCtrl img d m 1 = reacquire img d := by simp [timeCtrl, hm]
  rw [hre, reacquire, if_neg hports]
  by_cases h : d.time.servo = .locked
  · obtain ⟨rates, hrates⟩ : ∃ rates, ratesNow img d.time d.now = rates := ⟨_, rfl⟩
    rw [recordRate_locked h, hrates]
    simp only [Dyn.onTime, if_pos h]
  · rw [recordRate_other h]
    simp only [Dyn.onTime, if_neg h]

theorem cellActive_refuses {k : Nat} {v : Word} (h : m.isTaskOrHost = false) :
    cellActive img d m k v = writeRefused d timeSrc := by
  simp [cellActive, h]

theorem cellActive_sets {k : Nat} {v : Word} (h : m.isTaskOrHost = true) : cellActive img d m k v
    = d.onTime (fun x => { x with
        cellActive := Map.set d.time.cellActive k (BitVec.ofNat 32 (v.toNat &&& cellMask img k)) }) := by
  simp only [cellActive, h]
  rfl

/-- The whole second at or before now. -/
def secondBefore (d : Dyn) : Nat := d.now / secondTc * secondTc

theorem ppsOut_falls (h : d.time.ppsOut = true) (ht : d.time.ppsAt + ppsWidth img ≤ d.now) :
    ppsOut img d = d.onTime (fun x => { x with ppsOut := false }) := by
  simp [ppsOut, h, ht]

theorem ppsOut_stays (h : d.time.ppsOut = true) (ht : d.now < d.time.ppsAt + ppsWidth img) : ppsOut img d = d := by
  simp [ppsOut, h, Nat.not_le.mpr ht]

theorem ppsOut_rises (h : d.time.ppsOut = false) (hstate : d.dst.state = .service)
    (ht : d.time.ppsSince ≤ secondBefore d) : ppsOut img d
      = d.onTime (fun x => { x with ppsOut := true, ppsAt := secondBefore d, ppsSince := secondBefore d + 1 }) := by
  unfold secondBefore at ht ⊢
  simp [ppsOut, h, hstate, ht]

theorem ppsOut_low (h : d.time.ppsOut = false) (hnot : d.dst.state ≠ .service ∨ secondBefore d < d.time.ppsSince) :
    ppsOut img d = d := by
  have hcond : ¬ (d.dst.state = .service ∧ d.time.ppsSince ≤ secondBefore d) := fun h =>
    hnot.elim (fun hstate => hstate h.1) (fun ht => Nat.not_lt.mpr h.2 ht)
  unfold secondBefore at hcond
  simp [ppsOut, h, hcond]

end

/-- While JTAG has the pins, a signal on them changes nothing (R452). -/
theorem actPins_taken {f : Img → Dyn → Dyn} {s : State} (hup : islandUp s.dyn = true) (hpins : pinsTaken s.dyn = true) :
    Becomes (actPins f s) s s.dyn := act_becomes hup (by simp [hpins])

section
variable {s : State} {port : Bool} (hup : islandUp s.dyn = true) (hpins : pinsTaken s.dyn = true)
include hup hpins

theorem ppsIn_taken : Becomes (exec .ppsIn s) s s.dyn := by
  change Becomes (execPpsIn s) s _
  exact actPins_taken hup hpins

theorem synceLinkUp_taken : Becomes (exec .synceLinkUp s) s s.dyn := by
  change Becomes (execSynceLinkUp s) s _
  exact actPins_taken hup hpins

theorem announce_taken (a : PtpMaster) : Becomes (exec (.announce port a) s) s s.dyn := by
  change Becomes (execAnnounce port a s) s _
  exact actPins_taken hup hpins

theorem arpRequest_taken (target : List Byte) : Becomes (exec (.arpRequest port target) s) s s.dyn := by
  change Becomes (execArpRequest port target s) s _
  exact actPins_taken hup hpins

end

/-- A signal that would change nothing changes nothing, whoever has the pins. -/
theorem actPins_stands {f : Img → Dyn → Dyn} {s : State} (hup : islandUp s.dyn = true) (h : f s.img s.dyn = s.dyn) :
    Becomes (actPins f s) s s.dyn := act_becomes hup (by simp [h])

/-! ### The commands -/

section
variable {s : State} {d : Dyn} {m : Master} {port : Bool} {a : PtpMaster} (hup : islandUp s.dyn = true)
include hup

theorem masterLost_becomes (h : masterLost s.img s.dyn = d) : Becomes (exec .masterLost s) s d := by
  change Becomes (execMasterLost s) s d
  exact act_becomes hup h

/-- Of two masters in FREERUN the first, the second or both have fallen silent: the one that is left is selected, or
GM_LOST is reported. -/
theorem masterLost_falls {b : PtpMaster} (hm : s.dyn.time.masters = [(1, a), (2, b)])
    (hs : s.dyn.time.servo = .freerun) : Answers (exec .masterLost s) (fun u => u.dyn.free = s.dyn.free + 1
      ∧ ((u.dyn.time = (setMasters s.dyn [(2, b)]).time ∧ u.dyn.time.port = 2 ∧ u.dyn.rep = s.dyn.rep)
        ∨ (u.dyn.time = (setMasters s.dyn [(1, a)]).time ∧ u.dyn.time.port = 1 ∧ u.dyn.rep = s.dyn.rep)
        ∨ (u.dyn.time = (setMasters s.dyn []).time ∧ u.dyn.time.port = 0 ∧ u.dyn.rep = (masterGone s.dyn).rep))) := by
  obtain ⟨l, hl, hlost⟩ := masterLost_two (img := s.img) hm
  refine ⟨_, masterLost_becomes hup hlost, ?_⟩
  rcases hl with rfl | rfl | rfl
  · exact ⟨rfl, .inl ⟨rfl, rfl, rfl⟩⟩
  · exact ⟨rfl, .inr (.inl ⟨rfl, rfl, rfl⟩)⟩
  · rw [keepMasters_none_freerun (d := { s.dyn with free := s.dyn.free + 1 }) hs]
    refine ⟨?_, .inr (.inr ⟨masterGone_time, ?_, event_rep_congr rfl (setMasters_time_congr rfl [])⟩)⟩
    · exact issue_free ..
    · rw [masterGone_time]
      rfl

theorem reacquire_becomes (h : timeCtrl s.img s.dyn m 1 = d) : Becomes (exec (.reacquire m) s) s d := by
  change Becomes (execReacquire m s) s d
  exact act_becomes hup h

theorem cellActive_becomes {k : BitVec 3} {v : Word} (h : cellActive s.img s.dyn m k.toNat v = d) :
    Becomes (exec (.cellActive m k v) s) s d := by
  change Becomes (execCellActive m k v s) s d
  exact act_becomes hup h

theorem ppsOut_becomes (h : ppsOut s.img s.dyn = d) : Becomes (exec .ppsOut s) s d := by
  change Becomes (execPpsOut s) s d
  exact act_becomes hup h

theorem synceLost_loses (hport : syncePort s.img ≠ 0) (hlock : s.dyn.time.synceLock = true) :
    Becomes (exec .synceLost s) s
      (event (s.dyn.onTime (fun x => { x with synceLock := false })) 0x0A00 7 0x0A83 []) := by
  change Becomes (execSynceLost s) s _
  exact act_becomes hup (when_true (by simp [hport, hlock]))

theorem synceLost_unused (hport : syncePort s.img = 0) : Becomes (exec .synceLost s) s s.dyn := by
  change Becomes (execSynceLost s) s _
  exact act_becomes hup (when_false (by simp [hport]))

theorem synceLinkUp_unused (hport : syncePort s.img = 0) : Becomes (exec .synceLinkUp s) s s.dyn := by
  change Becomes (execSynceLinkUp s) s _
  exact actPins_stands hup (when_false (by simp [hport]))

theorem announce_unheard
    (h : heardPtp s.img (portNum port) a.domain a.transport = false ∨ fromMaster s.img (portNum port) a.sender = false) :
    Becomes (exec (.announce port a) s) s s.dyn := by
  change Becomes (execAnnounce port a s) s _
  exact actPins_stands hup (when_false (by rcases h with h | h <;> simp [h]))

theorem ptpDelayReq_sends (h : s.dyn.time.port = portNum port) : Becomes (exec (.ptpDelayReq port) s) s
    (s.dyn.onTime (fun x => { x with
      delayReqs := Map.upd 0 x.delayReqs (portNum port) (· + 1)
      reqStamp := Map.set x.reqStamp (portNum port) (portEgress s.dyn (portNum port)) })) := by
  change Becomes (execPtpDelayReq port s) s _
  exact act_becomes hup (when_true (decide_eq_true h))

theorem ptpDelayReq_stands (h : s.dyn.time.port ≠ portNum port) : Becomes (exec (.ptpDelayReq port) s) s s.dyn := by
  change Becomes (execPtpDelayReq port s) s _
  exact act_becomes hup (when_false (decide_eq_false h))

section
variable (hpins : pinsTaken s.dyn = false)
include hpins

theorem synceLinkUp_locks (hport : syncePort s.img ≠ 0) :
    Becomes (exec .synceLinkUp s) s (s.dyn.onTime (fun x => { x with synceLock := true })) := by
  change Becomes (execSynceLinkUp s) s _
  exact actPins_becomes hup hpins (when_true (decide_eq_true hport))

theorem announce_hears (hheard : heardPtp s.img (portNum port) a.domain a.transport = true)
    (hfrom : fromMaster s.img (portNum port) a.sender = true)
    (h : setMasters s.dyn (hearMaster s.dyn.time.masters (portNum port) a) = d) :
    Becomes (exec (.announce port a) s) s d := by
  change Becomes (execAnnounce port a s) s _
  exact actPins_becomes hup hpins ((when_true (by simp [hheard, hfrom])).trans h)

theorem ppsIn_stamps :
    Becomes (exec .ppsIn s) s (s.dyn.onTime (fun x => { x with ppsIn := BitVec.ofNat 64 s.dyn.now })) := by
  change Becomes (execPpsIn s) s _
  exact actPins_becomes hup hpins rfl

/-- The bytes of a port's own address, by its version of IP. -/
def addressBytes (img : Img) (p : Nat) : Nat := if portBytes img p 8 1 = [4] then 4 else 16

section
variable {target : List Byte}
  (hversion : portBytes s.img (portNum port) 8 1 = [4] ∨ portBytes s.img (portNum port) 8 1 = [6])
  (hused : (timePorts s.img).testBit (portNum port - 1) = true)
include hversion hused

theorem arpRequest_answers
    (h : target = portBytes s.img (portNum port) 0x10 (addressBytes s.img (portNum port))) :
    Becomes (exec (.arpRequest port target) s) s
      (s.dyn.onTime (fun x => { x with arpReplies := Map.upd 0 x.arpReplies (portNum port) (· + 1) })) := by
  change Becomes (execArpRequest port target s) s _
  refine actPins_becomes hup hpins (when_true ?_)
  rcases hversion with hv | hv <;> simp [portUsed, hused, h, hv, addressBytes]

omit hused in
theorem arpRequest_ignores
    (h : target ≠ portBytes s.img (portNum port) 0x10 (addressBytes s.img (portNum port))) :
    Becomes (exec (.arpRequest port target) s) s s.dyn := by
  change Becomes (execArpRequest port target s) s _
  refine actPins_becomes hup hpins (when_false ?_)
  rcases hversion with hv | hv <;> simp_all [addressBytes]

end
end
end

end Sys2Proof.Machine
end

section
open Sys2Proof Sys2Proof.Machine

/-- Settles O49: a measurement by the servo's state (`measure_eq`), the masters by `setMasters` and `keepMasters`, the
rest command by command. -/
theorem timeUnit : Obligations.TimeUnit := by
  unfold Obligations.TimeUnit
  refine ⟨?measurement, ?rest⟩
  case measurement =>
    intro port m s hup hpins p t now theta ns jump big taken rates does valid
    have hrates : rates = ratesNow s.img t now := (ratesNow_eq ..).symm
    have htaken : taken = noted (delayAnswered s.dyn (portNum port)) (portNum port) theta := by
      rw [noted, nsOf_eq]
      rfl
    have hbig : beyondNs (timeField s.img 0x10 4) theta = true ↔ big := beyondNs_iff ..
    have hnear (h : ¬ big) : beyondNs (timeField s.img 0x10 4) theta = false := Bool.eq_false_iff.mpr (mt hbig.mp h)
    refine ⟨fun h => ptpMeasurement_invalid hup hpins h, fun h => ?_⟩
    have measures {d : Dyn} (hd : measure s.img (delayAnswered s.dyn (portNum port)) (portNum port) theta = d) :
        Becomes (exec (.ptpMeasurement port m) s) s d := ptpMeasurement_measures hup hpins h hd
    clear_value taken rates
    subst htaken hrates
    refine ⟨fun hs => measures (measure_noted (.inl hs)),
      fun hs hsticky => measures (measure_noted (.inr ⟨hs, hsticky⟩)),
      fun hs hb => measures (measure_steers hs (hnear hb)),
      fun hs hb hfew => measures (measure_jumps hs (hbig.mpr hb) hfew),
      fun hs hb hmany => ⟨_, measures (measure_discontinues hs (hbig.mpr hb) hmany), noted_jump ..⟩, fun hs hfew => ?_⟩
    obtain ⟨within, hcount⟩ := measure_counts (img := s.img) (port := portNum port) (theta := theta)
      (d := delayAnswered s.dyn (portNum port)) hs hfew
    have hservo : s.dyn.time.servo = .acquiring := hs
    exact ⟨_, measures hcount, rfl, by simp [Dyn.onTime, noted_time, delayAnswered, hservo, t]⟩
  case rest =>
    intro m port a b target k v s hup p t now does set refused none_ rates
    have hrates : rates = ratesNow s.img t now := (ratesNow_eq ..).symm
    clear_value rates
    subst hrates
    refine ⟨fun h => masterLost_becomes hup (masterLost_none h), fun hm hs => ?two,
      fun hm hs => masterLost_becomes hup ((masterLost_one hm).trans (keepMasters_none_freerun hs)),
      fun hm hs => masterLost_becomes hup (((masterLost_one hm).trans (keepMasters_none_locked hs)).trans
        (heldOver_masterGone _)),
      synceLost_loses hup, fun hport hpins => synceLinkUp_locks hup hpins hport,
      fun hport => ⟨synceLost_unused hup hport, synceLinkUp_unused hup hport⟩,
      fun h => reacquire_becomes hup (timeCtrl_refuses h),
      fun hm hports => reacquire_becomes hup (timeCtrl_reacquires hm hports), announce_unheard hup,
      fun hheard hfrom hpins => ?announce, ptpDelayReq_sends hup, ptpDelayReq_stands hup,
      fun hversion hpins hused => ⟨arpRequest_answers hup hpins hversion hused, arpRequest_ignores hup hpins hversion⟩,
      fun hm => cellActive_becomes hup (cellActive_refuses hm), fun hm => cellActive_becomes hup (cellActive_sets hm),
      ?pps, ppsIn_stamps hup, fun hpins => ⟨ppsIn_taken hup hpins, synceLinkUp_taken hup hpins,
        announce_taken hup hpins a, arpRequest_taken hup hpins target⟩⟩
    case two => exact masterLost_falls hup hm hs
    case announce =>
      have hears {d : Dyn} (h : setMasters s.dyn (hearMaster t.masters p a) = d) :
          Becomes (exec (.announce port a) s) s d := announce_hears hup hpins hheard hfrom h
      have hearsOf {l : List (Nat × PtpMaster)} {d : Dyn} (hl : hearMaster t.masters p a = l)
          (h : setMasters s.dyn l = d) : Becomes (exec (.announce port a) s) s d := hears (hl ▸ h)
      have one (hm : t.masters = [(p, b)]) : masterId s.dyn.time.masters = some (p, b.sender) :=
        congrArg masterId hm
      have two (hbest : betterMaster p b p a = true) : masterId [(p, b), (p, a)] = some (p, b.sender) :=
        (masterId_two ..).trans (if_pos hbest)
      have twoWorse (hworse : betterMaster p b p a = false) : masterId [(p, b), (p, a)] = some (p, a.sender) :=
        (masterId_two ..).trans (if_neg (Bool.eq_false_iff.mp hworse))
      refine ⟨hears rfl, fun hm => hearsOf (hm ▸ hearMaster_nil p a) (setMasters_other (masterId_one _) fun h => ?_),
        fun hm hb => hearsOf (hm ▸ hearMaster_same hb) (setMasters_same (masterId_one _) (hb ▸ one hm)),
        fun hm hb hbest => hearsOf (hm ▸ hearMaster_other hb) (setMasters_same (two hbest) (one hm)),
        fun hm hb hworse => hearsOf (hm ▸ hearMaster_other hb) (setMasters_other (twoWorse hworse) fun h => hb ?_)⟩
      · exact absurd ((congrArg masterId hm).symm.trans h) nofun
      · exact (Prod.mk.inj (Option.some.inj ((one hm).symm.trans h))).2
    case pps =>
      exact ⟨fun h ht => ppsOut_becomes hup (ppsOut_falls h ht), fun h ht => ppsOut_becomes hup (ppsOut_stays h ht),
        fun h hstate ht => ppsOut_becomes hup (ppsOut_rises h hstate ht),
        fun h hnot => ppsOut_becomes hup (ppsOut_low h hnot)⟩

end

section
/-! PROOF. Requests for a mode (R401, R406). -/

namespace Sys2Proof.Machine

/-! ### The masters of a mode (Table 16.3) -/

theorem powerMaster_low (m : Master) {mode : Nat} (h : mode ≤ 1) : powerMaster m mode = m.isExecOrHost := by
  simp [powerMaster, h]

theorem powerMaster_nap (m : Master) : powerMaster m 2 = m.isHost := rfl

theorem powerMaster_deepsleep {m : Master} (h : m ≠ .management) : powerMaster m 3 = false := by
  cases m with
  | management => exact absurd rfl h
  | _ => rfl

/-! ### What a request does -/

section
variable {img : Img} {d : Dyn} {mode : Nat}

/-- The device state allows a request for the mode (R401; log 144). -/
def modeAllowed (d : Dyn) (mode : Nat) : Prop := d.dst.state = .service ∨ (d.dst.state = .hold ∧ mode = 3)

theorem modeAllowed_iff :
    (d.dst.state == .service || (d.dst.state == .hold && mode == 3)) = true ↔ modeAllowed d mode := by
  simp [modeAllowed]

section
variable {m : Master}

theorem powerRequest_noMaster (h : powerMaster m mode = false) : powerRequest img d m mode = writeRefused d 0x0B00 := by
  simp [powerRequest, h, powerSrc]

theorem powerRequest_notAllowed (h : ¬ modeAllowed d mode) : powerRequest img d m mode = writeRefused d 0x0B00 := by
  rw [← modeAllowed_iff, Bool.not_eq_true] at h
  unfold powerRequest
  rw [h]
  split <;> rfl

section
variable (hm : powerMaster m mode = true) (hstate : modeAllowed d mode)
include hm hstate

theorem powerRequest_notQuiet (hmode : 2 ≤ mode) (hquiet : allQuiet img d = false) :
    powerRequest img d m mode = refusal d 0x0B00 0x0C03 [] := by
  rw [← modeAllowed_iff] at hstate
  simp only [powerRequest, hm, hstate, hmode, hquiet]
  rfl

theorem powerRequest_places (hok : mode < 2 ∨ allQuiet img d = true) :
    powerRequest img d m mode = placeRequest img d mode := by
  rw [← modeAllowed_iff] at hstate
  have hquiet : ¬ (2 ≤ mode ∧ (!allQuiet img d) = true) := fun ⟨hmode, hnot⟩ =>
    hok.elim (fun h => Nat.not_lt.mpr hmode h) (fun h => by simp [h] at hnot)
  simp only [powerRequest, hm, hstate, if_neg hquiet]
  rfl

end
end

/-! ### The one-deep queue of requests (R406) -/

theorem placeRequest_current (hbusy : d.power.busy = false) (hpend : d.power.pend = none)
    (h : d.power.current = mode) : placeRequest img d mode = d := by
  simp [placeRequest, startPending, hbusy, hpend, h]

theorem placeRequest_begins (hbusy : d.power.busy = false) (hpend : d.power.pend = none)
    (h : d.power.current ≠ mode) : placeRequest img d mode = goOn 4 (planChange img d mode) := by
  simp [placeRequest, startPending, hbusy, hpend, Ne.symm h]

theorem placeRequest_waits (hbusy : d.power.busy = true) (hpend : d.power.pend = none) :
    placeRequest img d mode = d.onPower (fun x => { x with pend := some mode }) := by
  simp [placeRequest, startPending, hbusy, hpend]

theorem placeRequest_replaces {old : Nat} (hbusy : d.power.busy = true) (hpend : d.power.pend = some old) :
    placeRequest img d mode
      = event (d.onPower (fun x => { x with pend := some mode })) 0x0B00 0 0x0082 (leBytes 1 old) := by
  simp [placeRequest, startPending, hbusy, hpend, powerSrc]

/-- A request that finds another pending in a stable mode comes behind it: the pending one has begun. -/
theorem placeRequest_behind {q : Nat} {e : Dyn} (hbusy : d.power.busy = false) (hpend : d.power.pend = some q)
    (h : d.power.current ≠ q) (he : goOn 4 (planChange img (d.onPower (fun x => { x with pend := none })) q) = e)
    (hebusy : e.power.busy = true) (hepend : e.power.pend = none) :
    placeRequest img d mode = e.onPower (fun x => { x with pend := some mode }) := by
  have hstart : startPending img d = e := by
    rw [startPending_starts hpend hbusy, if_neg (Ne.symm h), he]
  simp [placeRequest, hstart, hebusy, hepend]

end

/-! ### The four requests -/

/-- What a write of POWER_REQ does, by the master, the device's state and the controller's (R401, R406). -/
theorem powerRequest_asks {s : State} {o : Out} {m : Master} {mode : Nat} (hup : islandUp s.dyn = true)
    (ho : o = act (fun img d => powerRequest img d m mode) s) :
    let p := s.dyn.power
    let does (d : Dyn) := Becomes o s d
    (powerMaster m mode = false → does (writeRefused s.dyn 0x0B00))
    ∧ (s.dyn.dst.state ≠ .service → ¬ (s.dyn.dst.state = .hold ∧ mode = 3) → does (writeRefused s.dyn 0x0B00))
    ∧ (powerMaster m mode = true → modeAllowed s.dyn mode →
      (2 ≤ mode → allQuiet s.img s.dyn = false → does (refusal s.dyn 0x0B00 0x0C03 []))
      ∧ (mode < 2 ∨ allQuiet s.img s.dyn = true →
        (p.busy = false → p.pend = none → p.current = mode → does s.dyn)
        ∧ (p.busy = false → p.pend = none → p.current ≠ mode → does (goOn 4 (planChange s.img s.dyn mode)))
        ∧ (∀ q, p.busy = false → p.pend = some q → p.current ≠ q →
            let d := goOn 4 (planChange s.img (s.dyn.onPower (fun x => { x with pend := none })) q)
            d.power.busy = true → d.power.pend = none →
            does (d.onPower (fun x => { x with pend := some mode })))
        ∧ (p.busy = true → p.pend = none → does (s.dyn.onPower (fun x => { x with pend := some mode })))
        ∧ (∀ old, p.busy = true → p.pend = some old → does
            (event (s.dyn.onPower (fun x => { x with pend := some mode })) 0x0B00 0 0x0082 (leBytes 1 old))))) := by
  subst ho
  intro p does
  have requests {d : Dyn} (h : powerRequest s.img s.dyn m mode = d) : does d := act_becomes hup h
  refine ⟨fun h => requests (powerRequest_noMaster h),
    fun hservice hhold => requests (powerRequest_notAllowed (not_or.mpr ⟨hservice, hhold⟩)), fun hm hstate =>
    ⟨fun hmode hquiet => requests (powerRequest_notQuiet hm hstate hmode hquiet), fun hok => ?_⟩⟩
  have places {d : Dyn} (h : placeRequest s.img s.dyn mode = d) : does d :=
    requests ((powerRequest_places hm hstate hok).trans h)
  exact ⟨fun hbusy hpend h => places (placeRequest_current hbusy hpend h),
    fun hbusy hpend h => places (placeRequest_begins hbusy hpend h),
    fun q hbusy hpend h => fun hebusy hepend => places (placeRequest_behind hbusy hpend h rfl hebusy hepend),
    fun hbusy hpend => places (placeRequest_waits hbusy hpend),
    fun old hbusy hpend => places (placeRequest_replaces hbusy hpend)⟩

end Sys2Proof.Machine
end

section
/-! PROOF. The steps of a change of mode: withdrawal, fences, power-good, roll-back (R402 to R405). -/

namespace Sys2Proof.Machine

section
variable {img : Img} {d : Dyn} {k since : Nat}

/-! ### The ports of a domain -/

theorem unfenced_iff : unfenced d k = true ↔ ∀ e ∈ domainEndpoints k, d.portMode e ≠ 1 := by
  simp [unfenced]

theorem unfenced_false {e : Nat} (he : e ∈ domainEndpoints k) (h : d.portMode e = 1) : unfenced d k = false :=
  Bool.eq_false_iff.mpr fun hall => unfenced_iff.mp hall e he h

/-! ### A domain that leaves (R402, R403) -/

section
variable (h : d.power.leaving = some (k, since))
include h

theorem domainAgree_orders (hidle : domainIdle d k = true) (hnot : d.power.fencing = false) :
    domainAgree img d = leaveFenced img (orderFences d k) := by
  simp [domainAgree, h, hidle, hnot]

theorem domainAgree_goesOn (hidle : domainIdle d k = true) (hfencing : d.power.fencing = true) :
    domainAgree img d = leaveFenced img d := by
  simp [domainAgree, h, hidle, hfencing]

theorem domainAgree_busy (hbusy : domainIdle d k = false) : domainAgree img d = d := by
  simp [domainAgree, h, hbusy]

theorem leaveFenced_leaves (hidle : domainIdle d k = true) (hfencing : d.power.fencing = true)
    (hstand : ∀ e ∈ fencesOf d k, fenceStands d e = true) : leaveFenced img d
      = goOn 4 ((domainSwitchOff img d k).onPower (fun x => { x with
          leaving := none, fencing := false, stopped := k :: x.stopped, todo := x.todo.drop 1 })) := by
  have hall : (fencesOf d k).all (fenceStands d) = true := List.all_eq_true.mpr hstand
  simp [leaveFenced, h, hidle, hfencing, hall]

theorem leaveFenced_stands {e : Nat} (he : e ∈ fencesOf d k) (hnot : fenceStands d e = false) :
    leaveFenced img d = d := by
  have hall : (fencesOf d k).all (fenceStands d) = false := List.all_eq_false.mpr ⟨e, he, by simp [hnot]⟩
  simp [leaveFenced, h, hall]

theorem domainRefused_busy (hbusy : domainIdle d k = false)
    (hlate : usPassed d.now since (boardField img 0xA 2) = true) :
    domainRefused img d 1 = goOn 4 (refuseDomain d k 1) := by
  simp [domainRefused, h, hbusy, hlate]

theorem domainRefused_late {e : Nat} (hfencing : d.power.fencing = true) (he : e ∈ fencesOf d k)
    (hlate : fenceLate img d e = true) : domainRefused img d 3 = goOn 4 (refuseDomain d k 3) := by
  have hany : (fencesOf d k).any (fenceLate img d) = true := List.any_eq_true.mpr ⟨e, he, hlate⟩
  simp [domainRefused, h, hfencing, hany]

end

/-- The drain of a fence that its router runs has not finished within QLIMIT (R328). -/
theorem fenceLate_drains {e : Nat} {c : PortChange} {rest : List PortChange} (hmode : d.portMode e = 0)
    (hl : d.changes (e / 4) = c :: rest) (hslot : c.slot = e % 4) (hfence : c.mode = 1) (hrun : c.retryAt = none)
    (hlate : usPassed d.now c.since (img.reg 0x06000000 / 2 ^ 16 % 256) = true) : fenceLate img d e = true := by
  have hlimit : usPassed d.now c.since (qLimit img) = true := (usPassed_qLimit img d c).trans hlate
  simp [fenceLate, hmode, hl, hslot, hfence, runningChange_head hl hrun, hlimit]

theorem domainAgree_none (h : d.power.leaving = none) : domainAgree img d = d := by
  simp [domainAgree, h]

theorem domainRefused_none (reason : Nat) (h : d.power.leaving = none) : domainRefused img d reason = d := by
  simp [domainRefused, h]

/-! ### A refusal that waits for its fences (R404) -/

theorem goOn_releasing (fuel : Nat) (h : d.power.releasing = some k) : goOn fuel d = d := by
  cases fuel with
  | zero => rfl
  | succ fuel => simp [goOn, h]

section
variable (h : d.power.releasing = some k)
include h

theorem refusalReleased_goesOn (hfree : ∀ e ∈ domainEndpoints k, d.portMode e ≠ 1) :
    refusalReleased d = goOn 4 (d.onPower (fun x => { x with releasing := none })) := by
  simp [refusalReleased, h, unfenced_iff.mpr hfree]

theorem refusalReleased_stands {e : Nat} (he : e ∈ domainEndpoints k) (hmode : d.portMode e = 1) :
    refusalReleased d = d := by
  simp [refusalReleased, h, unfenced_false he hmode]

end

/-! ### A domain that rises (R405) -/

section
variable (h : d.power.rising = some (k, since))
include h

theorem powerGood_signals (hgood : d.power.good = none) (hintime : (d.now - since) * 100 ≤ 20 * 196608) :
    ∃ wait < 3933, powerGood img d = copyWord img
      ({ d with free := d.free + 1 }.onPower (fun x => { x with good := some (d.now + wait) })) := by
  refine ⟨Config.freeValue d.free % 3933, Nat.mod_lt _ (by decide), ?_⟩
  have hnot : ¬ 20 * 196608 < (d.now - since) * 100 := Nat.not_lt.mpr hintime
  simp only [powerGood, h, hgood, freshNat, decide_eq_false hnot]
  rfl

theorem powerGood_late (hlate : 20 * 196608 < (d.now - since) * 100) : powerGood img d = d := by
  simp only [powerGood, h, decide_eq_true hlate, Bool.or_true, if_true]

theorem powerGoodFail_fails (hgood : d.power.good = none) (hlate : 20 * 196608 ≤ (d.now - since) * 100) :
    powerGoodFail d = goOn 4 (event (d.onPower (fun x => { x with
      rising := none, on := Map.set x.on k false, todo := x.todo.drop 1 })) 0x0B00 6 0x0B83 []) := by
  simp only [powerGoodFail, h, hgood, usPassed, decide_eq_true hlate]
  rfl

theorem powerGoodFail_waits (hintime : (d.now - since) * 100 < 20 * 196608) : powerGoodFail d = d := by
  simp only [powerGoodFail, h, usPassed, decide_eq_false (Nat.not_le.mpr hintime), Bool.not_false, Bool.or_true,
    if_true]

section
variable {at_ : Nat} (hgood : d.power.good = some at_)
include hgood

theorem powerGood_again : powerGood img d = d := by simp [powerGood, h, hgood]

theorem powerGoodFail_good : powerGoodFail d = d := by simp [powerGoodFail, h, hgood]

theorem copyWord_waits (hbefore : d.now < at_) : copyWord img d = d := by
  simp [copyWord, h, hgood, Nat.not_le.mpr hbefore]

theorem copyWord_copies (hreached : at_ ≤ d.now) (hnot : d.power.copied = false) : copyWord img d
    = riseReleased img ((releaseFences d k).onPower (fun x => { x with copied := true })) := by
  simp [copyWord, h, hgood, hreached, hnot]

end

theorem riseReleased_rises (hcopied : d.power.copied = true) (hfree : ∀ e ∈ domainEndpoints k, d.portMode e ≠ 1) :
    riseReleased img d = goOn 4 ((domainSwitchOn img d k).onPower (fun x => { x with
      rising := none, good := none, copied := false, todo := x.todo.drop 1 })) := by
  simp [riseReleased, h, hcopied, unfenced_iff.mpr hfree]

theorem riseReleased_fenced {e : Nat} (he : e ∈ domainEndpoints k) (hmode : d.portMode e = 1) :
    riseReleased img d = d := by
  simp [riseReleased, h, unfenced_false he hmode]

theorem riseReleased_notCopied (hnot : d.power.copied = false) : riseReleased img d = d := by
  simp [riseReleased, h, hnot]

end

theorem powerGood_none (h : d.power.rising = none) : powerGood img d = d := by simp [powerGood, h]

theorem powerGoodFail_none (h : d.power.rising = none) : powerGoodFail d = d := by simp [powerGoodFail, h]

end

/-! ### The roll-back (R404) -/

section
variable (d : Dyn) (k : Nat)

@[simp] theorem requestChange_power (e mode m : Nat) : (requestChange d e mode m).power = d.power := by
  unfold requestChange
  dsimp only
  split
  · exact issue_power ..
  · rfl

theorem requestChange_portMode (e mode m x : Nat) : (requestChange d e mode m).portMode x = d.portMode x := by
  unfold requestChange
  dsimp only
  split
  · simp only [masterRefused, event, Dyn.portMode, issue_fab]
  · rfl

@[simp] theorem releaseFences_power : (releaseFences d k).power = d.power := by
  refine foldl_keeps Dyn.power (fun d e => ?_) _ d
  dsimp only
  split
  · exact requestChange_power ..
  · rfl

/-- Release is ordered here and applied by quiesce: the ports keep their modes till then. -/
theorem releaseFences_portMode (x : Nat) : (releaseFences d k).portMode x = d.portMode x := by
  refine foldl_keeps (·.portMode x) (fun d e => ?_) _ d
  dsimp only
  split
  · exact requestChange_portMode ..
  · rfl

/-- The machine that a refusal leaves before it rolls back: fences that were ordered are given up. -/
def fencesGivenUp : Dyn := if d.power.fencing then releaseFences d k else d

theorem fencesGivenUp_power : (fencesGivenUp d k).power = d.power := by
  unfold fencesGivenUp
  split
  · exact releaseFences_power ..
  · rfl

theorem fencesGivenUp_portMode (x : Nat) : (fencesGivenUp d k).portMode x = d.portMode x := by
  unfold fencesGivenUp
  split
  · exact releaseFences_portMode ..
  · rfl

/-- What the power controller holds after a refusal (R403, R404). -/
def rollBack (why : Nat) : PowerSt := { d.power with
  rollback := true, leaving := none, fencing := false
  releasing := if unfenced (fencesGivenUp d k) k then none else some k
  todo := d.power.stopped.map (fun j => (j, true)), stopped := []
  refusals := Map.upd 0 d.power.refusals d.power.target (satAdd 0xFFFFFFFF · 1)
  log := Map.set d.power.log d.power.logNext
    { source := refusingUnit d k, reason := why, mode := d.power.target, tick := d.nowAt 0x0B00 }
  logNext := (d.power.logNext + 1) % 16 }

theorem refuseDomain_power (why : Nat) : (refuseDomain d k why).power = rollBack d k why := by
  refine (issue_power ..).trans ?_
  have hpower := fencesGivenUp_power d k
  unfold fencesGivenUp at hpower
  simp only [Dyn.onPower, hpower, rollBack, fencesGivenUp]
  rfl

theorem refuseDomain_rollsBack (why : Nat) : let p := d.power; let q := (refuseDomain d k why).power
    q.rollback = true ∧ q.leaving = none ∧ q.stopped = [] ∧ q.todo = p.stopped.map (fun j => (j, true))
    ∧ (p.fencing = false → (∀ e ∈ domainEndpoints k, d.portMode e ≠ 1) → q.releasing = none)
    ∧ (∀ e ∈ domainEndpoints k, d.portMode e = 1 → q.releasing = some k)
    ∧ Map.get 0 q.refusals p.target = min 0xFFFFFFFF (Map.get 0 p.refusals p.target + 1)
    ∧ q.log = Map.set p.log p.logNext
        { source := refusingUnit d k, reason := why, mode := p.target, tick := d.nowAt 0x0B00 }
    ∧ q.logNext = (p.logNext + 1) % 16 := by
  intro p q
  have hq : q = rollBack d k why := refuseDomain_power d k why
  have hunfenced : unfenced (fencesGivenUp d k) k = unfenced d k := by
    simp only [unfenced, fencesGivenUp_portMode]
  rw [hq]
  refine ⟨rfl, rfl, rfl, rfl, fun _ hfree => ?_, fun e he hmode => ?_, ?_, rfl, rfl⟩
  · simp only [rollBack, hunfenced, unfenced_iff.mpr hfree, if_true]
  · simp only [rollBack, hunfenced, unfenced_false he hmode, Bool.false_eq_true, if_false]
  · simp [rollBack, satAdd, p]

end

end Sys2Proof.Machine
end

section
/-! PROOF. Wake edges, and adaptive voltage (R408, R409, R411). -/

namespace Sys2Proof.Machine

section
variable {img : Img} {d : Dyn}

/-! ### Wake (R408) -/

theorem wakeEdge_nap {pin : Nat} {rising : Bool} (hstate : d.dst.state = .service) (hnap : d.power.current = 2)
    (hwakes : wakes img pin rising 0 = true) : wakeEdge img d pin rising = placeRequest img d d.power.beforeNap := by
  simp [wakeEdge, hstate, hnap, hwakes]

theorem wakeEdge_deepsleep {pin : Nat} {rising : Bool} (hstate : d.dst.state = .deepsleep)
    (hnot : d.dst.waking = false) (hwakes : wakes img pin rising 1 = true) : wakeEdge img d pin rising
      = { d with dst := { d.dst with mainEn := true, waking := true, vioUp := true } } := by
  simp [wakeEdge, hstate, hnot, hwakes]

theorem wakeEdge_becomes {s : State} {pin : Fin 32} {rising : Bool} {e : Dyn} (hpins : pinsTaken s.dyn = false)
    (h : wakeEdge s.img s.dyn pin.val rising = e) : Becomes (exec (.wakeEdge pin rising) s) s e := by
  change Becomes (execWakeEdge pin rising s) s e
  simp only [Becomes, execWakeEdge, actAon, hpins, Bool.false_eq_true, if_false, h]

section
variable {s : State} {vcore : Nat} (hstate : s.dyn.dst.state = .deepsleep) (hwaking : s.dyn.dst.waking = true)
include hstate hwaking

theorem deepsleepWakeCheck_sleeps (h : vcore ≤ 600) : ∃ vio, Becomes (exec (.deepsleepWakeCheck vcore) s) s
    { s.dyn with dst := { s.dyn.dst with mainEn := false, waking := false, vioUp := vio }, free := s.dyn.free + 1 } := by
  refine ⟨Config.freeValue s.dyn.free % 2 == 1, ?_⟩
  change Becomes (execDeepsleepWakeCheck vcore s) s _
  refine actImg_becomes ?_
  dsimp only
  rw [if_pos (by simp [hstate, hwaking]), if_neg (Nat.not_lt.mpr h)]
  rfl

theorem deepsleepWakeCheck_starts (h : 600 < vcore) : exec (.deepsleepWakeCheck vcore) s
    = .next { s with img := Img.reset, dyn := islandReset s.dyn 3 true } := by
  change execDeepsleepWakeCheck vcore s = _
  simp [execDeepsleepWakeCheck, actImg, hstate, hwaking, h]

end

/-! ### The AVS target (R411) -/

/-- The target of one revision: towards the goal, by at most 5 mV. -/
def avsStep (now goal : Nat) : Nat := if now < goal then min goal (now + 5) else max goal (now - 5)

theorem avsStep_le (now goal : Nat) : avsStep now goal ≤ now + 5 := by
  unfold avsStep
  split <;> omega

theorem le_avsStep (now goal : Nat) : now ≤ avsStep now goal + 5 := by
  unfold avsStep
  split <;> omega

variable {tj : Int} {acked : BitVec 3} {fault : Bool} {mv : Nat}

theorem avsUpdate_writes (hfault : d.power.avsFault = false) (hlimits : avsLimits img ≠ some (0, 0))
    (hpassed : 1966080 ≤ d.now - d.power.avsAt) : avsUpdate img d tj acked fault mv
      = avsWrite img d (avsStep d.power.avsTarget (avsGoal img tj)) acked fault mv := by
  have hon : avsOff img = false := by simp [avsOff, hlimits]
  simp only [avsUpdate, hon, hfault, msPassed, Nat.one_mul, decide_eq_true hpassed]
  rfl

theorem avsUpdate_stands (h : d.power.avsFault = true ∨ avsLimits img = some (0, 0)
    ∨ d.now - d.power.avsAt < 1966080) : avsUpdate img d tj acked fault mv = d := by
  rcases h with h | h | h
  · simp [avsUpdate, h]
  · simp [avsUpdate, avsOff, h]
  · simp only [avsUpdate, msPassed, Nat.one_mul, decide_eq_false (Nat.not_le.mpr h), Bool.not_false, Bool.or_true, if_true]

/-- The three transactions of a revision: those without acknowledgement in a row, and whether three were. -/
def avsRun (d : Dyn) (acked : BitVec 3) : Nat × Bool :=
  ackRun d.power.noAck [acked.getLsbD 0, acked.getLsbD 1, acked.getLsbD 2]

/-- What the transactions leave in the power controller, but for the rail they went to. -/
def avsWritten (d : Dyn) (target rail : Nat) (acked : BitVec 3) (fault : Bool) (mv : Nat) : PowerSt := { d.power with
  avsTarget := target, vout := if acked.getLsbD 1 then mv else d.power.vout, noAck := (avsRun d acked).1
  avsRail := rail, avsAt := d.now, avsFault := (avsRun d acked).2 || (fault && acked.getLsbD 2) }

/-- AVS_FAULT is reported where the transactions leave it. -/
def avsReported (d : Dyn) : Dyn := if d.power.avsFault then event d 0x0B00 7 0x0B85 [] else d

@[simp] theorem avsReported_power (d : Dyn) : (avsReported d).power = d.power := by
  unfold avsReported
  split
  · exact issue_power ..
  · rfl

@[simp] theorem avsReported_free (d : Dyn) : (avsReported d).free = d.free := by
  unfold avsReported
  split
  · exact issue_free ..
  · rfl

/-- With the policy's limits the transactions go to the policy's rail. -/
theorem avsWrite_policy (target : Nat) (h : avsLimits img ≠ none) : avsWrite img d target acked fault mv
    = avsReported (d.onPower (fun _ => avsWritten d target (boardField img 8 1) acked fault mv)) := by
  simp only [avsWrite, Option.isSome_iff_ne_none.mpr h]
  rfl

/-- Before an image is loaded the rail is a free value (log 85). -/
theorem avsWrite_noPolicy (target : Nat) (h : avsLimits img = none) : ∃ rail, avsWrite img d target acked fault mv
    = avsReported ({ d with free := d.free + 1 }.onPower (fun _ => avsWritten d target rail acked fault mv)) := by
  refine ⟨Config.freeValue d.free % 16, ?_⟩
  simp only [avsWrite, h]
  rfl

theorem avsWrite_power (target : Nat) : ∃ rail, (avsWrite img d target acked fault mv).power
      = avsWritten d target rail acked fault mv
    ∧ (avsLimits img ≠ none → rail = boardField img 8 1 ∧ (avsWrite img d target acked fault mv).free = d.free) := by
  by_cases h : avsLimits img = none
  · obtain ⟨rail, hwrite⟩ := avsWrite_noPolicy (d := d) (acked := acked) (fault := fault) (mv := mv) target h
    exact ⟨rail, by rw [hwrite, avsReported_power]; rfl, fun hnot => absurd h hnot⟩
  · rw [avsWrite_policy target h]
    exact ⟨_, avsReported_power _, fun _ => ⟨rfl, avsReported_free _⟩⟩

theorem avsRun_acked : avsRun d 7#3 = (0, false) := rfl

theorem avsRun_silent : avsRun d 0#3 = (d.power.noAck + 3, true) := by
  simp [avsRun, ackRun]

theorem avsRun_status : avsRun d 4#3 = (0, decide (1 ≤ d.power.noAck)) := by
  simp [avsRun, ackRun]
  omega

end

/-! ### The commands -/

section
variable {s : State} {d : Dyn} (hup : islandUp s.dyn = true)
include hup

theorem domainAgree_becomes (h : domainAgree s.img s.dyn = d) : Becomes (exec .domainAgree s) s d := by
  change Becomes (execDomainAgree s) s d
  exact act_becomes hup h

theorem domainRefused_becomes {reason : Fin 4} (h : domainRefused s.img s.dyn reason.val = d) :
    Becomes (exec (.domainRefused reason) s) s d := by
  change Becomes (execDomainRefused reason s) s d
  exact act_becomes hup h

theorem quiesce_goesOn {r : BitVec 6} : Becomes (exec (.quiesce r) s) s
    (refusalReleased (riseReleased s.img (leaveFenced s.img (acceptAgain s.img s.dyn r.toNat)))) := by
  change Becomes (execQuiesce r s) s _
  exact act_becomes hup rfl

theorem powerGood_becomes (h : powerGood s.img s.dyn = d) : Becomes (exec .powerGood s) s d := by
  change Becomes (execPowerGood s) s d
  exact act_becomes hup h

theorem powerGoodFail_becomes (h : powerGoodFail s.dyn = d) : Becomes (exec .powerGoodFail s) s d := by
  change Becomes (execPowerGoodFail s) s d
  exact act_becomes hup h

theorem vcoreWarning_becomes : Becomes (exec .vcoreWarning s) s
    (event (s.dyn.onPower (fun x => { x with brown := true })) 0x0B00 7 0x0B84 []) := by
  change Becomes (execVcoreWarning s) s _
  exact act_becomes hup rfl

theorem avsUpdate_becomes {tj : Int} {acked : BitVec 3} {fault : Bool} {mv : Half}
    (h : avsUpdate s.img s.dyn tj acked fault mv.toNat = d) : Becomes (exec (.avsUpdate tj acked fault mv) s) s d := by
  change Becomes (execAvsUpdate tj acked fault mv s) s d
  exact act_becomes hup h

end

end Sys2Proof.Machine
end

section
open Sys2Proof Sys2Proof.Machine

/-- Settles O51: requests by `powerRequest_asks`, the steps of a change by the domain that leaves, rises or refuses, a
refusal by `refuseDomain_rollsBack`, the AVS target by `avsWrite_power`. -/
theorem powerCommands : Obligations.PowerCommands := by
  unfold Obligations.PowerCommands
  refine ⟨?requests, ?steps⟩
  case requests =>
    intro m s hup p asks
    exact ⟨fun h => ⟨(powerMaster_low m (by decide)).trans h, (powerMaster_low m (by decide)).trans h⟩,
      fun h => (powerMaster_nap m).trans h, powerMaster_deepsleep,
      powerRequest_asks hup rfl, powerRequest_asks hup rfl, powerRequest_asks hup rfl, powerRequest_asks hup rfl⟩
  case steps =>
    intro reason pin rising fault acked tj mv vcore s d p does
    refine ⟨fun hup => ⟨?leaving,
        fun h => ⟨domainAgree_becomes hup (domainAgree_none h), domainRefused_becomes hup (domainRefused_none _ h)⟩,
        fun r => quiesce_goesOn hup, fun k h => ⟨refusalReleased_goesOn h,
          fun e he hmode => ⟨refusalReleased_stands h he hmode, goOn_releasing 4 h⟩⟩, ?rising,
        fun h => ⟨powerGood_becomes hup (powerGood_none h), powerGoodFail_becomes hup (powerGoodFail_none h)⟩,
        vcoreWarning_becomes hup, ?avs, fun h => avsUpdate_becomes hup (avsUpdate_stands h)⟩,
      fun hpins => ⟨fun hstate hnap hwakes => wakeEdge_becomes hpins (wakeEdge_nap hstate hnap hwakes),
        fun hstate hwaking hwakes => wakeEdge_becomes hpins (wakeEdge_deepsleep hstate hwaking hwakes)⟩,
      fun hstate hwaking => ⟨deepsleepWakeCheck_sleeps hstate hwaking, deepsleepWakeCheck_starts hstate hwaking⟩,
      fun k why => refuseDomain_rollsBack d k why⟩
    case leaving =>
      intro k since h
      refine ⟨fun hidle hnot => domainAgree_becomes hup (domainAgree_orders h hidle hnot),
        fun hidle hfencing => domainAgree_becomes hup (domainAgree_goesOn h hidle hfencing),
        leaveFenced_leaves h, fun e he hnot => leaveFenced_stands h he hnot,
        fun hbusy => domainAgree_becomes hup (domainAgree_busy h hbusy), ?_, ?_⟩
      · rintro e c rest rfl hfencing he hmode hl hslot hfence hrun hlate
        exact domainRefused_becomes hup
          (domainRefused_late h hfencing he (fenceLate_drains hmode hl hslot hfence hrun hlate))
      · rintro rfl hbusy hlate
        exact domainRefused_becomes hup (domainRefused_busy h hbusy hlate)
    case rising =>
      intro k since h
      refine ⟨fun hgood hintime => ?_, fun _ hlate => powerGood_becomes hup (powerGood_late h hlate),
        fun hgood hlate => powerGoodFail_becomes hup (powerGoodFail_fails h hgood hlate),
        fun hintime => powerGoodFail_becomes hup (powerGoodFail_waits h hintime),
        fun at_ hgood => ⟨powerGood_becomes hup (powerGood_again h hgood),
          powerGoodFail_becomes hup (powerGoodFail_good h hgood), copyWord_waits h hgood, copyWord_copies h hgood⟩,
        riseReleased_rises h, fun e he hmode => riseReleased_fenced h he hmode, riseReleased_notCopied h⟩
      obtain ⟨wait, hwait, hsignal⟩ := powerGood_signals (img := s.img) h hgood hintime
      exact ⟨wait, hwait, powerGood_becomes hup hsignal⟩
    case avs =>
      intro hfault hlimits hpassed
      obtain ⟨rail, hpower, hpolicy⟩ := avsWrite_power (img := s.img) (d := d) (acked := acked) (fault := fault)
        (mv := mv.toNat) (avsStep p.avsTarget (avsGoal s.img tj))
      refine ⟨_, avsUpdate_becomes hup (avsUpdate_writes hfault hlimits hpassed), ?_⟩
      dsimp only
      rw [hpower]
      refine ⟨avsStep_le .., le_avsStep .., rfl, hpolicy, rfl, ?_, ?_, ?_⟩
      · rintro rfl
        simp [avsWritten, avsRun_acked]
      · rintro rfl
        simp [avsWritten, avsRun_silent, p]
      · rintro rfl
        simp [avsWritten, avsRun_status, p, Bool.or_comm]

end

section
/-! PROOF. An access over the fabric, undisturbed by its sender's own requests (R318 to R330; log 131): what goes
before its packets carries others, and memory changes where the request is performed alone. -/

namespace Sys2Proof.Machine

/-! ### Endpoints -/

theorem endpointOf_lt {s e : Nat} (h : endpointOf s = some e) : e < 256 := by
  unfold endpointOf routerAt tileRouter routerAt at h
  dsimp only at h
  repeat' split at h
  all_goals cases h
  all_goals omega

theorem endpoint_getD_lt (s : Nat) : (endpointOf s).getD 0 < 256 := by
  cases h : endpointOf s with
  | none => decide
  | some e => exact endpointOf_lt h

/-! ### Carrying packets -/

/-- A request of an endpoint waits at its regulator or is under way. -/
def HasRequest (d : Dyn) (b : Byte) : Prop := ∃ p ∈ d.fab.waiting ++ d.fab.inflight, p.resp = false ∧ p.src = b

/-- The fabric carries packets that it holds: it, the counters and the model's free values change, no port's mode nor
a router's changes do, and no request is new. -/
structure Carries (d e : Dyn) : Prop where
  same : e = { d with fab := e.fab, perf := e.perf, free := e.free }
  modes : e.fab.modes = d.fab.modes
  changes : e.fab.changes = d.fab.changes
  requests : ∀ b, HasRequest e b → HasRequest d b

namespace Carries

theorem refl (d : Dyn) : Carries d d := ⟨rfl, rfl, rfl, fun _ h => h⟩

section
variable {d e f : Dyn} (h : Carries d e)
include h

theorem trans (g : Carries e f) : Carries d f := by
  refine ⟨?_, g.modes.trans h.modes, g.changes.trans h.changes, fun b hb => h.requests b (g.requests b hb)⟩
  rw [g.same, h.same]

theorem mem : e.mem = d.mem := by rw [h.same]
theorem dst : e.dst = d.dst := by rw [h.same]
theorem disp : e.disp = d.disp := by rw [h.same]
theorem cores : e.cores = d.cores := by rw [h.same]
theorem lanes : e.lanes = d.lanes := by rw [h.same]

theorem portMode (x : Nat) : e.portMode x = d.portMode x := by simp only [Dyn.portMode, h.modes]

theorem routeOpen (route : List Nat) : routeOpen e route = routeOpen d route := by
  simp only [Machine.routeOpen, Dyn.runningChange, Dyn.changes, h.changes]

end

theorem foldl {α : Type} {f : Dyn → α → Dyn} (hf : ∀ d a, Carries d (f d a)) (l : List α) (d : Dyn) :
    Carries d (l.foldl f d) :=
  l.foldlRecOn f (motive := Carries d) (refl d) (fun _ he a _ => he.trans (hf _ a))

/-- A change of the fabric whose requests are among those of `d`. -/
theorem onFab_requests {d e : Dyn} (h : Carries d e) {f : FabSt → FabSt} (hmodes : (f e.fab).modes = e.fab.modes)
    (hchanges : (f e.fab).changes = e.fab.changes)
    (hrequests : ∀ p ∈ (f e.fab).waiting ++ (f e.fab).inflight, p.resp = false → HasRequest d p.src) :
    Carries d (e.onFab f) := by
  refine ⟨?_, hmodes.trans h.modes, hchanges.trans h.changes, ?_⟩
  · rw [h.same]
    rfl
  · rintro b ⟨p, hp, hresp, rfl⟩
    exact hrequests p hp hresp

/-- The requests that the fabric holds in `e` are among those of `d`. -/
theorem request {d e : Dyn} (h : Carries d e) {p : Packet} (hp : p ∈ e.fab.waiting ++ e.fab.inflight)
    (hresp : p.resp = false) : HasRequest d p.src := h.requests _ ⟨p, hp, hresp, rfl⟩

/-- The fabric's own counts and its lists of what is tracked and delivered. -/
theorem onFab {d : Dyn} {f : FabSt → FabSt} (hmodes : (f d.fab).modes = d.fab.modes)
    (hchanges : (f d.fab).changes = d.fab.changes) (hwaiting : (f d.fab).waiting = d.fab.waiting)
    (hinflight : (f d.fab).inflight = d.fab.inflight) : Carries d (d.onFab f) :=
  onFab_requests (refl d) hmodes hchanges (fun p hp hresp => ⟨p, by rwa [hwaiting, hinflight] at hp, hresp, rfl⟩)

theorem countEv (d : Dyn) (u e n : Nat) (i : EvInfo) : Carries d (countEv d u e n i) := by
  refine ⟨?_, by rw [countEv_fab], by rw [countEv_fab], fun b h => by simpa only [HasRequest, countEv_fab] using h⟩
  rw [countEv_fab]
  exact countEv_only ..

theorem spend (img : Img) (d : Dyn) (e c n : Nat) : Carries d (spend img d e c n) := by
  unfold Machine.spend
  split
  · exact refl d
  · exact onFab (d := d) (f := fun x => { x with buckets := _ }) rfl rfl rfl rfl

theorem countAbsorbed (d : Dyn) (e : Nat) : Carries d (countAbsorbed d e) :=
  onFab (d := d) (f := fun x => { x with absorbed := _ }) rfl rfl rfl rfl

theorem noteAnswered (d : Dyn) (s e : Nat) : Carries d (noteAnswered d s e) :=
  onFab (d := d) (f := fun x => { x with silent := _ }) rfl rfl rfl rfl

theorem deliver (p : Packet) (d : Dyn) : Carries d (deliver p d) := onFab rfl rfl rfl rfl

theorem countCrc (d : Dyn) (e : Nat) : Carries d (countCrc d e) := onFab rfl rfl rfl rfl

theorem track (p : Packet) (d : Dyn) : Carries d (track p d) := by
  unfold Machine.track
  split
  · exact refl d
  · exact onFab rfl rfl rfl rfl

theorem passAlone (p : Packet) (d : Dyn) : Carries d (d.onFab (passAlone p)) := by
  unfold Machine.passAlone
  cases h : passOutputs p [p] ((outputsOf p).map (·.1)) d.fab.arbiters with
  | none => exact onFab (by simp [h]) (by simp [h]) (by simp [h]) (by simp [h])
  | some m => exact onFab (by simp [h]) (by simp [h]) (by simp [h]) (by simp [h])

theorem eject (d : Dyn) (p : Packet) : Carries d (eject d p) := countEv ..

theorem cross (d : Dyn) (p : Packet) : Carries d (cross d p) := (passAlone p d).trans (countEv ..)

/-! ### What goes before a packet of an access -/

/-- A packet that was waiting, or any response, leaves its endpoint. -/
theorem launch {d e : Dyn} {p : Packet} (h : Carries d e) (hp : p.resp = false → HasRequest d p.src) :
    Carries d (launch p e) := by
  unfold Machine.launch
  dsimp only
  split
  · exact h.trans (countAbsorbed ..)
  · have hcount := h.trans (countEv e (routerSource p.src.toNat) 0x0600 (packetLen p) (packetInfo p))
    refine onFab_requests hcount rfl rfl (fun q hq hresp => ?_)
    rcases List.mem_append.mp hq with hq | hq
    · exact hcount.request (List.mem_append_left _ hq) hresp
    · rcases List.mem_append.mp hq with hq | hq
      · exact hcount.request (List.mem_append_right _ hq) hresp
      · obtain rfl := List.mem_singleton.mp hq
        exact hp hresp

/-- The packets that wait before one enter the fabric: all that they ask for was asked. -/
theorem sendWaiting (img : Img) (d : Dyn) (p : Packet) : Carries d (sendWaiting img d p) := by
  refine List.foldlRecOn _ _ (motive := Carries d) (refl d) (fun e he q hq => ?_)
  have hwaits : q ∈ d.fab.waiting := (List.mem_filter.mp hq).1
  have hspent : Carries d (Machine.spend img e q.src.toNat q.cls.toNat (packetLen q)) := he.trans (spend ..)
  refine launch ((onFab_requests hspent rfl rfl (fun x hx hresp => ?_)).trans (track q _))
    (fun hresp => ⟨q, List.mem_append_left _ hwaits, hresp, rfl⟩)
  rcases List.mem_append.mp hx with hx | hx
  · exact hspent.request (List.mem_append_left _ (List.mem_of_mem_erase hx)) hresp
  · exact hspent.request (List.mem_append_right _ hx) hresp

theorem arriveResponse (d : Dyn) (p : Packet) : Carries d (arriveResponse d p) := by
  unfold Machine.arriveResponse
  dsimp only
  split
  · exact countAbsorbed ..
  · refine (countEv d (routerSource p.dest.toNat) 0x0601 (packetLen p) (packetInfo p)).trans ?_
    generalize Machine.countEv d (routerSource p.dest.toNat) 0x0601 (packetLen p) (packetInfo p) = d1
    split
    · exact refl _
    · generalize h2 : d1.onFab _ = d2
      have h12 : Carries d1 d2 := h2 ▸ onFab rfl rfl rfl rfl
      refine h12.trans ?_
      split
      · exact onFab rfl rfl rfl rfl
      · have h23 : Carries d2 (if fromRouter p then d2 else Machine.noteAnswered d2 p.dest.toNat p.src.toNat) := by
          split
          · exact refl d2
          · exact noteAnswered ..
        split
        · exact h23.trans (deliver ..)
        · exact (h23.trans (countCrc ..)).trans (deliver ..)

/-- A response under way arrives, which no target serves. -/
theorem landFirst (serve : Target) (img : Img) {p : Packet} (hp : p.resp = true) (d : Dyn) :
    Carries d (landFirst serve img p d) := by
  unfold Machine.landFirst
  split
  · exact refl d
  · rename_i q hq
    have hresp : q.resp = true := by
      have hflow := List.find?_some hq
      simp only [sameFlow, hp, Bool.and_eq_true, beq_iff_eq] at hflow
      exact hflow.2.symm
    split
    · exact refl d
    · unfold arriveAt
      rw [if_pos hresp]
      refine Carries.trans ?_ (arriveResponse ..)
      refine Carries.trans (e := d.onFab (fun f => { f with inflight := f.inflight.erase q })) ?_ (passAlone q _)
      refine onFab_requests (refl d) rfl rfl (fun x hx hxresp => ?_)
      rcases List.mem_append.mp hx with hx | hx
      · exact ⟨x, List.mem_append_left _ hx, hxresp, rfl⟩
      · exact ⟨x, List.mem_append_right _ (List.mem_of_mem_erase hx), hxresp, rfl⟩

/-- A response enters the fabric behind responses alone. -/
theorem enter_response (serve : Target) (img : Img) (d : Dyn) {p : Packet} (hp : p.resp = true) :
    Carries d (enter serve img d p) :=
  ((sendWaiting img d p).trans (foldl (fun d _ => landFirst serve img hp d) _ _)).trans (spend ..)

/-- A request enters the fabric behind no other, where its endpoint has none waiting or under way (log 131). -/
theorem enter_request (serve : Target) (img : Img) (d : Dyn) {p : Packet} (hp : p.resp = false)
    (hfree : ¬ HasRequest d p.src) : Carries d (enter serve img d p) := by
  have hsent := sendWaiting img d p
  have hnone : (Machine.sendWaiting img d p).fab.inflight.filter (sameFlow p) = [] := by
    refine List.filter_eq_nil_iff.mpr (fun q hq hflow => hfree (hsent.requests _ ⟨q, List.mem_append_right _ hq, ?_⟩))
    simp only [sameFlow, hp, Bool.and_eq_true, beq_iff_eq] at hflow
    exact ⟨hflow.2.symm, hflow.1.1.1.symm⟩
  have hland : landFlow serve img (Machine.sendWaiting img d p) p = Machine.sendWaiting img d p := by
    rw [landFlow, hnone, List.foldl_nil]
  rw [enter, hland]
  exact hsent.trans (spend ..)

end Carries

/-! ### A machine whose memory stands -/

/-- Memory stands, and no request is new. -/
structure Passes (d e : Dyn) : Prop where
  mem : e.mem = d.mem
  requests : ∀ b, HasRequest e b → HasRequest d b

namespace Passes

theorem refl (d : Dyn) : Passes d d := ⟨rfl, fun _ h => h⟩

theorem trans {d e f : Dyn} (h : Passes d e) (g : Passes e f) : Passes d f :=
  ⟨g.mem.trans h.mem, fun b hb => h.requests b (g.requests b hb)⟩

theorem of_carries {d e : Dyn} (h : Carries d e) : Passes d e := ⟨h.mem, h.requests⟩

theorem foldl {α : Type} {f : Dyn → α → Dyn} (hf : ∀ d a, Passes d (f d a)) (l : List α) (d : Dyn) :
    Passes d (l.foldl f d) :=
  l.foldlRecOn f (motive := Passes d) (refl d) (fun _ he a _ => he.trans (hf _ a))

/-- What leaves memory and the packets in the fabric as they are. -/
theorem of_fab {d e : Dyn} (hmem : e.mem = d.mem) (hwaiting : e.fab.waiting = d.fab.waiting)
    (hinflight : e.fab.inflight = d.fab.inflight) : Passes d e :=
  ⟨hmem, fun _ ⟨p, hp, h⟩ => ⟨p, by rwa [hwaiting, hinflight] at hp, h⟩⟩

theorem event (d : Dyn) (src cls code : Nat) (l : List Byte) : Passes d (event d src cls code l) :=
  of_fab (issue_mem ..) (congrArg FabSt.waiting (issue_fab ..)) (congrArg FabSt.inflight (issue_fab ..))

theorem setUnits (l : List Nat) (f : UnitSt → UnitSt) (d : Dyn) :
    Passes d (l.foldl (fun d u => d.setUnit u f) d) :=
  foldl (f := fun d u => d.setUnit u f) (fun _ _ => of_fab rfl rfl rfl) l d

theorem applyMode (d : Dyn) (e mode : Nat) : Passes d (applyMode d e mode) := by
  unfold Machine.applyMode
  dsimp only
  split
  · exact refl d
  · split
    · refine .trans ?_ (setUnits _ (fun x => { x with isolated := true }) _)
      exact of_fab rfl rfl rfl
    · split
      · refine .trans (.trans ?_ (setUnits _ (fun x => { x with isolated := false }) _)) (of_fab rfl rfl rfl)
        split <;> exact of_fab rfl rfl rfl
      · split <;> exact of_fab rfl rfl rfl

theorem acceptAgain (img : Img) (d : Dyn) (r : Nat) : Passes d (acceptAgain img d r) := by
  unfold Machine.acceptAgain
  split
  · exact refl d
  · split
    · unfold quiesceLimit
      split
      · exact refl d
      · split
        · refine .trans ?_ (event ..)
          exact of_fab rfl rfl rfl
        · exact refl d
    · unfold quiesce
      split
      · exact refl d
      · exact (applyMode ..).trans (of_fab rfl rfl rfl)

theorem noteTimeout (d : Dyn) (s e u : Nat) : Passes d (noteTimeout d s e u) := by
  unfold Machine.noteTimeout
  dsimp only
  split <;> exact of_fab rfl rfl rfl

theorem countAsleep (d : Dyn) (e : Nat) : Passes d (countAsleep d e) := of_fab rfl rfl rfl

theorem routerAnswers (d : Dyn) (q : Packet) (r : Resp) : Passes d (routerAnswers d q r).1 :=
  of_carries ((Carries.passAlone _ d).trans (.eject ..))

end Passes

/-! ### An exchange -/

/-- An exchange changes memory where its request is performed, if it is, and nowhere else. -/
theorem exchange_passes (serve : Target) (img : Img) (d : Dyn) {q : Packet} {act : Dyn → Dyn × Resp}
    (hq : q.resp = false) (hfree : ¬ HasRequest d q.src) :
    ∃ e, Passes d e ∧ (Passes e (exchange serve img d q act).1 ∨ Passes (act e).1 (exchange serve img d q act).1) := by
  have haccepted : Passes d ((routeOf q.src.toNat q.dest.toNat ++ routeOf q.dest.toNat q.src.toNat).foldl
      (acceptAgain img) d) := .foldl (fun d r => .acceptAgain img d r) _ d
  unfold exchange
  dsimp only
  generalize (routeOf q.src.toNat q.dest.toNat ++ routeOf q.dest.toNat q.src.toNat).foldl (acceptAgain img) d = d0
    at haccepted
  have hentered : Passes d (enter serve img d0 q) :=
    haccepted.trans (.of_carries (.enter_request serve img d0 hq (mt (haccepted.requests _) hfree)))
  generalize enter serve img d0 q = d1 at hentered
  split
  · exact ⟨d1, hentered, .inl (.trans (.of_carries (.countAbsorbed ..)) (.noteTimeout ..))⟩
  · have hcrossed : Passes d (cross d1 q) := hentered.trans (.of_carries (.cross ..))
    generalize cross d1 q = d2 at hcrossed
    split
    · exact ⟨eject d2 q, hcrossed.trans (.of_carries (.eject ..)), .inr (.of_carries
        (((Carries.enter_response serve img _ rfl).trans (.cross ..)).trans ((Carries.eject ..).trans
          (.noteAnswered ..))))⟩
    · exact ⟨d2, hcrossed, .inl (.trans (.countAsleep ..) (.routerAnswers ..))⟩
    · exact ⟨d2, hcrossed, .inl (.trans (.of_carries (.countAbsorbed ..)) (.routerAnswers ..))⟩
    · exact ⟨d2, hcrossed, .inl (.routerAnswers ..)⟩

/-- An exchange between two ports that answer, along a way on which no router drains: others' packets are carried, and
the request is performed. -/
theorem exchange_performs (serve : Target) (img : Img) (d : Dyn) {q : Packet} {act : Dyn → Dyn × Resp}
    (hq : q.resp = false) (hfree : ¬ HasRequest d q.src) (hdest : d.portMode q.dest.toNat = 0)
    (hsrc : d.portMode q.src.toNat = 0)
    (hopen : routeOpen d (routeOf q.src.toNat q.dest.toNat ++ routeOf q.dest.toNat q.src.toNat) = true) :
    ∃ e, Carries d e ∧ Carries (act e).1 (exchange serve img d q act).1
      ∧ (exchange serve img d q act).2 = (act e).2 := by
  have haccepted : (routeOf q.src.toNat q.dest.toNat ++ routeOf q.dest.toNat q.src.toNat).foldl (acceptAgain img) d
      = d := by
    refine List.foldlRecOn _ _ (motive := (· = d)) rfl (fun e he r hr => ?_)
    subst he
    have hidle := List.all_eq_true.mp hopen r hr
    simp only [acceptAgain, Option.isNone_iff_eq_none.mp hidle]
  have hentered : Carries d (enter serve img d q) := .enter_request serve img d hq hfree
  unfold exchange
  dsimp only
  rw [haccepted]
  generalize enter serve img d q = d1 at hentered
  rw [if_neg (by rw [hentered.portMode, hsrc]; decide)]
  have hcrossed : Carries d (cross d1 q) := hentered.trans (.cross ..)
  generalize cross d1 q = d2 at hcrossed
  rw [hcrossed.portMode, hdest]
  exact ⟨eject d2 q, hcrossed.trans (.eject ..), ((Carries.enter_response serve img _ rfl).trans (.cross ..)).trans
    ((Carries.eject ..).trans (.noteAnswered ..)), rfl⟩

end Sys2Proof.Machine
end

section
/-! PROOF. What a memory unit does to its bytes and their check bits (R343, R344, R347). -/

namespace Sys2Proof.Machine

/-! ### Check bits -/

@[simp] theorem code_setCode (d : Dyn) (base k : Nat) (c : BlockCode) :
    (d.setCode base c).code k = if k = base then c else d.code k := by
  simp only [Dyn.code, Dyn.setCode, Map.get_set]
  rfl

theorem code_congr {d e : Dyn} (h : e.mem = d.mem) (k : Nat) : e.code k = d.code k := by
  simp only [Dyn.code, Dyn.blockCoded, h]
  rfl

/-- Bytes are put where they belong. -/
def putBytes (d : Dyn) (a : Nat) (l : List Byte) : Dyn :=
  { d with mem := { d.mem with cells := Memory.writeN d.mem.cells a l } }

@[simp] theorem putBytes_code (d : Dyn) (a k : Nat) (l : List Byte) : (putBytes d a l).code k = d.code k := rfl

/-! ### What a unit counts and reports -/

/-- The machine counts, reports and raises conditions, and memory's bytes and check bits stand. -/
def Reports (d e : Dyn) : Prop :=
  e = { d with rep := e.rep, perf := e.perf, disp := e.disp, free := e.free,
               mem := { d.mem with units := e.mem.units } }

namespace Reports

theorem refl (d : Dyn) : Reports d d := rfl

section
variable {d e f : Dyn} (h : Reports d e)
include h

theorem trans (g : Reports e f) : Reports d f := by
  unfold Reports at *
  rw [g, h]

theorem cells : e.mem.cells = d.mem.cells := by rw [h]

theorem fab : e.fab = d.fab := by rw [h]

theorem code (k : Nat) : e.code k = d.code k := by
  rw [h]
  rfl

end

theorem ite {c : Prop} [Decidable c] {d e f : Dyn} (h : Reports d e) (g : Reports d f) :
    Reports d (if c then e else f) := by
  split
  · exact h
  · exact g

theorem countEv (d : Dyn) (u e n : Nat) (i : EvInfo) : Reports d (countEv d u e n i) := by
  unfold Reports
  rw [countEv_only]

theorem event (d : Dyn) (src cls code : Nat) (l : List Byte) : Reports d (event d src cls code l) := by
  unfold Reports
  rw [event_only]

theorem setMemUnit (d : Dyn) (u : Nat) (f : MemUnit → MemUnit) : Reports d (d.setMemUnit u f) := rfl

theorem raiseUnit (d : Dyn) (u cond a x : Nat) : Reports d (raiseUnit d u cond a x) := rfl

theorem bucketAdd (img : Img) (d : Dyn) (u n : Nat) : Reports d (bucketAdd img d u n) := .ite rfl rfl

theorem noteCorrected (img : Img) (d : Dyn) (u b r : Nat) : Reports d (noteCorrected img d u b r) := by
  refine .trans (.ite ?_ (setMemUnit ..)) (bucketAdd ..)
  refine .trans ?_ (event ..)
  rfl

/-- A block that becomes poisoned keeps its bytes and what it has of wrong bits. -/
theorem poisonBlock (img : Img) (d : Dyn) (u b r f : Nat) :
    Reports (d.setCode b { d.code b with p0 := true, p1 := true, p2 := true, raw := false })
      (poisonBlock img d u b r f) := by
  refine .trans (.ite ?_ ?_) (bucketAdd ..)
  · rfl
  · exact (setMemUnit ..).trans (event ..)

end Reports

/-! ### What a unit's steps keep -/

/-- A property that a unit keeps when it settles the block at `base`: its check bits become whole or keep what they
have of wrong bits, and where some are wrong a byte within 128 of its base may be corrected (R343). -/
structure KeptAt (I : Dyn → Prop) (base : Nat) : Prop where
  reports : ∀ {d e}, Reports d e → I d → I e
  code : ∀ {d} (c : BlockCode), (c.rows = 0 ∧ c.cols = 0) ∨ (c.rows = (d.code base).rows ∧ c.cols = (d.code base).cols) →
    I d → I (d.setCode base c)
  fix : ∀ {d} (k : Nat) (v : Byte), k < 128 → ¬ ((d.code base).rows = 0 ∧ (d.code base).cols = 0) → I d →
    I { d with mem := { d.mem with cells := Memory.write d.mem.cells (base + k) v } }

theorem maskBits_zero (n : Nat) : maskBits n 0 = [] := by
  simp [maskBits]

theorem mem_maskBits {n x i : Nat} : i ∈ maskBits n x ↔ i < n ∧ x.testBit i = true := by
  simp [maskBits]

theorem rowWidth_le (geom : Nat) : rowWidth geom ≤ 64 := by
  unfold rowWidth
  split <;> decide

/-- A bit that decoding corrects lies in the block's 128 bytes, and the block has a wrong bit. -/
theorem decodeBlock_fixBit {geom i : Nat} {c : BlockCode} (h : decodeBlock geom c = .fixBit i) :
    i / 8 < 128 ∧ ¬ (c.rows = 0 ∧ c.cols = 0) := by
  unfold decodeBlock at h
  dsimp only at h
  split at h
  all_goals cases h
  rename_i r k hr hk
  have hrow : r < 16 := (mem_maskBits.mp (hr ▸ List.mem_singleton_self r)).1
  have hcol : k < 64 := (mem_maskBits.mp (hk ▸ List.mem_singleton_self k)).1
  refine ⟨?_, fun hclean => ?_⟩
  · have hle : r * rowWidth geom ≤ 15 * 64 := Nat.mul_le_mul (by omega) (rowWidth_le geom)
    omega
  · rw [hclean.1, maskBits_zero] at hr
    cases hr

section
variable {I : Dyn → Prop} {base : Nat} {img : Img} {unit : Nat}

theorem KeptAt.poisonBlock (h : KeptAt I base) {d : Dyn} (region finder : Nat) (hd : I d) :
    I (poisonBlock img d unit base region finder) :=
  h.reports (.poisonBlock ..) (h.code _ (.inr ⟨rfl, rfl⟩) hd)

/-- The flag's three copies agree again (R339). -/
def BlockCode.mended (c : BlockCode) : BlockCode := { c with p0 := c.poisoned, p1 := c.poisoned, p2 := c.poisoned }

/-- Decoding a block whose check bits `c0` were written and whose flag's copies agree (R343, Table 13.3). -/
def settleCode (img : Img) (d0 : Dyn) (unit base finder : Nat) (r : RegionInfo) (c0 : BlockCode) (split : Bool) :
    Dyn × Nat :=
  if c0.poisoned then (d0, 4)
  else match decodeBlock r.geom c0 with
    | .clean => (d0, if split then 1 else 0)
    | .fixBit i =>
      let old := Memory.read d0.mem.cells (base + i / 8)
      let d1 := { d0 with mem := { d0.mem with
        cells := Memory.write d0.mem.cells (base + i / 8) (old ^^^ BitVec.ofNat 8 (2 ^ (i % 8))) } }
      (noteCorrected img (d1.setCode base { c0 with rows := 0, cols := 0 }) unit base r.num, 1)
    | .fixCheck => (noteCorrected img (d0.setCode base { c0 with rows := 0, cols := 0 }) unit base r.num, 1)
    | .bad => (poisonBlock img d0 unit base r.num finder, 4)

theorem settleBlock_coded {d : Dyn} (finder : Nat) (r : RegionInfo) (hraw : (d.code base).raw = false) :
    settleBlock img d unit base finder r
      = if (d.code base).flagSplit then settleCode img
          (noteCorrected img (d.setCode base (d.code base).mended) unit base r.num) unit base finder r
          (d.code base).mended true
        else settleCode img d unit base finder r (d.code base) false := by
  unfold settleBlock
  dsimp only
  rw [if_neg (by simp [hraw])]
  by_cases hsplit : (d.code base).flagSplit = true
  · simp only [if_pos hsplit]
    rfl
  · simp only [if_neg hsplit]
    rfl

theorem KeptAt.settleCode (h : KeptAt I base) {d : Dyn} {c0 : BlockCode} (finder : Nat) (r : RegionInfo)
    (split : Bool) (hcode : d.code base = c0) (hd : I d) : I (settleCode img d unit base finder r c0 split).1 := by
  subst hcode
  unfold Machine.settleCode
  split
  · exact hd
  · split
    · exact hd
    · rename_i i hi
      obtain ⟨hbyte, hwrong⟩ := decodeBlock_fixBit hi
      exact h.reports (.noteCorrected ..) (h.code _ (.inl ⟨rfl, rfl⟩) (h.fix _ _ hbyte hwrong hd))
    · exact h.reports (.noteCorrected ..) (h.code _ (.inl ⟨rfl, rfl⟩) hd)
    · exact h.poisonBlock _ _ hd

theorem KeptAt.settleBlock (h : KeptAt I base) {d : Dyn} (finder : Nat) (r : RegionInfo) (hd : I d) :
    I (settleBlock img d unit base finder r).1 := by
  cases hraw : (d.code base).raw with
  | true =>
    unfold Machine.settleBlock
    rw [if_pos hraw]
    dsimp only
    split
    · exact h.code (d := (freshNat d).2) _ (.inl ⟨rfl, rfl⟩) (h.reports rfl hd)
    · exact h.poisonBlock (d := (freshNat d).2) _ _ (h.reports rfl hd)
  | false =>
    rw [settleBlock_coded finder r hraw]
    split
    · have hreports := Reports.noteCorrected img (d.setCode base (d.code base).mended) unit base r.num
      have hcode := (hreports.code base).trans ((code_setCode ..).trans (if_pos rfl))
      exact h.settleCode _ _ _ hcode (h.reports hreports (h.code _ (.inr ⟨rfl, rfl⟩) hd))
    · exact h.settleCode _ _ _ rfl hd

/-! ### Reading and writing at a unit -/

theorem foldl_fst_keeps {α β : Type} {f : Dyn × β → α → Dyn × β} {l : List α}
    (hf : ∀ x ∈ l, ∀ a, I a.1 → I (f a x).1) {a : Dyn × β} (ha : I a.1) : I (l.foldl f a).1 :=
  l.foldlRecOn f (motive := fun a => I a.1) ha (fun a ha x hx => hf x hx a ha)

theorem unitRead_keeps {d : Dyn} {a n : Nat} {i : EvInfo} (h : ∀ geom, ∀ base ∈ blocksOf geom a n, KeptAt I base)
    (hd : I d) : I (unitRead img d unit a n i).1 := by
  unfold unitRead
  split
  · exact hd
  · rename_i r _
    change I (List.foldl _ ((d, 0) : Dyn × Nat) _).1
    refine foldl_fst_keeps (a := (d, 0)) (fun base hbase x hx => ?_) hd
    exact (h _ base hbase).settleBlock 0 r ((h _ base hbase).reports (.countEv ..) hx)

/-- Some bytes lie within `n` from `a` up. -/
def Within (a n lo len : Nat) : Prop := ∀ b, b < a ∨ a + n ≤ b → b < lo ∨ lo + len ≤ b

theorem within_part {a lo hi : Nat} {bytes : List Byte} (hlo : a ≤ lo) (hhi : hi ≤ a + bytes.length) :
    Within a bytes.length lo ((bytes.drop (lo - a)).take (hi - lo)).length := by
  intro b hb
  rw [List.length_take]
  omega

section
variable {a : Nat} {bytes : List Byte}
  (hput : ∀ {d} (lo : Nat) (part : List Byte), Within a bytes.length lo part.length → I d → I (putBytes d lo part))
include hput

theorem blockWrite_keeps (h : KeptAt I base) {d : Dyn} (r : RegionInfo) (i : EvInfo) (hd : I d) :
    I (blockWrite img d unit base a bytes r i).1 := by
  have hwithin := within_part (bytes := bytes) (Nat.le_max_left a base)
    (Nat.min_le_left (a + bytes.length) (base + blockSize r.geom))
  have hcoded {e : Dyn} (ev : Nat) (he : I e) : I ((countEv e unit ev 1 i).setCode base BlockCode.clean) :=
    h.code _ (.inl ⟨rfl, rfl⟩) (h.reports (.countEv ..) he)
  unfold blockWrite
  dsimp only
  split
  · exact hput _ _ hwithin (hcoded _ hd)
  · split
    · exact h.reports (.setMemUnit ..) hd
    · split
      · exact h.reports (.setMemUnit ..) (h.settleBlock _ _ hd)
      · exact hput _ _ hwithin (hcoded _ (h.settleBlock _ _ hd))

theorem unitWrite_keeps {d : Dyn} {i : EvInfo} (h : ∀ geom, ∀ base ∈ blocksOf geom a bytes.length, KeptAt I base)
    (hd : I d) : I (unitWrite img d unit a bytes i).1 := by
  unfold unitWrite
  split
  · exact hd
  · rename_i r _
    change I (List.foldl _ ((d, 0, 0) : Dyn × Nat × Nat) _).1
    refine foldl_fst_keeps (a := (d, 0, 0)) (fun base hbase x hx => ?_) hd
    exact blockWrite_keeps hput (h _ base hbase) r i hx

theorem perform_write_keeps (hreports : ∀ {d e}, Reports d e → I d → I e) {d : Dyn} {w : Sender}
    (h : ∀ geom, ∀ base ∈ blocksOf geom a bytes.length, KeptAt I base) (hd : I d) :
    I (perform img d w unit a (.write bytes)).1 := by
  unfold perform
  dsimp only
  split
  · exact hreports (.event ..) hd
  · exact unitWrite_keeps hput h hd

end

theorem perform_read_keeps {d : Dyn} {w : Sender} {a n : Nat}
    (h : ∀ geom, ∀ base ∈ blocksOf geom a n, KeptAt I base) (hd : I d) : I (perform img d w unit a (.read n)).1 :=
  unitRead_keeps h hd

end

/-! ### What is kept -/

/-- A memory unit leaves the fabric alone. -/
theorem keptAt_fab (x : FabSt) (base : Nat) : KeptAt (fun d => d.fab = x) base :=
  ⟨fun h hd => h.fab.trans hd, fun _ _ hd => hd, fun _ _ _ _ hd => hd⟩

theorem perform_read_fab (img : Img) (d : Dyn) (w : Sender) (unit a n : Nat) :
    (perform img d w unit a (.read n)).1.fab = d.fab :=
  perform_read_keeps (I := fun e => e.fab = d.fab) (fun _ _ _ => keptAt_fab ..) rfl

theorem perform_write_fab (img : Img) (d : Dyn) (w : Sender) (unit a : Nat) (bytes : List Byte) :
    (perform img d w unit a (.write bytes)).1.fab = d.fab :=
  perform_write_keeps (I := fun e => e.fab = d.fab) (fun _ _ _ hd => hd) (fun h hd => h.fab.trans hd)
    (fun _ _ _ => keptAt_fab ..) rfl

/-- No block has a wrong bit. -/
def Whole (d : Dyn) : Prop := ∀ k, (d.code k).rows = 0 ∧ (d.code k).cols = 0

theorem Whole.setCode {d : Dyn} (h : Whole d) {base : Nat} {c : BlockCode}
    (hc : (c.rows = 0 ∧ c.cols = 0) ∨ (c.rows = (d.code base).rows ∧ c.cols = (d.code base).cols)) :
    Whole (d.setCode base c) := by
  intro k
  rw [code_setCode]
  split
  · rcases hc with hc | ⟨hrows, hcols⟩
    · exact hc
    · exact ⟨hrows.trans (h base).1, hcols.trans (h base).2⟩
  · exact h k

theorem Whole.reports {d e : Dyn} (h : Whole d) (hreports : Reports d e) : Whole e := fun k => by
  rw [hreports.code]
  exact h k

/-- Where no block has a wrong bit, settling one leaves every byte. -/
theorem keptAt_whole {P : List Host.Cell → Prop} (base : Nat) : KeptAt (fun d => Whole d ∧ P d.mem.cells) base :=
  ⟨fun h hd => ⟨hd.1.reports h, h.cells ▸ hd.2⟩, fun _ hc hd => ⟨hd.1.setCode hc, hd.2⟩,
    fun _ _ _ hwrong hd => absurd (hd.1 base) hwrong⟩

/-- Outside some addresses memory reads as in `m`. -/
def SameOutside (lo hi : Nat) (m : List Host.Cell) (d : Dyn) : Prop :=
  ∀ b, b < lo ∨ hi ≤ b → Memory.read d.mem.cells b = Memory.read m b

theorem SameOutside.putBytes {lo hi at_ : Nat} {m : List Host.Cell} {d : Dyn} {l : List Byte}
    (h : SameOutside lo hi m d) (hin : ∀ b, b < lo ∨ hi ≤ b → b < at_ ∨ at_ + l.length ≤ b) :
    SameOutside lo hi m (putBytes d at_ l) :=
  fun b hb => (Memory.read_writeN_out l _ _ _ (hin b hb)).trans (h b hb)

/-- A correction lies within 128 bytes of its block's base. -/
theorem keptAt_sameOutside {lo hi base : Nat} {m : List Host.Cell} (hlo : lo ≤ base) (hhi : base + 127 < hi) :
    KeptAt (SameOutside lo hi m) base := by
  refine ⟨fun h hd b hb => ?_, fun _ _ hd => hd, fun k v hk _ hd b hb => ?_⟩
  · rw [h.cells]
    exact hd b hb
  · change Memory.read (Memory.write _ (base + k) v) b = _
    rw [Memory.read_write, if_neg (by omega)]
    exact hd b hb

/-! ### The packets of an access and the blocks of a packet (R320) -/

theorem mem_pieces {step : Nat} (hstep : 0 < step) {x k : Nat} : ∀ {fuel a n : Nat}, (x, k) ∈ pieces step fuel a n →
    a ≤ x ∧ 0 < k ∧ x + k ≤ a + n
  | 0, _, _, h => absurd h List.not_mem_nil
  | fuel + 1, a, n, h => by
    unfold pieces at h
    split at h
    · exact absurd h List.not_mem_nil
    · rename_i hn
      have hrest : 0 < step - a % step := Nat.sub_pos_of_lt (Nat.mod_lt a hstep)
      rcases List.mem_cons.mp h with h | h
      · cases h
        omega
      · obtain ⟨hx, hk, hend⟩ := mem_pieces hstep h
        omega

theorem mem_packetsOf {a n x k : Nat} (h : (x, k) ∈ packetsOf a n) : a ≤ x ∧ 0 < k ∧ x + k ≤ a + n :=
  mem_pieces (by decide) h

theorem blockSize_cases (geom : Nat) : blockSize geom = 32 ∨ blockSize geom = 64 ∨ blockSize geom = 128 := by
  unfold blockSize
  split
  · exact .inl rfl
  · split
    · exact .inr (.inl rfl)
    · exact .inr (.inr rfl)

/-- A block that some bytes cover begins in their aligned 128 bytes and before their end. -/
theorem mem_blocksOf {geom a n base : Nat} (hn : 0 < n) (h : base ∈ blocksOf geom a n) :
    a / 128 * 128 ≤ base ∧ base < a + n := by
  obtain ⟨i, hi, rfl⟩ := List.mem_map.mp h
  rw [List.mem_range] at hi
  unfold blockBase
  rcases blockSize_cases geom with hsize | hsize | hsize <;> rw [hsize] at hi ⊢ <;> omega

end Sys2Proof.Machine
end

section
/-! PROOF. Accesses whose sender's endpoint has no other request in the fabric (R320, R343, R344; log 131). -/

namespace Sys2Proof.Machine

/-- The endpoint that an access of a master leaves from. -/
def Sender.endpoint (w : Sender) : Nat := (endpointOf w.source).getD 0

/-- No request of the sender's endpoint waits or is under way. -/
def Undisturbed (d : Dyn) (w : Sender) : Prop := ¬ HasRequest d (BitVec.ofNat 8 w.endpoint)

theorem Sender.endpoint_toNat (w : Sender) : (BitVec.ofNat 8 w.endpoint).toNat = w.endpoint := by
  rw [BitVec.toNat_ofNat]
  exact Nat.mod_eq_of_lt (endpoint_getD_lt _)

theorem undisturbed_of {d : Dyn} {w : Sender}
    (h : ∀ p ∈ d.fab.waiting ++ d.fab.inflight, p.resp = false → p.src.toNat ≠ w.endpoint) : Undisturbed d w := by
  rintro ⟨p, hp, hresp, hsrc⟩
  exact h p hp hresp (by rw [hsrc, w.endpoint_toNat])

theorem request_resp (op : MemOp) (w : Sender) (e a : Nat) : (op.request w e a).resp = false := by
  cases op <;> rfl

theorem request_src (op : MemOp) (w : Sender) (e a : Nat) : (op.request w e a).src = BitVec.ofNat 8 w.endpoint := by
  cases op <;> rfl

theorem request_dest (op : MemOp) (w : Sender) (e a : Nat) : (op.request w e a).dest = BitVec.ofNat 8 e := by
  cases op <;> rfl

/-! ### What a packet and an access keep -/

/-- A property that a packet of an access keeps where it is performed, and which speaks of memory alone. -/
structure KeptBy (I : Dyn → Prop) (img : Img) (w : Sender) (a : Nat) (op : MemOp) : Prop where
  mem : ∀ {d e}, e.mem = d.mem → I d → I e
  fab : ∀ d unit, (perform img d w unit a op).1.fab = d.fab
  perform : ∀ {d} unit, I d → I (perform img d w unit a op).1

section
variable {I : Dyn → Prop} {img : Img} {d : Dyn} {w : Sender} {a : Nat}

theorem KeptBy.memPacket {op : MemOp} (h : KeptBy I img w a op) (hd : I d ∧ Undisturbed d w) :
    I (memPacket img d w a op).1 ∧ Undisturbed (memPacket img d w a op).1 w := by
  unfold Machine.memPacket
  split
  · exact hd
  · rename_i unit _
    obtain ⟨e, he, hdone⟩ := exchange_passes performMem img d
      (act := fun d => Machine.perform img d w unit a op) (request_resp op w ((endpointOf unit).getD 0) a)
      ((request_src op w ((endpointOf unit).getD 0) a).symm ▸ hd.2)
    have hkeeps {f g : Dyn} (hg : Passes f g) (hf : I f ∧ Undisturbed f w) : I g ∧ Undisturbed g w :=
      ⟨h.mem hg.mem hf.1, fun hrequest => hf.2 (hg.requests _ hrequest)⟩
    have hbefore := hkeeps he hd
    rcases hdone with hdone | hdone
    · exact hkeeps hdone hbefore
    · refine hkeeps hdone ⟨h.perform unit hbefore.1, ?_⟩
      unfold Undisturbed HasRequest
      rw [h.fab]
      exact hbefore.2

variable {n : Nat} {bytes : List Byte} (hd : I d) (hfree : Undisturbed d w)
include hd hfree

theorem memLoad_keeps (h : ∀ x k, (x, k) ∈ packetsOf a n → KeptBy I img w x (.read k)) : I (memLoad img d w a n).1 := by
  change I (List.foldl _ ((d, Resp.ok) : Dyn × Resp) _).1
  refine (foldl_fst_keeps (I := fun d => I d ∧ Undisturbed d w) (a := (d, Resp.ok)) (fun x hx acc hacc => ?_)
    ⟨hd, hfree⟩).1
  exact (h x.1 x.2 hx).memPacket hacc

/-- The part of an access's bytes that a packet carries. -/
def packetBytes (bytes : List Byte) (a x k : Nat) : List Byte := (bytes.drop (x - a)).take k

theorem memStore_keeps
    (h : ∀ x k, (x, k) ∈ packetsOf a bytes.length → KeptBy I img w x (.write (packetBytes bytes a x k))) :
    I (memStore img d w a bytes).1 := by
  change I (List.foldl _ ((d, Resp.ok) : Dyn × Resp) _).1
  refine (foldl_fst_keeps (I := fun d => I d ∧ Undisturbed d w) (a := (d, Resp.ok)) (fun x hx acc hacc => ?_)
    ⟨hd, hfree⟩).1
  exact (h x.1 x.2 hx).memPacket hacc

end

/-! ### The bytes that an access may change -/

section
variable {img : Img} {w : Sender} {a n x k : Nat} {bytes : List Byte} {m : List Host.Cell}

theorem packetBytes_length (h : (x, k) ∈ packetsOf a bytes.length) : (packetBytes bytes a x k).length = k := by
  obtain ⟨hx, -, hend⟩ := mem_packetsOf h
  rw [packetBytes, List.length_take, List.length_drop]
  omega

/-- Where no block has a wrong bit, a packet that reads changes no byte. -/
theorem keptBy_read_whole : KeptBy (fun d => Whole d ∧ d.mem.cells = m) img w x (.read k) where
  mem h hd := ⟨fun j => (code_congr h j).symm ▸ hd.1 j, h ▸ hd.2⟩
  fab _ _ := perform_read_fab ..
  perform _ hd := perform_read_keeps (fun _ base _ => keptAt_whole (P := (· = m)) base) hd

/-- Where no block has a wrong bit, a packet that writes changes its own bytes alone. -/
theorem keptBy_write_whole (hin : Within a n x bytes.length) :
    KeptBy (fun d => Whole d ∧ SameOutside a (a + n) m d) img w x (.write bytes) where
  mem h hd := ⟨fun j => (code_congr h j).symm ▸ hd.1 j, fun b hb => h ▸ hd.2 b hb⟩
  fab _ _ := perform_write_fab ..
  perform _ hd := perform_write_keeps
    (fun _ _ hpart hd => ⟨hd.1, SameOutside.putBytes hd.2 (fun b hb => hpart b (hin b hb))⟩)
    (fun h hd => (keptAt_whole (P := fun cells => ∀ b, b < a ∨ a + n ≤ b → Memory.read cells b = Memory.read m b)
      0).reports h hd)
    (fun _ base _ => keptAt_whole (P := fun cells => ∀ b, b < a ∨ a + n ≤ b → Memory.read cells b = Memory.read m b)
      base) hd

/-- What a packet that reads corrects lies within 128 bytes of a block's base. -/
theorem keptBy_read_near (hk : 0 < k) (hx : a ≤ x / 128 * 128) (hend : x + k + 127 ≤ n) :
    KeptBy (SameOutside a n m) img w x (.read k) where
  mem h hd := fun b hb => h ▸ hd b hb
  fab _ _ := perform_read_fab ..
  perform _ hd := perform_read_keeps (fun _ base hbase => by
    obtain ⟨hlo, hhi⟩ := mem_blocksOf hk hbase
    exact keptAt_sameOutside (by omega) (by omega)) hd

/-- What a packet that writes changes beside its own bytes lies within 128 bytes of a block's base. -/
theorem keptBy_write_near (hk : 0 < bytes.length) (hx : a ≤ x / 128 * 128) (hend : x + bytes.length + 127 ≤ n) :
    KeptBy (SameOutside a n m) img w x (.write bytes) where
  mem h hd := fun b hb => h ▸ hd b hb
  fab _ _ := perform_write_fab ..
  perform _ hd := perform_write_keeps
    (fun lo part hpart hd => SameOutside.putBytes hd (fun b hb => hpart b (by omega)))
    (fun h hd b hb => h.cells ▸ hd b hb) (fun _ base hbase => by
      obtain ⟨hlo, hhi⟩ := mem_blocksOf hk hbase
      exact keptAt_sameOutside (by omega) (by omega)) hd

end

end Sys2Proof.Machine
end

section
open Sys2Proof Sys2Proof.Machine

/-- Settles O47: what each packet keeps where it is performed (`keptBy_read_whole` to `keptBy_write_near`) an access
keeps, as no other request is performed on its way (`exchange_passes`). -/
theorem memoryAccessFrame : Obligations.MemoryAccessFrame := by
  unfold Obligations.MemoryAccessFrame
  intro img d w a n data b after after'
  refine ⟨fun hwf => ⟨(Canonical.memLoad ⟨hwf⟩).wf, (Canonical.memStore ⟨hwf⟩).wf⟩, memLoad_only .., memStore_only ..,
    fetch_only img d, fun hidle => ?_⟩
  have hfree : Undisturbed d w := undisturbed_of hidle
  refine ⟨fun hwhole => ⟨?read, fun hout => ?write⟩, fun hout => ?readNear, fun hout => ?writeNear⟩
  case read => exact (memLoad_keeps ⟨hwhole, rfl⟩ hfree (fun x k _ => keptBy_read_whole)).2
  case write =>
    refine (memStore_keeps (I := fun d' => Whole d' ∧ SameOutside a (a + data.length) d.mem.cells d')
      ⟨hwhole, fun _ _ => rfl⟩ hfree (fun x k hx => keptBy_write_whole ?_)).2 b hout
    obtain ⟨hlo, -, hend⟩ := mem_packetsOf hx
    rw [packetBytes_length hx]
    intro c hc
    omega
  case readNear =>
    refine memLoad_keeps (I := SameOutside (a / 128 * 128) (a + n + 127) d.mem.cells) (fun _ _ => rfl) hfree
      (fun x k hx => ?_) b hout
    obtain ⟨hlo, hk, hend⟩ := mem_packetsOf hx
    exact keptBy_read_near hk (by omega) (by omega)
  case writeNear =>
    refine memStore_keeps (I := SameOutside (a / 128 * 128) (a + data.length + 127) d.mem.cells) (fun _ _ => rfl) hfree
      (fun x k hx => ?_) b hout
    obtain ⟨hlo, hk, hend⟩ := mem_packetsOf hx
    rw [← packetBytes_length hx] at hk hend
    exact keptBy_write_near hk (by omega) (by omega)

end

section
/-! PROOF. Reading one block: clean, corrected, poisoned (R343, R347, R348). -/

namespace Sys2Proof.Machine

/-! ### The bits of a mask -/

theorem maskBits_two_pow {n i : Nat} (hi : i < n) : maskBits n (2 ^ i) = [i] := by
  have hone : (List.range n).count i = 1 := List.count_eq_one_of_mem List.nodup_range (List.mem_range.mpr hi)
  have hbit : (fun k => (2 ^ i).testBit k) = (fun k => decide (k = i)) := by
    funext k
    rw [Nat.testBit_two_pow]
    exact decide_eq_decide.mpr eq_comm
  rw [maskBits, hbit, List.filter_eq, hone, List.replicate_one]

/-- Two bits of a mask are set, which is neither none nor one. -/
theorem maskBits_two {n i j : Nat} (hij : i < j) (hj : j < n) : ∃ x y l, maskBits n (2 ^ i + 2 ^ j) = x :: y :: l := by
  have hor : 2 ^ i + 2 ^ j = 2 ^ j ||| 2 ^ i := by
    have h := Nat.two_pow_add_eq_or_of_lt (Nat.pow_lt_pow_right (by decide) hij : 2 ^ i < 2 ^ j) 1
    rw [Nat.mul_one] at h
    omega
  have hbit (k : Nat) (hk : k = i ∨ k = j) : k ∈ maskBits n (2 ^ i + 2 ^ j) := by
    refine mem_maskBits.mpr ⟨by omega, ?_⟩
    rw [hor, Nat.testBit_or, Nat.testBit_two_pow, Nat.testBit_two_pow]
    rcases hk with rfl | rfl <;> simp
  have hi := hbit i (.inl rfl)
  have hj := hbit j (.inr rfl)
  match hl : maskBits n (2 ^ i + 2 ^ j) with
  | [] => simp [hl] at hi
  | [x] =>
    rw [hl, List.mem_singleton] at hi hj
    omega
  | x :: y :: l => exact ⟨x, y, l, rfl⟩

theorem decodeBlock_clean (geom : Nat) {c : BlockCode} (hrows : c.rows = 0) (hcols : c.cols = 0) :
    decodeBlock geom c = .clean := by
  simp only [decodeBlock, hrows, hcols, maskBits_zero]

theorem decodeBlock_oneBit (geom : Nat) {c : BlockCode} {i j : Nat} (hi : i < 16) (hj : j < rowWidth geom)
    (hrows : c.rows = 2 ^ i) (hcols : c.cols = 2 ^ j) : decodeBlock geom c = .fixBit (i * rowWidth geom + j) := by
  simp only [decodeBlock, hrows, hcols, maskBits_two_pow hi, maskBits_two_pow (hj.trans_le (rowWidth_le geom))]

theorem decodeBlock_twoRows (geom : Nat) {c : BlockCode} {i j : Nat} (hij : i < j) (hj : j < 16)
    (hrows : c.rows = 2 ^ i + 2 ^ j) : decodeBlock geom c = .bad := by
  obtain ⟨x, y, l, hmask⟩ := maskBits_two hij hj
  simp only [decodeBlock, hrows, hmask]

/-! ### The count of corrections -/

theorem memUnit_setMemUnit (d : Dyn) (u : Nat) (f : MemUnit → MemUnit) :
    (d.setMemUnit u f).memUnit u = f (d.memUnit u) := by
  simp [Dyn.memUnit, Dyn.setMemUnit]

/-- The bucket of a unit is its own: what it corrected stands. -/
theorem bucketAdd_corrected (img : Img) (d : Dyn) (u n : Nat) :
    ((bucketAdd img d u n).memUnit u).corrected = (d.memUnit u).corrected := by
  have hset (e : Dyn) (f : MemUnit → MemUnit) (hf : ∀ x, (f x).corrected = x.corrected) :
      ((e.setMemUnit u f).memUnit u).corrected = (e.memUnit u).corrected := by rw [memUnit_setMemUnit, hf]
  have hleak : ((bucketLeak img d u).memUnit u).corrected = (d.memUnit u).corrected := by
    refine hset d _ (fun x => ?_)
    unfold MemUnit.leak
    split <;> rfl
  rw [← hleak]
  unfold bucketAdd
  dsimp only
  split
  · exact hset _ (fun x => { x with level := 0 }) (fun _ => rfl)
  · exact hset _ _ (fun _ => rfl)

theorem noteCorrected_corrected (img : Img) (d : Dyn) (u b r : Nat) :
    ((noteCorrected img d u b r).memUnit u).corrected = min 0xFFFFFFFF ((d.memUnit u).corrected + 1) := by
  have hset : (d.setMemUnit u (fun x => { x with corrected := satAdd 0xFFFFFFFF x.corrected 1 })).memUnit u
      = { d.memUnit u with corrected := min 0xFFFFFFFF ((d.memUnit u).corrected + 1) } := memUnit_setMemUnit ..
  unfold noteCorrected
  dsimp only
  rw [bucketAdd_corrected]
  split
  · simp only [event, Dyn.memUnit, issue_mem]
    exact congrArg MemUnit.corrected hset
  · exact congrArg MemUnit.corrected hset

/-! ### One block -/

section
variable {img : Img} {d : Dyn} {unit base finder : Nat} {r : RegionInfo}

/-- A block that was written and whose flag's copies agree is decoded as it stands. -/
theorem settleBlock_written (hraw : (d.code base).raw = false) (hsplit : (d.code base).flagSplit = false) :
    settleBlock img d unit base finder r = settleCode img d unit base finder r (d.code base) false := by
  rw [settleBlock_coded finder r hraw, hsplit]
  rfl

section
variable {c0 : BlockCode}

theorem settleCode_poisoned {split : Bool} (h : c0.poisoned = true) :
    settleCode img d unit base finder r c0 split = (d, 4) := by
  rw [settleCode, if_pos h]

variable (h : c0.poisoned = false)
include h

theorem settleCode_clean (hrows : c0.rows = 0) (hcols : c0.cols = 0) :
    settleCode img d unit base finder r c0 false = (d, 0) := by
  rw [settleCode, h, decodeBlock_clean _ hrows hcols]
  rfl

/-- Bit `k` of a block's bytes is the other one. -/
def bitFlipped (d : Dyn) (base k : Nat) : Dyn :=
  let flipped := Memory.read d.mem.cells (base + k / 8) ^^^ BitVec.ofNat 8 (2 ^ (k % 8))
  { d with mem := { d.mem with cells := Memory.write d.mem.cells (base + k / 8) flipped } }

/-- The machine after bit `k` of a block is corrected where it stands (R343). -/
def corrected (img : Img) (d : Dyn) (unit base : Nat) (r : RegionInfo) (c0 : BlockCode) (k : Nat) : Dyn :=
  noteCorrected img ((bitFlipped d base k).setCode base { c0 with rows := 0, cols := 0 }) unit base r.num

theorem settleCode_oneBit {split : Bool} {i j : Nat} (hi : i < 16) (hj : j < rowWidth r.geom) (hrows : c0.rows = 2 ^ i)
    (hcols : c0.cols = 2 ^ j) : settleCode img d unit base finder r c0 split
      = (corrected img d unit base r c0 (i * rowWidth r.geom + j), 1) := by
  rw [settleCode, h, decodeBlock_oneBit _ hi hj hrows hcols]
  rfl

theorem settleCode_twoRows {split : Bool} {i j : Nat} (hij : i < j) (hj : j < 16) (hrows : c0.rows = 2 ^ i + 2 ^ j) :
    settleCode img d unit base finder r c0 split = (poisonBlock img d unit base r.num finder, 4) := by
  rw [settleCode, h, decodeBlock_twoRows _ hij hj hrows]
  rfl

end

theorem corrected_code (c0 : BlockCode) (k : Nat) :
    (corrected img d unit base r c0 k).code base = { c0 with rows := 0, cols := 0 } := by
  rw [corrected, (Reports.noteCorrected ..).code, code_setCode, if_pos rfl]

theorem corrected_read (c0 : BlockCode) (k b : Nat) : Memory.read (corrected img d unit base r c0 k).mem.cells b
    = if b = base + k / 8 then Memory.read d.mem.cells (base + k / 8) ^^^ BitVec.ofNat 8 (2 ^ (k % 8))
      else Memory.read d.mem.cells b := by
  rw [corrected, (Reports.noteCorrected ..).cells]
  exact Memory.read_write ..

theorem corrected_counts (c0 : BlockCode) (k : Nat) : ((corrected img d unit base r c0 k).memUnit unit).corrected
    = min 0xFFFFFFFF ((d.memUnit unit).corrected + 1) := noteCorrected_corrected ..

theorem poisonBlock_poisoned (region : Nat) :
    ((poisonBlock img d unit base region finder).code base).poisoned = true := by
  rw [(Reports.poisonBlock ..).code, code_setCode, if_pos rfl]
  rfl

theorem poisonBlock_cells (region : Nat) :
    (poisonBlock img d unit base region finder).mem.cells = d.mem.cells := (Reports.poisonBlock ..).cells

end

end Sys2Proof.Machine
end

section
/-! PROOF. A write of one whole block, and what a read of it then gives (R343, R344). -/

namespace Sys2Proof.Machine

section
variable {img : Img} {d : Dyn} {unit a n : Nat} {w : Sender} {r : RegionInfo} {data : List Byte}

theorem regionAt_congr {e : Dyn} (h : e.dst = d.dst) : regionAt img e a = regionAt img d a := by
  simp only [regionAt, h]

theorem blocksOf_block {geom : Nat} (ha : a % blockSize geom = 0) : blocksOf geom a (blockSize geom) = [a] := by
  have hbase : blockBase geom a = a := by rw [blockBase, ha, Nat.sub_zero]
  have hcount : (a % blockSize geom + blockSize geom + blockSize geom - 1) / blockSize geom = 1 := by
    rw [ha]
    rcases blockSize_cases geom with h | h | h <;> rw [h]
  simp [blocksOf, hcount, hbase]

/-- What the filters of a counter see of an access (R422). -/
def accessInfo (w : Sender) (a : Nat) : EvInfo :=
  { priv := w.priv, icls := none, master := some w.source, addr := some a }

/-- The machine after one whole block is written (R344). -/
def blockWritten (d : Dyn) (w : Sender) (unit a : Nat) (data : List Byte) : Dyn :=
  putBytes ((countEv d unit 0x0701 1 (accessInfo w a)).setCode a BlockCode.clean) a data

theorem blockWrite_block (i : EvInfo) (hlen : data.length = blockSize r.geom) : blockWrite img d unit a a data r i
    = (putBytes ((countEv d unit 0x0701 1 i).setCode a BlockCode.clean) a data, 0, 0) := by
  have hpart : (data.drop (a - a)).take (a + blockSize r.geom - a) = data := by
    rw [Nat.sub_self, List.drop_zero, Nat.add_sub_cancel_left, ← hlen, List.take_length]
  unfold blockWrite
  dsimp only
  rw [hlen, Nat.max_self, Nat.min_self, if_pos ⟨rfl, rfl⟩, hpart]
  rfl

section
variable (hr : regionAt img d a = some r) (ha : a % blockSize r.geom = 0)
include hr ha

theorem perform_write_block (hlen : data.length = blockSize r.geom) (hfree : hitsHandleTable img a data.length = false) :
    perform img d w unit a (.write data)
      = (blockWritten d w unit a data, { status := 0, reason := 0, data := [] }) := by
  have hwrite : unitWrite img d unit a data (accessInfo w a)
      = (blockWritten d w unit a data, { status := 0, reason := 0, data := [] }) := by
    simp only [unitWrite, hr]
    rw [hlen, blocksOf_block ha, List.foldl_cons, List.foldl_nil]
    dsimp only
    rw [blockWrite_block _ hlen]
    rfl
  rw [← hwrite]
  simp only [perform, hfree, Bool.and_false]
  rfl

theorem perform_read_block (hn : n = blockSize r.geom) (hcode : d.code a = BlockCode.clean) :
    perform img d w unit a (.read n) = (countEv d unit 0x0700 1 (accessInfo w a),
      { status := 0, reason := 0, data := Memory.readN d.mem.cells a n }) := by
  have hsettle : settleBlock img (countEv d unit 0x0700 1 (accessInfo w a)) unit a 0 r
      = (countEv d unit 0x0700 1 (accessInfo w a), 0) := by
    have hcounted : (countEv d unit 0x0700 1 (accessInfo w a)).code a = BlockCode.clean :=
      ((Reports.countEv ..).code a).trans hcode
    rw [settleBlock_written (by rw [hcounted]; rfl) (by rw [hcounted]; rfl)]
    exact settleCode_clean (by rw [hcounted]; rfl) (by rw [hcounted]; rfl) (by rw [hcounted]; rfl)
  subst hn
  change unitRead img d unit a (blockSize r.geom) (accessInfo w a) = _
  simp only [unitRead, hr]
  rw [blocksOf_block ha, List.foldl_cons, List.foldl_nil]
  dsimp only
  rw [hsettle]
  dsimp only
  rw [countEv_mem]
  rfl

end
end

/-! ### An access of one block -/

/-- Both ports of an access answer, no router on its way drains, and no other request of its sender's endpoint waits
or is under way. -/
structure Reaches (d : Dyn) (w : Sender) (unit : Nat) : Prop where
  target : d.portMode ((endpointOf unit).getD 0) = 0
  sender : d.portMode w.endpoint = 0
  way : routeOpen d (routeOf w.endpoint ((endpointOf unit).getD 0) ++ routeOf ((endpointOf unit).getD 0) w.endpoint)
    = true
  free : Undisturbed d w

section
variable {img : Img} {d : Dyn} {unit a : Nat} {w : Sender}

theorem Reaches.carries {e : Dyn} (h : Reaches d w unit) (g : Carries d e) : Reaches e w unit :=
  ⟨(g.portMode _).trans h.target, (g.portMode _).trans h.sender, (g.routeOpen _).trans h.way,
    fun hrequest => h.free (g.requests _ hrequest)⟩

/-- A memory unit that leaves the fabric alone leaves every way as it is. -/
theorem Reaches.of_fab {e : Dyn} (h : Reaches d w unit) (g : e.fab = d.fab) : Reaches e w unit := by
  obtain ⟨htarget, hsender, hway, hfree⟩ := h
  unfold Undisturbed HasRequest at hfree
  unfold routeOpen Dyn.runningChange Dyn.changes at hway
  unfold Dyn.portMode at htarget hsender
  rw [← g] at htarget hsender hway hfree
  exact ⟨htarget, hsender, hway, hfree⟩

/-- A packet that reaches its unit is performed there, and its answer is the access's. -/
theorem memPacket_performs (hunit : memUnitOf a = some unit) (h : Reaches d w unit) (op : MemOp) :
    ∃ e, Carries d e ∧ Carries (perform img e w unit a op).1 (memPacket img d w a op).1
      ∧ (memPacket img d w a op).2 = (perform img e w unit a op).2 := by
  have hsrc : (op.request w ((endpointOf unit).getD 0) a).src.toNat = w.endpoint := by
    rw [request_src, w.endpoint_toNat]
  have hdest : (op.request w ((endpointOf unit).getD 0) a).dest.toNat = (endpointOf unit).getD 0 := by
    rw [request_dest, BitVec.toNat_ofNat]
    exact Nat.mod_eq_of_lt (endpoint_getD_lt _)
  have hfree : ¬ HasRequest d (op.request w ((endpointOf unit).getD 0) a).src := (request_src ..).symm ▸ h.free
  unfold memPacket
  rw [hunit]
  exact exchange_performs performMem img d (act := fun d => perform img d w unit a op) (request_resp ..) hfree
    (hdest.symm ▸ h.target) (hsrc.symm ▸ h.sender) (by rw [hsrc, hdest]; exact h.way)

/-- One whole block is one packet (R320). -/
theorem packetsOf_block {geom : Nat} (hgeom : 1 ≤ geom) (ha : a % blockSize geom = 0) :
    packetsOf a (blockSize geom) = [(a, blockSize geom)] := by
  have hsize : blockSize geom = 64 ∨ blockSize geom = 128 := by
    rw [blockSize, if_neg (by omega)]
    split
    · exact .inl rfl
    · exact .inr rfl
  rcases hsize with hsize | hsize <;> rw [hsize] at ha ⊢
  · have hfit : min 64 (128 - a % 128) = 64 := by omega
    simp [packetsOf, pieces, hfit]
  · simp [packetsOf, pieces, ha]

theorem Resp.ok_join {r : Resp} (h : r.status = 0) (hreason : r.reason = 0) : Resp.ok.join r = r := by
  cases r
  simp_all [Resp.ok, Resp.join]

section
variable {r : RegionInfo} (hgeom : 1 ≤ r.geom) (ha : a % blockSize r.geom = 0)
include hgeom ha

theorem memStore_block {data : List Byte} (hlen : data.length = blockSize r.geom) : memStore img d w a data
    = ((memPacket img d w a (.write data)).1, Resp.ok.join (memPacket img d w a (.write data)).2) := by
  have hpart : (data.drop (a - a)).take (blockSize r.geom) = data := by
    rw [Nat.sub_self, List.drop_zero, ← hlen, List.take_length]
  rw [memStore, hlen, packetsOf_block hgeom ha, List.foldl_cons, List.foldl_nil]
  dsimp only
  rw [hpart]

theorem memLoad_block (hgood : (Resp.ok.join (memPacket img d w a (.read (blockSize r.geom))).2).status ≤ 1) :
    (memLoad img d w a (blockSize r.geom)).2 = Resp.ok.join (memPacket img d w a (.read (blockSize r.geom))).2 := by
  rw [memLoad, packetsOf_block hgeom ha, List.foldl_cons, List.foldl_nil]
  exact if_pos hgood

variable {data : List Byte} (hunit : memUnitOf a = some unit) (hreach : Reaches d w unit)
  (hr : regionAt img d a = some r) (hlen : data.length = blockSize r.geom)
include hunit hreach hr hlen

/-- The write of a block is performed, and what goes before and after it is carried. -/
theorem memStore_writes (hfree : hitsHandleTable img a data.length = false) : ∃ e, Carries d e
    ∧ Carries (blockWritten e w unit a data) (memStore img d w a data).1 ∧ (memStore img d w a data).2.status = 0 := by
  obtain ⟨e, he, hdone, hanswer⟩ := memPacket_performs (img := img) hunit hreach (.write data)
  rw [perform_write_block ((regionAt_congr he.dst).trans hr) ha hlen hfree] at hdone hanswer
  rw [memStore_block hgeom ha hlen, hanswer]
  exact ⟨e, he, hdone, rfl⟩

theorem memLoad_reads (hcode : d.code a = BlockCode.clean) : (memLoad img d w a data.length).2
    = { status := 0, reason := 0, data := Memory.readN d.mem.cells a data.length } := by
  obtain ⟨e, he, -, hanswer⟩ := memPacket_performs (img := img) hunit hreach (.read data.length)
  rw [perform_read_block ((regionAt_congr he.dst).trans hr) ha hlen ((code_congr he.mem a).trans hcode), he.mem]
    at hanswer
  rw [hlen] at hanswer ⊢
  have hjoin := (congrArg Resp.ok.join hanswer).trans (Resp.ok_join rfl rfl)
  rw [memLoad_block hgeom ha (by rw [hjoin]; exact Nat.zero_le 1), hjoin]

end
end

end Sys2Proof.Machine
end

section
open Sys2Proof Sys2Proof.Machine

/-- Settles O48: a block is decoded as its check bits stand (`settleBlock_written`); a whole block is written as one
packet (`memStore_writes`), and what was carried past it leaves it to be read (`memLoad_reads`). -/
theorem blockReads : Obligations.BlockReads := by
  unfold Obligations.BlockReads
  refine ⟨?oneBlock, ?writeThenRead⟩
  case oneBlock =>
    intro img d unit base finder r c s hraw hsplit
    have hs : s = settleCode img d unit base finder r c false := settleBlock_written hraw hsplit
    clear_value s
    refine ⟨fun h => hs.trans (settleCode_poisoned h), fun h hrows hcols => hs.trans (settleCode_clean h hrows hcols),
      fun h i j hi hj hrows hcols => ?_, fun h i j k hij hj hrows _ => ?_⟩
    · intro k
      rw [hs.trans (settleCode_oneBit h hi hj hrows hcols)]
      exact ⟨rfl, by rw [corrected_code], by rw [corrected_code], by rw [corrected_read, if_pos rfl],
        fun b hb => by rw [corrected_read, if_neg hb], corrected_counts ..⟩
    · rw [hs.trans (settleCode_twoRows h hij hj hrows)]
      exact ⟨rfl, poisonBlock_poisoned .., poisonBlock_cells ..⟩
  case writeThenRead =>
    intro img d w a unit data r hunit hr hgeom ha hlen hhandles e se htarget hsender hway hidle u
    have hreach : Reaches d w unit := ⟨htarget, hsender, hway, undisturbed_of hidle⟩
    obtain ⟨before, hbefore, hafter, hstatus⟩ := memStore_writes hgeom ha hunit hreach hr hlen hhandles
    have hcode (b : Nat) : u.1.code b = if b = a then BlockCode.clean else d.code b := by
      rw [code_congr hafter.mem, blockWritten, putBytes_code, code_setCode, (Reports.countEv ..).code,
        code_congr hbefore.mem]
    have hcells : u.1.mem.cells = Memory.writeN d.mem.cells a data := by
      rw [hafter.mem, ← hbefore.mem]
      exact congrArg (fun m => Memory.writeN m a data) (Reports.countEv ..).cells
    have hwritten : Reaches (blockWritten before w unit a data) w unit :=
      (hreach.carries hbefore).of_fab (countEv_fab ..)
    have hreach' : Reaches u.1 w unit := hwritten.carries hafter
    have hr' : regionAt img u.1 a = some r := by
      refine (regionAt_congr ?_).trans hr
      rw [hafter.dst, ← hbefore.dst]
      exact countEv_dst ..
    refine ⟨hstatus, ?_, fun b hb => ?_, fun b hb => (hcode b).trans (if_neg hb), ?_, ?_, ?_⟩
    · rw [memLoad_reads hgeom ha hunit hreach' hr' hlen ((hcode a).trans (if_pos rfl)), hcells, Memory.readN_writeN]
    · rw [hcells]
      exact Memory.read_writeN_out _ _ _ _ hb
    · rw [hafter.cores, ← hbefore.cores]
      exact countEv_cores ..
    · rw [hafter.disp, ← hbefore.disp]
      exact countEv_disp ..
    · rw [hafter.lanes, ← hbefore.lanes]
      exact countEv_lanes ..

end
